-- ==== Sys2Proof/Word.lean ====
section
/-!
DEFINITION. The word types of the Pelid B4, bit ranges (R3, R11) and the sparse map in canonical form that every
register file and the memory are held in.
-/
namespace Sys2Proof

/-- One byte of memory. -/
abbrev Byte := BitVec 8

/-- A scalar register's contents (R111). -/
abbrev Word := BitVec 64

/-- A vector register's contents (R127): position `j` is bits `[32 j + 31 : 32 j]`. -/
abbrev VWord := BitVec 1024

/-- A mask register's contents (R128). -/
abbrev Mask := BitVec 32

/-- A dirty-sector signature (R206). -/
abbrev Sig := BitVec 512

/-- Bits `[hi:lo]` of an unsigned number (R11's `Bits`). -/
def bits (x hi lo : Nat) : Nat := x / 2 ^ lo % 2 ^ (hi + 1 - lo)

/-- Bit `n` of an unsigned number. -/
def bit (x n : Nat) : Bool := x / 2 ^ n % 2 == 1

/-- A sparse map in one canonical form: keys strictly rising, and no entry equal to what an unlisted key reads as. -/
abbrev Store (α : Type) := List (Nat × α)

/-- What key `k` reads as; an unlisted key reads as `d`. -/
def Store.get {α : Type} (d : α) : Store α → Nat → α
  | [], _ => d
  | (k', v) :: m, k => if k' = k then v else Store.get d m k

/-- Write `v` at `k`, keeping the canonical form: a value equal to the default removes the entry, wherever it stands, so that a
read gives what was written in a map of any form. -/
def Store.set {α : Type} [DecidableEq α] (d : α) : Store α → Nat → α → Store α
  | [], k, v => if v = d then [] else [(k, v)]
  | (k', v') :: m, k, v =>
    if k < k' then (if v = d then (k', v') :: Store.set d m k v else (k, v) :: (k', v') :: m)
    else if k' = k then (if v = d then Store.set d m k v else (k, v) :: m)
    else (k', v') :: Store.set d m k v

/-- The canonical form, as a check: keys strictly rising from `lo` on and no default value listed. -/
def Store.wfFrom {α : Type} [DecidableEq α] (d : α) : Nat → Store α → Bool
  | _, [] => true
  | lo, (k, v) :: m => decide (lo ≤ k) && decide (v ≠ d) && Store.wfFrom d (k + 1) m

/-- The canonical form of a sparse map. -/
def Store.wf {α : Type} [DecidableEq α] (d : α) (m : Store α) : Bool := Store.wfFrom d 0 m

end Sys2Proof
end

