-- ==== Sys2Proof/Syntax.lean ====
section
/-!
DEFINITION. The instruction set whole: one constructor per row of spec/opcode_table.json. Slot operations carry the
fields of their slot word (R63 to R67), delta operations those of their 64-bit word (R316, R317), the steps of the
other agents none: what they act on stands in the State, where the agenda put it. Constructors with fields stand first.
-/
namespace Sys2Proof

/-- The fields of a delta instruction of format DR (R316). -/
structure DrFields where
  dd : BitVec 5
  da : BitVec 5
  db : BitVec 5
  dc : BitVec 5
  q : BitVec 2
  qn : BitVec 1
  rnd : BitVec 3
  sat : BitVec 1
  m : BitVec 2
  ei : BitVec 4
deriving DecidableEq, Repr

/-- An instruction or a step of the device: every row of the table of operations and events. -/
inductive Instr where
  /-- PRIO (R78): Sets CTX_PRIO.LEVEL to min(level, CEIL). -/
  | prio (l : BitVec 2)
  /-- JMPI (R89): Jumps to the address in sa, with its low four bits ignored. -/
  | jmpi (a : BitVec 6)
  /-- CALLI (R91): Pushes the return address on the shadow stack, writes s63 and jumps to the address in sa. -/
  | calli (a : BitVec 6)
  /-- TRAP (R367): Lets the other operations of the bundle take effect, then takes the TRAP cause with the given code. -/
  | trap (c : BitVec 6)
  /-- BRK (R368): Takes BREAKPOINT precisely; the bundle has no effect. -/
  | brk (c : BitVec 6)
  /-- EVLOG_RD (R371): Reads one register of the first-event log into sd. -/
  | evlogRd (d : BitVec 6) (s : BitVec 2)
  /-- FSET (R218): Sets the named flags. -/
  | fset (m : BitVec 16)
  /-- FCLR (R218): Clears the named flags. -/
  | fclr (m : BitVec 16)
  /-- FWAIT (R218): Holds until all (or any) of the named flags are set, and optionally consumes them. -/
  | fwait (m : BitVec 16) (y : BitVec 1) (c : BitVec 1)
  /-- JMP (R89): Jumps by a signed bundle offset. -/
  | jmp (o : BitVec 26)
  /-- CALL (R91): Pushes the return address on the shadow stack, writes s63 and jumps by a signed bundle offset. -/
  | call (o : BitVec 26)
  /-- BR_C (R89): Branches by a signed offset when the condition bit reads 1, or reads 0 when neg is set. -/
  | brC (c : BitVec 4) (n : BitVec 1) (o : BitVec 21)
  /-- BR_TREE (R61): Transfers to the target of the leaf that the TREE header selected. -/
  | brTree (a : BitVec 6) (b : BitVec 6) (c : BitVec 6) (d : BitVec 6) (n : BitVec 2)
  /-- ADD (R115): sd gets a + b. -/
  | add (d : BitVec 6) (a : BitVec 6) (b : BitVec 6)
  /-- SUB (R115): sd gets a - b. -/
  | sub (d : BitVec 6) (a : BitVec 6) (b : BitVec 6)
  /-- MUL (R115): sd gets the low 64 bits of a × b. -/
  | mul (d : BitVec 6) (a : BitVec 6) (b : BitVec 6)
  /-- MULH (R115): sd gets the high 64 bits of the signed product. -/
  | mulh (d : BitVec 6) (a : BitVec 6) (b : BitVec 6)
  /-- MULHN (R115): sd gets the high 64 bits of the unsigned product. -/
  | mulhn (d : BitVec 6) (a : BitVec 6) (b : BitVec 6)
  /-- DIV (R117): Signed division truncating toward zero; a zero divisor logs DIVZERO. -/
  | div (d : BitVec 6) (a : BitVec 6) (b : BitVec 6)
  /-- DIVN (R117): Unsigned division. -/
  | divn (d : BitVec 6) (a : BitVec 6) (b : BitVec 6)
  /-- REM (R117): Signed remainder, taking the sign of the dividend. -/
  | rem (d : BitVec 6) (a : BitVec 6) (b : BitVec 6)
  /-- REMN (R117): Unsigned remainder. -/
  | remn (d : BitVec 6) (a : BitVec 6) (b : BitVec 6)
  /-- AND (R115): sd gets a AND b. -/
  | and (d : BitVec 6) (a : BitVec 6) (b : BitVec 6)
  /-- OR (R115): sd gets a OR b. -/
  | or (d : BitVec 6) (a : BitVec 6) (b : BitVec 6)
  /-- XOR (R115): sd gets a XOR b. -/
  | xor (d : BitVec 6) (a : BitVec 6) (b : BitVec 6)
  /-- ANDN (R115): sd gets a AND NOT b. -/
  | andn (d : BitVec 6) (a : BitVec 6) (b : BitVec 6)
  /-- SHL (R116): Logical left shift by the whole 64-bit amount in sb. -/
  | shl (d : BitVec 6) (a : BitVec 6) (b : BitVec 6)
  /-- SHR (R116): Logical right shift. -/
  | shr (d : BitVec 6) (a : BitVec 6) (b : BitVec 6)
  /-- SRA (R116): Arithmetic right shift. -/
  | sra (d : BitVec 6) (a : BitVec 6) (b : BitVec 6)
  /-- ROTL (R116): Left rotate by the amount mod 64. -/
  | rotl (d : BitVec 6) (a : BitVec 6) (b : BitVec 6)
  /-- MIN (R115): Signed minimum. -/
  | min (d : BitVec 6) (a : BitVec 6) (b : BitVec 6)
  /-- MAX (R115): Signed maximum. -/
  | max (d : BitVec 6) (a : BitVec 6) (b : BitVec 6)
  /-- MINN (R115): Unsigned minimum. -/
  | minn (d : BitVec 6) (a : BitVec 6) (b : BitVec 6)
  /-- MAXN (R115): Unsigned maximum. -/
  | maxn (d : BitVec 6) (a : BitVec 6) (b : BitVec 6)
  /-- CLZ (R115): Counts the leading zero bits. -/
  | clz (d : BitVec 6) (a : BitVec 6)
  /-- CTZ (R115): Counts the trailing zero bits. -/
  | ctz (d : BitVec 6) (a : BitVec 6)
  /-- POPC (R115): Counts the one bits. -/
  | popc (d : BitVec 6) (a : BitVec 6)
  /-- MOV (R115): Copies sa to sd. -/
  | mov (d : BitVec 6) (a : BitVec 6)
  /-- CSET (R115): Writes condition bit cn, zero-extended, to sd. -/
  | cset (d : BitVec 6) (n : BitVec 4)
  /-- SEL (R115): Selects a if cn reads 1, and b otherwise. -/
  | sel (d : BitVec 6) (a : BitVec 6) (b : BitVec 6) (n : BitVec 4)
  /-- ADDI (R118): Adds a signed immediate. -/
  | addi (d : BitVec 6) (a : BitVec 6) (i : BitVec 14)
  /-- ANDI (R118): ANDs with a zero-extended immediate. -/
  | andi (d : BitVec 6) (a : BitVec 6) (i : BitVec 12)
  /-- ORI (R118): ORs with a zero-extended immediate. -/
  | ori (d : BitVec 6) (a : BitVec 6) (i : BitVec 12)
  /-- XORI (R118): XORs with a zero-extended immediate. -/
  | xori (d : BitVec 6) (a : BitVec 6) (i : BitVec 12)
  /-- CMP (R122): Evaluates an integer condition on two registers and writes it and its complement to condition bits. -/
  | cmp (d : BitVec 4) (x : BitVec 4) (c : BitVec 4) (a : BitVec 6) (b : BitVec 6)
  /-- CMPI (R122): Evaluates an integer condition against a sign-extended immediate. -/
  | cmpi (d : BitVec 4) (x : BitVec 4) (c : BitVec 4) (a : BitVec 6) (i : BitVec 8)
  /-- LI (R119): Loads a sign-extended immediate. -/
  | li (d : BitVec 6) (i : BitVec 20)
  /-- LIH (R119): Writes a 16-bit immediate into one quarter of sd and keeps the rest. -/
  | lih (d : BitVec 6) (q : BitVec 2) (i : BitVec 16)
  /-- EXTR (R120): Extracts an unsigned bit field. -/
  | extr (d : BitVec 6) (a : BitVec 6) (p : BitVec 6) (l : BitVec 6)
  /-- EXTRS (R120): Extracts a signed bit field. -/
  | extrs (d : BitVec 6) (a : BitVec 6) (p : BitVec 6) (l : BitVec 6)
  /-- INS (R120): Inserts a bit field into sd. -/
  | ins (d : BitVec 6) (a : BitVec 6) (p : BitVec 6) (l : BitVec 6)
  /-- FSH (R121): Funnel shift: takes a 64-bit window from the pair sa:sb. -/
  | fsh (d : BitVec 6) (a : BitVec 6) (b : BitVec 6) (c : BitVec 6)
  /-- CSR_RD (R123): Lands a control register's value in s. -/
  | csrRd (s : BitVec 6) (n : BitVec 12)
  /-- CSR_WR (R123): Writes s to a control register that has no row of its own. -/
  | csrWr (s : BitVec 6) (n : BitVec 12)
  /-- CSR_WR_FPCTL (R27): csr.wr of FPCTL; codes 0b110 and 0b111 leave the field unchanged. -/
  | csrWrFpctl (s : BitVec 6)
  /-- CSR_WR_CTX_PRIO (R126): Privileged write of CEIL and LEVEL, with LEVEL capped at CEIL. -/
  | csrWrCtxPrio (s : BitVec 6)
  /-- CSR_WR_ACC_OWN (R126): Changes tile ownership once the busy bits of every affected tile have cleared. -/
  | csrWrAccOwn (s : BitVec 6)
  /-- CSR_WR_BANK_ROLE (R126): Applies bank.role to every bank whose field changes; a malformed value is rejected without a trap. -/
  | csrWrBankRole (s : BitVec 6)
  /-- SETB_LABEL (R63): Writes a PC-relative target address into b. -/
  | setbLabel (b : BitVec 2) (o : BitVec 23)
  /-- SETB_REG (R63): Copies sa into b. -/
  | setbReg (b : BitVec 2) (a : BitVec 6)
  /-- SYNC_HEADER (R55): Holds the bundle until the named flags meet the all or any condition, and optionally consumes them. -/
  | syncHeader (m : BitVec 16) (y : BitVec 1) (c : BitVec 1)
  /-- LEND_HEADER (R57): Lends immediate bits to the operations in slots 1 to 3. -/
  | lendHeader (a : BitVec 9) (b : BitVec 9) (c : BitVec 8)
  /-- TREE_HEADER (R60): Picks a leaf from four condition tests and commits slots 1 and 2 by their leaf masks. -/
  | treeHeader (a : BitVec 4) (b : BitVec 4) (c : BitVec 4) (d : BitVec 4) (x : BitVec 5) (y : BitVec 5)
  /-- VADD (R136): Elementwise add. -/
  | vadd (d : BitVec 5) (a : BitVec 5) (b : BitVec 5) (k : BitVec 3) (t : BitVec 5)
  /-- VSUB (R136): Elementwise subtract. -/
  | vsub (d : BitVec 5) (a : BitVec 5) (b : BitVec 5) (k : BitVec 3) (t : BitVec 5)
  /-- VMUL (R136): Elementwise multiply. -/
  | vmul (d : BitVec 5) (a : BitVec 5) (b : BitVec 5) (k : BitVec 3) (t : BitVec 5)
  /-- VMIN (R137): Elementwise minimum. -/
  | vmin (d : BitVec 5) (a : BitVec 5) (b : BitVec 5) (k : BitVec 3) (t : BitVec 5)
  /-- VMAX (R137): Elementwise maximum. -/
  | vmax (d : BitVec 5) (a : BitVec 5) (b : BitVec 5) (k : BitVec 3) (t : BitVec 5)
  /-- VABS (R136): Elementwise absolute value. -/
  | vabs (d : BitVec 5) (a : BitVec 5) (k : BitVec 3) (t : BitVec 5)
  /-- VNEG (R136): Elementwise negation. -/
  | vneg (d : BitVec 5) (a : BitVec 5) (k : BitVec 3) (t : BitVec 5)
  /-- VFMA (R136): a × b + d, rounded once. -/
  | vfma (d : BitVec 5) (a : BitVec 5) (b : BitVec 5) (k : BitVec 3) (t : BitVec 5)
  /-- VFMS (R136): a × b - d, rounded once. -/
  | vfms (d : BitVec 5) (a : BitVec 5) (b : BitVec 5) (k : BitVec 3) (t : BitVec 5)
  /-- VFNMA (R136): -(a × b) + d, rounded once. -/
  | vfnma (d : BitVec 5) (a : BitVec 5) (b : BitVec 5) (k : BitVec 3) (t : BitVec 5)
  /-- VRCP (R138): Correctly rounded reciprocal. -/
  | vrcp (d : BitVec 5) (a : BitVec 5) (k : BitVec 3) (t : BitVec 5)
  /-- VRSQRT (R138): Correctly rounded reciprocal square root. -/
  | vrsqrt (d : BitVec 5) (a : BitVec 5) (k : BitVec 3) (t : BitVec 5)
  /-- VSQRT (R138): Correctly rounded square root. -/
  | vsqrt (d : BitVec 5) (a : BitVec 5) (k : BitVec 3) (t : BitVec 5)
  /-- VEXP2 (R138): Correctly rounded 2^a. -/
  | vexp2 (d : BitVec 5) (a : BitVec 5) (k : BitVec 3) (t : BitVec 5)
  /-- VLOG2 (R138): Correctly rounded log2 a. -/
  | vlog2 (d : BitVec 5) (a : BitVec 5) (k : BitVec 3) (t : BitVec 5)
  /-- VAND (R139): Elementwise AND. -/
  | vand (d : BitVec 5) (a : BitVec 5) (b : BitVec 5) (k : BitVec 3) (t : BitVec 5)
  /-- VOR (R139): Elementwise OR. -/
  | vor (d : BitVec 5) (a : BitVec 5) (b : BitVec 5) (k : BitVec 3) (t : BitVec 5)
  /-- VXOR (R139): Elementwise XOR. -/
  | vxor (d : BitVec 5) (a : BitVec 5) (b : BitVec 5) (k : BitVec 3) (t : BitVec 5)
  /-- VANDN (R139): Elementwise AND NOT. -/
  | vandn (d : BitVec 5) (a : BitVec 5) (b : BitVec 5) (k : BitVec 3) (t : BitVec 5)
  /-- VSHL (R139): Elementwise left shift. -/
  | vshl (d : BitVec 5) (a : BitVec 5) (b : BitVec 5) (k : BitVec 3) (t : BitVec 5)
  /-- VSHR (R139): Elementwise logical right shift. -/
  | vshr (d : BitVec 5) (a : BitVec 5) (b : BitVec 5) (k : BitVec 3) (t : BitVec 5)
  /-- VSRA (R139): Elementwise arithmetic right shift. -/
  | vsra (d : BitVec 5) (a : BitVec 5) (b : BitVec 5) (k : BitVec 3) (t : BitVec 5)
  /-- VPOPC (R139): Elementwise population count. -/
  | vpopc (d : BitVec 5) (a : BitVec 5) (k : BitVec 3) (t : BitVec 5)
  /-- VCMP (R140): Compares elements and writes a mask. -/
  | vcmp (d : BitVec 3) (c : BitVec 4) (a : BitVec 5) (b : BitVec 5) (k : BitVec 3) (t : BitVec 5)
  /-- VSEL (R141): Selects elements of va or vb by the mask. -/
  | vsel (d : BitVec 5) (a : BitVec 5) (b : BitVec 5) (k : BitVec 3) (t : BitVec 5)
  /-- VMOV (R141): Copies the enabled elements of va. -/
  | vmov (d : BitVec 5) (a : BitVec 5) (k : BitVec 3) (t : BitVec 5)
  /-- VBCAST (R141): Broadcasts the low bits of sa to the enabled elements. -/
  | vbcast (d : BitVec 5) (s : BitVec 6) (k : BitVec 3) (t : BitVec 5)
  /-- VPERM (R142): Permutes the elements of va by the indices in vb. -/
  | vperm (d : BitVec 5) (a : BitVec 5) (b : BitVec 5) (k : BitVec 3) (t : BitVec 5)
  /-- VRED_ADD (R143): Pair-tree sum of the present elements into element 0. -/
  | vredAdd (d : BitVec 5) (a : BitVec 5) (k : BitVec 3) (t : BitVec 5)
  /-- VRED_MAX (R143): Pair-tree maximum of the present elements into element 0. -/
  | vredMax (d : BitVec 5) (a : BitVec 5) (k : BitVec 3) (t : BitVec 5)
  /-- VSCAN_ADD (R144): Prefix sums formed by the block decomposition. -/
  | vscanAdd (d : BitVec 5) (a : BitVec 5) (k : BitVec 3) (t : BitVec 5)
  /-- KAND (R146): Mask AND. -/
  | kand (d : BitVec 3) (a : BitVec 3) (b : BitVec 3)
  /-- KOR (R146): Mask OR. -/
  | kor (d : BitVec 3) (a : BitVec 3) (b : BitVec 3)
  /-- KXOR (R146): Mask XOR. -/
  | kxor (d : BitVec 3) (a : BitVec 3) (b : BitVec 3)
  /-- KNOT (R146): Mask NOT. -/
  | knot (d : BitVec 3) (a : BitVec 3)
  /-- KMOV_KK (R146): Copies a mask register. -/
  | kmovKk (d : BitVec 3) (a : BitVec 3)
  /-- KMOV_KS (R146): Writes the low 32 bits of s to a mask register. -/
  | kmovKs (d : BitVec 3) (s : BitVec 6)
  /-- KMOV_SK (R146): Writes a mask register, zero-extended, to s. -/
  | kmovSk (a : BitVec 3) (s : BitVec 6)
  /-- VCVT (R148): Converts elements from the source type to the destination type. -/
  | vcvt (d : BitVec 5) (a : BitVec 5) (x : BitVec 5) (k : BitVec 3) (y : BitVec 5)
  /-- VCVT_SR (R150): Conversion with stochastic rounding. -/
  | vcvtSr (d : BitVec 5) (a : BitVec 5) (x : BitVec 5) (k : BitVec 3) (y : BitVec 5)
  /-- VCLASS (R151): Writes a class code for each element. -/
  | vclass (d : BitVec 5) (a : BitVec 5) (k : BitVec 3) (y : BitVec 5)
  /-- VBMAX (R158): Computes the block scale(s) of va into SB. -/
  | vbmax (a : BitVec 5) (k : BitVec 3) (t : BitVec 5)
  /-- VQUANT (R159): Quantises one block with SB and shifts the block into vd and its granule into vb. -/
  | vquant (d : BitVec 5) (a : BitVec 5) (b : BitVec 5) (k : BitVec 3) (t : BitVec 5)
  /-- VDEQ (R160): Decodes the lowest block of va, with the granule in vb, into FP32. -/
  | vdeq (d : BitVec 5) (a : BitVec 5) (b : BitVec 5) (k : BitVec 3) (t : BitVec 5)
  /-- VPACK (R152): Joins the low halves of va and vb. -/
  | vpack (d : BitVec 5) (a : BitVec 5) (b : BitVec 5) (k : BitVec 3) (t : BitVec 5)
  /-- VUNPACK (R152): Exchanges the halves of va. -/
  | vunpack (d : BitVec 5) (a : BitVec 5) (k : BitVec 3) (t : BitVec 5)
  /-- VEXTR (R145): Extracts a bit field from each 32-bit element. -/
  | vextr (d : BitVec 5) (a : BitVec 5) (p : BitVec 5) (k : BitVec 3) (l : BitVec 5)
  /-- VRNG (R156): Writes random words or uniform values from the Philox stream. -/
  | vrng (d : BitVec 5) (k : BitVec 3) (t : BitVec 5)
  /-- MMA (R256): Accumulates the A × B product of two operand banks into a tile. -/
  | mma (a : BitVec 2) (x : BitVec 5) (y : BitVec 5) (p : BitVec 6) (t : BitVec 5)
  /-- MMA_Z (R256): Writes the A × B product into a tile, starting from zero. -/
  | mmaZ (a : BitVec 2) (x : BitVec 5) (y : BitVec 5) (p : BitVec 6) (t : BitVec 5)
  /-- MMA_SP (R256): Structured-sparse multiply-accumulate covering K = 128. -/
  | mmaSp (a : BitVec 2) (x : BitVec 5) (y : BitVec 5) (p : BitVec 6) (t : BitVec 5)
  /-- MPACK (R257): Packs a scratchpad image into an operand bank in bit-plane layout. -/
  | mpack (b : BitVec 5) (a : BitVec 6) (t : BitVec 5)
  /-- MDRAIN (R258): Converts a tile and writes it as a scratchpad image. -/
  | mdrain (a : BitVec 2) (s : BitVec 6) (t : BitVec 5)
  /-- MDRAIN_BYP (R258): Converts and packs a tile into the A bypass. -/
  | mdrainByp (a : BitVec 2) (t : BitVec 5)
  /-- MDRAIN_ACC (R259): Sends a tile as accumulate-writes to a basin. -/
  | mdrainAcc (a : BitVec 2) (s : BitVec 6) (t : BitVec 5)
  /-- MZERO (R258): Sets every element of a tile to +0. -/
  | mzero (a : BitVec 2)
  /-- MDRAIN_A80 (R372): Privileged: writes a tile as a raw A80 image. -/
  | mdrainA80 (a : BitVec 2) (s : BitVec 6)
  /-- MZERO_A80 (R372): Privileged: loads a tile from a raw A80 image. -/
  | mzeroA80 (a : BitVec 2) (s : BitVec 6)
  /-- MTR_PUT (R261): Queues the transpose of a scratchpad image. -/
  | mtrPut (s : BitVec 6) (t : BitVec 5)
  /-- MTR_GET (R261): Takes the oldest ready transpose entry of the context and writes it as an image. -/
  | mtrGet (s : BitVec 6) (t : BitVec 5)
  /-- LD (R168): Local-store scalar load. -/
  | ld (s : BitVec 6) (a : BitVec 6) (o : BitVec 10) (z : BitVec 3)
  /-- ST (R168): Local-store scalar store. -/
  | st (s : BitVec 6) (a : BitVec 6) (o : BitVec 10) (z : BitVec 3)
  /-- VLD (R168): Local-store 128-byte load. -/
  | vld (v : BitVec 5) (a : BitVec 6) (o : BitVec 10)
  /-- VST (R168): Local-store 128-byte store. -/
  | vst (v : BitVec 5) (a : BitVec 6) (o : BitVec 10)
  /-- BANK_ROLE (R173): Changes the roles of a range of local-store banks. -/
  | bankRole (f : BitVec 5) (c : BitVec 5) (r : BitVec 2)
  /-- BANK_FLUSH (R173): Writes back the dirty sectors of the named cache banks. -/
  | bankFlush (f : BitVec 5) (c : BitVec 5)
  /-- LDG (R189): Global scalar load that lands at its due cycle. -/
  | ldg (s : BitVec 6) (a : BitVec 6) (d : BitVec 10) (z : BitVec 3)
  /-- STG (R189): Global scalar store; to a BXE aperture it starts a copy. -/
  | stg (s : BitVec 6) (a : BitVec 6) (o : BitVec 10) (z : BitVec 3)
  /-- VLDG (R190): Global 128-byte load. -/
  | vldg (v : BitVec 5) (a : BitVec 6) (d : BitVec 10)
  /-- VSTG (R190): Global 128-byte store. -/
  | vstg (v : BitVec 5) (a : BitVec 6) (o : BitVec 10)
  /-- PREF (R190): Prefetches a line into L2 or the memory-side cache. -/
  | pref (l : BitVec 5) (a : BitVec 6) (o : BitVec 10)
  /-- VLDCB (R190): Loads a 16-byte codebook table into cbt0 or cbt1. -/
  | vldcb (x : BitVec 1) (a : BitVec 6) (d : BitVec 10)
  /-- VLD_FMT (R195): Format load through an address generator, decoding blocks into a vector. -/
  | vldFmt (v : BitVec 5) (g : BitVec 3) (r : BitVec 6) (c : BitVec 6) (d : BitVec 6)
  /-- VST_FMT (R196): Format store: encodes elements into blocks and scales. -/
  | vstFmt (v : BitVec 5) (g : BitVec 3) (r : BitVec 6) (c : BitVec 6) (m : BitVec 3) (s : BitVec 1)
  /-- VGATHER (R191): Gathers 4-byte lanes from per-lane addresses. -/
  | vgather (v : BitVec 5) (a : BitVec 6) (i : BitVec 5) (k : BitVec 3) (d : BitVec 6)
  /-- VSCATTER (R191): Scatters 4-byte lanes to per-lane addresses. -/
  | vscatter (v : BitVec 5) (a : BitVec 6) (i : BitVec 5) (k : BitVec 3)
  /-- LD_ACQ (R211): Acquire load of 8 bytes at a scope. -/
  | ldAcq (s : BitVec 6) (a : BitVec 6) (d : BitVec 7) (p : BitVec 3)
  /-- ST_REL (R211): Release store of 8 bytes at a scope, carrying the signature. -/
  | stRel (s : BitVec 6) (a : BitVec 6) (p : BitVec 3)
  /-- FENCE_ACQ (R211): Acquire fence. -/
  | fenceAcq (p : BitVec 3)
  /-- FENCE_REL (R211): Release fence. -/
  | fenceRel (p : BitVec 3)
  /-- FENCE_FULL (R211): Full fence that also orders UO accesses. -/
  | fenceFull (p : BitVec 3)
  /-- AMO_ADD (R214): Atomic add, returning the old value. -/
  | amoAdd (w : BitVec 1) (s : BitVec 6) (a : BitVec 6) (d : BitVec 10)
  /-- AMO_AND (R214): Atomic AND. -/
  | amoAnd (w : BitVec 1) (s : BitVec 6) (a : BitVec 6) (d : BitVec 10)
  /-- AMO_OR (R214): Atomic OR. -/
  | amoOr (w : BitVec 1) (s : BitVec 6) (a : BitVec 6) (d : BitVec 10)
  /-- AMO_XOR (R214): Atomic XOR. -/
  | amoXor (w : BitVec 1) (s : BitVec 6) (a : BitVec 6) (d : BitVec 10)
  /-- AMO_MIN_SIGNED (R214): Atomic signed minimum. -/
  | amoMinSigned (w : BitVec 1) (s : BitVec 6) (a : BitVec 6) (d : BitVec 10)
  /-- AMO_MAX_SIGNED (R214): Atomic signed maximum. -/
  | amoMaxSigned (w : BitVec 1) (s : BitVec 6) (a : BitVec 6) (d : BitVec 10)
  /-- AMO_XCHG (R214): Atomic exchange. -/
  | amoXchg (w : BitVec 1) (s : BitVec 6) (a : BitVec 6) (d : BitVec 10)
  /-- AMO_CAS (R214): Atomic compare-and-swap using the register pair sd, sd+1. -/
  | amoCas (w : BitVec 1) (s : BitVec 6) (a : BitVec 6) (d : BitVec 10)
  /-- AMO_FADD (R215): Atomic floating-point add. -/
  | amoFadd (w : BitVec 1) (s : BitVec 6) (a : BitVec 6) (d : BitVec 10)
  /-- AMO_FMIN (R215): Atomic floating-point minimum. -/
  | amoFmin (w : BitVec 1) (s : BitVec 6) (a : BitVec 6) (d : BitVec 10)
  /-- AMO_FMAX (R215): Atomic floating-point maximum. -/
  | amoFmax (w : BitVec 1) (s : BitVec 6) (a : BitVec 6) (d : BitVec 10)
  /-- AMO_MIN_UNSIGNED (R214): Atomic unsigned minimum. -/
  | amoMinUnsigned (w : BitVec 1) (s : BitVec 6) (a : BitVec 6) (d : BitVec 10)
  /-- AMO_MAX_UNSIGNED (R214): Atomic unsigned maximum. -/
  | amoMaxUnsigned (w : BitVec 1) (s : BitVec 6) (a : BitVec 6) (d : BitVec 10)
  /-- SIG (R227): Releases and sends a flag signal to a target word. -/
  | sig (a : BitVec 6) (f : BitVec 4)
  /-- BAR_INIT (R230): Rewrites a barrier record's CONFIG at the sync engine. -/
  | barInit (s : BitVec 6) (a : BitVec 6)
  /-- BAR_ARRIVE (R230): Releases and records an arrival at a barrier. -/
  | barArrive (a : BitVec 6)
  /-- BAR_WAIT (R230): Reads the barrier's FLAG, then waits on that flag and consumes it. -/
  | barWait (a : BitVec 6)
  /-- WAITW (R231): Holds until a memory word satisfies a comparison with s. -/
  | waitw (s : BitVec 6) (a : BitVec 6) (c : BitVec 4)
  /-- ROUND_WAIT (R348): Holds until a version set's ROUND_READY reaches the round, then acquires. -/
  | roundWait (s : BitVec 6) (a : BitVec 6)
  /-- ROUND_PIN (R348): Releases the context pin and pins a new round, or only releases. -/
  | roundPin (s : BitVec 6) (a : BitVec 6)
  /-- NTILE (R94): Draws the next tile index from a tile-queue record and lands it, with c15. -/
  | ntile (s : BitVec 6) (a : BitVec 6) (d : BitVec 10)
  /-- BASIN_Q (R295): Lands the status word of the basin that owns an address. -/
  | basinQ (s : BitVec 6) (a : BitVec 6) (d : BitVec 10)
  /-- RING_DEF (R241): Creates or attaches to a ring from a descriptor and binds a handle. -/
  | ringDef (s : BitVec 6) (i : BitVec 3)
  /-- RING_PUT (R242): The producer advances its position once the stage is free. -/
  | ringPut (i : BitVec 3)
  /-- RING_TAKE (R242): The consumer advances its position once the stage is filled. -/
  | ringTake (i : BitVec 3)
  /-- RING_PTR (R243): Returns a ring count, binding, configuration or stage address. -/
  | ringPtr (s : BitVec 6) (i : BitVec 3) (e : BitVec 4)
  /-- AGU_SET (R193): Writes or reads a field of an address generator. -/
  | aguSet (s : BitVec 6) (i : BitVec 3) (e : BitVec 4)
  /-- RING_LD (R244): Ring-relative scalar load. -/
  | ringLd (s : BitVec 6) (h : BitVec 3) (k : BitVec 4) (o : BitVec 9) (z : BitVec 3)
  /-- RING_ST (R244): Ring-relative scalar store. -/
  | ringSt (s : BitVec 6) (h : BitVec 3) (k : BitVec 4) (o : BitVec 9) (z : BitVec 3)
  /-- RING_VLD (R244): Ring-relative 128-byte load. -/
  | ringVld (v : BitVec 5) (h : BitVec 3) (k : BitVec 4) (o : BitVec 9)
  /-- RING_VST (R244): Ring-relative 128-byte store. -/
  | ringVst (v : BitVec 5) (h : BitVec 3) (k : BitVec 4) (o : BitVec 9)
  /-- ACCW (R293): Reserves room at the confluence engine and sends a vector as one accumulate-write half. -/
  | accw (v : BitVec 5) (a : BitVec 6) (c : BitVec 12) (s : BitVec 1) (b : BitVec 1)
  /-- RSSCAT (R304): Forms the weighted gradient terms of the points and sends them as accumulate-writes. -/
  | rsscat (v : BitVec 5) (a : BitVec 6) (c : BitVec 5) (k : BitVec 3) (l : BitVec 4)
  /-- RSSCAT_CLOSE (R305): With CLOSE set in s[sa], sends a close for the contributor index. -/
  | rsscatClose (v : BitVec 5) (a : BitVec 6) (c : BitVec 5) (k : BitVec 3) (l : BitVec 4)
  /-- RSLD (R302): Multilinear interpolation of grid features at 32 points, landed in vector registers. -/
  | rsld (v : BitVec 5) (a : BitVec 6) (c : BitVec 5) (k : BitVec 3) (l : BitVec 4) (d : BitVec 3)
  /-- DADD (R321): Lanewise add. -/
  | dadd (w : BitVec 6) (f : DrFields)
  /-- DSUB (R321): Lanewise subtract. -/
  | dsub (w : BitVec 6) (f : DrFields)
  /-- DMUL (R321): Lanewise multiply. -/
  | dmul (w : BitVec 6) (f : DrFields)
  /-- DFMA (R321): Lanewise fused multiply-add. -/
  | dfma (w : BitVec 6) (f : DrFields)
  /-- DMIN (R321): Lanewise minimum. -/
  | dmin (w : BitVec 6) (f : DrFields)
  /-- DMAX (R321): Lanewise maximum. -/
  | dmax (w : BitVec 6) (f : DrFields)
  /-- DABS (R321): Lanewise absolute value. -/
  | dabs (w : BitVec 6) (f : DrFields)
  /-- DNEG (R321): Lanewise negation. -/
  | dneg (w : BitVec 6) (f : DrFields)
  /-- DRCP (R321): Lanewise reciprocal. -/
  | drcp (w : BitVec 6) (f : DrFields)
  /-- DRSQRT (R321): Lanewise reciprocal square root. -/
  | drsqrt (w : BitVec 6) (f : DrFields)
  /-- DSQRT (R321): Lanewise square root. -/
  | dsqrt (w : BitVec 6) (f : DrFields)
  /-- DSEL (R321): Lanewise select by mask. -/
  | dsel (w : BitVec 6) (f : DrFields)
  /-- DCMP (R324): Lanewise float compare into a mask. -/
  | dcmp (w : BitVec 6) (qd : BitVec 2) (da : BitVec 5) (db : BitVec 5) (cc : BitVec 4) (q : BitVec 2) (qn : BitVec 1)
  /-- DCVT_TO (R327): Converts FP32 lanes to a packed narrow type. -/
  | dcvtTo (w : BitVec 6) (dd : BitVec 5) (da : BitVec 5) (t : BitVec 5) (rnd : BitVec 3) (sat : BitVec 1) (m : BitVec 2) (ei : BitVec 4)
  /-- DCVT_FROM (R327): Decodes a packed narrow type to FP32 lanes. -/
  | dcvtFrom (w : BitVec 6) (dd : BitVec 5) (da : BitVec 5) (t : BitVec 5) (rnd : BitVec 3) (sat : BitVec 1) (m : BitVec 2) (ei : BitVec 4)
  /-- DRNG (R328): Uniform random values in [0, 1) from counter-based Philox. -/
  | drng (w : BitVec 6) (f : DrFields)
  /-- DSUM (R325): Pair-tree sum over lanes. -/
  | dsum (w : BitVec 6) (f : DrFields)
  /-- DSQ (R325): Pair-tree sum of squares over lanes. -/
  | dsq (w : BitVec 6) (f : DrFields)
  /-- DBCAST (R330): Broadcasts the low 32 bits of an e register into the lanes. -/
  | dbcast (w : BitVec 6) (f : DrFields)
  /-- EADD (R317): Scalar add. -/
  | eadd (w : BitVec 6) (ed : BitVec 4) (ea : BitVec 4) (eb : BitVec 4) (isel : BitVec 1) (imm : BitVec 32)
  /-- EMUL (R317): Scalar multiply. -/
  | emul (w : BitVec 6) (ed : BitVec 4) (ea : BitVec 4) (eb : BitVec 4) (isel : BitVec 1) (imm : BitVec 32)
  /-- ELI (R317): Scalar load of a sign-extended immediate. -/
  | eli (w : BitVec 6) (ed : BitVec 4) (imm : BitVec 40)
  /-- EBR (R329): Conditional branch on two e registers. -/
  | ebr (w : BitVec 6) (ea : BitVec 4) (eb : BitVec 4) (cc : BitVec 4) (tgt : BitVec 13)
  /-- EJMP (R329): Unconditional jump. -/
  | ejmp (w : BitVec 6) (tgt : BitVec 13)
  /-- ELOOP (R329): Decrements a counter and branches while it is nonzero. -/
  | eloop (w : BitVec 6) (ea : BitVec 4) (tgt : BitVec 13)
  /-- ELD (R330): Loads 8 bytes at a physical address into an e register. -/
  | eld (w : BitVec 6) (ed : BitVec 4) (ea : BitVec 4)
  /-- DLD (R331): Loads four DRAM or side-store segments into a data register. -/
  | dld (w : BitVec 6) (d : BitVec 5) (ea : BitVec 4) (es : BitVec 4) (k : BitVec 3)
  /-- DLDB (R332): All-bank load scheduled in waves of BANK_LIMIT. -/
  | dldb (w : BitVec 6) (d : BitVec 5) (ea : BitVec 4) (es : BitVec 4) (k : BitVec 3)
  /-- DST (R331): Stores four segments from a data register. -/
  | dst (w : BitVec 6) (d : BitVec 5) (ea : BitVec 4) (es : BitVec 4) (k : BitVec 3)
  /-- DWAIT (R333): Delays until every earlier DRAM instruction has completed. -/
  | dwait (w : BitVec 6)
  /-- DWAIT_EXT (R333): Waits, then opens a window that serves queued external accesses. -/
  | dwaitExt (w : BitVec 6) (n : BitVec 16)
  /-- DLOCK (R334): Locks the rows of four segments against external access. -/
  | dlock (w : BitVec 6) (ea : BitVec 4) (es : BitVec 4) (k : BitVec 3)
  /-- DUNLOCK (R334): Releases row locks. -/
  | dunlock (w : BitVec 6) (ea : BitVec 4) (es : BitVec 4) (k : BitVec 3)
  /-- DPUB (R337): Releases at scope sys and publishes the shard for a round. -/
  | dpub (w : BitVec 6) (es : BitVec 4) (er : BitVec 4)
  /-- DPUSH (R335): Stores bytes of a data register to a module or remote address. -/
  | dpush (w : BitVec 6) (d : BitVec 5) (ea : BitVec 4) (ek : BitVec 4) (k : BitVec 3)
  /-- DPUSH_ACC (R335): Sends bytes of a data register as FP32 accumulate-writes. -/
  | dpushAcc (w : BitVec 6) (d : BitVec 5) (ea : BitVec 4) (ek : BitVec 4) (k : BitVec 3)
  /-- DSIG (R336): Releases and delivers a flag to a target word. -/
  | dsig (w : BitVec 6) (ea : BitVec 4) (ev : BitVec 4) (n : BitVec 4)
  /-- DSIG_ST (R336): Releases and stores an e register to an address. -/
  | dsigSt (w : BitVec 6) (ea : BitVec 4) (ev : BitVec 4) (n : BitVec 4)
  /-- DHALT (R338): Waits for everything outstanding, releases and ends the run. -/
  | dhalt (w : BitVec 6)
  /-- NOP (R48): Empty slot that uses no port and has no effect. -/
  | nop
  /-- HALT (R92): Issues its bundle, then moves the context to RETIRING; in a trap routine it retires or parks the context as R363 states. -/
  | halt
  /-- YIELD (R80): Issues normally and makes the next cycle a switch in which the yielding context is the last candidate. -/
  | yield
  /-- RET (R91): Reads the shadow-stack entry, checks it against s63 and transfers to s63. -/
  | ret
  /-- ERET (R369): Returns from a trap routine to user mode, restores the flags from TRAP_STATUS and applies the skip bits. -/
  | eret
  /-- CTX_QUIESCE (R370): Holds until every landing, result, busy bit and transpose entry of the context has settled. -/
  | ctxQuiesce
  /-- EVLOG_CLR (R41): Empties the first-event log and clears EVLOG_SUM. -/
  | evlogClr
  /-- BANK_CHANGE_DONE (R171): A CHANGING bank finishes its leaving step and clearing, and becomes STABLE. -/
  | bankChangeDone
  /-- ASYNC_TRAP (R360): A pending COPY_ERROR, REMOTE_ERROR or PREEMPT is taken at a user-mode bundle boundary. -/
  | asyncTrap
  /-- SWITCH (R80): A cycle in which no bundle issues while the selector picks a new running context. -/
  | switch
  /-- LANDING (R87): Variable-latency data arrive and are written at their due cycle, or on arrival when late. -/
  | landing
  /-- CONTEXT_FREE (R92): A RETIRING context becomes FREE once all its outstanding work and its release are done. -/
  | contextFree
  /-- TLB_WALK_DONE (R187): A translation completes or finds a fault, ending the translation hold. -/
  | tlbWalkDone
  /-- SUBMIT (R96): Host write of SUBMIT_ADDR submits a graph or is rejected. -/
  | submit
  /-- ERR_ACK (R95): Writing 1 clears FROZEN and the rejected count. -/
  | errAck
  /-- GRAPH_VALIDATION (R99): The walker reads and validates the descriptor and node table, then writes ACCEPTED or REJECTED. -/
  | graphValidation
  /-- NODE_RESOLVE (R100): The walker acts on a READY node: cancels it, skips it, or runs it by kind. -/
  | nodeResolve
  /-- LAUNCH_DISPATCH (R107): A DISPATCHING launch whose cores and ring entries are free takes pins and runs its prologues. -/
  | launchDispatch
  /-- LAUNCH_COMPLETE (R108): Every context has retired and every copy has completed, so the node ends DONE or FAILED and sends its marks. -/
  | launchComplete
  /-- COND_NODE (R102): Reads the condition word and sends RUN to one successor and SKIP to the rest. -/
  | condNode
  /-- WHILE_NODE (R103): Reads the condition word and starts an iteration or completes. -/
  | whileNode
  /-- WHILE_BACK_EDGE (R103): A back edge ends the iteration once every body node is final. -/
  | whileBackEdge
  /-- NODE_TIMEOUT (R104): A node's TIMEOUT expires, and it fails with its error effects. -/
  | nodeTimeout
  /-- PT_ROOT_WRITE (R180): Writes the root table address and invalidates every TLB. -/
  | ptRootWrite
  /-- TLB_INVAL (R180): Starts dropping the matching entries from every TLB. -/
  | tlbInval
  /-- TLB_INVAL_DONE (R180): Every TLB has dropped the entries and every earlier walk has ended, so bit 0 clears. -/
  | tlbInvalDone
  /-- SIGNAL_DELIVERY (R224): The engine decides a flag delivery: it sets the flag, ORs into the signal word, or drops it as stale. -/
  | signalDelivery
  /-- POWER_GATE (R226): The power controller gates a core whose contexts are free or only waiting. -/
  | powerGate
  /-- WAITW_POLL (R231): Periodic re-read, at least every 256 cycles, of a word watched on a page that is not a sync page. -/
  | waitwPoll
  /-- SYNC_OVF_BASE_WRITE (R221): Sets the overflow area base; ignored while entries are in use. -/
  | syncOvfBaseWrite
  /-- SYNC_OVF_SIZE_WRITE (R221): Sets the overflow area size; ignored while entries are in use. -/
  | syncOvfSizeWrite
  /-- SYNC_STALE_COUNT_CLEAR (R221): Writing any value clears SYNC_STALE_COUNT. -/
  | syncStaleCountClear
  /-- TOKEN_GRANT (R255): The die power controller grants a start token to the next requesting core, at most one per T cycles. -/
  | tokenGrant
  /-- TRANSPOSE_EXPIRE (R261): A transpose entry not taken within 4096 cycles of ready is discarded and logged. -/
  | transposeExpire
  /-- COPY_TAKE (R271): The BXE takes a channel head copy into its class queue and reads its template. -/
  | copyTake
  /-- CHUNK_START (R272): The deficit round-robin scheduler starts the next 2 KiB chunk. -/
  | chunkStart
  /-- COPY_COMPLETE (R274): All payload is written or failed, and the completion word is released. -/
  | copyComplete
  /-- SIDE_WAYS_WRITE (R278): Converts memory-side cache ways to or from side store. -/
  | sideWaysWrite
  /-- SIDE_CONVERSION_DONE (R278): The write-back and zeroing of a conversion finish, and SIDE_STATUS clears. -/
  | sideConversionDone
  /-- BASIN_SELECT (R278): Chooses the basin whose latest rejection BASIN_REJECT shows. -/
  | basinSelect
  /-- BASIN_RETIRE (R291): BASIN_SELECT written with bit 63 frees the entry and discards its staged data. -/
  | basinRetire
  /-- BASIN_DECLARE (R281): The stack's basin table checks a declaration and arms the entry, or fails the node. -/
  | basinDeclare
  /-- BASIN_PACKET (R285): The engine decides an accumulate-write packet: stale, duplicate or accepted, applied or staged. -/
  | basinPacket
  /-- BASIN_CLOSE (R305): A close sets contributor k's bits in every half as +0 contributions. -/
  | basinClose
  /-- CONFLUENCE_ACK (R286): The sender receives the acknowledgement of a decided packet. -/
  | confluenceAck
  /-- CONFLUENCE_RESEND (R286): A packet unacknowledged for 2 µs is resent. -/
  | confluenceResend
  /-- DELTA_RUN_SELECT (R311): An idle delta processor selects the oldest queued request whose prerequisites are met. -/
  | deltaRunSelect
  /-- DELTA_ENTRY_DONE (R314): Compute-mode entry ends and the run starts RUNNING at delta cycle 0. -/
  | deltaEntryDone
  /-- DELTA_EXIT_DONE (R312): Exit finishes, the status word is written and the node completes or fails. -/
  | deltaExitDone
  /-- DLDB_COMPLETE (R332): The last segment of an all-bank load lands. -/
  | dldbComplete
  /-- DPUSH_FINISH (R335): A push is acknowledged or decided, or is lost and faults the run. -/
  | dpushFinish
  /-- ROUND_DONE_MESSAGE (R350): A received round-done message is counted, and the round may advance. -/
  | roundDoneMessage
  /-- FLIT_RECEIVE (R352): A Gorper flit is received, checked, accepted or answered with a NAK. -/
  | flitReceive
  /-- FLIT_NAK (R352): A received NAK makes the sender replay from the flit after its SEQ. -/
  | flitNak
  /-- FLIT_REPLAY_TIMEOUT (R352): A flit unacknowledged for 2 µs is replayed unprompted. -/
  | flitReplayTimeout
  /-- REMOTE_TRANSACTION (R353): A destination executes a numbered request once and answers repeats with the first reply. -/
  | remoteTransaction
  /-- REMOTE_REQUEST_FAIL (R353): A request that no port can carry fails with an error token or kind. -/
  | remoteRequestFail
  /-- HOST_MEM_ACCESS (R355): A host CXL.mem access to the interleaved view is performed at the memory side. -/
  | hostMemAccess
  /-- PREEMPT_REQ (R361): Requests pre-emption of a context, optionally with PARK. -/
  | preemptReq
  /-- PARK_COMPLETE (R364): After quiescing, the slot becomes FREE, the flags go to the signal word and the rings freeze. -/
  | parkComplete
  /-- RESUME_REQ (R361): Requests the resume of a PARKED context. -/
  | resumeReq
  /-- RESUME_PROLOGUE (R365): Once the core is free, recreates the context and starts it privileged at RESUME_ENTRY. -/
  | resumePrologue
  /-- CURRENT_RAMP_LIMIT_WRITE (R375): Sets the die's ramp limit and hence the token interval T. -/
  | currentRampLimitWrite
  /-- BANK_LIMIT_WRITE (R376): Sets the all-bank wave size from the next wave. -/
  | bankLimitWrite
  /-- TELEMETRY_SAMPLE (R377): At each 250 µs interval, updates the power registers and writes a telemetry record. -/
  | telemetrySample
  /-- THERMAL_THROTTLE (R378): A cluster sensor above TEMP_THROTTLE halves the die clock. -/
  | thermalThrottle
  /-- THROTTLE_END (R378): Every sensor 5 °C below the threshold restores full clock. -/
  | throttleEnd
  /-- THERMAL_TRIP (R378): An over-temperature or undervoltage makes the MC remove power, leaving STAGE FAILED. -/
  | thermalTrip
  /-- ERR_CORRECTED_CLEAR (R374): Writing any value clears ERR_CORRECTED. -/
  | errCorrectedClear
  /-- ERR_UNCORRECTED_CLEAR (R374): Writing any value clears ERR_UNCORRECTED. -/
  | errUncorrectedClear
  /-- WALKER_RESET (R387): Restarts the graph walker, which resumes from the command journal. -/
  | walkerReset
  /-- WARM_RESET (R387): Resets contexts, engines and runs, keeping memory, basins, versions and the journal. -/
  | warmReset
  /-- COLD_RESET (R387): Resets everything and restarts from stage 0. -/
  | coldReset
  /-- POWER_GOOD (R380): The MC starts from ROM and enters stage 0. -/
  | powerGood
  /-- STAGE_ADVANCE (R380): Firmware, training and self-tests finish, and the module reaches stage 1 or 2, or FAILED. -/
  | stageAdvance
  /-- FW_LOAD_GO (R381): Starts reading and verifying a new firmware image from host memory. -/
  | fwLoadGo
  /-- FW_LOAD_DONE (R381): The image verifies, is written to flash and the module cold-resets, or it reads BAD. -/
  | fwLoadDone
  /-- ATTEST_START (R382): Writing byte 0x11F of ATTEST_NONCE starts an attestation. -/
  | attestStart
  /-- ATTEST_DONE (R382): The signature is ready in ATTEST_SIG, and ATTEST_STATUS sets. -/
  | attestDone
  /-- MGMT_REGISTER_WRITE (R356): A write to a CFG or MGMT register that has no row of its own. -/
  | mgmtRegisterWrite
  /-- ENGINE_REPLY (R230): A reply from the sync engine, the confluence engine or the memory side reaches a core and clears the hold of the bundle that waits on it, such as a barrier, reservation or round reply, a waitw release or a shadow-stack read. -/
  | engineReply
  /-- INSTRUCTION_CACHE_FILL (R83): A bundle missing from the instruction cache arrives from memory, and the hold of the bundle at the PC ends. -/
  | instructionCacheFill
  /-- SOFT_ERROR (R384): A stored bit, a register-file bit or an unchecked arithmetic result is corrupted, so that later reads correct it, find it poisoned or raise a parity error. -/
  | softError
deriving DecidableEq, Repr

end Sys2Proof
end

