-- ==== Sys2Proof/WellFormed.lean ====
section
/-!
DEFINITION. The checks of an instruction's own fields that do not depend on lent bits or on run-time state: the type
codes, condition codes, sizes, scopes, due cycles and field ranges of R53 and of each instruction's rule.
-/
namespace Sys2Proof

/-- Codes 0 to 11 (R132). -/
def typeArith (t : BitVec 5) : Bool := decide (t.toNat ≤ 11)

/-- Codes 8 to 11, the floating-point types of the vector units (R132). -/
def typeFloat (t : BitVec 5) : Bool := decide (8 ≤ t.toNat) && decide (t.toNat ≤ 11)

/-- Codes 0 to 7 (R132). -/
def typeInt (t : BitVec 5) : Bool := decide (t.toNat ≤ 7)

/-- Codes 0 to 13, every type of one element width (R147). -/
def typeScalar (t : BitVec 5) : Bool := decide (t.toNat ≤ 13)

/-- Codes 8 to 13, the scalar floating-point formats (R147). -/
def typeFp (t : BitVec 5) : Bool := decide (8 ≤ t.toNat) && decide (t.toNat ≤ 13)

/-- Codes 14 to 17, the block formats (R147). -/
def typeBlock (t : BitVec 5) : Bool := decide (14 ≤ t.toNat) && decide (t.toNat ≤ 17)

/-- Codes 4 to 11 (R147, `vrng`). -/
def typeRandom (t : BitVec 5) : Bool := decide (4 ≤ t.toNat) && decide (t.toNat ≤ 11)

/-- Codes 8 to 17 (R256, R257). -/
def typeMatrix (t : BitVec 5) : Bool := decide (8 ≤ t.toNat) && decide (t.toNat ≤ 17)

/-- The 16-bit and 32-bit element types (R260). -/
def typeTranspose (t : BitVec 5) : Bool :=
  t == 1 || t == 5 || t == 10 || t == 11 || t == 2 || t == 6 || t == 9

/-- Codes 10 to 15 (R327). -/
def typeNarrow (t : BitVec 5) : Bool := decide (10 ≤ t.toNat) && decide (t.toNat ≤ 15)

/-- The full plane count of a matrix type (R248, R44); 0 for a type the engine does not take. -/
def planes (t : BitVec 5) : Nat :=
  match t.toNat with
  | 8 => 53 | 9 => 24 | 10 => 8 | 11 => 11 | 12 => 4 | 13 => 4 | 14 => 4 | 15 => 4 | 16 => 6 | 17 => 2
  | _ => 0

/-- The condition codes an element type takes (R68). -/
def condOk (t : BitVec 5) (c : BitVec 4) : Bool :=
  if typeFloat t then decide (c.toNat ≤ 5) || c == 12 || c == 13 else decide (c.toNat ≤ 11)

/-- The load size codes (R68). -/
def loadSize (z : BitVec 3) : Bool := decide (z.toNat ≤ 6)

/-- The store size codes (R68). -/
def storeSize (z : BitVec 3) : Bool := decide (z.toNat ≤ 3)

/-- A DR operation that neither saturates nor rounds stochastically (R322, R323). -/
def DrFields.plain (f : DrFields) : Bool := f.sat == 0 && f.rnd != 6 && f.rnd != 5

/-- The checks of an instruction's fields, one arm per constructor. -/
def Instr.wf (i : Instr) : Bool :=
  match i with
  | .prio _ => true
  | .jmpi _ => true
  | .calli _ => true
  | .trap _ => true
  | .brk _ => true
  | .evlogRd _ _ => true
  | .fset m => m != 0
  | .fclr m => m != 0
  | .fwait m _ _ => m != 0
  | .jmp _ => true
  | .call _ => true
  | .brC _ _ _ => true
  | .brTree _ _ _ _ _ => true
  | .add _ _ _ => true
  | .sub _ _ _ => true
  | .mul _ _ _ => true
  | .mulh _ _ _ => true
  | .mulhn _ _ _ => true
  | .div _ _ _ => true
  | .divn _ _ _ => true
  | .rem _ _ _ => true
  | .remn _ _ _ => true
  | .and _ _ _ => true
  | .or _ _ _ => true
  | .xor _ _ _ => true
  | .andn _ _ _ => true
  | .shl _ _ _ => true
  | .shr _ _ _ => true
  | .sra _ _ _ => true
  | .rotl _ _ _ => true
  | .min _ _ _ => true
  | .max _ _ _ => true
  | .minn _ _ _ => true
  | .maxn _ _ _ => true
  | .clz _ _ => true
  | .ctz _ _ => true
  | .popc _ _ => true
  | .mov _ _ => true
  | .cset _ _ => true
  | .sel _ _ _ _ => true
  | .addi _ _ _ => true
  | .andi _ _ _ => true
  | .ori _ _ _ => true
  | .xori _ _ _ => true
  | .cmp d x c _ _ => decide (c.toNat ≤ 11) && (d != x || d == 0)
  | .cmpi d x c _ _ => decide (c.toNat ≤ 11) && (d != x || d == 0)
  | .li _ _ => true
  | .lih _ _ _ => true
  | .extr _ _ p l => decide (p.toNat + l.toNat + 1 ≤ 64)
  | .extrs _ _ p l => decide (p.toNat + l.toNat + 1 ≤ 64)
  | .ins _ _ p l => decide (p.toNat + l.toNat + 1 ≤ 64)
  | .fsh _ _ _ _ => true
  | .csrRd _ _ => true
  | .csrWr _ n => n != 0x010 && n != 0x003 && n != 0x015 && n != 0x016
  | .csrWrFpctl _ => true
  | .csrWrCtxPrio _ => true
  | .csrWrAccOwn _ => true
  | .csrWrBankRole _ => true
  | .setbLabel _ _ => true
  | .setbReg _ _ => true
  | .syncHeader m _ _ => m != 0
  | .lendHeader _ _ _ => true
  | .treeHeader _ _ _ _ _ _ => true
  | .vadd _ _ _ _ t => typeArith t
  | .vsub _ _ _ _ t => typeArith t
  | .vmul _ _ _ _ t => typeArith t
  | .vmin _ _ _ _ t => typeArith t
  | .vmax _ _ _ _ t => typeArith t
  | .vabs _ _ _ t => typeArith t
  | .vneg _ _ _ t => typeArith t
  | .vfma _ _ _ _ t => typeArith t
  | .vfms _ _ _ _ t => typeArith t
  | .vfnma _ _ _ _ t => typeArith t
  | .vrcp _ _ _ t => typeFloat t
  | .vrsqrt _ _ _ t => typeFloat t
  | .vsqrt _ _ _ t => typeFloat t
  | .vexp2 _ _ _ t => typeFloat t
  | .vlog2 _ _ _ t => typeFloat t
  | .vand _ _ _ _ t => typeInt t
  | .vor _ _ _ _ t => typeInt t
  | .vxor _ _ _ _ t => typeInt t
  | .vandn _ _ _ _ t => typeInt t
  | .vshl _ _ _ _ t => typeInt t
  | .vshr _ _ _ _ t => typeInt t
  | .vsra _ _ _ _ t => typeInt t
  | .vpopc _ _ _ t => typeInt t
  | .vcmp _ c _ _ _ t => typeArith t && condOk t c
  | .vsel _ _ _ _ t => typeArith t
  | .vmov _ _ _ t => typeArith t
  | .vbcast _ _ _ t => typeArith t
  | .vperm _ _ _ _ t => typeArith t
  | .vredAdd _ _ _ t => typeArith t
  | .vredMax _ _ _ t => typeArith t
  | .vscanAdd _ _ _ t => typeArith t
  | .kand _ _ _ => true
  | .kor _ _ _ => true
  | .kxor _ _ _ => true
  | .knot _ _ => true
  | .kmovKk _ _ => true
  | .kmovKs _ _ => true
  | .kmovSk _ _ => true
  | .vcvt _ _ x _ y => typeScalar x && typeScalar y
  | .vcvtSr _ _ x _ y => typeScalar x && typeScalar y
  | .vclass _ _ _ y => typeFp y
  | .vbmax _ _ t => t == 6 || typeBlock t
  | .vquant _ _ _ _ t => typeBlock t
  | .vdeq _ _ _ _ t => typeBlock t
  | .vpack _ _ _ _ t => typeScalar t
  | .vunpack _ _ _ t => typeScalar t
  | .vextr _ _ p _ l => decide (p.toNat + l.toNat + 1 ≤ 32)
  | .vrng _ _ t => typeRandom t
  | .mma _ _ y p t => typeMatrix t && decide (p.toNat ≤ planes t) && y != 0
  | .mmaZ _ _ y p t => typeMatrix t && decide (p.toNat ≤ planes t) && y != 0
  | .mmaSp _ x y p t => typeMatrix t && decide (p.toNat ≤ planes t) && x != 0 && y != 0 && decide (y.toNat + 3 ≤ 31)
  | .mpack b _ t => typeMatrix t && b != 0
  | .mdrain _ _ t => decide (t.toNat ≤ 17)
  | .mdrainByp _ t => typeMatrix t
  | .mdrainAcc _ _ t => t == 9 || t == 10
  | .mzero _ => true
  | .mdrainA80 _ _ => true
  | .mzeroA80 _ _ => true
  | .mtrPut _ t => typeTranspose t
  | .mtrGet _ t => typeTranspose t
  | .ld _ _ _ z => loadSize z
  | .st _ _ _ z => storeSize z
  | .vld _ _ _ => true
  | .vst _ _ _ => true
  | .bankRole f c r => decide (f.toNat + c.toNat + 1 ≤ 32) && r != 3
  | .bankFlush f c => decide (f.toNat + c.toNat + 1 ≤ 32)
  | .ldg _ _ d z => loadSize z && d != 0
  | .stg _ _ _ z => storeSize z
  | .vldg _ _ d => d != 0
  | .vstg _ _ _ => true
  | .pref l _ _ => decide (l.toNat ≤ 1)
  | .vldcb _ _ d => d != 0
  | .vldFmt _ _ _ _ _ => true
  | .vstFmt _ _ _ _ m _ => m != 5 && m != 6
  | .vgather _ _ _ _ _ => true
  | .vscatter _ _ _ _ => true
  | .ldAcq _ _ _ p => decide (p.toNat ≤ 5)
  | .stRel _ _ p => decide (p.toNat ≤ 5)
  | .fenceAcq p => decide (p.toNat ≤ 5)
  | .fenceRel p => decide (p.toNat ≤ 5)
  | .fenceFull p => decide (p.toNat ≤ 5)
  | .amoAdd _ _ _ d => d != 0
  | .amoAnd _ _ _ d => d != 0
  | .amoOr _ _ _ d => d != 0
  | .amoXor _ _ _ d => d != 0
  | .amoMinSigned _ _ _ d => d != 0
  | .amoMaxSigned _ _ _ d => d != 0
  | .amoXchg _ _ _ d => d != 0
  | .amoCas _ s _ d => d != 0 && s.toNat % 2 == 0
  | .amoFadd _ _ _ d => d != 0
  | .amoFmin _ _ _ d => d != 0
  | .amoFmax _ _ _ d => d != 0
  | .amoMinUnsigned _ _ _ d => d != 0
  | .amoMaxUnsigned _ _ _ d => d != 0
  | .sig _ _ => true
  | .barInit _ _ => true
  | .barArrive _ => true
  | .barWait _ => true
  | .waitw _ _ c => decide (c.toNat ≤ 11)
  | .roundWait _ _ => true
  | .roundPin _ _ => true
  | .ntile _ _ d => d != 0
  | .basinQ _ _ d => d != 0
  | .ringDef _ _ => true
  | .ringPut _ => true
  | .ringTake _ => true
  | .ringPtr _ _ e => e != 6 && e != 7
  | .aguSet _ _ e => decide (e.toNat ≤ 4) || (decide (8 ≤ e.toNat) && decide (e.toNat ≤ 12))
  | .ringLd _ _ _ _ z => loadSize z
  | .ringSt _ _ _ _ z => storeSize z
  | .ringVld _ _ _ _ => true
  | .ringVst _ _ _ _ => true
  | .accw _ _ _ _ _ => true
  | .rsscat _ _ _ _ _ => true
  | .rsscatClose _ _ _ _ _ => true
  | .rsld _ _ _ _ _ _ => true
  | .dadd _ f => f.dc == 0 && f.rnd != 6
  | .dsub _ f => f.dc == 0 && f.rnd != 6
  | .dmul _ f => f.dc == 0 && f.rnd != 6
  | .dfma _ f => f.rnd != 6
  | .dmin _ f => f.dc == 0 && f.plain
  | .dmax _ f => f.dc == 0 && f.plain
  | .dabs _ f => f.db == 0 && f.dc == 0 && f.plain
  | .dneg _ f => f.db == 0 && f.dc == 0 && f.plain
  | .drcp _ f => f.db == 0 && f.dc == 0 && f.rnd != 6
  | .drsqrt _ f => f.db == 0 && f.dc == 0 && f.rnd != 6
  | .dsqrt _ f => f.db == 0 && f.dc == 0 && f.rnd != 6
  | .dsel _ f => f.dc == 0 && f.plain
  | .dcmp _ _ _ _ cc _ _ => decide (cc.toNat ≤ 5) || cc == 12 || cc == 13
  | .dcvtTo _ _ _ t rnd _ _ _ => typeNarrow t && rnd != 6
  | .dcvtFrom _ _ _ t rnd _ _ _ => typeNarrow t && rnd != 6
  | .drng _ f => f.da == 0 && f.db == 0 && f.dc == 0 && f.plain
  | .dsum _ f => f.db == 0 && f.dc == 0 && f.rnd != 6 && f.rnd != 5
  | .dsq _ f => f.db == 0 && f.dc == 0 && f.rnd != 6 && f.rnd != 5
  | .dbcast _ f => f.da == 0 && f.db == 0 && f.dc == 0 && f.m == 0 && f.plain
  | .eadd _ _ _ eb isel imm => if isel == 1 then eb == 0 else imm == 0
  | .emul _ _ _ eb isel imm => if isel == 1 then eb == 0 else imm == 0
  | .eli _ _ _ => true
  | .ebr _ _ _ cc _ => decide (cc.toNat ≤ 9)
  | .ejmp _ _ => true
  | .eloop _ _ _ => true
  | .eld _ _ _ => true
  | .dld _ _ _ _ k => decide (k.toNat ≤ 5)
  | .dldb _ _ _ _ k => decide (2 ≤ k.toNat) && decide (k.toNat ≤ 5)
  | .dst _ _ _ _ k => decide (k.toNat ≤ 5)
  | .dwait _ => true
  | .dwaitExt _ n => n != 0
  | .dlock _ _ _ k => decide (k.toNat ≤ 5)
  | .dunlock _ _ _ k => decide (k.toNat ≤ 5)
  | .dpub _ _ _ => true
  | .dpush _ _ _ _ k => decide (k.toNat ≤ 5)
  | .dpushAcc _ _ _ _ k => decide (k.toNat ≤ 5)
  | .dsig _ _ _ _ => true
  | .dsigSt _ _ _ _ => true
  | .dhalt _ => true
  | .nop => true
  | .halt => true
  | .yield => true
  | .ret => true
  | .eret => true
  | .ctxQuiesce => true
  | .evlogClr => true
  | .bankChangeDone => true
  | .asyncTrap => true
  | .switch => true
  | .landing => true
  | .contextFree => true
  | .tlbWalkDone => true
  | .submit => true
  | .errAck => true
  | .graphValidation => true
  | .nodeResolve => true
  | .launchDispatch => true
  | .launchComplete => true
  | .condNode => true
  | .whileNode => true
  | .whileBackEdge => true
  | .nodeTimeout => true
  | .ptRootWrite => true
  | .tlbInval => true
  | .tlbInvalDone => true
  | .signalDelivery => true
  | .powerGate => true
  | .waitwPoll => true
  | .syncOvfBaseWrite => true
  | .syncOvfSizeWrite => true
  | .syncStaleCountClear => true
  | .tokenGrant => true
  | .transposeExpire => true
  | .copyTake => true
  | .chunkStart => true
  | .copyComplete => true
  | .sideWaysWrite => true
  | .sideConversionDone => true
  | .basinSelect => true
  | .basinRetire => true
  | .basinDeclare => true
  | .basinPacket => true
  | .basinClose => true
  | .confluenceAck => true
  | .confluenceResend => true
  | .deltaRunSelect => true
  | .deltaEntryDone => true
  | .deltaExitDone => true
  | .dldbComplete => true
  | .dpushFinish => true
  | .roundDoneMessage => true
  | .flitReceive => true
  | .flitNak => true
  | .flitReplayTimeout => true
  | .remoteTransaction => true
  | .remoteRequestFail => true
  | .hostMemAccess => true
  | .preemptReq => true
  | .parkComplete => true
  | .resumeReq => true
  | .resumePrologue => true
  | .currentRampLimitWrite => true
  | .bankLimitWrite => true
  | .telemetrySample => true
  | .thermalThrottle => true
  | .throttleEnd => true
  | .thermalTrip => true
  | .errCorrectedClear => true
  | .errUncorrectedClear => true
  | .walkerReset => true
  | .warmReset => true
  | .coldReset => true
  | .powerGood => true
  | .stageAdvance => true
  | .fwLoadGo => true
  | .fwLoadDone => true
  | .attestStart => true
  | .attestDone => true
  | .mgmtRegisterWrite => true
  | .engineReply => true
  | .instructionCacheFill => true
  | .softError => true

/-- An instruction whose fields every encoding rule admits. -/
def WellFormed (i : Instr) : Prop := i.wf = true

end Sys2Proof
end

