-- ==== Sys2Proof/Decode.lean ====
section
/-!
DEFINITION. Decoding a 32-bit slot word (R63 to R68) and a 64-bit delta word (R316, R317), total and rejecting by name,
and after it the encoder, both from the same formats of the spec.
-/
namespace Sys2Proof

/-- Why a word is no instruction. -/
inductive DecodeError where
  /-- The major opcode (or delta OP) is reserved (R53, R317). -/
  | reservedMajor
  /-- The minor code is not listed, or a field marked 0 is not zero (R53, R316). -/
  | reservedMinor
  /-- A field holds a code the instruction does not take (R53). -/
  | badField
deriving DecidableEq, Repr

/-- The field of `n` bits at bit `lo` of a word. -/
def fld (n w lo : Nat) : BitVec n := BitVec.ofNat n (w / 2 ^ lo)

/-- Slot words of major opcode 0x00 (R64 to R67). -/
def decodeMajor00 (w : Nat) : Option Instr :=
  if bits w 25 0 = 0 then some .nop
  else if bits w 25 0 = 1 then some .halt
  else if bits w 25 0 = 2 then some .yield
  else if bits w 7 0 = 3 ∧ bits w 25 10 = 0 then some (.prio (fld 2 w 8))
  else if bits w 13 0 = 4 ∧ bits w 25 20 = 0 then some (.jmpi (fld 6 w 14))
  else if bits w 13 0 = 5 ∧ bits w 25 20 = 0 then some (.calli (fld 6 w 14))
  else if bits w 25 0 = 6 then some .ret
  else if bits w 7 0 = 8 ∧ bits w 25 14 = 0 then some (.trap (fld 6 w 8))
  else if bits w 25 0 = 9 then some .eret
  else if bits w 7 0 = 10 ∧ bits w 25 14 = 0 then some (.brk (fld 6 w 8))
  else if bits w 25 0 = 11 then some .ctxQuiesce
  else if bits w 7 0 = 12 ∧ bits w 19 10 = 0 then some (.evlogRd (fld 6 w 20) (fld 2 w 8))
  else if bits w 25 0 = 13 then some .evlogClr
  else if bits w 9 0 = 16 then some (.fset (fld 16 w 10))
  else if bits w 9 0 = 17 then some (.fclr (fld 16 w 10))
  else if bits w 7 0 = 18 then some (.fwait (fld 16 w 10) (fld 1 w 9) (fld 1 w 8))
  else none

/-- Slot words of major opcode 0x01 (R64 to R67). -/
def decodeMajor01 (w : Nat) : Option Instr :=
  some (.jmp (fld 26 w 0))

/-- Slot words of major opcode 0x02 (R64 to R67). -/
def decodeMajor02 (w : Nat) : Option Instr :=
  some (.call (fld 26 w 0))

/-- Slot words of major opcode 0x03 (R64 to R67). -/
def decodeMajor03 (w : Nat) : Option Instr :=
  some (.brC (fld 4 w 22) (fld 1 w 21) (fld 21 w 0))

/-- Slot words of major opcode 0x04 (R64 to R67). -/
def decodeMajor04 (w : Nat) : Option Instr :=
  some (.brTree (fld 6 w 20) (fld 6 w 14) (fld 6 w 8) (fld 6 w 2) (fld 2 w 0))

/-- Slot words of major opcode 0x05 (R64 to R67). -/
def decodeMajor05 (w : Nat) : Option Instr :=
  if bits w 7 0 = 0 then some (.add (fld 6 w 20) (fld 6 w 14) (fld 6 w 8))
  else if bits w 7 0 = 1 then some (.sub (fld 6 w 20) (fld 6 w 14) (fld 6 w 8))
  else if bits w 7 0 = 2 then some (.mul (fld 6 w 20) (fld 6 w 14) (fld 6 w 8))
  else if bits w 7 0 = 3 then some (.mulh (fld 6 w 20) (fld 6 w 14) (fld 6 w 8))
  else if bits w 7 0 = 4 then some (.mulhn (fld 6 w 20) (fld 6 w 14) (fld 6 w 8))
  else if bits w 7 0 = 5 then some (.div (fld 6 w 20) (fld 6 w 14) (fld 6 w 8))
  else if bits w 7 0 = 6 then some (.divn (fld 6 w 20) (fld 6 w 14) (fld 6 w 8))
  else if bits w 7 0 = 7 then some (.rem (fld 6 w 20) (fld 6 w 14) (fld 6 w 8))
  else if bits w 7 0 = 8 then some (.remn (fld 6 w 20) (fld 6 w 14) (fld 6 w 8))
  else if bits w 7 0 = 9 then some (.and (fld 6 w 20) (fld 6 w 14) (fld 6 w 8))
  else if bits w 7 0 = 10 then some (.or (fld 6 w 20) (fld 6 w 14) (fld 6 w 8))
  else if bits w 7 0 = 11 then some (.xor (fld 6 w 20) (fld 6 w 14) (fld 6 w 8))
  else if bits w 7 0 = 12 then some (.andn (fld 6 w 20) (fld 6 w 14) (fld 6 w 8))
  else if bits w 7 0 = 13 then some (.shl (fld 6 w 20) (fld 6 w 14) (fld 6 w 8))
  else if bits w 7 0 = 14 then some (.shr (fld 6 w 20) (fld 6 w 14) (fld 6 w 8))
  else if bits w 7 0 = 15 then some (.sra (fld 6 w 20) (fld 6 w 14) (fld 6 w 8))
  else if bits w 7 0 = 16 then some (.rotl (fld 6 w 20) (fld 6 w 14) (fld 6 w 8))
  else if bits w 7 0 = 17 then some (.min (fld 6 w 20) (fld 6 w 14) (fld 6 w 8))
  else if bits w 7 0 = 18 then some (.max (fld 6 w 20) (fld 6 w 14) (fld 6 w 8))
  else if bits w 7 0 = 19 then some (.minn (fld 6 w 20) (fld 6 w 14) (fld 6 w 8))
  else if bits w 7 0 = 20 then some (.maxn (fld 6 w 20) (fld 6 w 14) (fld 6 w 8))
  else if bits w 13 0 = 21 then some (.clz (fld 6 w 20) (fld 6 w 14))
  else if bits w 13 0 = 22 then some (.ctz (fld 6 w 20) (fld 6 w 14))
  else if bits w 13 0 = 23 then some (.popc (fld 6 w 20) (fld 6 w 14))
  else if bits w 13 0 = 24 then some (.mov (fld 6 w 20) (fld 6 w 14))
  else if bits w 7 0 = 25 ∧ bits w 19 12 = 0 then some (.cset (fld 6 w 20) (fld 4 w 8))
  else if bits w 7 4 = 15 then some (.sel (fld 6 w 20) (fld 6 w 14) (fld 6 w 8) (fld 4 w 0))
  else none

/-- Slot words of major opcode 0x06 (R64 to R67). -/
def decodeMajor06 (w : Nat) : Option Instr :=
  some (.addi (fld 6 w 20) (fld 6 w 14) (fld 14 w 0))

/-- Slot words of major opcode 0x07 (R64 to R67). -/
def decodeMajor07 (w : Nat) : Option Instr :=
  if bits w 13 12 = 0 then some (.andi (fld 6 w 20) (fld 6 w 14) (fld 12 w 0))
  else if bits w 13 12 = 1 then some (.ori (fld 6 w 20) (fld 6 w 14) (fld 12 w 0))
  else if bits w 13 12 = 2 then some (.xori (fld 6 w 20) (fld 6 w 14) (fld 12 w 0))
  else none

/-- Slot words of major opcode 0x08 (R64 to R67). -/
def decodeMajor08 (w : Nat) : Option Instr :=
  if bits w 1 0 = 0 then some (.cmp (fld 4 w 22) (fld 4 w 18) (fld 4 w 14) (fld 6 w 8) (fld 6 w 2))
  else none

/-- Slot words of major opcode 0x09 (R64 to R67). -/
def decodeMajor09 (w : Nat) : Option Instr :=
  some (.cmpi (fld 4 w 22) (fld 4 w 18) (fld 4 w 14) (fld 6 w 8) (fld 8 w 0))

/-- Slot words of major opcode 0x0A (R64 to R67). -/
def decodeMajor0A (w : Nat) : Option Instr :=
  some (.li (fld 6 w 20) (fld 20 w 0))

/-- Slot words of major opcode 0x0B (R64 to R67). -/
def decodeMajor0B (w : Nat) : Option Instr :=
  if bits w 17 16 = 0 then some (.lih (fld 6 w 20) (fld 2 w 18) (fld 16 w 0))
  else none

/-- Slot words of major opcode 0x0C (R64 to R67). -/
def decodeMajor0C (w : Nat) : Option Instr :=
  if bits w 1 0 = 0 then some (.extr (fld 6 w 20) (fld 6 w 14) (fld 6 w 8) (fld 6 w 2))
  else if bits w 1 0 = 1 then some (.extrs (fld 6 w 20) (fld 6 w 14) (fld 6 w 8) (fld 6 w 2))
  else if bits w 1 0 = 2 then some (.ins (fld 6 w 20) (fld 6 w 14) (fld 6 w 8) (fld 6 w 2))
  else if bits w 1 0 = 3 then some (.fsh (fld 6 w 20) (fld 6 w 14) (fld 6 w 8) (fld 6 w 2))
  else none

/-- Slot words of major opcode 0x0D (R64 to R67). -/
def decodeMajor0D (w : Nat) : Option Instr :=
  if bits w 7 0 = 0 then some (.csrRd (fld 6 w 20) (fld 12 w 8))
  else if bits w 7 0 = 1 ∧ bits w 19 8 = 16 then some (.csrWrFpctl (fld 6 w 20))
  else if bits w 7 0 = 1 ∧ bits w 19 8 = 3 then some (.csrWrCtxPrio (fld 6 w 20))
  else if bits w 7 0 = 1 ∧ bits w 19 8 = 21 then some (.csrWrAccOwn (fld 6 w 20))
  else if bits w 7 0 = 1 ∧ bits w 19 8 = 22 then some (.csrWrBankRole (fld 6 w 20))
  else if bits w 7 0 = 1 then some (.csrWr (fld 6 w 20) (fld 12 w 8))
  else none

/-- Slot words of major opcode 0x0E (R64 to R67). -/
def decodeMajor0E (w : Nat) : Option Instr :=
  if bits w 23 23 = 0 then some (.setbLabel (fld 2 w 24) (fld 23 w 0))
  else if bits w 16 0 = 0 ∧ bits w 23 23 = 1 then some (.setbReg (fld 2 w 24) (fld 6 w 17))
  else none

/-- Slot words of major opcode 0x10 (R64 to R67). -/
def decodeMajor10 (w : Nat) : Option Instr :=
  if bits w 2 0 = 0 then some (.vadd (fld 5 w 21) (fld 5 w 16) (fld 5 w 11) (fld 3 w 8) (fld 5 w 3))
  else if bits w 2 0 = 1 then some (.vsub (fld 5 w 21) (fld 5 w 16) (fld 5 w 11) (fld 3 w 8) (fld 5 w 3))
  else if bits w 2 0 = 2 then some (.vmul (fld 5 w 21) (fld 5 w 16) (fld 5 w 11) (fld 3 w 8) (fld 5 w 3))
  else if bits w 2 0 = 3 then some (.vmin (fld 5 w 21) (fld 5 w 16) (fld 5 w 11) (fld 3 w 8) (fld 5 w 3))
  else if bits w 2 0 = 4 then some (.vmax (fld 5 w 21) (fld 5 w 16) (fld 5 w 11) (fld 3 w 8) (fld 5 w 3))
  else if bits w 2 0 = 5 ∧ bits w 15 11 = 0 then some (.vabs (fld 5 w 21) (fld 5 w 16) (fld 3 w 8) (fld 5 w 3))
  else if bits w 2 0 = 6 ∧ bits w 15 11 = 0 then some (.vneg (fld 5 w 21) (fld 5 w 16) (fld 3 w 8) (fld 5 w 3))
  else none

/-- Slot words of major opcode 0x11 (R64 to R67). -/
def decodeMajor11 (w : Nat) : Option Instr :=
  if bits w 2 0 = 0 then some (.vfma (fld 5 w 21) (fld 5 w 16) (fld 5 w 11) (fld 3 w 8) (fld 5 w 3))
  else if bits w 2 0 = 1 then some (.vfms (fld 5 w 21) (fld 5 w 16) (fld 5 w 11) (fld 3 w 8) (fld 5 w 3))
  else if bits w 2 0 = 2 then some (.vfnma (fld 5 w 21) (fld 5 w 16) (fld 5 w 11) (fld 3 w 8) (fld 5 w 3))
  else none

/-- Slot words of major opcode 0x12 (R64 to R67). -/
def decodeMajor12 (w : Nat) : Option Instr :=
  if bits w 2 0 = 0 ∧ bits w 15 11 = 0 then some (.vrcp (fld 5 w 21) (fld 5 w 16) (fld 3 w 8) (fld 5 w 3))
  else if bits w 2 0 = 1 ∧ bits w 15 11 = 0 then some (.vrsqrt (fld 5 w 21) (fld 5 w 16) (fld 3 w 8) (fld 5 w 3))
  else if bits w 2 0 = 2 ∧ bits w 15 11 = 0 then some (.vsqrt (fld 5 w 21) (fld 5 w 16) (fld 3 w 8) (fld 5 w 3))
  else if bits w 2 0 = 3 ∧ bits w 15 11 = 0 then some (.vexp2 (fld 5 w 21) (fld 5 w 16) (fld 3 w 8) (fld 5 w 3))
  else if bits w 2 0 = 4 ∧ bits w 15 11 = 0 then some (.vlog2 (fld 5 w 21) (fld 5 w 16) (fld 3 w 8) (fld 5 w 3))
  else none

/-- Slot words of major opcode 0x13 (R64 to R67). -/
def decodeMajor13 (w : Nat) : Option Instr :=
  if bits w 2 0 = 0 then some (.vand (fld 5 w 21) (fld 5 w 16) (fld 5 w 11) (fld 3 w 8) (fld 5 w 3))
  else if bits w 2 0 = 1 then some (.vor (fld 5 w 21) (fld 5 w 16) (fld 5 w 11) (fld 3 w 8) (fld 5 w 3))
  else if bits w 2 0 = 2 then some (.vxor (fld 5 w 21) (fld 5 w 16) (fld 5 w 11) (fld 3 w 8) (fld 5 w 3))
  else if bits w 2 0 = 3 then some (.vandn (fld 5 w 21) (fld 5 w 16) (fld 5 w 11) (fld 3 w 8) (fld 5 w 3))
  else if bits w 2 0 = 4 then some (.vshl (fld 5 w 21) (fld 5 w 16) (fld 5 w 11) (fld 3 w 8) (fld 5 w 3))
  else if bits w 2 0 = 5 then some (.vshr (fld 5 w 21) (fld 5 w 16) (fld 5 w 11) (fld 3 w 8) (fld 5 w 3))
  else if bits w 2 0 = 6 then some (.vsra (fld 5 w 21) (fld 5 w 16) (fld 5 w 11) (fld 3 w 8) (fld 5 w 3))
  else if bits w 2 0 = 7 ∧ bits w 15 11 = 0 then some (.vpopc (fld 5 w 21) (fld 5 w 16) (fld 3 w 8) (fld 5 w 3))
  else none

/-- Slot words of major opcode 0x14 (R64 to R67). -/
def decodeMajor14 (w : Nat) : Option Instr :=
  if bits w 0 0 = 0 then some (.vcmp (fld 3 w 23) (fld 4 w 19) (fld 5 w 14) (fld 5 w 9) (fld 3 w 6) (fld 5 w 1))
  else none

/-- Slot words of major opcode 0x15 (R64 to R67). -/
def decodeMajor15 (w : Nat) : Option Instr :=
  if bits w 2 0 = 0 then some (.vsel (fld 5 w 21) (fld 5 w 16) (fld 5 w 11) (fld 3 w 8) (fld 5 w 3))
  else if bits w 2 0 = 1 ∧ bits w 15 11 = 0 then some (.vmov (fld 5 w 21) (fld 5 w 16) (fld 3 w 8) (fld 5 w 3))
  else if bits w 2 0 = 2 ∧ bits w 14 11 = 0 then some (.vbcast (fld 5 w 21) (fld 6 w 15) (fld 3 w 8) (fld 5 w 3))
  else none

/-- Slot words of major opcode 0x16 (R64 to R67). -/
def decodeMajor16 (w : Nat) : Option Instr :=
  if bits w 2 0 = 0 then some (.vperm (fld 5 w 21) (fld 5 w 16) (fld 5 w 11) (fld 3 w 8) (fld 5 w 3))
  else if bits w 2 0 = 1 ∧ bits w 15 11 = 0 then some (.vredAdd (fld 5 w 21) (fld 5 w 16) (fld 3 w 8) (fld 5 w 3))
  else if bits w 2 0 = 2 ∧ bits w 15 11 = 0 then some (.vredMax (fld 5 w 21) (fld 5 w 16) (fld 3 w 8) (fld 5 w 3))
  else if bits w 2 0 = 3 ∧ bits w 15 11 = 0 then some (.vscanAdd (fld 5 w 21) (fld 5 w 16) (fld 3 w 8) (fld 5 w 3))
  else none

/-- Slot words of major opcode 0x17 (R64 to R67). -/
def decodeMajor17 (w : Nat) : Option Instr :=
  if bits w 16 0 = 0 then some (.kand (fld 3 w 23) (fld 3 w 20) (fld 3 w 17))
  else if bits w 16 0 = 1 then some (.kor (fld 3 w 23) (fld 3 w 20) (fld 3 w 17))
  else if bits w 16 0 = 2 then some (.kxor (fld 3 w 23) (fld 3 w 20) (fld 3 w 17))
  else if bits w 19 0 = 3 then some (.knot (fld 3 w 23) (fld 3 w 20))
  else if bits w 19 0 = 4 then some (.kmovKk (fld 3 w 23) (fld 3 w 20))
  else if bits w 10 0 = 5 ∧ bits w 22 17 = 0 then some (.kmovKs (fld 3 w 23) (fld 6 w 11))
  else if bits w 10 0 = 6 ∧ bits w 19 17 = 0 ∧ bits w 25 23 = 0 then some (.kmovSk (fld 3 w 20) (fld 6 w 11))
  else none

/-- Slot words of major opcode 0x18 (R64 to R67). -/
def decodeMajor18 (w : Nat) : Option Instr :=
  if bits w 2 0 = 0 then some (.vcvt (fld 5 w 21) (fld 5 w 16) (fld 5 w 11) (fld 3 w 8) (fld 5 w 3))
  else if bits w 2 0 = 1 then some (.vcvtSr (fld 5 w 21) (fld 5 w 16) (fld 5 w 11) (fld 3 w 8) (fld 5 w 3))
  else if bits w 2 0 = 2 ∧ bits w 15 11 = 0 then some (.vclass (fld 5 w 21) (fld 5 w 16) (fld 3 w 8) (fld 5 w 3))
  else none

/-- Slot words of major opcode 0x19 (R64 to R67). -/
def decodeMajor19 (w : Nat) : Option Instr :=
  if bits w 2 0 = 0 ∧ bits w 15 11 = 0 ∧ bits w 25 21 = 0 then some (.vbmax (fld 5 w 16) (fld 3 w 8) (fld 5 w 3))
  else if bits w 2 0 = 1 then some (.vquant (fld 5 w 21) (fld 5 w 16) (fld 5 w 11) (fld 3 w 8) (fld 5 w 3))
  else if bits w 2 0 = 2 then some (.vdeq (fld 5 w 21) (fld 5 w 16) (fld 5 w 11) (fld 3 w 8) (fld 5 w 3))
  else if bits w 2 0 = 3 then some (.vpack (fld 5 w 21) (fld 5 w 16) (fld 5 w 11) (fld 3 w 8) (fld 5 w 3))
  else if bits w 2 0 = 4 ∧ bits w 15 11 = 0 then some (.vunpack (fld 5 w 21) (fld 5 w 16) (fld 3 w 8) (fld 5 w 3))
  else none

/-- Slot words of major opcode 0x1A (R64 to R67). -/
def decodeMajor1A (w : Nat) : Option Instr :=
  if bits w 2 0 = 0 then some (.vextr (fld 5 w 21) (fld 5 w 16) (fld 5 w 11) (fld 3 w 8) (fld 5 w 3))
  else none

/-- Slot words of major opcode 0x1B (R64 to R67). -/
def decodeMajor1B (w : Nat) : Option Instr :=
  if bits w 2 0 = 0 ∧ bits w 20 11 = 0 then some (.vrng (fld 5 w 21) (fld 3 w 8) (fld 5 w 3))
  else none

/-- Slot words of major opcode 0x20 (R64 to R67). -/
def decodeMajor20 (w : Nat) : Option Instr :=
  if bits w 2 0 = 0 then some (.mma (fld 2 w 24) (fld 5 w 19) (fld 5 w 14) (fld 6 w 8) (fld 5 w 3))
  else if bits w 2 0 = 1 then some (.mmaZ (fld 2 w 24) (fld 5 w 19) (fld 5 w 14) (fld 6 w 8) (fld 5 w 3))
  else if bits w 2 0 = 2 then some (.mmaSp (fld 2 w 24) (fld 5 w 19) (fld 5 w 14) (fld 6 w 8) (fld 5 w 3))
  else none

/-- Slot words of major opcode 0x21 (R64 to R67). -/
def decodeMajor21 (w : Nat) : Option Instr :=
  if bits w 2 0 = 0 ∧ bits w 14 8 = 0 then some (.mpack (fld 5 w 21) (fld 6 w 15) (fld 5 w 3))
  else none

/-- Slot words of major opcode 0x22 (R64 to R67). -/
def decodeMajor22 (w : Nat) : Option Instr :=
  if bits w 17 0 = 144 then some (.mdrainA80 (fld 2 w 24) (fld 6 w 18))
  else if bits w 17 0 = 147 then some (.mzeroA80 (fld 2 w 24) (fld 6 w 18))
  else if bits w 2 0 = 0 ∧ bits w 17 8 = 0 then some (.mdrain (fld 2 w 24) (fld 6 w 18) (fld 5 w 3))
  else if bits w 2 0 = 1 ∧ bits w 23 8 = 0 then some (.mdrainByp (fld 2 w 24) (fld 5 w 3))
  else if bits w 2 0 = 2 ∧ bits w 17 8 = 0 then some (.mdrainAcc (fld 2 w 24) (fld 6 w 18) (fld 5 w 3))
  else if bits w 23 0 = 3 then some (.mzero (fld 2 w 24))
  else none

/-- Slot words of major opcode 0x23 (R64 to R67). -/
def decodeMajor23 (w : Nat) : Option Instr :=
  if bits w 2 0 = 0 ∧ bits w 19 8 = 0 then some (.mtrPut (fld 6 w 20) (fld 5 w 3))
  else if bits w 2 0 = 1 ∧ bits w 19 8 = 0 then some (.mtrGet (fld 6 w 20) (fld 5 w 3))
  else none

/-- Slot words of major opcode 0x28 (R64 to R67). -/
def decodeMajor28 (w : Nat) : Option Instr :=
  if bits w 0 0 = 0 then some (.ld (fld 6 w 20) (fld 6 w 14) (fld 10 w 4) (fld 3 w 1))
  else if bits w 0 0 = 1 then some (.st (fld 6 w 20) (fld 6 w 14) (fld 10 w 4) (fld 3 w 1))
  else none

/-- Slot words of major opcode 0x29 (R64 to R67). -/
def decodeMajor29 (w : Nat) : Option Instr :=
  if bits w 3 0 = 0 ∧ bits w 20 20 = 0 then some (.vld (fld 5 w 21) (fld 6 w 14) (fld 10 w 4))
  else if bits w 3 0 = 1 ∧ bits w 20 20 = 0 then some (.vst (fld 5 w 21) (fld 6 w 14) (fld 10 w 4))
  else if bits w 13 0 = 2 then some (.bankRole (fld 5 w 21) (fld 5 w 16) (fld 2 w 14))
  else if bits w 15 0 = 3 then some (.bankFlush (fld 5 w 21) (fld 5 w 16))
  else none

/-- Slot words of major opcode 0x2A (R64 to R67). -/
def decodeMajor2A (w : Nat) : Option Instr :=
  if bits w 0 0 = 0 then some (.ldg (fld 6 w 20) (fld 6 w 14) (fld 10 w 4) (fld 3 w 1))
  else if bits w 0 0 = 1 then some (.stg (fld 6 w 20) (fld 6 w 14) (fld 10 w 4) (fld 3 w 1))
  else none

/-- Slot words of major opcode 0x2B (R64 to R67). -/
def decodeMajor2B (w : Nat) : Option Instr :=
  if bits w 3 0 = 0 ∧ bits w 20 20 = 0 then some (.vldg (fld 5 w 21) (fld 6 w 14) (fld 10 w 4))
  else if bits w 3 0 = 1 ∧ bits w 20 20 = 0 then some (.vstg (fld 5 w 21) (fld 6 w 14) (fld 10 w 4))
  else if bits w 3 0 = 2 ∧ bits w 20 20 = 0 then some (.pref (fld 5 w 21) (fld 6 w 14) (fld 10 w 4))
  else if bits w 3 0 = 3 ∧ bits w 25 21 = 0 then some (.vldcb (fld 1 w 20) (fld 6 w 14) (fld 10 w 4))
  else none

/-- Slot words of major opcode 0x2C (R64 to R67). -/
def decodeMajor2C (w : Nat) : Option Instr :=
  some (.vldFmt (fld 5 w 21) (fld 3 w 18) (fld 6 w 12) (fld 6 w 6) (fld 6 w 0))

/-- Slot words of major opcode 0x2D (R64 to R67). -/
def decodeMajor2D (w : Nat) : Option Instr :=
  if bits w 1 0 = 0 then some (.vstFmt (fld 5 w 21) (fld 3 w 18) (fld 6 w 12) (fld 6 w 6) (fld 3 w 3) (fld 1 w 2))
  else none

/-- Slot words of major opcode 0x2E (R64 to R67). -/
def decodeMajor2E (w : Nat) : Option Instr :=
  if bits w 6 6 = 0 then some (.vgather (fld 5 w 21) (fld 6 w 15) (fld 5 w 10) (fld 3 w 7) (fld 6 w 0))
  else if bits w 6 0 = 64 then some (.vscatter (fld 5 w 21) (fld 6 w 15) (fld 5 w 10) (fld 3 w 7))
  else none

/-- Slot words of major opcode 0x2F (R64 to R67). -/
def decodeMajor2F (w : Nat) : Option Instr :=
  if bits w 3 0 = 0 then some (.ldAcq (fld 6 w 20) (fld 6 w 14) (fld 7 w 7) (fld 3 w 4))
  else if bits w 3 0 = 1 ∧ bits w 13 7 = 0 then some (.stRel (fld 6 w 20) (fld 6 w 14) (fld 3 w 4))
  else if bits w 3 0 = 2 ∧ bits w 25 7 = 0 then some (.fenceAcq (fld 3 w 4))
  else if bits w 3 0 = 3 ∧ bits w 25 7 = 0 then some (.fenceRel (fld 3 w 4))
  else if bits w 3 0 = 4 ∧ bits w 25 7 = 0 then some (.fenceFull (fld 3 w 4))
  else none

/-- Slot words of major opcode 0x30 (R64 to R67). -/
def decodeMajor30 (w : Nat) : Option Instr :=
  if bits w 3 0 = 0 then some (.amoAdd (fld 1 w 26) (fld 6 w 20) (fld 6 w 14) (fld 10 w 4))
  else if bits w 3 0 = 1 then some (.amoAnd (fld 1 w 26) (fld 6 w 20) (fld 6 w 14) (fld 10 w 4))
  else if bits w 3 0 = 2 then some (.amoOr (fld 1 w 26) (fld 6 w 20) (fld 6 w 14) (fld 10 w 4))
  else if bits w 3 0 = 3 then some (.amoXor (fld 1 w 26) (fld 6 w 20) (fld 6 w 14) (fld 10 w 4))
  else if bits w 3 0 = 4 then some (.amoMinSigned (fld 1 w 26) (fld 6 w 20) (fld 6 w 14) (fld 10 w 4))
  else if bits w 3 0 = 5 then some (.amoMaxSigned (fld 1 w 26) (fld 6 w 20) (fld 6 w 14) (fld 10 w 4))
  else if bits w 3 0 = 6 then some (.amoXchg (fld 1 w 26) (fld 6 w 20) (fld 6 w 14) (fld 10 w 4))
  else if bits w 3 0 = 7 then some (.amoCas (fld 1 w 26) (fld 6 w 20) (fld 6 w 14) (fld 10 w 4))
  else if bits w 3 0 = 8 then some (.amoFadd (fld 1 w 26) (fld 6 w 20) (fld 6 w 14) (fld 10 w 4))
  else if bits w 3 0 = 9 then some (.amoFmin (fld 1 w 26) (fld 6 w 20) (fld 6 w 14) (fld 10 w 4))
  else if bits w 3 0 = 10 then some (.amoFmax (fld 1 w 26) (fld 6 w 20) (fld 6 w 14) (fld 10 w 4))
  else if bits w 3 0 = 11 then some (.amoMinUnsigned (fld 1 w 26) (fld 6 w 20) (fld 6 w 14) (fld 10 w 4))
  else if bits w 3 0 = 12 then some (.amoMaxUnsigned (fld 1 w 26) (fld 6 w 20) (fld 6 w 14) (fld 10 w 4))
  else none

/-- Slot words of major opcode 0x31 (R64 to R67). -/
def decodeMajor31 (w : Nat) : Option Instr :=
  if bits w 3 0 = 0 then some (.amoAdd (fld 1 w 26) (fld 6 w 20) (fld 6 w 14) (fld 10 w 4))
  else if bits w 3 0 = 1 then some (.amoAnd (fld 1 w 26) (fld 6 w 20) (fld 6 w 14) (fld 10 w 4))
  else if bits w 3 0 = 2 then some (.amoOr (fld 1 w 26) (fld 6 w 20) (fld 6 w 14) (fld 10 w 4))
  else if bits w 3 0 = 3 then some (.amoXor (fld 1 w 26) (fld 6 w 20) (fld 6 w 14) (fld 10 w 4))
  else if bits w 3 0 = 4 then some (.amoMinSigned (fld 1 w 26) (fld 6 w 20) (fld 6 w 14) (fld 10 w 4))
  else if bits w 3 0 = 5 then some (.amoMaxSigned (fld 1 w 26) (fld 6 w 20) (fld 6 w 14) (fld 10 w 4))
  else if bits w 3 0 = 6 then some (.amoXchg (fld 1 w 26) (fld 6 w 20) (fld 6 w 14) (fld 10 w 4))
  else if bits w 3 0 = 7 then some (.amoCas (fld 1 w 26) (fld 6 w 20) (fld 6 w 14) (fld 10 w 4))
  else if bits w 3 0 = 8 then some (.amoFadd (fld 1 w 26) (fld 6 w 20) (fld 6 w 14) (fld 10 w 4))
  else if bits w 3 0 = 9 then some (.amoFmin (fld 1 w 26) (fld 6 w 20) (fld 6 w 14) (fld 10 w 4))
  else if bits w 3 0 = 10 then some (.amoFmax (fld 1 w 26) (fld 6 w 20) (fld 6 w 14) (fld 10 w 4))
  else if bits w 3 0 = 11 then some (.amoMinUnsigned (fld 1 w 26) (fld 6 w 20) (fld 6 w 14) (fld 10 w 4))
  else if bits w 3 0 = 12 then some (.amoMaxUnsigned (fld 1 w 26) (fld 6 w 20) (fld 6 w 14) (fld 10 w 4))
  else none

/-- Slot words of major opcode 0x32 (R64 to R67). -/
def decodeMajor32 (w : Nat) : Option Instr :=
  if bits w 9 0 = 0 ∧ bits w 25 20 = 0 then some (.sig (fld 6 w 14) (fld 4 w 10))
  else if bits w 13 0 = 1 then some (.barInit (fld 6 w 20) (fld 6 w 14))
  else if bits w 13 0 = 2 ∧ bits w 25 20 = 0 then some (.barArrive (fld 6 w 14))
  else if bits w 13 0 = 3 ∧ bits w 25 20 = 0 then some (.barWait (fld 6 w 14))
  else if bits w 9 0 = 4 then some (.waitw (fld 6 w 20) (fld 6 w 14) (fld 4 w 10))
  else if bits w 13 0 = 5 then some (.roundWait (fld 6 w 20) (fld 6 w 14))
  else if bits w 13 0 = 6 then some (.roundPin (fld 6 w 20) (fld 6 w 14))
  else if bits w 3 0 = 7 then some (.ntile (fld 6 w 20) (fld 6 w 14) (fld 10 w 4))
  else if bits w 3 0 = 8 then some (.basinQ (fld 6 w 20) (fld 6 w 14) (fld 10 w 4))
  else none

/-- Slot words of major opcode 0x33 (R64 to R67). -/
def decodeMajor33 (w : Nat) : Option Instr :=
  if bits w 16 0 = 0 then some (.ringDef (fld 6 w 20) (fld 3 w 17))
  else if bits w 16 0 = 1 ∧ bits w 25 20 = 0 then some (.ringPut (fld 3 w 17))
  else if bits w 16 0 = 2 ∧ bits w 25 20 = 0 then some (.ringTake (fld 3 w 17))
  else if bits w 12 0 = 3 then some (.ringPtr (fld 6 w 20) (fld 3 w 17) (fld 4 w 13))
  else if bits w 12 0 = 4 then some (.aguSet (fld 6 w 20) (fld 3 w 17) (fld 4 w 13))
  else none

/-- Slot words of major opcode 0x34 (R64 to R67). -/
def decodeMajor34 (w : Nat) : Option Instr :=
  if bits w 0 0 = 0 then some (.ringLd (fld 6 w 20) (fld 3 w 17) (fld 4 w 13) (fld 9 w 4) (fld 3 w 1))
  else if bits w 0 0 = 1 then some (.ringSt (fld 6 w 20) (fld 3 w 17) (fld 4 w 13) (fld 9 w 4) (fld 3 w 1))
  else none

/-- Slot words of major opcode 0x35 (R64 to R67). -/
def decodeMajor35 (w : Nat) : Option Instr :=
  if bits w 3 0 = 0 ∧ bits w 20 20 = 0 then some (.ringVld (fld 5 w 21) (fld 3 w 17) (fld 4 w 13) (fld 9 w 4))
  else if bits w 3 0 = 1 ∧ bits w 20 20 = 0 then some (.ringVst (fld 5 w 21) (fld 3 w 17) (fld 4 w 13) (fld 9 w 4))
  else none

/-- Slot words of major opcode 0x36 (R64 to R67). -/
def decodeMajor36 (w : Nat) : Option Instr :=
  if bits w 0 0 = 0 then some (.accw (fld 5 w 21) (fld 6 w 15) (fld 12 w 3) (fld 1 w 2) (fld 1 w 1))
  else if bits w 2 0 = 1 then some (.rsscat (fld 5 w 21) (fld 6 w 15) (fld 5 w 10) (fld 3 w 7) (fld 4 w 3))
  else none

/-- Slot words of major opcode 0x37 (R64 to R67). -/
def decodeMajor37 (w : Nat) : Option Instr :=
  some (.rsld (fld 5 w 21) (fld 6 w 15) (fld 5 w 10) (fld 3 w 7) (fld 4 w 3) (fld 3 w 0))

/-- Slot words of major opcode 0x38 (R64 to R67). -/
def decodeMajor38 (w : Nat) : Option Instr :=
  if bits w 7 0 = 0 then some (.syncHeader (fld 16 w 10) (fld 1 w 9) (fld 1 w 8))
  else none

/-- Slot words of major opcode 0x39 (R64 to R67). -/
def decodeMajor39 (w : Nat) : Option Instr :=
  some (.lendHeader (fld 9 w 17) (fld 9 w 8) (fld 8 w 0))

/-- Slot words of major opcode 0x3A (R64 to R67). -/
def decodeMajor3A (w : Nat) : Option Instr :=
  some (.treeHeader (fld 4 w 22) (fld 4 w 18) (fld 4 w 14) (fld 4 w 10) (fld 5 w 5) (fld 5 w 0))

/-- The instruction a 32-bit slot word's fields name, before the checks of `Instr.wf`; `none` where no format fits. -/
def decodeSlotRaw (w : Nat) : Option Instr :=
  match w / 2 ^ 26 % 64 with
  | 0 => decodeMajor00 w
  | 1 => decodeMajor01 w
  | 2 => decodeMajor02 w
  | 3 => decodeMajor03 w
  | 4 => decodeMajor04 w
  | 5 => decodeMajor05 w
  | 6 => decodeMajor06 w
  | 7 => decodeMajor07 w
  | 8 => decodeMajor08 w
  | 9 => decodeMajor09 w
  | 10 => decodeMajor0A w
  | 11 => decodeMajor0B w
  | 12 => decodeMajor0C w
  | 13 => decodeMajor0D w
  | 14 => decodeMajor0E w
  | 16 => decodeMajor10 w
  | 17 => decodeMajor11 w
  | 18 => decodeMajor12 w
  | 19 => decodeMajor13 w
  | 20 => decodeMajor14 w
  | 21 => decodeMajor15 w
  | 22 => decodeMajor16 w
  | 23 => decodeMajor17 w
  | 24 => decodeMajor18 w
  | 25 => decodeMajor19 w
  | 26 => decodeMajor1A w
  | 27 => decodeMajor1B w
  | 32 => decodeMajor20 w
  | 33 => decodeMajor21 w
  | 34 => decodeMajor22 w
  | 35 => decodeMajor23 w
  | 40 => decodeMajor28 w
  | 41 => decodeMajor29 w
  | 42 => decodeMajor2A w
  | 43 => decodeMajor2B w
  | 44 => decodeMajor2C w
  | 45 => decodeMajor2D w
  | 46 => decodeMajor2E w
  | 47 => decodeMajor2F w
  | 48 => decodeMajor30 w
  | 49 => decodeMajor31 w
  | 50 => decodeMajor32 w
  | 51 => decodeMajor33 w
  | 52 => decodeMajor34 w
  | 53 => decodeMajor35 w
  | 54 => decodeMajor36 w
  | 55 => decodeMajor37 w
  | 56 => decodeMajor38 w
  | 57 => decodeMajor39 w
  | 58 => decodeMajor3A w
  | _ => none

/-- The reserved majors of R53; the header majors 0b111011 to 0b111111 are no operation either (R50). -/
def reservedMajorCode (m : Nat) : Bool := m == 15 || (28 ≤ m && m ≤ 31) || (36 ≤ m && m ≤ 39) || 59 ≤ m

/-- Decode a 32-bit slot word, rejecting by name (R53). -/
def decodeSlot (w : Nat) : Except DecodeError Instr :=
  match decodeSlotRaw w with
  | some i => if i.wf then .ok i else .error .badField
  | none => .error (if reservedMajorCode (w / 2 ^ 26 % 64) then .reservedMajor else .reservedMinor)

/-- The ranges of bits that the format of a slot word's operation marks 0 (R63 to R67), as highest and lowest bit. -/
def zeroRanges (w : Nat) : List (Nat × Nat) :=
  let f3 := bits w 2 0
  match w / 2 ^ 26 % 64 with
  | 0x00 =>
    (match bits w 7 0 with
     | 3 => [(25, 10)]
     | 4 => [(25, 20), (13, 8)]
     | 5 => [(25, 20), (13, 8)]
     | 8 => [(25, 14)]
     | 10 => [(25, 14)]
     | 12 => [(19, 10)]
     | 16 => [(9, 8)]
     | 17 => [(9, 8)]
     | 18 => []
     | _ => [(25, 8)])
  | 0x05 => if bits w 7 0 = 25 then [(19, 12)] else if 21 ≤ bits w 7 0 ∧ bits w 7 0 ≤ 24 then [(13, 8)] else []
  | 0x08 => [(1, 0)]
  | 0x0B => [(17, 16)]
  | 0x0D => [(7, 1)]
  | 0x0E => if bit w 23 then [(16, 0)] else []
  | 0x10 => if f3 = 5 ∨ f3 = 6 then [(15, 11)] else []
  | 0x12 => [(15, 11)]
  | 0x13 => if f3 = 7 then [(15, 11)] else []
  | 0x14 => [(0, 0)]
  | 0x15 => if f3 = 1 then [(15, 11)] else if f3 = 2 then [(14, 11)] else []
  | 0x16 => if f3 = 0 then [] else [(15, 11)]
  | 0x17 => if f3 ≤ 2 then [(16, 3)] else if f3 ≤ 4 then [(19, 3)] else if f3 = 5 then [(22, 17), (10, 3)] else [(25, 23), (19, 17), (10, 3)]
  | 0x18 => if f3 = 2 then [(15, 11)] else []
  | 0x19 => if f3 = 0 then [(25, 21), (15, 11)] else if f3 = 4 then [(15, 11)] else []
  | 0x1B => [(20, 11)]
  | 0x21 => [(14, 8)]
  | 0x22 => if f3 = 1 then [(23, 8)] else if f3 = 3 ∧ bits w 7 3 ≠ 18 then [(23, 3)] else [(17, 8)]
  | 0x23 => [(19, 8)]
  | 0x29 => if bits w 3 0 ≤ 1 then [(20, 20)] else if bits w 3 0 = 2 then [(13, 4)] else [(15, 4)]
  | 0x2B => if bits w 3 0 ≤ 2 then [(20, 20)] else [(25, 21)]
  | 0x2D => [(1, 0)]
  | 0x2E => if bit w 6 then [(5, 0)] else []
  | 0x2F => if f3 = 0 then [(3, 3)] else if f3 = 1 then [(13, 7), (3, 3)] else [(25, 7), (3, 3)]
  | 0x32 =>
    (match bits w 3 0 with
     | 0 => [(25, 20), (9, 4)]
     | 2 => [(25, 20), (13, 4)]
     | 3 => [(25, 20), (13, 4)]
     | 4 => [(9, 4)]
     | 7 => []
     | 8 => []
     | _ => [(13, 4)])
  | 0x33 => if f3 = 0 then [(16, 3)] else if f3 ≤ 2 then [(25, 20), (16, 3)] else [(12, 3)]
  | 0x35 => [(20, 20), (3, 1)]
  | 0x36 => if bit w 0 then [(2, 1)] else []
  | 0x38 => [(7, 0)]
  | _ => []

/-- The operation that a slot word's major and minor codes name, whatever its other fields hold: what the bundle checks of R50 and R51
look at, which come before any slot is decoded (R52). -/
def operationOf (w : Nat) : Option Instr :=
  decodeSlotRaw ((zeroRanges w).foldl (fun w r => w - bits w r.1 r.2 * 2 ^ r.2) w)

/-- The fields of format DR (R316). -/
def drOf (w : Nat) : DrFields :=
  { dd := fld 5 w 45, da := fld 5 w 40, db := fld 5 w 35, dc := fld 5 w 30, q := fld 2 w 28, qn := fld 1 w 27, rnd := fld 3 w 24, sat := fld 1 w 23, m := fld 2 w 21, ei := fld 4 w 17 }

/-- The delta instruction a 64-bit word's fields name, before the checks of `Instr.wf` (R316, R317). -/
def decodeDeltaRaw (w : Nat) : Option Instr :=
  match w / 2 ^ 56 % 256 with
  | 1 => if bits w 16 0 = 0 then some (.dadd (fld 6 w 50) (drOf w)) else none
  | 2 => if bits w 16 0 = 0 then some (.dsub (fld 6 w 50) (drOf w)) else none
  | 3 => if bits w 16 0 = 0 then some (.dmul (fld 6 w 50) (drOf w)) else none
  | 4 => if bits w 16 0 = 0 then some (.dfma (fld 6 w 50) (drOf w)) else none
  | 5 => if bits w 16 0 = 0 then some (.dmin (fld 6 w 50) (drOf w)) else none
  | 6 => if bits w 16 0 = 0 then some (.dmax (fld 6 w 50) (drOf w)) else none
  | 7 => if bits w 16 0 = 0 then some (.dabs (fld 6 w 50) (drOf w)) else none
  | 8 => if bits w 16 0 = 0 then some (.dneg (fld 6 w 50) (drOf w)) else none
  | 9 => if bits w 16 0 = 0 then some (.drcp (fld 6 w 50) (drOf w)) else none
  | 10 => if bits w 16 0 = 0 then some (.drsqrt (fld 6 w 50) (drOf w)) else none
  | 11 => if bits w 16 0 = 0 then some (.dsqrt (fld 6 w 50) (drOf w)) else none
  | 12 => if bits w 16 0 = 0 then some (.dsel (fld 6 w 50) (drOf w)) else none
  | 13 => if bits w 26 0 = 0 ∧ bits w 30 30 = 0 ∧ bits w 47 45 = 0 then some (.dcmp (fld 6 w 50) (fld 2 w 48) (fld 5 w 40) (fld 5 w 35) (fld 4 w 31) (fld 2 w 28) (fld 1 w 27)) else none
  | 14 => if bits w 34 34 = 0 ∧ bits w 16 0 = 0 ∧ bits w 33 27 = 0 then some (.dcvtTo (fld 6 w 50) (fld 5 w 45) (fld 5 w 40) (fld 5 w 35) (fld 3 w 24) (fld 1 w 23) (fld 2 w 21) (fld 4 w 17)) else if bits w 34 34 = 1 ∧ bits w 16 0 = 0 ∧ bits w 33 27 = 0 then some (.dcvtFrom (fld 6 w 50) (fld 5 w 45) (fld 5 w 40) (fld 5 w 35) (fld 3 w 24) (fld 1 w 23) (fld 2 w 21) (fld 4 w 17)) else none
  | 15 => if bits w 16 0 = 0 then some (.drng (fld 6 w 50) (drOf w)) else none
  | 16 => if bits w 16 0 = 0 then some (.dsum (fld 6 w 50) (drOf w)) else none
  | 17 => if bits w 16 0 = 0 then some (.dsq (fld 6 w 50) (drOf w)) else none
  | 18 => if bits w 16 0 = 0 then some (.dbcast (fld 6 w 50) (drOf w)) else none
  | 32 => if bits w 4 0 = 0 then some (.eadd (fld 6 w 50) (fld 4 w 46) (fld 4 w 42) (fld 4 w 38) (fld 1 w 37) (fld 32 w 5)) else none
  | 33 => if bits w 4 0 = 0 then some (.emul (fld 6 w 50) (fld 4 w 46) (fld 4 w 42) (fld 4 w 38) (fld 1 w 37) (fld 32 w 5)) else none
  | 34 => if bits w 45 40 = 0 then some (.eli (fld 6 w 50) (fld 4 w 46) (fld 40 w 0)) else none
  | 35 => if bits w 37 13 = 0 then some (.ebr (fld 6 w 50) (fld 4 w 46) (fld 4 w 42) (fld 4 w 38) (fld 13 w 0)) else none
  | 36 => if bits w 49 13 = 0 then some (.ejmp (fld 6 w 50) (fld 13 w 0)) else none
  | 37 => if bits w 45 13 = 0 then some (.eloop (fld 6 w 50) (fld 4 w 46) (fld 13 w 0)) else none
  | 38 => if bits w 41 0 = 0 then some (.eld (fld 6 w 50) (fld 4 w 46) (fld 4 w 42)) else none
  | 48 => if bits w 33 0 = 0 then some (.dld (fld 6 w 50) (fld 5 w 45) (fld 4 w 41) (fld 4 w 37) (fld 3 w 34)) else none
  | 49 => if bits w 33 0 = 0 then some (.dldb (fld 6 w 50) (fld 5 w 45) (fld 4 w 41) (fld 4 w 37) (fld 3 w 34)) else none
  | 50 => if bits w 33 0 = 0 then some (.dst (fld 6 w 50) (fld 5 w 45) (fld 4 w 41) (fld 4 w 37) (fld 3 w 34)) else none
  | 51 => if bits w 49 49 = 0 ∧ bits w 48 0 = 0 then some (.dwait (fld 6 w 50)) else if bits w 49 49 = 1 ∧ bits w 31 0 = 0 ∧ bits w 48 48 = 0 then some (.dwaitExt (fld 6 w 50) (fld 16 w 32)) else none
  | 52 => if bits w 33 0 = 0 ∧ bits w 49 45 = 0 then some (.dlock (fld 6 w 50) (fld 4 w 41) (fld 4 w 37) (fld 3 w 34)) else none
  | 53 => if bits w 33 0 = 0 ∧ bits w 49 45 = 0 then some (.dunlock (fld 6 w 50) (fld 4 w 41) (fld 4 w 37) (fld 3 w 34)) else none
  | 64 => if bits w 41 0 = 0 then some (.dpub (fld 6 w 50) (fld 4 w 46) (fld 4 w 42)) else none
  | 65 => if bits w 33 33 = 0 ∧ bits w 32 0 = 0 then some (.dpush (fld 6 w 50) (fld 5 w 45) (fld 4 w 41) (fld 4 w 37) (fld 3 w 34)) else if bits w 33 33 = 1 ∧ bits w 32 0 = 0 then some (.dpushAcc (fld 6 w 50) (fld 5 w 45) (fld 4 w 41) (fld 4 w 37) (fld 3 w 34)) else none
  | 66 => if bits w 49 49 = 0 ∧ bits w 36 0 = 0 then some (.dsig (fld 6 w 50) (fld 4 w 45) (fld 4 w 41) (fld 4 w 37)) else if bits w 49 49 = 1 ∧ bits w 36 0 = 0 then some (.dsigSt (fld 6 w 50) (fld 4 w 45) (fld 4 w 41) (fld 4 w 37)) else none
  | 67 => if bits w 49 0 = 0 then some (.dhalt (fld 6 w 50)) else none
  | _ => none

/-- Decode a 64-bit delta word, rejecting by name; every rejection is kind ILLEGAL (R313, R317). -/
def decodeDelta (w : Nat) : Except DecodeError Instr :=
  match decodeDeltaRaw w with
  | some i => if i.wf then .ok i else .error .badField
  | none => .error .reservedMinor

/-- A field's value at bit `lo`. -/
def pk {n : Nat} (v : BitVec n) (lo : Nat) : Nat := v.toNat * 2 ^ lo

/-- The word of the DR fields (R316). -/
def DrFields.word (f : DrFields) : Nat :=
  pk f.dd 45 + pk f.da 40 + pk f.db 35 + pk f.dc 30 + pk f.q 28 + pk f.qn 27 + pk f.rnd 24 + pk f.sat 23 + pk f.m 21 + pk f.ei 17

/-- The word of an instruction and how many bits it has: 32 for a slot operation, 64 for a delta operation, `none` for a
step of another agent, which has no encoding. `rsscatClose` is written as `rsscat` is (R303). -/
def encode (i : Instr) : Option (Nat × Nat) :=
  match i with
  | .prio l => some (32, 3 + pk l 8)
  | .jmpi a => some (32, 4 + pk a 14)
  | .calli a => some (32, 5 + pk a 14)
  | .trap c => some (32, 8 + pk c 8)
  | .brk c => some (32, 10 + pk c 8)
  | .evlogRd d s => some (32, 12 + pk d 20 + pk s 8)
  | .fset m => some (32, 16 + pk m 10)
  | .fclr m => some (32, 17 + pk m 10)
  | .fwait m y c => some (32, 18 + pk m 10 + pk y 9 + pk c 8)
  | .jmp o => some (32, 67108864 + pk o 0)
  | .call o => some (32, 134217728 + pk o 0)
  | .brC c n o => some (32, 201326592 + pk c 22 + pk n 21 + pk o 0)
  | .brTree a b c d n => some (32, 268435456 + pk a 20 + pk b 14 + pk c 8 + pk d 2 + pk n 0)
  | .add d a b => some (32, 335544320 + pk d 20 + pk a 14 + pk b 8)
  | .sub d a b => some (32, 335544321 + pk d 20 + pk a 14 + pk b 8)
  | .mul d a b => some (32, 335544322 + pk d 20 + pk a 14 + pk b 8)
  | .mulh d a b => some (32, 335544323 + pk d 20 + pk a 14 + pk b 8)
  | .mulhn d a b => some (32, 335544324 + pk d 20 + pk a 14 + pk b 8)
  | .div d a b => some (32, 335544325 + pk d 20 + pk a 14 + pk b 8)
  | .divn d a b => some (32, 335544326 + pk d 20 + pk a 14 + pk b 8)
  | .rem d a b => some (32, 335544327 + pk d 20 + pk a 14 + pk b 8)
  | .remn d a b => some (32, 335544328 + pk d 20 + pk a 14 + pk b 8)
  | .and d a b => some (32, 335544329 + pk d 20 + pk a 14 + pk b 8)
  | .or d a b => some (32, 335544330 + pk d 20 + pk a 14 + pk b 8)
  | .xor d a b => some (32, 335544331 + pk d 20 + pk a 14 + pk b 8)
  | .andn d a b => some (32, 335544332 + pk d 20 + pk a 14 + pk b 8)
  | .shl d a b => some (32, 335544333 + pk d 20 + pk a 14 + pk b 8)
  | .shr d a b => some (32, 335544334 + pk d 20 + pk a 14 + pk b 8)
  | .sra d a b => some (32, 335544335 + pk d 20 + pk a 14 + pk b 8)
  | .rotl d a b => some (32, 335544336 + pk d 20 + pk a 14 + pk b 8)
  | .min d a b => some (32, 335544337 + pk d 20 + pk a 14 + pk b 8)
  | .max d a b => some (32, 335544338 + pk d 20 + pk a 14 + pk b 8)
  | .minn d a b => some (32, 335544339 + pk d 20 + pk a 14 + pk b 8)
  | .maxn d a b => some (32, 335544340 + pk d 20 + pk a 14 + pk b 8)
  | .clz d a => some (32, 335544341 + pk d 20 + pk a 14)
  | .ctz d a => some (32, 335544342 + pk d 20 + pk a 14)
  | .popc d a => some (32, 335544343 + pk d 20 + pk a 14)
  | .mov d a => some (32, 335544344 + pk d 20 + pk a 14)
  | .cset d n => some (32, 335544345 + pk d 20 + pk n 8)
  | .sel d a b n => some (32, 335544560 + pk d 20 + pk a 14 + pk b 8 + pk n 0)
  | .addi d a i => some (32, 402653184 + pk d 20 + pk a 14 + pk i 0)
  | .andi d a i => some (32, 469762048 + pk d 20 + pk a 14 + pk i 0)
  | .ori d a i => some (32, 469766144 + pk d 20 + pk a 14 + pk i 0)
  | .xori d a i => some (32, 469770240 + pk d 20 + pk a 14 + pk i 0)
  | .cmp d x c a b => some (32, 536870912 + pk d 22 + pk x 18 + pk c 14 + pk a 8 + pk b 2)
  | .cmpi d x c a i => some (32, 603979776 + pk d 22 + pk x 18 + pk c 14 + pk a 8 + pk i 0)
  | .li d i => some (32, 671088640 + pk d 20 + pk i 0)
  | .lih d q i => some (32, 738197504 + pk d 20 + pk q 18 + pk i 0)
  | .extr d a p l => some (32, 805306368 + pk d 20 + pk a 14 + pk p 8 + pk l 2)
  | .extrs d a p l => some (32, 805306369 + pk d 20 + pk a 14 + pk p 8 + pk l 2)
  | .ins d a p l => some (32, 805306370 + pk d 20 + pk a 14 + pk p 8 + pk l 2)
  | .fsh d a b c => some (32, 805306371 + pk d 20 + pk a 14 + pk b 8 + pk c 2)
  | .csrRd s n => some (32, 872415232 + pk s 20 + pk n 8)
  | .csrWr s n => some (32, 872415233 + pk s 20 + pk n 8)
  | .csrWrFpctl s => some (32, 872419329 + pk s 20)
  | .csrWrCtxPrio s => some (32, 872416001 + pk s 20)
  | .csrWrAccOwn s => some (32, 872420609 + pk s 20)
  | .csrWrBankRole s => some (32, 872420865 + pk s 20)
  | .setbLabel b o => some (32, 939524096 + pk b 24 + pk o 0)
  | .setbReg b a => some (32, 947912704 + pk b 24 + pk a 17)
  | .syncHeader m y c => some (32, 3758096384 + pk m 10 + pk y 9 + pk c 8)
  | .lendHeader a b c => some (32, 3825205248 + pk a 17 + pk b 8 + pk c 0)
  | .treeHeader a b c d x y => some (32, 3892314112 + pk a 22 + pk b 18 + pk c 14 + pk d 10 + pk x 5 + pk y 0)
  | .vadd d a b k t => some (32, 1073741824 + pk d 21 + pk a 16 + pk b 11 + pk k 8 + pk t 3)
  | .vsub d a b k t => some (32, 1073741825 + pk d 21 + pk a 16 + pk b 11 + pk k 8 + pk t 3)
  | .vmul d a b k t => some (32, 1073741826 + pk d 21 + pk a 16 + pk b 11 + pk k 8 + pk t 3)
  | .vmin d a b k t => some (32, 1073741827 + pk d 21 + pk a 16 + pk b 11 + pk k 8 + pk t 3)
  | .vmax d a b k t => some (32, 1073741828 + pk d 21 + pk a 16 + pk b 11 + pk k 8 + pk t 3)
  | .vabs d a k t => some (32, 1073741829 + pk d 21 + pk a 16 + pk k 8 + pk t 3)
  | .vneg d a k t => some (32, 1073741830 + pk d 21 + pk a 16 + pk k 8 + pk t 3)
  | .vfma d a b k t => some (32, 1140850688 + pk d 21 + pk a 16 + pk b 11 + pk k 8 + pk t 3)
  | .vfms d a b k t => some (32, 1140850689 + pk d 21 + pk a 16 + pk b 11 + pk k 8 + pk t 3)
  | .vfnma d a b k t => some (32, 1140850690 + pk d 21 + pk a 16 + pk b 11 + pk k 8 + pk t 3)
  | .vrcp d a k t => some (32, 1207959552 + pk d 21 + pk a 16 + pk k 8 + pk t 3)
  | .vrsqrt d a k t => some (32, 1207959553 + pk d 21 + pk a 16 + pk k 8 + pk t 3)
  | .vsqrt d a k t => some (32, 1207959554 + pk d 21 + pk a 16 + pk k 8 + pk t 3)
  | .vexp2 d a k t => some (32, 1207959555 + pk d 21 + pk a 16 + pk k 8 + pk t 3)
  | .vlog2 d a k t => some (32, 1207959556 + pk d 21 + pk a 16 + pk k 8 + pk t 3)
  | .vand d a b k t => some (32, 1275068416 + pk d 21 + pk a 16 + pk b 11 + pk k 8 + pk t 3)
  | .vor d a b k t => some (32, 1275068417 + pk d 21 + pk a 16 + pk b 11 + pk k 8 + pk t 3)
  | .vxor d a b k t => some (32, 1275068418 + pk d 21 + pk a 16 + pk b 11 + pk k 8 + pk t 3)
  | .vandn d a b k t => some (32, 1275068419 + pk d 21 + pk a 16 + pk b 11 + pk k 8 + pk t 3)
  | .vshl d a b k t => some (32, 1275068420 + pk d 21 + pk a 16 + pk b 11 + pk k 8 + pk t 3)
  | .vshr d a b k t => some (32, 1275068421 + pk d 21 + pk a 16 + pk b 11 + pk k 8 + pk t 3)
  | .vsra d a b k t => some (32, 1275068422 + pk d 21 + pk a 16 + pk b 11 + pk k 8 + pk t 3)
  | .vpopc d a k t => some (32, 1275068423 + pk d 21 + pk a 16 + pk k 8 + pk t 3)
  | .vcmp d c a b k t => some (32, 1342177280 + pk d 23 + pk c 19 + pk a 14 + pk b 9 + pk k 6 + pk t 1)
  | .vsel d a b k t => some (32, 1409286144 + pk d 21 + pk a 16 + pk b 11 + pk k 8 + pk t 3)
  | .vmov d a k t => some (32, 1409286145 + pk d 21 + pk a 16 + pk k 8 + pk t 3)
  | .vbcast d s k t => some (32, 1409286146 + pk d 21 + pk s 15 + pk k 8 + pk t 3)
  | .vperm d a b k t => some (32, 1476395008 + pk d 21 + pk a 16 + pk b 11 + pk k 8 + pk t 3)
  | .vredAdd d a k t => some (32, 1476395009 + pk d 21 + pk a 16 + pk k 8 + pk t 3)
  | .vredMax d a k t => some (32, 1476395010 + pk d 21 + pk a 16 + pk k 8 + pk t 3)
  | .vscanAdd d a k t => some (32, 1476395011 + pk d 21 + pk a 16 + pk k 8 + pk t 3)
  | .kand d a b => some (32, 1543503872 + pk d 23 + pk a 20 + pk b 17)
  | .kor d a b => some (32, 1543503873 + pk d 23 + pk a 20 + pk b 17)
  | .kxor d a b => some (32, 1543503874 + pk d 23 + pk a 20 + pk b 17)
  | .knot d a => some (32, 1543503875 + pk d 23 + pk a 20)
  | .kmovKk d a => some (32, 1543503876 + pk d 23 + pk a 20)
  | .kmovKs d s => some (32, 1543503877 + pk d 23 + pk s 11)
  | .kmovSk a s => some (32, 1543503878 + pk a 20 + pk s 11)
  | .vcvt d a x k y => some (32, 1610612736 + pk d 21 + pk a 16 + pk x 11 + pk k 8 + pk y 3)
  | .vcvtSr d a x k y => some (32, 1610612737 + pk d 21 + pk a 16 + pk x 11 + pk k 8 + pk y 3)
  | .vclass d a k y => some (32, 1610612738 + pk d 21 + pk a 16 + pk k 8 + pk y 3)
  | .vbmax a k t => some (32, 1677721600 + pk a 16 + pk k 8 + pk t 3)
  | .vquant d a b k t => some (32, 1677721601 + pk d 21 + pk a 16 + pk b 11 + pk k 8 + pk t 3)
  | .vdeq d a b k t => some (32, 1677721602 + pk d 21 + pk a 16 + pk b 11 + pk k 8 + pk t 3)
  | .vpack d a b k t => some (32, 1677721603 + pk d 21 + pk a 16 + pk b 11 + pk k 8 + pk t 3)
  | .vunpack d a k t => some (32, 1677721604 + pk d 21 + pk a 16 + pk k 8 + pk t 3)
  | .vextr d a p k l => some (32, 1744830464 + pk d 21 + pk a 16 + pk p 11 + pk k 8 + pk l 3)
  | .vrng d k t => some (32, 1811939328 + pk d 21 + pk k 8 + pk t 3)
  | .mma a x y p t => some (32, 2147483648 + pk a 24 + pk x 19 + pk y 14 + pk p 8 + pk t 3)
  | .mmaZ a x y p t => some (32, 2147483649 + pk a 24 + pk x 19 + pk y 14 + pk p 8 + pk t 3)
  | .mmaSp a x y p t => some (32, 2147483650 + pk a 24 + pk x 19 + pk y 14 + pk p 8 + pk t 3)
  | .mpack b a t => some (32, 2214592512 + pk b 21 + pk a 15 + pk t 3)
  | .mdrain a s t => some (32, 2281701376 + pk a 24 + pk s 18 + pk t 3)
  | .mdrainByp a t => some (32, 2281701377 + pk a 24 + pk t 3)
  | .mdrainAcc a s t => some (32, 2281701378 + pk a 24 + pk s 18 + pk t 3)
  | .mzero a => some (32, 2281701379 + pk a 24)
  | .mdrainA80 a s => some (32, 2281701520 + pk a 24 + pk s 18)
  | .mzeroA80 a s => some (32, 2281701523 + pk a 24 + pk s 18)
  | .mtrPut s t => some (32, 2348810240 + pk s 20 + pk t 3)
  | .mtrGet s t => some (32, 2348810241 + pk s 20 + pk t 3)
  | .ld s a o z => some (32, 2684354560 + pk s 20 + pk a 14 + pk o 4 + pk z 1)
  | .st s a o z => some (32, 2684354561 + pk s 20 + pk a 14 + pk o 4 + pk z 1)
  | .vld v a o => some (32, 2751463424 + pk v 21 + pk a 14 + pk o 4)
  | .vst v a o => some (32, 2751463425 + pk v 21 + pk a 14 + pk o 4)
  | .bankRole f c r => some (32, 2751463426 + pk f 21 + pk c 16 + pk r 14)
  | .bankFlush f c => some (32, 2751463427 + pk f 21 + pk c 16)
  | .ldg s a d z => some (32, 2818572288 + pk s 20 + pk a 14 + pk d 4 + pk z 1)
  | .stg s a o z => some (32, 2818572289 + pk s 20 + pk a 14 + pk o 4 + pk z 1)
  | .vldg v a d => some (32, 2885681152 + pk v 21 + pk a 14 + pk d 4)
  | .vstg v a o => some (32, 2885681153 + pk v 21 + pk a 14 + pk o 4)
  | .pref l a o => some (32, 2885681154 + pk l 21 + pk a 14 + pk o 4)
  | .vldcb x a d => some (32, 2885681155 + pk x 20 + pk a 14 + pk d 4)
  | .vldFmt v g r c d => some (32, 2952790016 + pk v 21 + pk g 18 + pk r 12 + pk c 6 + pk d 0)
  | .vstFmt v g r c m s => some (32, 3019898880 + pk v 21 + pk g 18 + pk r 12 + pk c 6 + pk m 3 + pk s 2)
  | .vgather v a i k d => some (32, 3087007744 + pk v 21 + pk a 15 + pk i 10 + pk k 7 + pk d 0)
  | .vscatter v a i k => some (32, 3087007808 + pk v 21 + pk a 15 + pk i 10 + pk k 7)
  | .ldAcq s a d p => some (32, 3154116608 + pk s 20 + pk a 14 + pk d 7 + pk p 4)
  | .stRel s a p => some (32, 3154116609 + pk s 20 + pk a 14 + pk p 4)
  | .fenceAcq p => some (32, 3154116610 + pk p 4)
  | .fenceRel p => some (32, 3154116611 + pk p 4)
  | .fenceFull p => some (32, 3154116612 + pk p 4)
  | .amoAdd w s a d => some (32, 3221225472 + pk w 26 + pk s 20 + pk a 14 + pk d 4)
  | .amoAnd w s a d => some (32, 3221225473 + pk w 26 + pk s 20 + pk a 14 + pk d 4)
  | .amoOr w s a d => some (32, 3221225474 + pk w 26 + pk s 20 + pk a 14 + pk d 4)
  | .amoXor w s a d => some (32, 3221225475 + pk w 26 + pk s 20 + pk a 14 + pk d 4)
  | .amoMinSigned w s a d => some (32, 3221225476 + pk w 26 + pk s 20 + pk a 14 + pk d 4)
  | .amoMaxSigned w s a d => some (32, 3221225477 + pk w 26 + pk s 20 + pk a 14 + pk d 4)
  | .amoXchg w s a d => some (32, 3221225478 + pk w 26 + pk s 20 + pk a 14 + pk d 4)
  | .amoCas w s a d => some (32, 3221225479 + pk w 26 + pk s 20 + pk a 14 + pk d 4)
  | .amoFadd w s a d => some (32, 3221225480 + pk w 26 + pk s 20 + pk a 14 + pk d 4)
  | .amoFmin w s a d => some (32, 3221225481 + pk w 26 + pk s 20 + pk a 14 + pk d 4)
  | .amoFmax w s a d => some (32, 3221225482 + pk w 26 + pk s 20 + pk a 14 + pk d 4)
  | .amoMinUnsigned w s a d => some (32, 3221225483 + pk w 26 + pk s 20 + pk a 14 + pk d 4)
  | .amoMaxUnsigned w s a d => some (32, 3221225484 + pk w 26 + pk s 20 + pk a 14 + pk d 4)
  | .sig a f => some (32, 3355443200 + pk a 14 + pk f 10)
  | .barInit s a => some (32, 3355443201 + pk s 20 + pk a 14)
  | .barArrive a => some (32, 3355443202 + pk a 14)
  | .barWait a => some (32, 3355443203 + pk a 14)
  | .waitw s a c => some (32, 3355443204 + pk s 20 + pk a 14 + pk c 10)
  | .roundWait s a => some (32, 3355443205 + pk s 20 + pk a 14)
  | .roundPin s a => some (32, 3355443206 + pk s 20 + pk a 14)
  | .ntile s a d => some (32, 3355443207 + pk s 20 + pk a 14 + pk d 4)
  | .basinQ s a d => some (32, 3355443208 + pk s 20 + pk a 14 + pk d 4)
  | .ringDef s i => some (32, 3422552064 + pk s 20 + pk i 17)
  | .ringPut i => some (32, 3422552065 + pk i 17)
  | .ringTake i => some (32, 3422552066 + pk i 17)
  | .ringPtr s i e => some (32, 3422552067 + pk s 20 + pk i 17 + pk e 13)
  | .aguSet s i e => some (32, 3422552068 + pk s 20 + pk i 17 + pk e 13)
  | .ringLd s h k o z => some (32, 3489660928 + pk s 20 + pk h 17 + pk k 13 + pk o 4 + pk z 1)
  | .ringSt s h k o z => some (32, 3489660929 + pk s 20 + pk h 17 + pk k 13 + pk o 4 + pk z 1)
  | .ringVld v h k o => some (32, 3556769792 + pk v 21 + pk h 17 + pk k 13 + pk o 4)
  | .ringVst v h k o => some (32, 3556769793 + pk v 21 + pk h 17 + pk k 13 + pk o 4)
  | .accw v a c s b => some (32, 3623878656 + pk v 21 + pk a 15 + pk c 3 + pk s 2 + pk b 1)
  | .rsscat v a c k l => some (32, 3623878657 + pk v 21 + pk a 15 + pk c 10 + pk k 7 + pk l 3)
  | .rsscatClose v a c k l => some (32, 3623878657 + pk v 21 + pk a 15 + pk c 10 + pk k 7 + pk l 3)
  | .rsld v a c k l d => some (32, 3690987520 + pk v 21 + pk a 15 + pk c 10 + pk k 7 + pk l 3 + pk d 0)
  | .dadd w f => some (64, 72057594037927936 + pk w 50 + f.word)
  | .dsub w f => some (64, 144115188075855872 + pk w 50 + f.word)
  | .dmul w f => some (64, 216172782113783808 + pk w 50 + f.word)
  | .dfma w f => some (64, 288230376151711744 + pk w 50 + f.word)
  | .dmin w f => some (64, 360287970189639680 + pk w 50 + f.word)
  | .dmax w f => some (64, 432345564227567616 + pk w 50 + f.word)
  | .dabs w f => some (64, 504403158265495552 + pk w 50 + f.word)
  | .dneg w f => some (64, 576460752303423488 + pk w 50 + f.word)
  | .drcp w f => some (64, 648518346341351424 + pk w 50 + f.word)
  | .drsqrt w f => some (64, 720575940379279360 + pk w 50 + f.word)
  | .dsqrt w f => some (64, 792633534417207296 + pk w 50 + f.word)
  | .dsel w f => some (64, 864691128455135232 + pk w 50 + f.word)
  | .dcmp w qd da db cc q qn => some (64, 936748722493063168 + pk w 50 + pk qd 48 + pk da 40 + pk db 35 + pk cc 31 + pk q 28 + pk qn 27)
  | .dcvtTo w dd da t rnd sat m ei => some (64, 1008806316530991104 + pk w 50 + pk dd 45 + pk da 40 + pk t 35 + pk rnd 24 + pk sat 23 + pk m 21 + pk ei 17)
  | .dcvtFrom w dd da t rnd sat m ei => some (64, 1008806333710860288 + pk w 50 + pk dd 45 + pk da 40 + pk t 35 + pk rnd 24 + pk sat 23 + pk m 21 + pk ei 17)
  | .drng w f => some (64, 1080863910568919040 + pk w 50 + f.word)
  | .dsum w f => some (64, 1152921504606846976 + pk w 50 + f.word)
  | .dsq w f => some (64, 1224979098644774912 + pk w 50 + f.word)
  | .dbcast w f => some (64, 1297036692682702848 + pk w 50 + f.word)
  | .eadd w ed ea eb isel imm => some (64, 2305843009213693952 + pk w 50 + pk ed 46 + pk ea 42 + pk eb 38 + pk isel 37 + pk imm 5)
  | .emul w ed ea eb isel imm => some (64, 2377900603251621888 + pk w 50 + pk ed 46 + pk ea 42 + pk eb 38 + pk isel 37 + pk imm 5)
  | .eli w ed imm => some (64, 2449958197289549824 + pk w 50 + pk ed 46 + pk imm 0)
  | .ebr w ea eb cc tgt => some (64, 2522015791327477760 + pk w 50 + pk ea 46 + pk eb 42 + pk cc 38 + pk tgt 0)
  | .ejmp w tgt => some (64, 2594073385365405696 + pk w 50 + pk tgt 0)
  | .eloop w ea tgt => some (64, 2666130979403333632 + pk w 50 + pk ea 46 + pk tgt 0)
  | .eld w ed ea => some (64, 2738188573441261568 + pk w 50 + pk ed 46 + pk ea 42)
  | .dld w d ea es k => some (64, 3458764513820540928 + pk w 50 + pk d 45 + pk ea 41 + pk es 37 + pk k 34)
  | .dldb w d ea es k => some (64, 3530822107858468864 + pk w 50 + pk d 45 + pk ea 41 + pk es 37 + pk k 34)
  | .dst w d ea es k => some (64, 3602879701896396800 + pk w 50 + pk d 45 + pk ea 41 + pk es 37 + pk k 34)
  | .dwait w => some (64, 3674937295934324736 + pk w 50)
  | .dwaitExt w n => some (64, 3675500245887746048 + pk w 50 + pk n 32)
  | .dlock w ea es k => some (64, 3746994889972252672 + pk w 50 + pk ea 41 + pk es 37 + pk k 34)
  | .dunlock w ea es k => some (64, 3819052484010180608 + pk w 50 + pk ea 41 + pk es 37 + pk k 34)
  | .dpub w es er => some (64, 4611686018427387904 + pk w 50 + pk es 46 + pk er 42)
  | .dpush w d ea ek k => some (64, 4683743612465315840 + pk w 50 + pk d 45 + pk ea 41 + pk ek 37 + pk k 34)
  | .dpushAcc w d ea ek k => some (64, 4683743621055250432 + pk w 50 + pk d 45 + pk ea 41 + pk ek 37 + pk k 34)
  | .dsig w ea ev n => some (64, 4755801206503243776 + pk w 50 + pk ea 45 + pk ev 41 + pk n 37)
  | .dsigSt w ea ev n => some (64, 4756364156456665088 + pk w 50 + pk ea 45 + pk ev 41 + pk n 37)
  | .dhalt w => some (64, 4827858800541171712 + pk w 50)
  | .nop => some (32, 0)
  | .halt => some (32, 1)
  | .yield => some (32, 2)
  | .ret => some (32, 6)
  | .eret => some (32, 9)
  | .ctxQuiesce => some (32, 11)
  | .evlogClr => some (32, 13)
  | .bankChangeDone => none
  | .asyncTrap => none
  | .switch => none
  | .landing => none
  | .contextFree => none
  | .tlbWalkDone => none
  | .submit => none
  | .errAck => none
  | .graphValidation => none
  | .nodeResolve => none
  | .launchDispatch => none
  | .launchComplete => none
  | .condNode => none
  | .whileNode => none
  | .whileBackEdge => none
  | .nodeTimeout => none
  | .ptRootWrite => none
  | .tlbInval => none
  | .tlbInvalDone => none
  | .signalDelivery => none
  | .powerGate => none
  | .waitwPoll => none
  | .syncOvfBaseWrite => none
  | .syncOvfSizeWrite => none
  | .syncStaleCountClear => none
  | .tokenGrant => none
  | .transposeExpire => none
  | .copyTake => none
  | .chunkStart => none
  | .copyComplete => none
  | .sideWaysWrite => none
  | .sideConversionDone => none
  | .basinSelect => none
  | .basinRetire => none
  | .basinDeclare => none
  | .basinPacket => none
  | .basinClose => none
  | .confluenceAck => none
  | .confluenceResend => none
  | .deltaRunSelect => none
  | .deltaEntryDone => none
  | .deltaExitDone => none
  | .dldbComplete => none
  | .dpushFinish => none
  | .roundDoneMessage => none
  | .flitReceive => none
  | .flitNak => none
  | .flitReplayTimeout => none
  | .remoteTransaction => none
  | .remoteRequestFail => none
  | .hostMemAccess => none
  | .preemptReq => none
  | .parkComplete => none
  | .resumeReq => none
  | .resumePrologue => none
  | .currentRampLimitWrite => none
  | .bankLimitWrite => none
  | .telemetrySample => none
  | .thermalThrottle => none
  | .throttleEnd => none
  | .thermalTrip => none
  | .errCorrectedClear => none
  | .errUncorrectedClear => none
  | .walkerReset => none
  | .warmReset => none
  | .coldReset => none
  | .powerGood => none
  | .stageAdvance => none
  | .fwLoadGo => none
  | .fwLoadDone => none
  | .attestStart => none
  | .attestDone => none
  | .mgmtRegisterWrite => none
  | .engineReply => none
  | .instructionCacheFill => none
  | .softError => none

/-- A slot word's bytes in memory, little-endian (R45). -/
def leBytes : Nat → Nat → List Byte
  | 0, _ => []
  | n + 1, w => BitVec.ofNat 8 w :: leBytes n (w / 256)

/-- The number that little-endian bytes hold (R3). -/
def ofLeBytes : List Byte → Nat
  | [] => 0
  | b :: bs => b.toNat + 256 * ofLeBytes bs

/-- Decode the bytes of one instruction: four for a slot operation, eight for a delta operation. -/
def decodeBytes (bs : List Byte) : Except DecodeError Instr :=
  if bs.length = 4 then decodeSlot (ofLeBytes bs)
  else if bs.length = 8 then decodeDelta (ofLeBytes bs)
  else .error .reservedMajor

/-- The instruction the decoder reads from a table row's bits, laid out as the hardware stores them (R3, R45, R316): words
of up to 32 bits are slot words, longer ones delta words. -/
def decodeTableWord (nbits w : Nat) : Option Instr :=
  match decodeBytes (if nbits ≤ 32 then leBytes 4 w else leBytes 8 w) with
  | .ok i => some i
  | .error _ => none

end Sys2Proof
end

