-- ==== Sys2Proof/Machine/Num.lean ====
section
/-!
DEFINITION. Number formats (R23 to R38): decoding to exact values, rounding (R28 to R31), exact arithmetic on values,
the block formats (R32 to R36) and the fixed orders of summation (R42, R43).
-/
namespace Sys2Proof.Machine

/-- The kinds of exceptional result (R39). -/
inductive EvKind where
  | invalid | divzero | overflow | underflow | saturate | nangen
deriving DecidableEq, Repr

/-- The code of a kind (R39). -/
def EvKind.code : EvKind → Nat
  | .invalid => 1 | .divzero => 2 | .overflow => 3 | .underflow => 4 | .saturate => 5 | .nangen => 6

/-- The rounding modes (R27). -/
inductive Rnd where
  | rne | rtz | rup | rdn | rna | sr
deriving DecidableEq, Repr

/-- The mode a code of 0b000 to 0b101 names (R27); no operation asks with another code. -/
def Rnd.ofCode (c : Nat) : Rnd :=
  match c with
  | 1 => .rtz | 2 => .rup | 3 => .rdn | 4 => .rna | 5 => .sr | _ => .rne

/-- An exact nonzero real: `(-1)^neg * (mant + δ) * 2^exp` with `δ` in `(0, 1)` when `sticky` is set and 0 otherwise. A
sticky value is always formed with at least 34 bits more than its destination keeps. -/
structure Dy where
  neg : Bool
  mant : Nat
  exp : Int
  sticky : Bool
deriving DecidableEq, Repr

/-- What a word of a format stands for. A NaN carries whether INVALID belongs to it: a signalling operand (R26), or a NaN
that an invalid operation makes (R39). -/
inductive Val where
  | nan (invalid : Bool)
  | inf (neg : Bool)
  | zero (neg : Bool)
  | num (d : Dy)
deriving DecidableEq, Repr

/-- A floating-point format (R24, R38): significand bits, fraction-field bits, exponent bits, bias, and whether the leading
bit is stored (A80). `e4m3` marks the format with no infinity. -/
structure Fmt where
  p : Nat
  fbits : Nat
  ebits : Nat
  bias : Nat
  e4m3 : Bool
  explicitJ : Bool
deriving DecidableEq, Repr

def fp64 : Fmt := ⟨53, 52, 11, 1023, false, false⟩
def fp32 : Fmt := ⟨24, 23, 8, 127, false, false⟩
def fp16 : Fmt := ⟨11, 10, 5, 15, false, false⟩
def bf16 : Fmt := ⟨8, 7, 8, 127, false, false⟩
def e4m3 : Fmt := ⟨4, 3, 4, 7, true, false⟩
def e5m2 : Fmt := ⟨3, 2, 5, 15, false, false⟩
def a80 : Fmt := ⟨64, 64, 15, 16383, false, true⟩

/-- The format of a scalar floating-point type code (R23); codes 14 and 15 name their element formats. -/
def fmtOf (t : Nat) : Fmt :=
  match t with
  | 8 => fp64 | 9 => fp32 | 10 => bf16 | 11 => fp16 | 12 => e4m3 | 13 => e5m2 | 14 => e4m3 | 15 => e5m2 | _ => fp32

/-- Element width of a type code in bits (R23). -/
def typeWidth (t : Nat) : Nat :=
  match t with
  | 0 => 8 | 1 => 16 | 2 => 32 | 3 => 64 | 4 => 8 | 5 => 16 | 6 => 32 | 7 => 64 | 8 => 64 | 9 => 32 | 10 => 16 | 11 => 16
  | 12 => 8 | 13 => 8 | 14 => 8 | 15 => 8 | 16 => 8 | 17 => 4 | _ => 3

def Fmt.emin (f : Fmt) : Int := 1 - (f.bias : Int)
def Fmt.allOnes (f : Fmt) : Nat := 2 ^ f.ebits - 1
def Fmt.signBit (f : Fmt) : Nat := f.fbits + f.ebits

/-- The largest finite magnitude's significand as an integer of `p` bits (R24). -/
def Fmt.maxMant (f : Fmt) : Nat := if f.e4m3 then 2 ^ f.p - 2 else 2 ^ f.p - 1

/-- The exponent of the last place of the largest finite magnitude. -/
def Fmt.maxExp (f : Fmt) : Int := (if f.e4m3 then 8 else (f.bias : Int)) - f.p + 1

/-- The sign of a word as its contribution to the pattern. -/
def Fmt.signOf (f : Fmt) (neg : Bool) : Nat := if neg then 2 ^ f.signBit else 0

/-- The canonical quiet NaN (R24, R38). -/
def Fmt.nan (f : Fmt) : Nat :=
  if f.e4m3 then 0x7F
  else if f.explicitJ then f.allOnes * 2 ^ f.fbits + 3 * 2 ^ (f.fbits - 2)
  else f.allOnes * 2 ^ f.fbits + 2 ^ (f.fbits - 1)

/-- An infinity's pattern (R25, R38). -/
def Fmt.inf (f : Fmt) (neg : Bool) : Nat :=
  f.signOf neg + f.allOnes * 2 ^ f.fbits + (if f.explicitJ then 2 ^ (f.fbits - 1) else 0)

/-- The pattern of a significand `n < 2^p` with last place `2^q` (R24, R25): subnormal where `n` has no leading bit. -/
def Fmt.encode (f : Fmt) (neg : Bool) (n : Nat) (q : Int) : Nat :=
  f.signOf neg +
    (if n < 2 ^ (f.p - 1) then n
     else
       (q + f.p - 1 + f.bias).toNat * 2 ^ f.fbits + (if f.explicitJ then n else n - 2 ^ (f.p - 1)))

/-- The largest finite magnitude of sign `neg`. -/
def Fmt.maxWord (f : Fmt) (neg : Bool) : Nat := f.encode neg f.maxMant f.maxExp

/-- What a word of a floating-point format stands for (R25, R38). -/
def Fmt.decode (f : Fmt) (w : Nat) : Val :=
  let s := bit w f.signBit
  let e := w / 2 ^ f.fbits % 2 ^ f.ebits
  let fr := w % 2 ^ f.fbits
  let fin (m : Nat) (x : Int) : Val := if m = 0 then .zero s else .num ⟨s, m, x, false⟩
  if f.explicitJ then
    if e = f.allOnes then
      if fr = 2 ^ (f.fbits - 1) then .inf s else .nan (!bit fr (f.fbits - 2))
    else fin fr ((if e = 0 then 1 else (e : Int)) - f.bias - (f.fbits - 1 : Nat))
  else if e = 0 then fin fr (1 - (f.bias : Int) - f.fbits)
  else if e = f.allOnes ∧ f.e4m3 = true ∧ fr = 7 then .nan false
  else if e = f.allOnes ∧ f.e4m3 = false then
    if fr = 0 then .inf s else .nan (!bit fr (f.fbits - 1))
  else fin (2 ^ f.fbits + fr) ((e : Int) - f.bias - f.fbits)

/-- The value of an integer. -/
def Val.ofInt (i : Int) : Val :=
  if i = 0 then .zero false else .num ⟨decide (i < 0), i.natAbs, 0, false⟩

/-- A nonzero magnitude scaled by a power of two. -/
def Val.scale (v : Val) (k : Int) : Val :=
  match v with
  | .num d => .num { d with exp := d.exp + k }
  | v => v

def Val.neg : Val → Val
  | .nan b => .nan b
  | .inf s => .inf !s
  | .zero s => .zero !s
  | .num d => .num { d with neg := !d.neg }

def Val.abs : Val → Val
  | .nan b => .nan b
  | .inf _ => .inf false
  | .zero _ => .zero false
  | .num d => .num { d with neg := false }

def Val.isNan : Val → Bool
  | .nan _ => true
  | _ => false

/-- A signalling operand, the one kind of NaN decoding marks. -/
def Val.isSnan : Val → Bool
  | .nan b => b
  | _ => false

def Val.isInf : Val → Bool
  | .inf _ => true
  | _ => false

def Val.isNeg : Val → Bool
  | .nan _ => false
  | .inf s => s
  | .zero s => s
  | .num d => d.neg

/-- `floor(log2 |x|)` (R28); `δ < 1` never moves it. -/
def Dy.log2 (d : Dy) : Int := (d.mant.log2 : Int) + d.exp

/-- `mant * 2^exp` as an integer multiple of `2^e`, for `e` at or below the exponent. -/
def Dy.at (d : Dy) (e : Int) : Int :=
  let m : Int := d.mant * 2 ^ (d.exp - e).toNat
  if d.neg then -m else m

/-- The increment decision of RoundFinite (R28) for the discarded `r / 2^sh` (plus a little when sticky). -/
def roundUp (mode : Rnd) (neg : Bool) (n0 r sh : Nat) (sticky : Bool) (rnd : Nat) : Bool :=
  let half := 2 ^ sh
  match mode with
  | .rne => decide (2 * r > half) || (2 * r == half && (sticky || n0 % 2 == 1))
  | .rna => decide (2 * r ≥ half)
  | .rtz => false
  | .rup => (r != 0 || sticky) && !neg
  | .rdn => (r != 0 || sticky) && neg
  | .sr => decide (r * 2 ^ 32 / half + rnd ≥ 2 ^ 32)

/-- A magnitude rounded to a multiple of `2^q`: the integer significand and whether it is inexact (R28). -/
def Dy.roundAt (d : Dy) (q : Int) (mode : Rnd) (rnd : Nat) : Nat × Bool :=
  if q ≤ d.exp then
    let n0 := d.mant * 2 ^ (d.exp - q).toNat
    (if d.sticky && roundUp mode d.neg n0 0 0 true rnd then n0 + 1 else n0, d.sticky)
  else
    let sh := (q - d.exp).toNat
    let n0 := d.mant / 2 ^ sh
    let r := d.mant % 2 ^ sh
    (if roundUp mode d.neg n0 r sh d.sticky rnd then n0 + 1 else n0, r != 0 || d.sticky)

/-- The overflow table for a floating-point destination (R29). -/
def Fmt.overflow (f : Fmt) (neg : Bool) (mode : Rnd) (sat : Bool) : Nat × List EvKind :=
  if sat then (f.maxWord neg, [.saturate])
  else
    let toInf := match mode with
      | .rne | .rna | .sr => true
      | .rtz => false
      | .rup => !neg
      | .rdn => neg
    if toInf then
      if f.e4m3 then (0x7F, [.overflow, .nangen]) else (f.inf neg, [.overflow])
    else (f.maxWord neg, [.overflow])

/-- RoundFinite into a floating-point format (R28). -/
def Fmt.roundFinite (f : Fmt) (d : Dy) (mode : Rnd) (sat : Bool) (rnd : Nat) : Nat × List EvKind :=
  let e := max d.log2 f.emin
  let q := e - f.p + 1
  let (n, inexact) := d.roundAt q mode rnd
  let (n, q) := if n = 2 ^ f.p then (2 ^ (f.p - 1), q + 1) else (n, q)
  if q > f.maxExp ∨ (q = f.maxExp ∧ n > f.maxMant) then f.overflow d.neg mode sat
  else (f.encode d.neg n q, if inexact && decide (n < 2 ^ (f.p - 1)) then [.underflow] else [])

/-- The events of a NaN written to a destination (R26, R30, R39). -/
def nanEvents (invalid : Bool) : List EvKind := if invalid then [.invalid, .nangen] else [.nangen]

/-- RoundTo a floating-point format: a value of any class into a word (R26, R28, R30). -/
def Fmt.round (f : Fmt) (v : Val) (mode : Rnd) (sat : Bool) (rnd : Nat) : Nat × List EvKind :=
  match v with
  | .nan b => (f.nan, nanEvents b)
  | .inf s =>
    if f.e4m3 then (if sat then (f.maxWord s, [.saturate]) else (0x7F, [.invalid, .nangen])) else (f.inf s, [])
  | .zero s => (f.signOf s, [])
  | .num d => f.roundFinite d mode sat rnd

/-- The range of an integer type (R31). -/
def intMin (w : Nat) (signed : Bool) : Int := if signed then -(2 ^ (w - 1) : Nat) else 0
def intMax (w : Nat) (signed : Bool) : Int := if signed then (2 ^ (w - 1) : Nat) - 1 else (2 ^ w : Nat) - 1

/-- An integer as a word of `w` bits (R10). -/
def wrap (w : Nat) (i : Int) : Nat := (i % (2 ^ w : Nat)).toNat

/-- A word of `w` bits read as its type's integer (R11, R31). -/
def toInt (w : Nat) (signed : Bool) (x : Nat) : Int :=
  if signed && bit x (w - 1) then (x : Int) - (2 ^ w : Nat) else x

/-- Clamp an integer to its type's range (R29, R31); the flag says whether it was clamped. -/
def clampInt (w : Nat) (signed : Bool) (i : Int) : Int × Bool :=
  if i > intMax w signed then (intMax w signed, true)
  else if i < intMin w signed then (intMin w signed, true)
  else (i, false)

/-- Conversion of any value to an integer type (R29 to R31). -/
def roundInt (w : Nat) (signed : Bool) (v : Val) (mode : Rnd) (sat : Bool) (rnd : Nat) : Nat × List EvKind :=
  let ev : List EvKind := if sat then [.saturate] else [.invalid]
  match v with
  | .nan _ => (0, [.invalid])
  | .inf s => (wrap w (if s then intMin w signed else intMax w signed), ev)
  | .zero _ => (0, [])
  | .num d =>
    let n : Int := (d.roundAt 0 mode rnd).1
    let (r, c) := clampInt w signed (if d.neg then -n else n)
    (wrap w r, if c then ev else [])

/-- Whether a type code is a signed integer (R23). -/
def typeSigned (t : Nat) : Bool := decide (t ≤ 3)

/-- The value of an element of a scalar type, codes 0 to 13 (R23, R25, R31). -/
def decodeType (t w : Nat) : Val :=
  if t ≤ 7 then Val.ofInt (toInt (typeWidth t) (typeSigned t) w) else (fmtOf t).decode w

/-- RoundTo any scalar type, codes 0 to 13 (R28 to R31). -/
def roundType (t : Nat) (v : Val) (mode : Rnd) (sat : Bool) (rnd : Nat) : Nat × List EvKind :=
  if t ≤ 7 then roundInt (typeWidth t) (typeSigned t) v mode sat rnd else (fmtOf t).round v mode sat rnd

/-- Compare two magnitudes exactly (no sticky values). -/
def Dy.cmpMag (a b : Dy) : Ordering :=
  let e := min a.exp b.exp
  compare (a.mant * 2 ^ (a.exp - e).toNat) (b.mant * 2 ^ (b.exp - e).toNat)

/-- The value of `i * 2^e`, with the sign of an exact zero as given. -/
def Val.ofScaled (i : Int) (e : Int) (zeroNeg : Bool) : Val :=
  if i = 0 then .zero zeroNeg else .num ⟨decide (i < 0), i.natAbs, e, false⟩

/-- The exact sum of two values (R134): ∞ − ∞ is invalid; an exact cancellation of unlike zeros or values is +0, and −0 in
RDN. -/
def Val.add (mode : Rnd) (a b : Val) : Val :=
  match a, b with
  | .nan x, .nan y => .nan (x || y)
  | .nan x, _ => .nan x
  | _, .nan y => .nan y
  | .inf s, .inf t => if s = t then .inf s else .nan true
  | .inf s, _ => .inf s
  | _, .inf t => .inf t
  | .zero s, .zero t => if s = t then .zero s else .zero (mode == .rdn)
  | .zero _, .num d => .num d
  | .num d, .zero _ => .num d
  | .num x, .num y =>
    let e := min x.exp y.exp
    Val.ofScaled (x.at e + y.at e) e (mode == .rdn)

/-- The exact product of two values: 0 × ∞ is invalid. -/
def Val.mul (a b : Val) : Val :=
  match a, b with
  | .nan x, .nan y => .nan (x || y)
  | .nan x, _ => .nan x
  | _, .nan y => .nan y
  | .inf _, .zero _ => .nan true
  | .zero _, .inf _ => .nan true
  | .inf s, .inf t => .inf (s != t)
  | .inf s, .num d => .inf (s != d.neg)
  | .num d, .inf t => .inf (d.neg != t)
  | .zero s, .zero t => .zero (s != t)
  | .zero s, .num d => .zero (s != d.neg)
  | .num d, .zero t => .zero (d.neg != t)
  | .num x, .num y => .num ⟨x.neg != y.neg, x.mant * y.mant, x.exp + y.exp, false⟩

/-- `a * b + c` exactly; an invalid product is invalid, and a signalling third operand is too. -/
def Val.fma (mode : Rnd) (a b c : Val) : Val := Val.add mode (Val.mul a b) c

/-- The order of two values, `none` when either is a NaN; the zeros are equal. -/
def Val.cmp (a b : Val) : Option Ordering :=
  match a, b with
  | .nan _, _ => none
  | _, .nan _ => none
  | .inf s, .inf t => some (if s = t then .eq else if s then .lt else .gt)
  | .inf s, _ => some (if s then .lt else .gt)
  | _, .inf t => some (if t then .gt else .lt)
  | .zero _, .zero _ => some .eq
  | .zero _, .num d => some (if d.neg then .gt else .lt)
  | .num d, .zero _ => some (if d.neg then .lt else .gt)
  | .num x, .num y =>
    some (if x.neg = y.neg then (if x.neg then y.cmpMag x else x.cmpMag y) else if x.neg then .lt else .gt)

/-- Integer square root, bit by bit from bit `k - 1` down: the greatest `r` with `r^2 ≤ n`, for `n < 4^k`. -/
def isqrtAux (n : Nat) : Nat → Nat → Nat
  | 0, r => r
  | k + 1, r => let r' := r + 2 ^ k; isqrtAux n k (if r' * r' ≤ n then r' else r)

def isqrt (n : Nat) : Nat := isqrtAux n (n.log2 / 2 + 1) 0

/-- A quotient of positive dyadics to 128 bits and a sticky rest. -/
def Dy.div (a b : Dy) : Dy :=
  let k := 128 + b.mant.log2
  ⟨a.neg != b.neg, a.mant * 2 ^ k / b.mant, a.exp - b.exp - k, a.mant * 2 ^ k % b.mant != 0⟩

/-- The square root of a positive dyadic to at least 128 bits and a sticky rest. -/
def Dy.sqrt (a : Dy) : Dy :=
  let k : Nat := 256 + (if a.exp % 2 = 0 then 0 else 1)
  let m := a.mant * 2 ^ k
  let r := isqrt m
  ⟨false, r, (a.exp - k) / 2, r * r != m⟩

/-- The pair tree over `2^k` positions from `lo` (R43): absent leaves pass the other child up. -/
def pairTree {α : Type} (node : α → α → α) (leaf : Nat → Option α) : Nat → Nat → Option α
  | 0, lo => leaf lo
  | k + 1, lo =>
    match pairTree node leaf k lo, pairTree node leaf k (lo + 2 ^ k) with
    | none, h => h
    | l, none => l
    | some l, some h => some (node l h)

/-- The aligned blocks of the interval `[0, i]`: the set bits of `i + 1` from the highest down, as (depth, start) (R43). -/
def scanBlocks (x : Nat) : Nat → Nat → List (Nat × Nat)
  | 0, _ => []
  | k + 1, lo => if bit x k then (k, lo) :: scanBlocks x k (lo + 2 ^ k) else scanBlocks x k lo

/-- Natural numbers below `n`, ascending. -/
def upTo (n : Nat) : List Nat := List.range n

/-! ### Block formats -/

/-- The largest of a list of exponents. -/
def maxInt : List Int → Option Int
  | [] => none
  | x :: xs => match maxInt xs with
    | none => some x
    | some y => some (max x y)

def clampNat (lo hi : Int) (x : Int) : Nat := (if x < lo then lo else if x > hi then hi else x).toNat

/-- The exponents `floor(log2 |v|)` of the nonzero values. -/
def logs (vs : List Val) : List Int :=
  vs.filterMap fun v => match v with
    | .num d => some d.log2
    | _ => none

/-- Whether a block encodes as a NaN block, and its events (R33, R35). -/
def blockNan (vs : List Val) : Option (List EvKind) :=
  if vs.any fun v => v.isNan || v.isInf then
    some (if vs.any fun v => v.isInf || v.isSnan then [.invalid, .nangen] else [.nangen])
  else none

/-- The emax of an element format of an MXFP8 block (R33). -/
def mxEmax (t : Nat) : Int := if t = 14 then 8 else 15

/-- The scale byte of an MXFP8 block (R33). -/
def mxScale (t : Nat) (vs : List Val) : Nat :=
  match maxInt (logs vs) with
  | none => 0
  | some l => clampNat 0 254 (l - mxEmax t + 127)

/-- One element of an MXFP8 block under scale `x` (R33). -/
def mxElement (t x : Nat) (v : Val) (mode : Rnd) (sat : Bool) (rnd : Nat) : Nat × List EvKind :=
  (fmtOf t).round (v.scale (127 - (x : Int))) mode sat rnd

/-- What an MXFP8 element stands for under scale `x` (R32). -/
def mxDecode (t x w : Nat) : Val :=
  if x = 0xFF then .nan false else ((fmtOf t).decode w).scale ((x : Int) - 127)

/-- Magnitude bits of a duplex format (R34). -/
def dbWidth (t : Nat) : Nat := if t = 16 then 6 else 2

/-- The two exponents of a duplex block (R35), E0 first. -/
def dbExps (w : Nat) (vs : List Val) : Nat × Nat :=
  match maxInt (logs vs) with
  | none => (0, 0)
  | some l =>
    let e1 := clampNat 0 254 (l + 127)
    match maxInt (((logs vs).map (· + 127)).filter fun x => decide (x < (e1 : Int) - w + 1)) with
    | none => (e1, e1)
    | some c => (clampNat 0 254 c, e1)

/-- The magnitude, its unclamped integer and the error, scaled by `2^1400`, of a value under exponent `e` (R35). -/
def dbTry (w e : Nat) (d : Dy) : Nat × Nat × Nat :=
  let q : Int := (e : Int) - 127 - ((w : Int) - 1)
  let n := (d.roundAt q .rne 0).1
  let m := min n (2 ^ w - 1)
  let x := min q d.exp
  (m, n, ((m * 2 ^ (q - x).toNat : Nat) - (d.mant * 2 ^ (d.exp - x).toNat : Nat) : Int).natAbs * 2 ^ (x + 1400).toNat)

/-- One element of a duplex block under exponents `e0`, `e1` (R35): sign, selector, magnitude. -/
def dbElement (w e0 e1 : Nat) (v : Val) : Nat × List EvKind :=
  match v with
  | .num d =>
    let (m0, n0, r0) := dbTry w e0 d
    let (m1, n1, r1) := dbTry w e1 d
    let (x, m, n) := if r0 < r1 then (0, m0, n0) else (1, m1, n1)
    ((if d.neg then 2 ^ (w + 1) else 0) + x * 2 ^ w + m,
      (if n > 2 ^ w - 1 then [EvKind.saturate] else []) ++ (if m = 0 then [EvKind.underflow] else []))
  | v => ((if v.isNeg then 2 ^ (w + 1) else 0) + 2 ^ w, [])

/-- What a duplex element stands for under exponents `e0`, `e1` (R34). -/
def dbDecode (w e0 e1 x : Nat) : Val :=
  if e0 = 0xFF ∨ e1 = 0xFF then .nan false
  else
    let s := bit x (w + 1)
    let e : Int := if bit x w then (e1 : Int) else (e0 : Int)
    let m := x % 2 ^ w
    if m = 0 then .zero s else .num ⟨s, m, e - 127 - ((w : Int) - 1), false⟩

end Sys2Proof.Machine
end

