-- ==== Sys2Proof/Machine/State.lean ====
section
/-!
DEFINITION. The state of the module as plain data: every register, memory and engine state the spec gives, and the few
fields of the model's own (marked as such) that say which party acts next.
-/
namespace Sys2Proof.Machine

/-- Why the machine stops with a fault. -/
inductive Fault where
  /-- Raised by `step` when an engine, the walker, the host or a peer has written at a physical address where the memory map places
  nothing for it: a reserved range, a core's window or an aperture (R177). The spec states no effect; a core's own access to such an
  address takes a trap instead (R185, R188). DESIGN CHOICE, log entry 10. Safe: the run stops. -/
  | reservedAddress
deriving DecidableEq, Repr

/-- Why an instruction has no meaning here. -/
inductive Refusal where
  /-- Raised by `exec` on an instruction not modelled yet. Safe: the run stops. -/
  | notModelled (mnemonic : String)
deriving DecidableEq, Repr

/-- One step another agent is to take: a row of the table and what it acts on (the model's own form; R95, R356 name the
register writes, the other rules the events). -/
structure Event where
  i : Instr
  a : Nat := 0
  b : Nat := 0
  c : Nat := 0
  d : Nat := 0
  v : Word := 0
  /-- The signature the step carries (R207, R210). -/
  sig : Sig := 0
  l : List Nat := []
deriving DecidableEq, Repr

/-- The states of a context slot (R79); `parking` is a slot whose park is waiting (R364). -/
inductive Phase where
  | free | prologue | active | retiring | parking
deriving DecidableEq, Repr

/-- One register write. A vector write replaces the positions its mask selects. -/
inductive RegWrite where
  | s (n : BitVec 6) (x : Word)
  | v (n : BitVec 5) (m : Mask) (x : VWord)
  | k (n : BitVec 3) (x : Mask)
  | c (n : BitVec 4) (x : Bool)
  | b (n : BitVec 2) (x : Word)
  | g (n : BitVec 3) (sel : BitVec 4) (x : Word)
  | h (n : BitVec 3) (x : Word)
  | cbt (n : BitVec 1) (x : BitVec 128)
  | sb (x : BitVec 16)
  | csr (n : BitVec 12) (x : Word)
  /-- `bank.role`: banks `f` to `f + n` take role `r` (R173). -/
  | role (f n : Nat) (r : BitVec 2)
  /-- Bytes that an M-class operation writes to the local store, from a local address on (R252, R253). -/
  | img (a : Nat) (xs : List Nat)
  /-- `eret`: user mode, with the skip bits it carries (R369). -/
  | leave (skip : BitVec 4)
  /-- `vquant`: `va` and its enabled positions as read at issue; SB, vd and vb are read at the start of the next cycle
  (R159). `key` and `ctr` are what its draws use (R154), `slot`, `pc` and `logs` what its events do (R40, R359). -/
  | quant (t : Nat) (d b : BitVec 5) (x : VWord) (m : Mask) (mode : Rnd) (sat : Bool) (key ctr : Nat)
      (slot : Nat) (pc : Word) (logs : Bool)
deriving DecidableEq, Repr

/-- A fixed-latency result on its way: written at the end of cycle `due`; `stamp` orders issue (R84, R85). -/
structure Pending where
  due : Nat
  stamp : Nat
  w : RegWrite
deriving DecidableEq, Repr

/-- One event of the first-event log on its way: slot, kind code, lane (R40). -/
structure LogEntry where
  slot : Nat
  code : Nat
  lane : Nat
deriving DecidableEq, Repr

/-- The register that loaded bytes become: a scalar, extended by a size code (R168), or a vector, by position (R190, R191). -/
inductive LoadForm where
  | scalar (d : BitVec 6) (z : BitVec 3)
  | vector (v : BitVec 5) (m : Mask)
deriving DecidableEq, Repr

/-- What a load of which the cluster window brings a part still waits for (R175): the form, the bytes so far, and how many requests have
not been granted. -/
structure Owed where
  form : LoadForm
  raw : Nat
  left : Nat
deriving DecidableEq, Repr

/-- One landing-buffer entry (R86, R87): its due cycle, and what it writes and logs when its data have arrived. -/
structure Landing where
  id : Nat
  due : Nat
  stamp : Nat
  pc : Word
  ws : List RegWrite
  evs : List LogEntry
  /-- The poisoned sector it read, if any (R385). -/
  poison : Option Nat := none
  /-- What banks have yet to bring. -/
  owed : Option Owed := none
deriving DecidableEq, Repr

/-- An address generator (R192). -/
structure Agu where
  base : Word := 0
  extent : Word := 0
  bstride : BitVec 32 := 0
  config : BitVec 8 := 0
  pad : BitVec 32 := 0
deriving DecidableEq, Repr

/-- The registers of one context (R77, R111, R112). Unlisted registers read zero, `k0` and the zero registers are the
accessors' matter. -/
structure Regs where
  s : Store Word := []
  v : Store VWord := []
  k : Store Mask := []
  c : BitVec 16 := 0
  f : BitVec 16 := 0
  b : Store Word := []
  h : Store Word := []
  g : Store Agu := []
  sb : BitVec 16 := 0
  cbt0 : BitVec 128 := 0
  cbt1 : BitVec 128 := 0
deriving DecidableEq, Repr

/-- The control registers of context scope (R124) that have no structure of their own. -/
structure Csrs where
  gen : BitVec 32 := 0
  level : BitVec 2 := 0
  ceil : BitVec 2 := 0
  issueCount : Word := 0
  holdCount : Word := 0
  rampHoldCount : Word := 0
  fpctl : BitVec 3 := 0
  seed : Word := 0
  streamBase : Word := 0
  contrib : BitVec 32 := 0
  pinRound : Word := 0
  codeLimit : Word := 0
  shadowBase : Word := 0
  shadowTop : Word := 0
  shadowLimit : Word := 0
deriving DecidableEq, Repr

/-- The first-event log (R39 to R41). `stamp` is the issue stamp of the kept entry, `clear` and `sumClear` those of the
instruction that last emptied the entry and the summary. -/
structure EvLog where
  pc : Word := 0
  slot : BitVec 2 := 0
  kind : BitVec 13 := 0
  sum : BitVec 6 := 0
  stamp : Nat := 0
  clear : Nat := 0
  sumClear : Nat := 0
deriving DecidableEq, Repr

/-- The trap registers (R124, R357). -/
structure TrapRegs where
  pc : Word := 0
  slot : BitVec 2 := 0
  cause : BitVec 8 := 0
  info : Word := 0
  status : BitVec 16 := 0
  vec : Word := 0
  scratch0 : Word := 0
  scratch1 : Word := 0
deriving DecidableEq, Repr

/-- What an engine has answered to a slot of a held bundle (R52, R230, R284, R348). -/
inductive Wait where
  /-- Request number `id` is under way. -/
  | requested (id : Nat)
  /-- The reply: 0 is the go-ahead, other values are the engine's own. -/
  | replied (value : Nat)
deriving DecidableEq, Repr

/-- What a translation has come to (R187): under way, the leaf entry found, or the walk's reason code (R188). -/
inductive WalkState where
  | pending
  | leaf (w : Nat)
  | failed (reason : Nat)
deriving DecidableEq, Repr

/-- A translation made for a held bundle, by 64 KiB page number (R187). -/
structure Walked where
  page : Nat
  result : WalkState
deriving DecidableEq, Repr

/-- A TLB entry: the first 64 KiB page it covers, how many pages, and the leaf (R187). -/
structure TlbEntry where
  page : Nat
  pages : Nat
  leaf : Nat
deriving DecidableEq, Repr

/-- What is in progress for a context: results and landings on their way, the earliest cycle its next bundle may issue,
engine replies to a held bundle, and pending asynchronous causes (R84 to R89, R360, R369). -/
structure Flow where
  /-- The number of the next bundle to issue, from 1: 0 stands before every bundle (the model's own numbering). -/
  stamp : Nat := 1
  nextLanding : Nat := 0
  pending : List Pending := []
  recent : List Pending := []
  landings : List Landing := []
  earliest : Nat := 0
  waits : Store Wait := []
  /-- The kind of each slot's request. -/
  waitOps : Store Nat := []
  /-- The line that the instruction cache is fetching for the bundle at the PC (R83). -/
  fetching : Option Nat := none
  walked : List Walked := []
  skip : BitVec 4 := 0
  copyError : Option Word := none
  copyMore : Bool := false
  remoteError : Option Word := none
  remoteMore : Bool := false
  preempt : Option Bool := none
  /-- The signatures that loads of SO and sync pages and atomics have carried since the last wide acquire (R204, R209). -/
  acqSig : Sig := 0
  /-- A `fence.rel` or `fence.full` stands before the context's next store to an SO or sync page or atomic (R204). -/
  relFence : Bool := false
  /-- The bundle at the PC held in its latest cycle only on flags, `waitw` or `bar.wait` (R226). -/
  quiet : Bool := false
  /-- By bank, the consecutive cycles just before this one in which the bundle at the PC requested it and lost (R175). -/
  bankWaits : Store Nat := []
  /-- The signatures that releases setting each flag carried (R212, R218). -/
  flagSig : Store Sig := []
  /-- A landing has brought poisoned data of this sector (R385). -/
  poisoned : Option Nat := none
  /-- Registers whose parity is in error, by file and index (R357, R384). -/
  parity : List (Nat × Nat) := []
deriving DecidableEq, Repr

/-- One context slot (R77, R79). -/
structure Ctx where
  phase : Phase := .free
  priv : Bool := false
  pc : Word := 0
  launch : Option Nat := none
  /-- The cause with which the context ends its launch FAILED (R109, R359, R363). -/
  failCause : Option Nat := none
  r : Regs := {}
  csr : Csrs := {}
  log : EvLog := {}
  trap : TrapRegs := {}
  flow : Flow := {}
deriving DecidableEq, Repr

/-- A precise trap found in a slot (R52, R357). -/
structure TrapRec where
  cause : Nat
  info : Word
  slot : Nat
deriving DecidableEq, Repr

/-- The bundle being tried for issue (the model's own record of one try). -/
structure Cur where
  /-- The context, or the context an agent's step acts for. -/
  ctx : Nat := 0
  /-- The stack whose delta processor is executing. -/
  stack : Nat := 0
  slot : Nat := 0
  /-- The slot's word (R357). -/
  word : Nat := 0
  /-- The bundle's address (R45). -/
  pc : Word := 0
  /-- What the LEND header lends to slots 1 to 3 (R57), `none` without one. -/
  lend : Option (Nat × Nat × Nat) := none
  /-- The leaf a TREE header took, with the leaf masks of slots 1 and 2 (R60). -/
  leaf : Option (Nat × Nat × Nat) := none
  /-- A control transfer's target, and the cycles until the next bundle (R89). -/
  transfer : Option (Word × Nat) := none
  flagSet : BitVec 16 := 0
  flagClr : BitVec 16 := 0
  evs : List LogEntry := []
  /-- The bundle holds `evlog.clr` (R41). -/
  clearLog : Bool := false
  /-- Drawing instructions so far in the bundle (R154, R155). -/
  draws : Nat := 0
  trap : Option TrapRec := none
  /-- A `trap` instruction's code and slot (R367). -/
  after : Option (Nat × Nat) := none
  held : Bool := false
  /-- Some hold is not a missing start token (R124, RAMP_HOLD_COUNT). -/
  heldOther : Bool := false
  /-- A lower slot waits for a walk or an engine's reply, which delays traps of higher slots (R52). -/
  waiting : Bool := false
  /-- Some hold is not a lost bank arbitration (R80). -/
  heldMore : Bool := false
  /-- Some hold is not on flags, `waitw` or `bar.wait` (R226). -/
  heldAwake : Bool := false
  /-- Some hold is not for DRAM that a run claims (R315). -/
  heldElse : Bool := false
  /-- Some hold is not for what the bundle's own lower slots send (R211). -/
  heldApart : Bool := false
  /-- Slots whose operation stores, sends a packet or starts a copy in this bundle, and those that must act before the bundle may go on
  (R211). -/
  senders : List Nat := []
  first : List Nat := []
  /-- Flags whose test the bundle passes (R212, R218). -/
  passed : BitVec 16 := 0
  /-- The acquires of the flags that the bundle passes have been performed before its accesses (R212). -/
  acquired : Bool := false
  /-- What the context had in flight when the bundle was tried had settled (R370). -/
  drained : Bool := false
  /-- Numbers below this one were given before the bundle was tried. -/
  began : Nat := 0
  /-- A lower slot's reservation has not been answered (R293). -/
  reserving : Bool := false
  /-- What a held bundle asks of the engines. -/
  requests : List Event := []
  /-- `rsld`s of the bundle that enter the réseau unit with it: slot and corner cycles (R307). -/
  units : List (Nat × Nat) := []
  yielded : Bool := false
  /-- The banks that the bundle's local accesses use, and those whose arbitration it loses (R175). -/
  banks : List Nat := []
  lost : List Nat := []
  /-- The first poisoned sector that the slot's load has read, by address / 32 (R385), and whether it has read of another package
  (R354). -/
  poison : Option Nat := none
  far : Bool := false
deriving DecidableEq, Repr

/-- One line of a core's cache banks (R169): the line number PA / 128 (`none` when invalid), which 32-byte sectors it
holds, which are dirty, and when it was last used. -/
structure CacheLine where
  line : Option Nat := none
  have_ : BitVec 4 := 0
  dirty : BitVec 4 := 0
  /-- The bytes written since the line was last clean: a write-back changes no other byte (R204). -/
  bytes : BitVec 128 := 0
  used : Nat := 0
  data : VWord := 0
deriving DecidableEq, Repr

/-- One line of a die's L2 (R14): sectors held and dirty, the core that last wrote each sector (R207). -/
structure L2Line where
  have_ : BitVec 4 := 0
  dirty : BitVec 4 := 0
  /-- The bytes written since their sector was last clean (R204). -/
  bytes : BitVec 128 := 0
  writers : List Nat := [0, 0, 0, 0]
  data : VWord := 0
deriving DecidableEq, Repr

/-- A line that a stack's memory-side cache keeps (R16): its way, and whether DRAM is older. What the line holds stands in
`State.mem`, which is memory as the memory side reads it. -/
structure SideLine where
  way : Nat
  dirty : Bool
deriving DecidableEq, Repr

/-- A bank that is changing role (R171, R172): its leaving step ends with cycle `left`, it is STABLE from the cycle after
`stable`, and `lines` are the cache lines that are written back from it, in that order. The change was made in cycle `from_`, as number
`change`; an `operand` bank waits for its busy bits. -/
structure Changing where
  bank : Nat
  left : Nat
  stable : Nat
  lines : List Nat
  from_ : Nat
  change : Nat
  operand : Bool
deriving DecidableEq, Repr

/-- What an M-class operation keeps busy (R252). -/
inductive BusyKind where
  | tile (n : Nat)
  | bankRead (j : Nat)
  | bankWrite (j : Nat)
  | bypass
deriving DecidableEq, Repr

/-- A busy bit: set up to the end of cycle `last` by an operation of context `ctx` (R252); `mma` says that an `mma`-family
operation set it, `op` numbers the operation, which issued in cycle `issued`. -/
structure Busy where
  kind : BusyKind
  ctx : Nat
  last : Nat
  op : Nat := 0
  mma : Bool := false
  issued : Nat := 0
deriving DecidableEq, Repr

/-- An image that the engine reads or writes in the scratchpad (R253): `lines` lines from local line `line` on, the first
requested in cycle `first`, each later one in the next cycle; `issued` is the issue cycle, `op` the operation, `wait` the cycles its
present line has lost arbitration (R175). -/
structure Image where
  op : Nat
  ctx : Nat
  line : Nat
  lines : Nat
  first : Nat
  issued : Nat
  write : Bool
  wait : Nat := 0
deriving DecidableEq, Repr

/-- One entry of the transpose queue (R260, R261): context, element width, the transposed tile, the cycle it is ready in, and
the operation that put it. -/
structure Transpose where
  ctx : Nat
  width : Nat
  tile : List Nat
  ready : Nat
  op : Nat := 0
deriving DecidableEq, Repr

/-- Where the bytes go that a bank brings through the cluster window: into the landing `id` of the context, from bit `shift` on; to the
`waitw` that polls them (R231); nowhere for a ring's load, which has read them (R244). -/
inductive WindowSink where
  | landing (id shift : Nat)
  | poll (e : Event)
  | taken
deriving DecidableEq, Repr

/-- What a request through the cluster window does when its bank grants it (R175, R185): `n` bytes at local address `a`, stored, `x`, or
loaded; the context that made it, its generation, whether its page is SO (R199), and the address that the log of a refusal names. -/
structure WindowOp where
  ctx : Nat
  gen : Nat
  so : Bool
  detail : Nat
  a : Nat
  n : Nat
  /-- The bytes that a store writes; a load brings its own to `sink`. -/
  store : Option Nat
  sink : WindowSink
deriving DecidableEq, Repr

/-- Requests of a bank that wait at it, the BXE's or a cluster window's: the first cycle in which they are presented, how many lines are
left, and the wait of the first (R175); what a window's does, or the copy whose lines they are, cluster and number. -/
structure BankReq where
  bank : Nat
  from_ : Nat
  left : Nat
  wait : Nat := 0
  op : Option WindowOp := none
  copy : Nat × Nat := (0, 0)
deriving DecidableEq, Repr

/-- One core (R15): its selector, local store, cache banks and engines. -/
structure CoreSt where
  /-- The context that issued or was chosen last, whether it holds the issue slot, and whether its latest bundle held `yield`
  (R80). DESIGN CHOICE at reset, log entry 3. -/
  running : Nat := 3
  granted : Bool := false
  yielded : Bool := false
  /-- No bundle of any context issues before this cycle (R89, R358). -/
  gapUntil : Nat := 0
  bankRole : Word := 0
  changing : List Changing := []
  /-- The local store's bytes by local address (R165); operand and scratchpad banks alike. -/
  loc : Store Byte := []
  /-- SCRATCH and OPERAND of the launch the core runs (R164). -/
  grant : Nat × Nat := (0, 0)
  busy : List Busy := []
  images : List Image := []
  /-- Operations of the matrix and transpose engines so far (the model's own numbering). -/
  opCount : Nat := 0
  /-- Tile elements by 1024 n + 32 i + j (R246). -/
  tiles : Store (BitVec 80) := []
  /-- The cycles in which the plane phases of issued `mma` operations begin, the last plane cycle, and the last cycle in which
  the engine is active (R251, R255). -/
  planes : List Nat := []
  planeEnd : Nat := 0
  lastActive : Option Nat := none
  /-- A start token granted and not yet used (R255). -/
  token : Bool := false
  /-- The A bypass: type and writing context of its tag, and its packed tile by bank offset (R257, R258). -/
  bypassTag : Option (Nat × Nat) := none
  bypass : Store Byte := []
  /-- Requests that wait at the banks, oldest first, and the banks that this cycle's bundle has been granted (R175). -/
  bankReqs : List BankReq := []
  served : List Nat := []
  /-- ACC_OWN: bits [4c + 3 : 4c] name the tiles of context c (R105, R124). -/
  accOwn : BitVec 16 := 0
  /-- The transpose engine's queue, oldest first (R261). -/
  transposes : List Transpose := []
  /-- The réseau unit's operations: first and last corner cycle of each (R307). -/
  reseau : List (Nat × Nat) := []
  /-- The cycle in which the data of its latest load arrive (R307). -/
  reseauLand : Nat := 0
  lines : Store CacheLine := []
  /-- The use counter that orders lines for replacement (R169). -/
  useClock : Nat := 0
  /-- The core is power-gated (R226). -/
  gated : Bool := false
  carried : Sig := 0
  tlb : List TlbEntry := []
  /-- The instruction cache: lines by PA / 128 (R15, R83). -/
  icache : Store (Option VWord) := []
deriving DecidableEq, Repr

/-- A copy waiting in a channel (R263, R264, R277): the context that stored it with its generation and mode, or the COPY node,
the request word, the template's address, and, for a COPY node, the template as it was read when the node ran. -/
structure CopyReq where
  id : Nat
  ctx : Option Nat
  gen : BitVec 32
  launch : Option Nat
  node : Option (Nat × Nat)
  priv : Bool
  word : Word
  template : Nat
  image : Nat
deriving DecidableEq, Repr

/-- One side of a copy (R266 to R268): mode 0 strided, 1 tensor, 2 ring; address, AUX, STEP, and a tensor's descriptor. -/
structure CopySide where
  mode : Nat
  addr : Nat
  aux : Nat
  step : Nat
  base : Nat
  rows : Nat
  cols : Nat
  elemLog2 : Nat
  trLog2 : Nat
  tcLog2 : Nat
deriving DecidableEq, Repr

/-- A copy that the BXE has taken (R271): its channel (16 is the walker's), class, template fields, the ring and the use it
fills, how far its chunks have started, the sectors it has written, the kind it failed with, whether its payload has been performed
or given up, and whether it has asked the banks that it reaches next (R175). -/
structure Copy where
  req : CopyReq
  channel : Nat
  cls : Nat
  rows : Nat
  rowBytes : Nat
  pad : Nat
  src : CopySide
  dst : CopySide
  ring : Option (Nat × Nat)
  comp : Nat
  compValue : Nat
  next : Nat
  sig : Sig
  err : Option Nat
  moved : Bool
  asked : Bool := false
deriving DecidableEq, Repr

/-- A block-transfer engine (R262 to R277): channel queues, class queues, copies whose chunks have all started or that have failed, the scheduler's deficits, its place in the round, and the first cycle in which it may start a chunk. -/
structure Bxe where
  channels : Store (List CopyReq) := []
  classes : Store (List Copy) := []
  ending : List Copy := []
  deficit : Store Nat := []
  turn : Nat := 0
  topped : Bool := false
  nextStart : Nat := 0
  /-- The step that starts the next chunk has been set (the model's own form). -/
  armed : Bool := false
  count : Nat := 0
deriving DecidableEq, Repr

/-- The states of a basin-table entry (R291). -/
inductive BasinPhase where
  | free | armed | completing | complete
deriving DecidableEq, Repr

/-- A basin-table entry (R280, R283, R285, R288 to R291, R295). `accepted` holds each half's acceptance bits; `given` the
contributions accepted, by 4096 * half + k, until their half completes; `partials` the sums of ARRIVAL mode by element; `base`
the bytes captured under INIT, by address. -/
structure Basin where
  phase : BasinPhase := .free
  result : Nat := 0
  elems : Nat := 0
  n : Nat := 0
  mode : Nat := 0
  flags : BitVec 8 := 0
  flag : Nat := 0
  round : Nat := 0
  staging : Nat := 0
  stagingSize : Nat := 0
  target : Word := 0
  delta : Nat := 0
  arm : BitVec 8 := 0
  accepted : Store Nat := []
  given : Store VWord := []
  partials : Store (Option Nat) := []
  base : Store Byte := []
  /-- By half, the contributors whose +0 a close has applied; closes decided and not yet applied everywhere, each an index and the next
  half; and the halves whose staged data were poisoned (R305, R385). -/
  zeros : Store Nat := []
  closes : List (Nat × Nat) := []
  spoilt : List Nat := []
  /-- Slots reserved by grants whose packets are undecided (R289). -/
  room : Nat := 0
  /-- How far the actions of R290 have come: 1 the flag is under way, 2 the start queue is full. -/
  acting : Nat := 0
  /-- The delta cycle after that of the last final write (R339). -/
  completed : Nat := 0
  events : BitVec 3 := 0
  dup : Nat := 0
  stale : Nat := 0
  checksum : Bool := false
  actionLost : Bool := false
  /-- BASIN_REJECT (R278). -/
  reject : Word := 0
deriving DecidableEq, Repr

/-- One accumulate-write packet, or a close, on its way (R283, R286, R305): who sent it (a context with its generation, or a
delta push of a stack), the half, and how it stands. -/
structure Packet where
  id : Nat
  ctx : Option Nat
  gen : BitVec 32
  push : Option (Nat × Nat)
  stack : Nat
  basin : Nat
  half : Nat
  k : Nat
  tag : Nat
  arm : BitVec 8
  bf : Bool
  close : Bool
  payload : VWord
  room : Nat
  pa : Nat
  sends : Nat
  arrived : Nat
  done : Bool
  /-- An `mdrain.acc` sent it (R370). -/
  drain : Bool
deriving DecidableEq, Repr

/-- A delta register write on its way: visible from delta cycle `at_` of the run on (R317). -/
inductive DeltaWrite where
  /-- Lanes of a data register, listed with their values. -/
  | lanes (d : Nat) (xs : List (Nat × Nat))
  | e (n : Nat) (x : Word)
  | q (n : Nat) (x : VWord)
deriving DecidableEq, Repr

/-- Writes on their way stand in the order in which they take effect. -/
structure DeltaPending where
  at_ : Nat
  w : DeltaWrite
  /-- How many instructions the run had issued before this one. -/
  order : Nat
deriving DecidableEq, Repr

/-- A push of a run that has not finished (R335). -/
structure Push where
  id : Nat
  acc : Bool
  pa : Nat
  n : Nat
  data : Nat
  k : Nat
  tag : Nat
deriving DecidableEq, Repr

/-- A `dldb` that has not landed or that no `dwait` has followed (R332): its register, its segments, the bytes of one, how many
have started, the cycle in which it lands once the last wave has started, and whether a `dwait` has followed and it has
landed. -/
structure AllBank where
  d : Nat
  segs : List Nat
  bytes : Nat
  started : Nat
  lands : Option Nat
  waited : Bool
  landed : Bool
  /-- The word index of the `dldb`, and how many instructions the run had issued before it. -/
  pc : Nat
  order : Nat
deriving DecidableEq, Repr

/-- The states of a run (R312). -/
inductive RunPhase where
  | entering | running | exiting
deriving DecidableEq, Repr

/-- A start request: the header's address and, for a DELTA node, its graph and index (R311). -/
structure StartReq where
  header : Nat
  node : Option (Nat × Nat)
deriving DecidableEq, Repr

/-- A run of a delta processor (R309 to R313): its request and constants, registers, program store, place and issue time in
its own delta cycles, DRAM timing, locks, pushes and status. -/
structure Run where
  req : StartReq
  phase : RunPhase := .entering
  code : Nat := 0
  words : Nat := 0
  param : Nat := 0
  status : Nat := 0
  rnd : Nat := 0
  round : Nat := 0
  seed : Nat := 0
  pchMask : BitVec 64 := 0
  /-- Segments of a wave, latched when the run starts; a write of BANK_LIMIT changes it too (R309, R376). -/
  bankLimit : Nat := 64
  program : Store Word := []
  d : Store (BitVec 32) := []
  e : Store Word := []
  q : Store VWord := []
  pending : List DeltaPending := []
  /-- The absolute delta cycle of the run's cycle 0. -/
  origin : Nat := 0
  pc : Nat := 0
  last : Nat := 0
  /-- Instructions issued. -/
  issued : Nat := 0
  /-- The cycle in which the instruction at `pc` issues, at the earliest. -/
  next : Nat := 0
  /-- End of the last segment of each pseudo-channel, and start of the last one of each pseudo-channel and bank, plus one
  (R320). -/
  pchEnd : Store Nat := []
  rowStart : Store Nat := []
  /-- The cycle by which every `dld`, `dldb` and `dst` issued has landed or completed, and that for `dst` alone. -/
  dramDone : Nat := 0
  dstDone : Nat := 0
  dldb : Option AllBank := none
  /-- The window opened by `dwait.ext`: first cycle and the cycle after it (R333). -/
  window : Option (Nat × Nat) := none
  /-- By pseudo-channel, the absolute delta cycle in which the last external segment of a window ends (R333). -/
  external : Store Nat := []
  locks : List (Nat × Nat × Nat) := []
  pushes : List Push := []
  nextPush : Nat := 0
  pushLost : Bool := false
  /-- The instruction at `pc` does not issue before this cycle (R335 to R338). -/
  held : Nat := 0
  /-- A `dsig` waits for its release write (R336); publications not yet taken (R349). -/
  signalling : Bool := false
  pubs : Nat := 0
  /-- Registers whose parity is in error (R384): 0 to 31 are d, 32 to 47 e, 48 to 51 q. -/
  parity : List Nat := []
  sig : Sig := 0
  kind : Nat := 0
  faultPc : Nat := 0
  events : BitVec 6 := 0
  signalLost : Bool := false
deriving DecidableEq, Repr

/-- A delta processor: its start queue, oldest first (R311), and its run. -/
structure Delta where
  queue : List StartReq := []
  run : Option Run := none
deriving DecidableEq, Repr

/-- One entry of a ring table (R234, R236): the launch that owns it, its key, the descriptor (R232), the counts, and the puts, takes,
fill copies taken and fill copies completed of the present cycle, which take effect at its end (R237). The counts stand unreduced,
since their modulo never changes a result, and are read modulo 2^32 (R236, R243). -/
structure Ring where
  launch : Option Nat := none
  key : Word := 0
  base : Nat := 0
  home : Nat := 0
  stageLog2 : Nat := 0
  stages : Nat := 0
  fills : Nat := 0
  prodH : Nat := 0
  consH : Nat := 0
  prod : BitVec 256 := 0
  cons : BitVec 256 := 0
  filled : Nat := 0
  drained : Nat := 0
  taken : Nat := 0
  done : Store Nat := []
  puts : Store Nat := []
  takes : Store Nat := []
  newPuts : Store Nat := []
  newTakes : Store Nat := []
  newTaken : Nat := 0
  newDone : Store Nat := []
deriving DecidableEq, Repr

/-- One cluster of 64 cores (R14): its TLB, and its ring table of 32 entries by index (R234). -/
structure Cluster where
  rings : Store (Option Ring) := []
  /-- Entries reserved by dispatched launches and not yet allocated: launch and count (R234). -/
  ringsReserved : List (Nat × Nat) := []
  bxe : Bxe := {}
  /-- CLUSTER_TEMP and CLUSTER_PROC as last measured (R374). -/
  temp : Word := 0
  proc : Word := 0
  tlb : List TlbEntry := []
deriving DecidableEq, Repr

/-- The engine's list beside a barrier record (R228): the target words of the phase's arrivals, oldest first, and the OR of
the signatures they carried. -/
structure BarrierList where
  arrivals : List Word := []
  sig : Sig := 0
deriving DecidableEq, Repr

/-- A `waitw` that watches a sync-page word (R231): its context, slot and request, the word, the condition and comparand. -/
structure Watch where
  ctx : Nat
  slot : Nat
  id : Nat
  pa : Nat
  cc : Nat
  comparand : Word
deriving DecidableEq, Repr

/-- One compute die (R14). -/
structure Die where
  barriers : Store BarrierList := []
  watches : List Watch := []
  /-- SYNC_OVF_BASE, SYNC_OVF_SIZE, SYNC_STALE_COUNT (R221). -/
  ovfBase : Word := 0
  ovfSize : Word := 0
  staleCount : Nat := 0
  l2 : Store L2Line := []
  /-- Records of release writes, most recently written first (R208). -/
  records : List (Nat × Sig) := []
  /-- The sync engine's records, which are never dropped (R208). -/
  syncRecords : Store Sig := []
  tlb : List TlbEntry := []
  /-- CURRENT_RAMP_LIMIT (R375), the cycle and core of the last start token granted, and the cores that request one (R255). -/
  rampLimit : Nat := 255
  tokenLast : Option Nat := none
  tokenCore : Nat := 0
  tokenWants : List Nat := []
  /-- DIE_POWER, DIE_POWER_AVG, DIE_VMON and DIE_THROTTLE (R374, R378), and the latest four samples, newest first. -/
  power : Nat := 0
  powerAvg : Nat := 0
  vmon : Nat := 0
  throttled : Bool := false
  samples : List Nat := []
  /-- Whether the die has been throttled in the present telemetry interval (R377). -/
  hot : Bool := false
deriving DecidableEq, Repr

/-- One memory stack (R16). -/
structure Stack where
  /-- SIDE_WAYS, the ways that serve side store, and SIDE_STATUS: a conversion is in progress (R278, R279). -/
  sideWays : BitVec 16 := 0
  sideStatus : BitVec 16 := 0
  converting : Bool := false
  /-- The lines that the ways in cache use keep, by home address / 128 (R16). -/
  kept : Store (Option SideLine) := []
  basins : Store Basin := []
  basinSelect : Nat := 0
  delta : Delta := {}
  /-- BANK_LIMIT (R376) and STACK_TEMP (R374). -/
  bankLimit : Nat := 64
  temp : Word := 0
  /-- Records of release writes, most recently written first (R208). -/
  records : List (Nat × Sig) := []
deriving DecidableEq, Repr

/-- The states of a graph node (R101). -/
inductive NodePhase where
  | waiting | ready | dispatching | running | looping | done | skipped | cancelled | failed
deriving DecidableEq, Repr

/-- The marks that completions send (R100). -/
inductive Mark where
  | run | skip | error
deriving DecidableEq, Repr

/-- A graph node (R98, R100 to R103): its record, the dependences left, the marks recorded in order with their origins, the OR
of their signatures (R210), and what it has come to. -/
structure GraphNode where
  kind : Nat := 0
  deps : Nat := 0
  timeout : Nat := 0
  body : Nat := 0
  cond : Nat := 0
  nstatus : Nat := 0
  succ : List Nat := []
  bodyFirst : Nat := 0
  bodyLast : Nat := 0
  maxIter : Nat := 0
  left : Nat := 0
  marks : List (Mark × Nat) := []
  sig : Sig := 0
  phase : NodePhase := .waiting
  cause : Nat := 0
  origin : Nat := 0
  iter : Nat := 0
  back : Option (Mark × Nat) := none
  started : Bool := false
  /-- Its place in the order in which nodes became READY (R107). -/
  seq : Nat := 0
  launch : Option Nat := none
deriving DecidableEq, Repr

/-- A submitted graph (R96, R97): its nodes and, once accepted, its place in the command journal (R389). -/
structure Graph where
  addr : Nat := 0
  count : Nat := 0
  status : Nat := 0
  accepted : Bool := false
  nodes : Store GraphNode := []
  firstFailed : Option Nat := none
  /-- The OR of the signatures of the releases of its nodes so far, which its status words carry (R97, R101, R204). -/
  sig : Sig := 0
deriving DecidableEq, Repr

/-- A launch (R105 to R108): its node, record and tables as read, what it holds, and how it fails. -/
structure Launch where
  graph : Nat
  node : Nat
  /-- The 256-byte record, the 16-byte placement entries, the ring descriptors and the pin entries. -/
  record : Nat
  places : List Nat
  rings : List Nat
  pinTable : List Nat
  /-- Pins granted: set and round (R346). -/
  pins : List (Nat × Nat) := []
  dispatched : Bool := false
  live : List Nat := []
  parked : List Nat := []
  /-- Context pins of parked contexts: the context, the set and the slot (R347). -/
  parkedPins : List (Nat × Nat × Nat) := []
  resuming : List Nat := []
  failCause : Option Nat := none
  /-- The OR of the carried signatures of its contexts at their final releases (R210). -/
  sig : Sig := 0
  frozen : Bool := false
  /-- The contexts it has created or resumed, each with its generation: a remote error token names them (R108). -/
  gens : List (Nat × Nat) := []
deriving DecidableEq, Repr

/-- A mark on its way to a node of a graph (R100). -/
structure SentMark where
  graph : Nat
  sender : Nat
  node : Nat
  mark : Mark
  origin : Nat
  sig : Sig
deriving DecidableEq, Repr

/-- The graph walker (R95, R96, R107): the SUBMIT registers, the graphs, the launches, and those DISPATCHING in the order in
which they became READY. -/
structure Walker where
  credits : Nat := 64
  /-- Queue entries that are returned at the end of this cycle (R96), and the marks sent in it (R100). -/
  returning : Nat := 0
  sent : List SentMark := []
  frozen : Bool := false
  rejected : Nat := 0
  nextId : Nat := 0
  readyCount : Nat := 0
  graphs : Store (Option Graph) := []
  launches : Store (Option Launch) := []
  dispatching : List Nat := []
deriving DecidableEq, Repr

/-- Who has sent a request (R353), to be told that no port could carry it: a context of a generation, a core that has written a line
back, a copy of a cluster's BXE, a push of a stack's run; `nobody` has. -/
inductive Requester where
  | nobody
  | ctx (x gen : Nat)
  | core (c : Nat)
  | copy (k id : Nat)
  | push (k id : Nat)
deriving DecidableEq, Repr

/-- A request of this module to another package (R353): its number, what it does there, and who has sent it. -/
structure Request where
  pkg : Nat
  number : Nat
  op : Nat
  pa : Nat
  n : Nat
  v : Word
  x : Nat
  sig : Sig
  origin : Requester
deriving DecidableEq, Repr

/-- A data flit kept for replay or received (R352): its SEQ and payload, the request in it, how often it has been sent, and its replays
without progress. -/
structure Flit where
  seq : Nat
  data : Nat
  request : Option Request := none
  sends : Nat := 0
  replays : Nat := 0
deriving DecidableEq, Repr

/-- A Gorper port (R352): the sender's next SEQ, its flits not yet accepted, and those that wait to be sent; the receiver's next expected
SEQ, and the flits it has accepted; the credits that have come back; and the flits put on the link, oldest first. -/
structure Port where
  down : Bool := false
  nextSeq : Nat := 0
  replay : List Flit := []
  waiting : List (Nat × Option Request) := []
  expected : Nat := 0
  received : List Flit := []
  credits : Nat := 0
  out : List Nat := []
deriving DecidableEq, Repr

/-- The module controller (R379 to R382): start-up stage and cause, firmware and attestation. -/
structure Mc where
  stage : Nat := 0
  cause : Nat := 0
  powered : Bool := true
  /-- The cycle in which stage 0 was entered (R377). -/
  stage0 : Nat := 0
  /-- The image that FW_LOAD_GO last wrote to flash, its version and digest, if it has, and whether a write of it has not ended
  (R381). -/
  flash : Option (Nat × Nat) := none
  flashTorn : Bool := false
  /-- The digest of the image that runs (R382). -/
  fwDigest : Nat := 0
  fwStatus : Nat := 0
  fwVersion : Nat := 0
  fwMin : Nat := 0
  /-- Attestations started, and whether one is in progress (R382). -/
  attesting : Nat := 0
  attestBusy : Bool := false
  attestReady : Bool := false
  signature : Option Nat := none
  coreFail : Store Bool := []
  resetting : Option Nat := none
  resetNext : List Nat := []
deriving DecidableEq, Repr

/-- Where a poisoned 32-byte sector lies (R384, R385): at the memory side or a sync engine (by home address / 32), in a die's
L2, in a core's cache banks, or in its local store. -/
inductive PoisonAt where
  | mem (sector : Nat)
  | l2 (die sector : Nat)
  | cache (core sector : Nat)
  | loc (core sector : Nat)
deriving DecidableEq, Repr

/-- A version set's waiting publications and messages: for a round (R349, R350). -/
structure RoundWait where
  set : Nat
  round : Nat
  /-- A publication of a stack's run, or a round-done message. -/
  publication : Option Nat
  sig : Sig
deriving DecidableEq, Repr

/-- Who waits for a round of a version set: a `round.pin` or a `round.wait` of a held bundle, or a launch's pin entry, `none` for the
current round, with the step that goes on (R344, R346, R348). -/
inductive SetAsk where
  | pin (e : Event)
  | wait (e : Event)
  | launch (l : Nat) (round : Option Nat) (e : Event)
deriving DecidableEq, Repr

structure SetWait where
  set : Nat
  ask : SetAsk
deriving DecidableEq, Repr

/-- A party whose access queues at the DRAM sequencer (R315): the bundle of a context, the instruction of a stack's run, an agent's
step, or a write. -/
inductive DramParty where
  | ctx (x : Nat)
  | run (k : Nat)
  | step (e : Event)
  /-- A write that no party stands behind: a number of its own, its data, the bytes of it that it writes, the core that wrote them last if
  it is a write-back, and whether they are poisoned. -/
  | write (id x m : Nat) (core : Option Nat) (bad : Bool)
deriving DecidableEq, Repr

/-- An access that queues at the DRAM sequencer. -/
structure DramWait where
  who : DramParty
  pa : Nat
  n : Nat
deriving DecidableEq, Repr

/-- A store to host or remote memory that its home agent has not acknowledged (R207): a number of its own, the core, and the context, but
for a line that the core has written back. -/
structure Ack where
  id : Nat
  core : Nat
  ctx : Option Nat
deriving DecidableEq, Repr

/-- The module's memory: cells by home address. -/
abbrev Memory := List Host.Cell

/-- A range of home addresses, `lo` to `hi - 1`, whose bytes are unpredictable until they are written (R9, R289, R290). -/
structure Wild where
  lo : Nat
  hi : Nat
  seed : Nat
deriving DecidableEq, Repr

/-- The canonical form of memory: addresses strictly rising, no cell holding 0, which every unlisted address reads as. DESIGN
CHOICE, log entry 4. -/
def Memory.wf (m : Memory) : Bool := Store.wf 0 m

/-- The module (R12). -/
structure State where
  /-- Core cycles since reset (CYCLE, R124). -/
  now : Nat := 0
  cur : Cur := {}
  ctxs : Store Ctx := []
  cores : Store CoreSt := []
  clusters : Store Cluster := []
  dies : Store Die := []
  hbmStacks : Store Stack := []
  /-- Memory at the points of coherence, by home address (R177 to R179, R197). -/
  mem : Memory := []
  /-- Ranges of it that hold unpredictable values; no two share a byte. -/
  wild : List Wild := []
  /-- Bytes the module has written at host and remote addresses; an unlisted one reads as a free value (R177, R355). DESIGN
  CHOICE, log entry 5. -/
  outside : Store (Option Byte) := []
  /-- PT_ROOT and TLB_INVAL (R180). -/
  ptRoot : Word := 0
  /-- The plain registers of the MGMT and CFG windows, by offset (R341, R343, R353, R356, R361, R374 to R382); an unlisted one
  reads 0. -/
  mgmt : Store Word := []
  cfg : Store Word := []
  /-- Writes of TLB_INVAL whose invalidation has not ended (R180). -/
  tlbInval : Nat := 0
  walker : Walker := {}
  packets : List Packet := []
  nextPacket : Nat := 0
  /-- Signatures of version sets' publications (R348, R349), and publications and messages that wait (R349, R350). -/
  setSigs : Store (List (Nat × Sig)) := []
  roundWaits : List RoundWait := []
  /-- Pins and `round.wait`s that wait at the engine, in order of arrival (R344, R348). -/
  setWaits : List SetWait := []
  /-- Context pins (R347): by context, the set and slot pinned. -/
  ctxPins : Store (Option (Nat × Nat)) := []
  ports : Store Port := []
  /-- First replies to numbered requests of peers, by source package and number (R353). -/
  remoteReplies : List ((Nat × Nat) × Nat) := []
  /-- By destination package, the number of the next request (R353). -/
  requestNumbers : Store Nat := []
  /-- The sectors that host writes have changed (R212), and what the host's latest access returned (R216, R355). -/
  hostSig : Sig := 0
  hostData : Nat := 0
  /-- The cycle from which CYCLE counts: the last warm reset (R124, R387). -/
  cycleBase : Nat := 0
  mc : Mc := {}
  poison : List PoisonAt := []
  /-- The accesses that queue at the DRAM sequencers, in arrival order (R315). -/
  dramQueue : List DramWait := []
  /-- Stores to host and remote memory whose acknowledgements are on their way (R207). -/
  acks : List Ack := []
  /-- ERR_CORRECTED, ERR_UNCORRECTED, ERR_LAST_PA and TELEM_HEAD (R374, R377). -/
  errCorrected : Nat := 0
  errUncorrected : Nat := 0
  errLastPa : Nat := 0
  telemHead : Nat := 0
  /-- The context last named by PREEMPT_REQ or RESUME_REQ (R361). -/
  lastNamed : Nat := 0
  /-- Steps waiting to be taken, in order (the model's own form). -/
  agenda : List Event := []
  /-- Steps that fall due at a later cycle. -/
  timers : List (Nat × Event) := []
  /-- Cores whose turn of the present cycle is still to come, and whether this cycle's turns have been given out. -/
  order : List Nat := []
  ran : Bool := false
  /-- An engine has written where the memory map places nothing for it (the model's own). -/
  badAccess : Bool := false
  /-- What the step being taken acts on. -/
  arg : Event := { i := .nop }
  /-- The number of free values taken so far (the model's own). DESIGN CHOICE, log entry 7. -/
  fresh : Nat := 0
deriving DecidableEq, Repr

/-- The MGMT registers whose reset value is not zero: BXE_QUANTA of the clusters (R265) and TEMP_THROTTLE (R374). -/
def resetMgmt : Store Word := ((upTo 12).map fun k => (0x508 + 0x20 * k, 0x01010204#64)) ++ [(0x1418, 0x0640#64)]

/-- The module at power-good: every register at its reset value, zero where the spec states none, memory with nothing listed,
and the module controller about to start (R380). DESIGN CHOICE where the spec states no value, log entries 1 to 6. -/
def State.reset : State := { mgmt := resetMgmt, agenda := [{ i := .powerGood }] }

end Sys2Proof.Machine
end

