-- ==== Sys2Proof/Machine/Ops.lean ====
section
/-!
DEFINITION. The named operations every meaning is written in: reading a context's registers as they stand at the start of
the cycle, queueing a result for the end of its cycle (R84), holding (R7), taking a trap and returning from one (R358,
R359, R369), and the first-event log (R39 to R41).
-/
namespace Sys2Proof.Machine

/-- What a meaning answers. -/
abbrev Out := Host.Outcome State Fault Refusal

/-! ### The context a bundle belongs to -/

/-- Context `i` of the module (R6). -/
def State.ctxAt (s : State) (i : Nat) : Ctx := Store.get {} s.ctxs i

def State.setCtxAt (s : State) (i : Nat) (x : Ctx) : State := { s with ctxs := Store.set {} s.ctxs i x }

def State.modCtxAt (s : State) (i : Nat) (f : Ctx → Ctx) : State := s.setCtxAt i (f (s.ctxAt i))

/-- The context whose bundle is being tried. -/
def State.ctx (s : State) : Ctx := s.ctxAt s.cur.ctx

def State.modCtx (s : State) (f : Ctx → Ctx) : State := s.modCtxAt s.cur.ctx f

def State.modCur (s : State) (f : Cur → Cur) : State := { s with cur := f s.cur }

/-- The core of a context (R6). -/
def coreOf (ctx : Nat) : Nat := ctx / 4

/-- The cluster of a core (R6). -/
def clusterOf (core : Nat) : Nat := core / 64

/-- The die of a core (R6). -/
def dieOf (core : Nat) : Nat := core / 192

/-! ### Registers (R10, R77, R111, R112, R127, R128) -/

def Regs.getS (r : Regs) (n : BitVec 6) : Word := if n = 0 then 0 else Store.get 0 r.s n.toNat
def Regs.getV (r : Regs) (n : BitVec 5) : VWord := Store.get 0 r.v n.toNat
def Regs.getK (r : Regs) (n : BitVec 3) : Mask := if n = 0 then BitVec.allOnes 32 else Store.get 0 r.k n.toNat
def Regs.getC (r : Regs) (n : BitVec 4) : Bool := n != 0 && r.c.getLsbD n.toNat
def Regs.getF (r : Regs) (n : BitVec 4) : Bool := r.f.getLsbD n.toNat
def Regs.getB (r : Regs) (n : BitVec 2) : Word := Store.get 0 r.b n.toNat
def Regs.getH (r : Regs) (n : BitVec 3) : Word := Store.get 0 r.h n.toNat
def Regs.getG (r : Regs) (n : BitVec 3) : Agu := Store.get {} r.g n.toNat

/-- Writes to `s0` are discarded (R111). -/
def Regs.setS (r : Regs) (n : BitVec 6) (x : Word) : Regs :=
  if n = 0 then r else { r with s := Store.set 0 r.s n.toNat x }

def Regs.setV (r : Regs) (n : BitVec 5) (x : VWord) : Regs := { r with v := Store.set 0 r.v n.toNat x }

/-- Writes to `k0` are discarded (R128). -/
def Regs.setK (r : Regs) (n : BitVec 3) (x : Mask) : Regs :=
  if n = 0 then r else { r with k := Store.set 0 r.k n.toNat x }

/-- Writes to `c0` are discarded (R112). -/
def Regs.setC (r : Regs) (n : BitVec 4) (x : Bool) : Regs :=
  if n = 0 then r
  else { r with c := if x then r.c ||| (1#16 <<< n.toNat) else r.c &&& ~~~(1#16 <<< n.toNat) }

def Regs.setB (r : Regs) (n : BitVec 2) (x : Word) : Regs := { r with b := Store.set 0 r.b n.toNat x }
def Regs.setH (r : Regs) (n : BitVec 3) (x : Word) : Regs := { r with h := Store.set 0 r.h n.toNat x }
def Regs.setG (r : Regs) (n : BitVec 3) (x : Agu) : Regs := { r with g := Store.set {} r.g n.toNat x }

/-- The 32 positions of a mask widened to the bits they govern (R127). -/
def maskBits (m : Nat) : Nat :=
  (upTo 32).foldr (fun j acc => (if bit m j then (2 ^ 32 - 1) * 2 ^ (32 * j) else 0) + acc) 0

/-- Positions of `x` where `m` is set, of `old` elsewhere. -/
def mergeV (m : Mask) (old x : VWord) : VWord :=
  if m = BitVec.allOnes 32 then x
  else
    let b : VWord := BitVec.ofNat 1024 (maskBits m.toNat)
    (x &&& b) ||| (old &&& ~~~b)

/-- Register reads of the bundle being tried: the value at the start of the cycle (R46, R84). -/
def State.rS (s : State) (n : BitVec 6) : Word := s.ctx.r.getS n
def State.rV (s : State) (n : BitVec 5) : VWord := s.ctx.r.getV n
def State.rK (s : State) (n : BitVec 3) : Mask := s.ctx.r.getK n
def State.rC (s : State) (n : BitVec 4) : Bool := s.ctx.r.getC n
def State.rB (s : State) (n : BitVec 2) : Word := s.ctx.r.getB n

/-! ### Results over time (R84, R85) -/

/-- Queue a register write of latency `lat`: it takes effect at the end of cycle `now + lat - 1`. -/
def State.queue (s : State) (lat : Nat) (w : RegWrite) : State :=
  s.modCtx fun c =>
    { c with flow := { c.flow with pending := c.flow.pending ++ [⟨s.now + lat - 1, c.flow.stamp, w⟩] } }

/-- A scalar result; the low 64 bits are written (R115). -/
def State.wS (s : State) (lat : Nat) (n : BitVec 6) (x : Word) : State := s.queue lat (.s n x)

def State.wC (s : State) (lat : Nat) (n : BitVec 4) (x : Bool) : State := s.queue lat (.c n x)
def State.wK (s : State) (lat : Nat) (n : BitVec 3) (x : Mask) : State := s.queue lat (.k n x)

/-- A vector result, all positions. -/
def State.wV (s : State) (lat : Nat) (n : BitVec 5) (x : VWord) : State :=
  s.queue lat (.v n (BitVec.allOnes 32) x)

/-! ### Holding (R7, R83) -/

/-- The bundle holds. -/
def State.hold (s : State) : State := s.modCur fun c => { c with
  held := true, heldOther := true, heldMore := true, heldAwake := true, heldElse := true, heldApart := true }

/-- The bundle holds for the answer of a walk or an engine, which delays the traps of higher slots (R52). -/
def State.holdWaiting (s : State) : State :=
  s.modCur fun c => { c with
    held := true, heldOther := true, heldMore := true, heldAwake := true, heldElse := true, heldApart := true, waiting := true }

/-- The bundle holds on flags, `waitw` or `bar.wait`, which lets its core be power-gated (R226). -/
def State.holdQuiet (s : State) : State := s.modCur fun c => { c with
  held := true, heldOther := true, heldMore := true, heldElse := true, heldApart := true }

/-- The bundle holds for a missing start token (R255). -/
def State.holdToken (s : State) : State := s.modCur fun c => { c with
  held := true, heldMore := true, heldAwake := true, heldElse := true, heldApart := true }

/-- Operation codes of a request that only queues an access at the DRAM sequencer; of one that has lines written back which an ordering
operation of the bundle waits for; and of a home agent's acknowledgement. -/
def opDram : Nat := 9
def opFlush : Nat := 10
def opAck : Nat := 11
/-- Of a réseau operation that enters its unit while its bundle holds; the reply is its last corner cycle (R307). -/
def opUnit : Nat := 12

/-- The bundle holds for DRAM that a run claims; its first such access queues at the sequencer (R315). -/
def State.holdDram (s : State) (pa n : Nat) : State :=
  s.modCur fun c => { c with
    held := true, heldOther := true, heldMore := true, heldAwake := true, heldApart := true
    requests := if c.requests.any fun e => e.i == .engineReply && e.c % 16 == opDram then c.requests
      else c.requests ++ [{ i := .engineReply, a := c.ctx, b := c.slot, c := opDram + 16 * pa, d := n }] }

/-- The bundle holds for lower slots of its own: these act first (R211). -/
def State.holdFor (s : State) (slots : List Nat) : State := s.modCur fun c => { c with
  held := true, heldOther := true, heldMore := true, heldAwake := true, heldElse := true, first := slots }

/-- Hold an operation whose meaning is `k`, unless its own checks find a precise trap: no hold but that for a walk or an engine's reply
delays one (R52). What the checks ask for is asked for. -/
def holdUnlessTrapped (k : Out) : Out :=
  match k with
  | .next t => if t.cur.trap.isSome then .next t else .next t.hold
  | o => o

/-- Whether an accumulate-write of a context is neither acknowledged nor declared lost (R207, R286). -/
def State.owesPackets (s : State) (x : Nat) : Bool :=
  s.packets.any fun p => p.ctx == some x && p.gen == (s.ctxAt x).csr.gen && !p.done

/-- Whether an `mdrain.acc` of a context is undecided, or its decision unacknowledged (R370). -/
def State.owesDrain (s : State) (x : Nat) : Bool :=
  s.packets.any fun p => p.ctx == some x && p.gen == (s.ctxAt x).csr.gen && p.drain && !p.done

/-- Whether a copy that the context's aperture stores started has not been taken by the BXE (R207, R264). -/
def State.owesCopies (s : State) (x : Nat) : Bool :=
  (Store.get {} s.clusters (clusterOf (coreOf x))).bxe.channels.any fun e =>
    e.2.any fun r => r.ctx == some x && r.gen == (s.ctxAt x).csr.gen

/-- Whether a release of scope `pkg` or wider has to wait (R207). -/
def State.owes (s : State) (x : Nat) : Bool := s.owesPackets x || s.owesCopies x

/-- Whether a store of a context through a cluster window has not reached its bank (R207). -/
def State.owesWindow (s : State) (x : Nat) : Bool :=
  s.cores.any fun e => e.2.bankReqs.any fun r => r.op.any fun o =>
    o.ctx == x && o.gen == (s.ctxAt x).csr.gen.toNat && o.store.isSome

/-- Whether a load of a context through a cluster window has not been served by its bank, and so has not been performed (R198). -/
def State.owesReads (s : State) (x : Nat) : Bool :=
  s.cores.any fun e => e.2.bankReqs.any fun r => r.op.any fun o =>
    o.ctx == x && o.gen == (s.ctxAt x).csr.gen.toNat && o.store.isNone && o.sink != .taken

/-- Whether an SO access of a context through a cluster window has not been performed (R199). -/
def State.owesSo (s : State) (x : Nat) : Bool :=
  s.cores.any fun e => e.2.bankReqs.any fun r => r.op.any fun o =>
    o.ctx == x && o.gen == (s.ctxAt x).csr.gen.toNat && o.so && o.sink != .taken

/-- Whether a home agent has not acknowledged a store of a context to host or remote memory (R207). -/
def State.owesAcks (s : State) (x : Nat) : Bool := s.acks.any fun a => a.core == coreOf x && (a.ctx.getD x == x)

/-- What a release of a scope has to wait for: earlier loads of any scope, and what R207 names. -/
def State.releaseOwes (s : State) (x scope : Nat) : Bool :=
  s.owesReads x || (decide (2 ≤ scope) && s.owesWindow x) || (decide (4 ≤ scope) && s.owes x) || (decide (5 ≤ scope) && s.owesAcks x)

/-- The acknowledgements that an operation of the bundle waits for. Its own lower slots await theirs once they have been performed ahead
(R211); where none is, what their caches write back on the way is of no store before the operation. -/
def State.ackedBy (s : State) : State :=
  if s.cur.senders.isEmpty then { s with acks := s.acks.filter fun a => decide (a.id < s.cur.began) } else s

/-- Whether a release of the bundle being tried has to wait. -/
def State.owesRelease (s : State) (scope : Nat) : Bool := s.ackedBy.releaseOwes s.cur.ctx scope

/-- The bundle holds for what it owes; what its own lower slots send is sent first (R211). -/
def State.holdAcked (s : State) : State := if s.cur.senders.isEmpty then s.hold else s.holdFor s.cur.senders

/-- A release holds until what R207 names for its scope has come about: the context's cluster-window stores have reached their banks, its
accumulate-writes are acknowledged or declared lost, its aperture stores have been taken, its host and remote stores are acknowledged. -/
def withAcked (s : State) (scope : Nat) (k : Out) : Out := if s.owesRelease scope then .next s.holdAcked else k

/-- An acquire fence holds until the context's earlier loads are performed (R211). -/
def withReads (s : State) (k : Out) : Out := if s.owesReads s.cur.ctx then .next s.holdAcked else k

/-- The slot's operation stores, sends a packet, starts a copy, or asks a bank through the cluster window. -/
def State.noteSender (s : State) : State := s.modCur fun c => { c with senders := c.slot :: c.senders }

/-! ### Taking a trap (R357 to R359) -/

/-- Trap causes (R357). -/
def causeIllegal : Nat := 0x01
def causeBundle : Nat := 0x02
def causeCodeLimit : Nat := 0x03
def causeTranslation : Nat := 0x04
def causeProtection : Nat := 0x05
def causeIntegrity : Nat := 0x06
def causeShadow : Nat := 0x07
def causeTranspose : Nat := 0x08
def causeTrap : Nat := 0x09
def causeBreak : Nat := 0x0A
def causeMachineCheck : Nat := 0x0B
def causePreempt : Nat := 0x20
def causeCopy : Nat := 0x21
def causeRemote : Nat := 0x22
def causeResume : Nat := 0x24

/-- Entering the trap routine (R358): the trap registers are written, TRAP_STATUS from the flags, the mode becomes
privileged and the PC is TRAP_VEC. -/
def Ctx.enterTrap (c : Ctx) (pc : Word) (slot cause : Nat) (info : Word) : Ctx :=
  { c with
    priv := true
    pc := c.trap.vec
    trap := { c.trap with
      pc := pc &&& ~~~0xF#64, slot := BitVec.ofNat 2 slot, cause := BitVec.ofNat 8 cause, info := info, status := c.r.f } }

/-- A precise cause in the slot being tried. The context enters the trap routine, or, in privileged mode, a double fault
retires it (R359); the step reads `cur.trap` and applies this entry to the state before the bundle (R52). -/
def State.takeTrap (s : State) (cause : Nat) (info : Word) : State :=
  let s := s.modCtx fun c =>
    if c.priv then { c with phase := .retiring } else c.enterTrap s.cur.pc s.cur.slot cause info
  s.modCur fun c => { c with trap := some ⟨cause, info, c.slot⟩ }

/-- The illegal-instruction trap: TRAP_INFO is the slot's word (R53, R357). -/
def State.illegal (s : State) : State := s.takeTrap causeIllegal (BitVec.ofNat 64 s.cur.word)

/-- TRAP_INFO of a register-file parity error (R357). -/
def parityInfo (r : Nat × Nat) : Word := BitVec.ofNat 64 (r.2 % 64 + 2 ^ 8 * r.1)

/-- Registers that an operation finds it reads only as it goes on, the later ones of a group or a flag learnt from a record: one whose
parity is in error is a machine check (R357). -/
def withSound (s : State) (rs : List (Nat × Nat)) (k : Out) : Out :=
  match s.ctx.flow.parity.find? fun r => rs.contains r with
  | some r => .next (s.takeTrap causeMachineCheck (parityInfo r))
  | none => k

/-- Returning from the routine (R369): user mode, the PC of TRAP_PC, and the skip bits of an asynchronous cause. -/
def Ctx.returnFromTrap (c : Ctx) : Ctx :=
  { c with
    priv := false
    pc := c.trap.pc &&& ~~~0xF#64
    flow := { c.flow with
      skip := if 0x20 ≤ c.trap.cause.toNat then c.trap.info.setWidth 4 else 0 } }

/-! ### The first-event log (R39 to R41) -/

/-- Record the events of the slot being tried, unless the context is privileged (R359). -/
def State.logEvs (s : State) (evs : List (EvKind × Nat)) : State :=
  if evs.isEmpty ∨ s.ctx.priv then s
  else s.modCur fun c => { c with evs := c.evs ++ evs.map fun e => ⟨c.slot, e.1.code, e.2⟩ }

/-- Events of a scalar instruction, at lane 0 (R40). -/
def State.logScalar (s : State) (evs : List EvKind) : State := s.logEvs (evs.map fun e => (e, 0))

/-- The entry kept among the events of one bundle: lowest slot, then lowest code, then lowest lane (R40). -/
def LogEntry.better (a b : LogEntry) : Bool :=
  decide (a.slot < b.slot) || (a.slot == b.slot && (decide (a.code < b.code) ||
    (a.code == b.code && decide (a.lane < b.lane))))

def bestEntry : List LogEntry → Option LogEntry
  | [] => none
  | e :: es => match bestEntry es with
    | none => some e
    | some b => some (if b.better e then b else e)

/-- The kept entry as its slot, code and lane. -/
def EvLog.kept (l : EvLog) : LogEntry := ⟨l.slot.toNat, l.kind.toNat % 8, l.kind.toNat / 256⟩

/-- Whether an event of a bundle issued at `stamp` replaces the kept entry: the log is empty, the event's bundle issued earlier, or
it is the same bundle's and stands before the kept one, however late it was detected (R40). -/
def EvLog.replacedBy (l : EvLog) (stamp : Nat) (e : LogEntry) : Bool :=
  l.kind.setWidth 3 == 0#3 || decide (stamp < l.stamp) || (stamp == l.stamp && e.better l.kept)

/-- Record the events of one bundle, or of one landing, issued at `stamp` from `pc` (R39 to R41): the event that stands first
replaces the kept entry where it stands before it, and events issued at or before the last clear are not recorded. EVLOG_PC holds
bits [56:4] (R124). -/
def EvLog.record (l : EvLog) (stamp : Nat) (pc : Word) (evs : List LogEntry) : EvLog :=
  match bestEntry evs with
  | none => l
  | some e =>
    let l := if l.sumClear < stamp then
        { l with sum := evs.foldl (fun b x => b ||| (1#6 <<< (x.code - 1))) l.sum }
      else l
    if l.clear < stamp ∧ l.replacedBy stamp e then
      { l with pc := pc &&& 0x01FFFFFFFFFFFFF0#64, slot := BitVec.ofNat 2 e.slot, kind := BitVec.ofNat 13 (e.lane * 256 + e.code), stamp := stamp }
    else l

/-- Empty the log (R41): events of instructions issued with the clear or before it are not recorded. -/
def EvLog.cleared (l : EvLog) (stamp : Nat) : EvLog :=
  { l with pc := 0, slot := 0, kind := 0, sum := 0, stamp := 0, clear := stamp, sumClear := stamp }

/-- Go on with a write to a register of the MGMT window other than the power and monitor registers of R374: usable from stage 1 on
(R380). -/
def withMgmt (s : State) (k : Out) : Out := if s.mc.stage = 1 ∨ s.mc.stage = 2 then k else .next s

end Sys2Proof.Machine
end

