-- ==== Sys2Proof/Machine/Operands.lean ====
section
/-!
DEFINITION. Operand forms: lent bits (R57, R58), immediates, offsets, due cycles (R59) and the rounding selection (R133).
-/
namespace Sys2Proof.Machine

/-- The value the LEND header lends to the slot, `none` where the slot receives none (R57). -/
def State.lentOpt (s : State) : Option Nat :=
  match s.cur.lend with
  | none => none
  | some (a, b, c) =>
    match s.cur.slot with
    | 1 => some a
    | 2 => some b
    | 3 => some c
    | _ => none

/-- The lent value `L`, zero where none is received (R57). -/
def State.lent (s : State) : Nat := s.lentOpt.getD 0

/-- How many bits are lent: 9 in slots 1 and 2, 8 in slot 3, none elsewhere (R57, R58). -/
def State.lentWidth (s : State) : Nat :=
  match s.lentOpt with
  | none => 0
  | some _ => if s.cur.slot = 3 then 8 else 9

/-- A format that takes no lent bits: `L` must be zero (R53, R58). -/
def noLent (s : State) (k : Out) : Out := if s.lent = 0 then k else .next s.illegal

/-- A field of `n` bits under the lent bits, read as signed (R58). -/
def State.signedField (s : State) {n : Nat} (x : BitVec n) : Int :=
  toInt (n + s.lentWidth) true (s.lent * 2 ^ n + x.toNat)

/-- A field of `n` bits under the lent bits, read as unsigned (R58). -/
def State.unsignedField (s : State) {n : Nat} (x : BitVec n) : Nat := s.lent * 2 ^ n + x.toNat

/-- `L` alone as a signed offset (R58), 0 where no bits are lent. -/
def State.lentOffset (s : State) : Int :=
  if s.lentWidth = 0 then 0 else toInt s.lentWidth true s.lent

/-- An integer as a 64-bit register value (R10). -/
def word (i : Int) : Word := BitVec.ofInt 64 i

/-- A due cycle must lie in 1 to 1023 (R53, R59). -/
def withDue (s : State) (n : Nat) (k : Nat → Out) : Out :=
  if 1 ≤ n ∧ n ≤ 1023 then k n else .next s.illegal

/-- The rounding code and saturation of a V-class operation or MDR form (R58, R133): a lent code, or FPCTL and IEEE
overflow. A lent code 0b110, or bits above [3], is illegal. -/
def State.rounding (s : State) : Option (Nat × Bool) :=
  match s.lentOpt with
  | none => some (7, false)
  | some l => if l % 8 = 6 ∨ 16 ≤ l then none else some (l % 8, bit l 3)

/-- The mode a rounding code names: 0b111 takes it from FPCTL (R27). -/
def State.modeOf (s : State) (code : Nat) : Rnd :=
  if code = 7 then Rnd.ofCode s.ctx.csr.fpctl.toNat else Rnd.ofCode code

/-- Run with the rounding mode and the saturation selection, or take the illegal-instruction trap (R53). -/
def withRounding (s : State) (k : Rnd → Bool → Out) : Out :=
  match s.rounding with
  | none => .next s.illegal
  | some (c, sat) => k (s.modeOf c) sat

/-- Run after the check of the lent bits only. -/
def withRoundingIgnored (s : State) (k : Out) : Out :=
  match s.rounding with
  | none => .next s.illegal
  | some _ => k

end Sys2Proof.Machine
end

