-- ==== Sys2Proof/Machine/Flags.lean ====
section
/-!
DEFINITION. Conditions and flags: the condition codes of R68 on integers (R122) and floating-point values (R140), and the
event flags f0 to f15 (R55, R56, R217).
-/
namespace Sys2Proof.Machine

/-- An integer condition on two `w`-bit words (R122, R140). -/
def intCond (w : Nat) (cc : Nat) (a b : Nat) : Bool :=
  let x := toInt w true a
  let y := toInt w true b
  match cc with
  | 0 => decide (x = y)
  | 1 => decide (x ≠ y)
  | 2 => decide (x < y)
  | 3 => decide (x ≥ y)
  | 4 => decide (x ≤ y)
  | 5 => decide (x > y)
  | 6 => decide (a < b)
  | 7 => decide (a ≥ b)
  | 8 => decide (a ≤ b)
  | 9 => decide (a > b)
  | 10 => a &&& b != 0
  | _ => a &&& b == 0

/-- A floating-point condition and whether it logs INVALID (R140). -/
def floatCond (cc : Nat) (a b : Val) : Bool × List EvKind :=
  let o := a.cmp b
  let nan := if a.isNan || b.isNan then [EvKind.invalid] else []
  let snan := if a.isSnan || b.isSnan then [EvKind.invalid] else []
  match cc with
  | 0 => (o == some .eq, snan)
  | 1 => (o != some .eq, snan)
  | 2 => (o == some .lt, nan)
  | 3 => (o == some .gt || o == some .eq, nan)
  | 4 => (o == some .lt || o == some .eq, nan)
  | 5 => (o == some .gt, nan)
  | 12 => (o == none, snan)
  | _ => (o != none, snan)

/-- Whether the flags named by `m` meet a wait: every one in mode 0, some one in mode 1 (R55, R218). -/
def flagsMet (f m : BitVec 16) (any : Bool) : Bool :=
  if any then f &&& m != 0 else f &&& m == m

/-- The bundle sets flags; the update is made at the end of its cycle (R217). -/
def State.setFlags (s : State) (m : BitVec 16) : State := s.modCur fun c => { c with flagSet := c.flagSet ||| m }

/-- The bundle clears flags at the end of its cycle (R217). -/
def State.clearFlags (s : State) (m : BitVec 16) : State := s.modCur fun c => { c with flagClr := c.flagClr ||| m }

/-- The flags at the end of a cycle: a set prevails over a clear (R56, R217). -/
def updateFlags (f set clr : BitVec 16) : BitVec 16 := (f &&& ~~~clr) ||| set

end Sys2Proof.Machine
end

