-- ==== Sys2Proof/Machine/Lanes.lean ====
section
/-!
DEFINITION. Lanes of a vector register (R127 to R130), the random stream (R153 to R155), and the shapes of vector
instructions: per element, reduction, scan.
-/
namespace Sys2Proof.Machine

/-- The `n` elements of `w` bits of a number, lowest first (R127). -/
def elemsOf (w : Nat) : Nat → Nat → List Nat
  | 0, _ => []
  | n + 1, x => x % 2 ^ w :: elemsOf w n (x / 2 ^ w)

/-- The elements of a vector register of element width `w` (R127). -/
def elems (w : Nat) (x : VWord) : List Nat := elemsOf w (1024 / w) x.toNat

/-- The number whose elements of `w` bits are listed, lowest first. -/
def joinNat (w : Nat) : List Nat → Nat
  | [] => 0
  | e :: es => e % 2 ^ w + 2 ^ w * joinNat w es

/-- The vector register of the listed elements. -/
def joinV (w : Nat) (l : List Nat) : VWord := BitVec.ofNat 1024 (joinNat w l)

/-- The position of element `i` (R127). -/
def position (w i : Nat) : Nat := if w = 64 then 2 * i else i * w / 32

/-- Whether element `i` is enabled by mask `m` (R128). -/
def enabled (m : Mask) (w i : Nat) : Bool := m.getLsbD (position w i)

/-- One element's result: the bits and the kinds it raises. -/
abbrev Elem := Nat × List EvKind

/-- Number the elements of a list. -/
def indexed {α : Type} (l : List α) : List (Nat × α) := (upTo l.length).zip l

/-- The events of per-element results, each at its element's position (R130). -/
def laneEvents (w : Nat) (rs : List Elem) : List (EvKind × Nat) :=
  (indexed rs).flatMap fun p => p.2.2.map fun k => (k, position w p.1)

/-! ### The random stream -/

/-- One round of Philox4x32 on counter words and key words (R153). -/
def philoxRound (c : Nat × Nat × Nat × Nat) (k0 k1 : Nat) : Nat × Nat × Nat × Nat :=
  let (c0, c1, c2, c3) := c
  let p0 := 0xD2511F53 * c0
  let p1 := 0xCD9E8D57 * c2
  (((p1 / 2 ^ 32) ^^^ c1) ^^^ k0, p1 % 2 ^ 32, ((p0 / 2 ^ 32) ^^^ c3) ^^^ k1, p0 % 2 ^ 32)

def philoxRounds : Nat → Nat × Nat × Nat × Nat → Nat → Nat → Nat × Nat × Nat × Nat
  | 0, c, _, _ => c
  | n + 1, c, k0, k1 =>
    philoxRounds n (philoxRound c k0 k1) ((k0 + 0x9E3779B9) % 2 ^ 32) ((k1 + 0xBB67AE85) % 2 ^ 32)

/-- Philox4x32-10: the four words of a block (R153). -/
def philox (key ctr : Nat) : Nat × Nat × Nat × Nat :=
  philoxRounds 10 (ctr % 2 ^ 32, ctr / 2 ^ 32 % 2 ^ 32, ctr / 2 ^ 64 % 2 ^ 32, ctr / 2 ^ 96 % 2 ^ 32)
    (key % 2 ^ 32) (key / 2 ^ 32 % 2 ^ 32)

/-- Word `m` of a block. -/
def philoxWord (key ctr m : Nat) : Nat :=
  let (a, b, c, d) := philox key ctr
  match m with
  | 0 => a
  | 1 => b
  | 2 => c
  | _ => d

/-- The counter of position `j` (R154): `base` is STREAM_BASE plus the bundle's `a`. -/
def streamCtr (base j : Nat) : Nat := (base + j * 2 ^ 40) % 2 ^ 64

/-- Draw(i, W) (R154). -/
def drawWord (key base w i : Nat) : Nat :=
  if w = 64 then philoxWord key (streamCtr base (2 * i)) 0
  else philoxWord key (streamCtr base (i * w / 32)) (i % (32 / w))

/-- STREAM_BASE plus `a`: 1 after another drawing instruction of the bundle (R154). -/
def State.drawBase (s : State) : Nat := s.ctx.csr.streamBase.toNat + s.cur.draws

/-- The drawing instruction commits (R155). -/
def State.drew (s : State) (yes : Bool) : State := if yes then s.modCur fun c => { c with draws := c.draws + 1 } else s

/-- The random word of element `i` when the mode is SR, 0 otherwise (only SR looks at it, R28). -/
def State.rnd (s : State) (mode : Rnd) (w i : Nat) : Nat :=
  if mode = .sr then drawWord s.ctx.csr.seed.toNat s.drawBase w i else 0

/-! ### Shapes -/

/-- Per element: enabled elements by `f`, disabled ones as `old` has them, silent (R129). -/
def perElement (w : Nat) (m : Mask) (old : List Nat) (f : Nat → Elem) : List Elem :=
  (indexed old).map fun p => if enabled m w p.1 then f p.1 else (p.2, [])

/-- A per-element vector instruction on view `w`: log at issue, write `vd` after `lat` cycles (R129 to R131). -/
def State.perElement (s : State) (w lat : Nat) (d : BitVec 5) (k : BitVec 3) (f : Nat → Elem) : State :=
  let rs := Machine.perElement w (s.rK k) (elems w (s.rV d)) f
  (s.logEvs (laneEvents w rs)).wV lat d (joinV w (rs.map (·.1)))

/-- Element `i` of a list of elements. -/
def at' (l : List Nat) (i : Nat) : Nat := l.getD i 0

/-- A copy of elements, latency 1, that ignores the rounding selection (R133, R141). -/
def copyElements (s : State) (w lat : Nat) (d : BitVec 5) (k : BitVec 3) (f : Nat → Nat) : Out :=
  withRoundingIgnored s (.next (s.perElement w lat d k fun i => (f i, [])))

/-- A node or leaf of a reduction: its value, its lane (the lowest present leaf beneath) and what it raised so far. -/
structure Node where
  x : Nat
  lane : Nat
  evs : List (EvKind × Nat)
deriving DecidableEq, Repr

/-- Combine two nodes; what the node raises is logged at its lane (R130). -/
def combine (f : Nat → Nat → Elem) (a b : Node) : Node :=
  let r := f a.x b.x
  let lane := min a.lane b.lane
  ⟨r.1, lane, a.evs ++ b.evs ++ r.2.map fun k => (k, lane)⟩

/-- A floating-point result that is a NaN and that no node has formed, a lone leaf passed up unchanged (R43), is written canonical and
raises what a NaN operand raises (R26, R39). Every other NaN has raised its events where it was formed. -/
def loneNan (t : Nat) (e : Elem) : Elem :=
  if decide (8 ≤ t) && e.2.isEmpty && ((fmtOf t).decode e.1).isNan then
    ((fmtOf t).nan, nanEvents ((fmtOf t).decode e.1).isSnan)
  else e

/-- The same of a node, at its lane. -/
def Node.written (t : Nat) (n : Node) : Node :=
  if n.evs.isEmpty then
    let r := loneNan t (n.x, [])
    { n with x := r.1, evs := r.2.map fun k => (k, n.lane) }
  else n

/-- The leaves: enabled elements (R43, R143). -/
def leafOf (w : Nat) (m : Mask) (xs : List Nat) (i : Nat) : Option Node :=
  if enabled m w i then some ⟨at' xs i, position w i, []⟩ else none

/-- The sum over the blocks of a scan, left to right (R43). -/
def addBlocks (f : Nat → Nat → Elem) : Option Node → List (Option Node) → Option Node
  | acc, [] => acc
  | none, b :: bs => addBlocks f b bs
  | some a, none :: bs => addBlocks f (some a) bs
  | some a, some b :: bs => addBlocks f (some (combine f a b)) bs

/-- The value of a scan at element `i` (R43, R144). -/
def scanAt (f : Nat → Nat → Elem) (leaf : Nat → Option Node) (depth i : Nat) : Option Node :=
  addBlocks f none ((scanBlocks (i + 1) (depth + 1) 0).map fun p => pairTree (combine f) leaf p.1 p.2)

/-- log2 of the element count of a width (R131). -/
def logElems (w : Nat) : Nat := match w with
  | 8 => 7 | 16 => 6 | 32 => 5 | _ => 4

end Sys2Proof.Machine
end

