-- ==== Sys2Proof/Config.lean ====
section
/-!
DEFINITION. What the spec leaves open: free values, each an opaque function of the counter the step advances (or of what it
depends on). No proof can see them.
-/
namespace Sys2Proof.Config

/-- Cycles until the data of the `n`-th variable-latency request arrive (R86, R390: typical times only). DESIGN CHOICE, log entry 12. -/
opaque arrivalDelay : Nat → Nat

/-- Cycles an engine or a walk takes for the `n`-th request (R187, R220, R390: typical times only). DESIGN CHOICE, log entry 13. -/
opaque engineDelay : Nat → Nat

/-- A byte read from a peer package's or the host's memory, which is outside the module (R177, R353, R355). DESIGN CHOICE, log entry
5. -/
opaque outsideByte : Nat → Byte

/-- An unpredictable value's byte (R9). DESIGN CHOICE, log entries 7 and 70. -/
opaque unpredictableByte : Nat → Byte

/-- A byte of a range of memory whose bytes are unpredictable (R9, R289, R290): of a counter and its address. DESIGN CHOICE,
log entry 92. -/
opaque openByte : Nat → Nat → Byte

/-- Whether the staged data that the engine reads for a half lie in a poisoned sector of the staging area (R289 states no placing of its
slots): of a counter and the sector. DESIGN CHOICE, log entry 92. -/
opaque stagedIn : Nat → Nat → Bool

/-- Which of the candidates gives way in a full L2, instruction cache or way of the memory-side cache, and which way takes a line: of
the cycle and the line that comes in (R14 to R16 state no policy). DESIGN CHOICE, log entry 89. -/
opaque victim : Nat → Nat → Nat

/-- Whether the home agent of host or peer memory refuses the `n`-th copy that reaches it (R275). DESIGN CHOICE, log entry 50. -/
opaque homeRefuses : Nat → Bool

/-- How a peer package's engine answers the `n`-th reservation (R284, R354): 0 grants, 1 to 4 are the fault replies, others
wait. DESIGN CHOICE, log entry 50. -/
opaque peerReply : Nat → Nat

/-- Whether a peer package acknowledges the `n`-th packet or push sent to it (R286, R354). DESIGN CHOICE, log entry 50. -/
opaque peerAcks : Nat → Bool

/-- The `n`-th status word read from a peer package's basin table (R295, R354). DESIGN CHOICE, log entry 50. -/
opaque peerWord : Nat → Word

/-- The payload bytes of a transaction packet (R352), whose layout the spec does not give: of a list of what it says.
DESIGN CHOICE, log entry 62. -/
opaque packetBytes : List Nat → Nat

/-- A vector the spec states no value for (R9, R194). DESIGN CHOICE, log entries 25 and 70. -/
opaque openVector : Nat → VWord

/-- Whether a lane of a register that an all-bank load fills already reads as loaded (R332): of a counter and the lane. DESIGN CHOICE,
log entry 56. -/
opaque laneLoaded : Nat → Nat → Bool

/-- A measurement of power, voltage or process (R377). DESIGN CHOICE, log entry 67. -/
opaque measured : Nat → Nat

/-- Whether a mean that is no whole number of milliwatts is rounded up (R374, R377). DESIGN CHOICE, log entry 66. -/
opaque meanRounds : Nat → Bool

/-- Whether the image that flash holds until FW_LOAD_GO writes one is good, its version and its digest (R381, R382). DESIGN
CHOICE, log entry 67. -/
opaque flashGood : Bool
opaque flashVersion : Nat
opaque flashDigest : Nat

/-- The version of an image whose signature verifies, `none` for one that does not (R381): of its length and its bytes.
DESIGN CHOICE, log entry 67. -/
opaque imageVersion : Nat → Nat → Option Nat

/-- The digest of an image's body (R381), whose place in the image the spec does not give: of its length and its bytes.
DESIGN CHOICE, log entry 67. -/
opaque imageDigest : Nat → Nat → Nat

/-- Whether the units of a stage pass self-test, and whether a core fails (R380, R383). DESIGN CHOICE, log entry 67. -/
opaque selfTest : Nat → Bool
opaque coreFails : Nat → Nat → Bool

/-- The signature of an attestation (R382): of what it covers and a counter. DESIGN CHOICE, log entry 67. -/
opaque signature : Nat → Nat → Nat

/-- What each part is made with: IDENT, the certificate chain (R379), and its nominal rail voltage in mV (R378). DESIGN CHOICE,
log entry 67. -/
opaque ident : Nat
opaque devCert : Nat → Byte
opaque nominalRail : Nat

end Sys2Proof.Config
end

