-- ==== Sys2Proof/Machine/Ports.lean ====
section
/-!
DEFINITION. The Gorper ports: flits (R352), the requests that this module sends to other packages and the ports that carry them
(R353). The steps in which flits come in are in Fabric.
-/
namespace Sys2Proof.Machine

/-! ### Steps that become due -/

/-- Make a step due after `d` cycles (the model's own form). -/
def State.later (s : State) (d : Nat) (e : Event) : State := { s with timers := s.timers ++ [(s.now + d, e)] }

/-- Make a step due after an engine's delay, which the spec leaves open (R390). -/
def State.laterOpen (s : State) (e : Event) : State :=
  { s with timers := s.timers ++ [(s.now + 1 + Config.engineDelay s.fresh, e)], fresh := s.fresh + 1 }

/-- Make a step the next to be taken after those already waiting. -/
def State.soon (s : State) (e : Event) : State := { s with agenda := s.agenda ++ [e] }

/-! ### Error counters (R374, R384) -/

/-- One more error; the counters saturate. -/
def countError (n : Nat) : Nat := min (2 ^ 64 - 1) (n + 1)

/-- An error that is corrected, and one that cannot be. -/
def State.corrected (s : State) : State := { s with errCorrected := countError s.errCorrected }
def State.uncorrected (s : State) : State := { s with errUncorrected := countError s.errUncorrected }

/-! ### Flits (R352) -/

def State.port (s : State) (k : Nat) : Port := Store.get {} s.ports k
def State.modPort (s : State) (k : Nat) (f : Port → Port) : State := { s with ports := Store.set {} s.ports k (f (s.port k)) }

/-- 2 µs in core cycles (R4). -/
def flitCycles : Nat := 5000

/-- One bit of the CRC of IEEE 802.3, least significant bit first. -/
def crcBit (c : Nat) : Nat := if c % 2 = 1 then (c / 2) ^^^ 0xEDB88320 else c / 2

/-- The CRC register after one byte, already combined with it. -/
def crcByte (c : Nat) : Nat := (upTo 8).foldl (fun c _ => crcBit c) c

/-- The CRC register after the low `n` bytes of a number. Both branches say the same: the test makes each byte be computed before the
next. -/
def crcBytes : Nat → Nat → Nat → Nat
  | 0, _, c => c
  | n + 1, x, c =>
    let c := crcByte (c ^^^ x % 256)
    if c = 0 then crcBytes n (x / 256) 0 else crcBytes n (x / 256) c

/-- CRC-32 of the low `n` bytes of a number, as IEEE 802.3 computes it: preset to ones and complemented (R352). PRESUMED, log
entry 94. -/
def crc32 (n x : Nat) : Nat := crcBytes n x 0xFFFFFFFF ^^^ 0xFFFFFFFF

/-- The types of a flit. -/
def flitIdle : Nat := 0
def flitData : Nat := 1
def flitNak : Nat := 2

/-- The 256 bytes of a flit. -/
def flitImage (seq ack type credits payload : Nat) : Nat :=
  let x := seq % 2 ^ 12 + ack % 2 ^ 12 * 2 ^ 12 + type % 16 * 2 ^ 24 + credits % 2 ^ 8 * 2 ^ 28 + payload % 2 ^ 1952 * 2 ^ 64
  x + crc32 252 x * 2 ^ 2016

/-- The last SEQ that a port has received in order. -/
def Port.lastGood (p : Port) : Nat := (p.expected + 2 ^ 12 - 1) % 2 ^ 12

/-- Put a flit on the link: it carries the last SEQ received in order. -/
def Port.put (p : Port) (seq type credits payload : Nat) : Port :=
  { p with out := p.out ++ [flitImage seq p.lastGood type credits payload] }

/-- Put a kept flit on port `k`'s link and watch it for 2 µs. -/
def State.transmit (s : State) (k : Nat) (f : Flit) : State :=
  (s.modPort k fun p => { p.put f.seq flitData 0 f.data with
    replay := p.replay.map fun g => if g.seq = f.seq then { g with sends := g.sends + 1 } else g }).later flitCycles
    { i := .flitReplayTimeout, a := k, b := f.seq, c := f.sends + 1 }

/-- Flits that a sender keeps for replay (R352). -/
def replayRoom : Nat := 512

/-- Send a data flit: it is kept until it is accepted, and waits while the sender already keeps 512. -/
def State.sendFlit (s : State) (k data : Nat) (r : Option Request) : State :=
  let p := s.port k
  if p.replay.length < replayRoom then
    let f : Flit := { seq := p.nextSeq, data := data, request := r }
    (s.modPort k fun p => { p with nextSeq := (p.nextSeq + 1) % 2 ^ 12, replay := p.replay ++ [f] }).transmit k f
  else s.modPort k fun p => { p with waiting := p.waiting ++ [(data, r)] }

/-! ### Requests to other packages (R353) -/

/-- The ports of GPORT_ROUTE[p] that are up. -/
def State.portsTo (s : State) (p : Nat) : List Nat :=
  (upTo 16).filter fun k => (Store.get 0 s.mgmt (0xE00 + 8 * p)).getLsbD k && !(s.port k).down

/-- Whether some port can carry a request to package `p`. -/
def State.reachable (s : State) (p : Nat) : Bool := !(s.portsTo p).isEmpty

/-- The port of a reply or request to package `p` for an address. -/
def State.portFor (s : State) (p pa : Nat) : Option Nat :=
  let l := s.portsTo p
  l[bits pa 15 12 % l.length]?

/-! The operations of a request; log entry 94. The spec names what travels between packages and gives no codes: the model's own. -/

def reqRead : Nat := 0
def reqWrite : Nat := 1
/-- A `sig` or an engine's action (R222); a barrier's completion (R224). -/
def reqSignal : Nat := 2
def reqReserve : Nat := 3
def reqBarFlag : Nat := 4
def reqBarInit : Nat := 5
def reqBarArrive : Nat := 6
def reqBarWait : Nat := 7
/-- A round-done message (R349). -/
def reqRoundDone : Nat := 8
/-- A packet under a reservation, and a reservation given back (R284). -/
def reqPacket : Nat := 9
def reqRelease : Nat := 10
/-- A `waitw` on a sync page (R231), a `basin.q` (R295), an `amo` (R213). -/
def reqWatch : Nat := 11
def reqQuery : Nat := 12
def reqAmo : Nat := 13
/-- The answer to a `waitw` whose word has met its condition. -/
def reqMet : Nat := 14
/-- An `ntile` (R94). -/
def reqTile : Nat := 15

/-- Codes of `remoteRequestFail` for who is told: a context, a core, a copy, a push. -/
def failedCtx : Nat := 0
def failedCore : Nat := 1
def failedCopy : Nat := 2
def failedPush : Nat := 3

/-- Numbers from here on are of no push: a run's `dsig` to another package goes by the cycle in which the run began (R335). -/
def noPush : Nat := 2 ^ 64

/-- A request that no port can carry fails: a core's comes back as an error token, a copy's and a push's stop these (R353). -/
def State.failRequest (s : State) (r : Request) : State :=
  let tell (who a g : Nat) : State :=
    s.laterOpen { i := .remoteRequestFail, a := a, b := r.pkg, c := g, d := who, v := BitVec.ofNat 64 r.pa }
  match r.origin with
  | .nobody => s
  | .ctx x g => tell failedCtx x g
  | .core c => tell failedCore c 0
  | .copy k id => tell failedCopy k id
  | .push k id => tell failedPush k id

/-- Whether a request of a party has not been accepted by the port that carries it (R352). -/
def State.carrying (s : State) (o : Requester) : Bool :=
  s.ports.any fun e =>
    (e.2.replay.any fun f => f.request.any fun r => r.origin == o) || e.2.waiting.any fun w => w.2.any fun r => r.origin == o

/-- Put a numbered request on a port of its route. -/
def State.putRequest (s : State) (r : Request) : State :=
  match s.portFor r.pkg r.pa with
  | some k => s.sendFlit k (Config.packetBytes [0, r.number, r.op, r.pa, r.n, r.v.toNat, r.x, r.sig.toNat]) (some r)
  | none => s.failRequest r

/-- Send a request to package `p`: it takes the next number of this source for that destination. -/
def State.sendRequest (s : State) (p op pa n : Nat) (v : Word) (x : Nat) (origin : Requester) (g : Sig := 0) :
    State :=
  let number := Store.get 0 s.requestNumbers p
  { s with requestNumbers := Store.set 0 s.requestNumbers p (number + 1) }.putRequest
    { pkg := p, number := number, op := op, pa := pa, n := n, v := v, x := x, sig := g, origin := origin }

/-- Send a reply to package `p`. -/
def State.sendReply (s : State) (p number pa x : Nat) : State :=
  match s.portFor p pa with
  | some k => s.sendFlit k (Config.packetBytes [1, number, x]) none
  | none => s

end Sys2Proof.Machine
end

