-- ==== Sys2Proof/Machine/Mem.lean ====
section
/-!
DEFINITION. Memory: the physical map and its views (R177 to R179), the memory side, the die L2s and the cores' cache banks
(R169, R197 to R203), dirty-sector signatures and records (R206 to R209).
-/
namespace Sys2Proof.Machine

/-! ### The physical map (R177) -/

def hbmBase : Nat := 0x010000000000
def sideBase : Nat := 0x020000000000
def windowBase : Nat := 0x020100000000
def syncBase : Nat := 0x020200000000
def apertureBase : Nat := 0x020300000000
def hostBase : Nat := 0x4000000000000
def remoteBase : Nat := 0x8000000000000

/-- What a physical address names (R177). -/
inductive Region where
  | hbm
  | side
  | window (core : Nat)
  | sync (die : Nat)
  | aperture (cluster : Nat)
  | host
  | remote (package : Nat)
  | unassigned
deriving DecidableEq, Repr

/-- The region of an address in a module's own map. -/
def localRegion (pa : Nat) : Region :=
  if pa < 0x020000000000 then .hbm
  else if pa < 0x020100000000 then .side
  else if pa < 0x020100000000 + 0x18000000 then (if windowBase ≤ pa then .window ((pa - windowBase) / 2 ^ 19) else .unassigned)
  else if syncBase ≤ pa ∧ pa < syncBase + 0x1000000 then .sync ((pa - syncBase) / 2 ^ 22)
  else if apertureBase ≤ pa ∧ pa < apertureBase + 0xC0000 then .aperture ((pa - apertureBase) / 2 ^ 16)
  else .unassigned

/-- The region of a physical address; a remote address reaches only the peer's HBM views, side store and sync SRAM (R177). -/
def region (pa : Nat) : Region :=
  if remoteBase ≤ pa then
    (match localRegion (pa % 2 ^ 45) with
     | .hbm | .side | .sync _ => if pa < 2 ^ 52 then .remote (pa / 2 ^ 45 % 64) else .unassigned
     | _ => .unassigned)
  else if hostBase ≤ pa then .host
  else localRegion pa

/-- Whether an address is one of a package that no port reaches (R353). -/
def State.unreachable (s : State) (pa : Nat) : Bool :=
  match region pa with
  | .remote p => !s.reachable p
  | _ => false

/-- The request that an engine's access to another package makes (R353). -/
def State.askTo (s : State) (o : Requester) (op pa n x : Nat) (g : Sig) : State :=
  match region pa with
  | .remote p => s.sendRequest p op pa n 0 x o g
  | _ => s

/-- The bank-linear address of an interleaved-view address (R178, R179); other addresses are their own home. -/
def home (pa : Nat) : Nat :=
  if pa < hbmBase then
    let stack := bits pa 15 12 ^^^ bits pa 19 16 ^^^ bits pa 23 20
    hbmBase + stack * 2 ^ 36 + bits pa 39 16 * 2 ^ 12 + bits pa 11 0
  else pa

/-- The interleaved address of a bank-linear one (R178, R179), and back: the other view's name of an HBM byte. -/
def otherView (pa : Nat) : Nat :=
  if pa < hbmBase then home pa
  else if pa < sideBase then
    let stack := bits pa 39 36
    let l := bits pa 35 0
    let hi := l / 2 ^ 12
    let n := bits hi 3 0 ^^^ bits hi 7 4 ^^^ stack
    hi * 2 ^ 16 + n * 2 ^ 12 + l % 2 ^ 12
  else pa

/-- The stack that owns an HBM or side-store address (R178, R179, R177). -/
def stackOf (pa : Nat) : Nat :=
  if pa < sideBase then bits (home pa) 39 36 else if pa < windowBase then (pa - sideBase) / 2 ^ 28 else 0

/-- The sync engine's SRAM that holds an address, by its place in this module's or a peer's address space (R177, R219), and the offset
in it. -/
def syncDie (pa : Nat) : Nat := (pa - syncBase) / 2 ^ 22
def syncOffset (pa : Nat) : Nat := (pa % 2 ^ 45 - syncBase) % 2 ^ 22

/-- Whether an address lies in the SRAM of a sync engine, of this module or another package. -/
def atSync (pa : Nat) : Bool :=
  match region pa with
  | .sync _ => true
  | .remote _ => match localRegion (pa % 2 ^ 45) with
    | .sync _ => true
    | _ => false
  | _ => false

/-! ### Parts of the module -/

def State.core (s : State) (i : Nat) : CoreSt := Store.get {} s.cores i
def State.modCore (s : State) (i : Nat) (f : CoreSt → CoreSt) : State :=
  { s with cores := Store.set {} s.cores i (f (s.core i)) }
def State.cluster (s : State) (i : Nat) : Cluster := Store.get {} s.clusters i
def State.modCluster (s : State) (i : Nat) (f : Cluster → Cluster) : State :=
  { s with clusters := Store.set {} s.clusters i (f (s.cluster i)) }
def State.die (s : State) (i : Nat) : Die := Store.get {} s.dies i
def State.modDie (s : State) (i : Nat) (f : Die → Die) : State :=
  { s with dies := Store.set {} s.dies i (f (s.die i)) }
def State.stack (s : State) (i : Nat) : Stack := Store.get {} s.hbmStacks i
def State.modStack (s : State) (i : Nat) (f : Stack → Stack) : State :=
  { s with hbmStacks := Store.set {} s.hbmStacks i (f (s.stack i)) }

/-! ### The memory side (R197) -/

/-- Whether a range of unpredictable bytes holds an address. -/
def Wild.covers (w : Wild) (a : Nat) : Bool := decide (w.lo ≤ a) && decide (a < w.hi)

/-- Such ranges without the addresses `lo` to `hi - 1`. -/
def cutWild (l : List Wild) (lo hi : Nat) : List Wild :=
  l.flatMap fun w => [{ w with hi := min w.hi lo }, { w with lo := max w.lo hi }].filter fun x => decide (x.lo < x.hi)

/-- A byte at its home agent. -/
def State.memByte (s : State) (pa : Nat) : Byte :=
  if hostBase ≤ pa then (Store.get none s.outside pa).getD (Config.outsideByte pa)
  else match s.wild.find? fun w => w.covers (home pa) with
    | some w => Config.openByte w.seed (home pa)
    | none => Store.get 0 s.mem (home pa)

def State.setMemByte (s : State) (pa : Nat) (b : Byte) : State :=
  if hostBase ≤ pa then { s with outside := Store.set none s.outside pa (some b) }
  else { s with mem := Store.set 0 s.mem (home pa) b, wild := cutWild s.wild (home pa) (home pa + 1) }

/-- The bytes of home addresses `lo` to `hi - 1` become unpredictable (R9). -/
def State.spoil (s : State) (lo hi : Nat) : State :=
  { s with
    mem := s.mem.filter fun e => !(decide (lo ≤ e.1) && decide (e.1 < hi))
    wild := if lo < hi then ⟨lo, hi, s.fresh⟩ :: cutWild s.wild lo hi else s.wild
    fresh := s.fresh + 1 }

/-- The bytes of home addresses `lo` to `hi - 1` are zeroed. -/
def State.zeroRange (s : State) (lo hi : Nat) : State :=
  { s with mem := s.mem.filter fun e => !(decide (lo ≤ e.1) && decide (e.1 < hi)), wild := cutWild s.wild lo hi }

/-- `n` bytes at the memory side as a little-endian number (R3). -/
def State.memRead (s : State) : Nat → Nat → Nat
  | _, 0 => 0
  | pa, n + 1 => (s.memByte pa).toNat + 256 * s.memRead (pa + 1) n

/-- Write the low `n` bytes of a number, little-endian (R3). -/
def State.putBytes (s : State) : Nat → Nat → Nat → State
  | _, 0, _ => s
  | pa, n + 1, x => (s.setMemByte pa (BitVec.ofNat 8 x)).putBytes (pa + 1) n (x / 256)

/-- Answer a request of a held bundle (R52): the slot's wait becomes the reply, unless the request is no longer waited for. -/
def State.reply (s : State) (ctx slot id value : Nat) : State :=
  (s.modCtxAt ctx fun c =>
    if Store.get (.requested 0) c.flow.waits slot = .requested (id + 1) then
      { c with flow := { c.flow with waits := Store.set (.requested 0) c.flow.waits slot (.replied value), quiet := false } }
    else c).modCore (coreOf ctx) fun c => { c with gated := false }

/-- The watch of a `waitw` of package `p` (R231, R353) names context `peerCtx + p` (the model's own form). -/
def peerCtx : Nat := 3072

/-- A watch is met: its `waitw` goes on; a peer's request is taken up again and answered. -/
def State.watchMet (s : State) (w : Watch) : State :=
  if w.ctx < peerCtx then s.reply w.ctx w.slot w.id 0
  else s.soon { i := .remoteTransaction, a := w.ctx - peerCtx, b := w.id, c := reqMet + 16 * w.pa }

/-- Test the watches over the words just written and release those that are met (R231). -/
def State.testWatches (s : State) (d lo hi : Nat) : State :=
  (s.die d).watches.foldl
    (fun s w =>
      if w.pa + 8 ≤ lo ∨ hi ≤ w.pa then s
      else if intCond 64 w.cc (s.memRead w.pa 8) w.comparand.toNat then
        (s.watchMet w).modDie d fun x => { x with watches := x.watches.filter fun y => y != w }
      else s) s

/-! ### Poison (R384, R385) -/

/-- Whether a 32-byte sector of the memory side is poisoned (R384). -/
def State.memPoisoned (s : State) (pa n : Nat) : Bool :=
  s.poison.any fun p => match p with
    | .mem k => decide (home pa / 32 ≤ k) && decide (k ≤ (home pa + n - 1) / 32)
    | _ => false

def State.markPoison (s : State) (p : PoisonAt) : State :=
  if s.poison.contains p then s else { s with poison := p :: s.poison }

def State.clearPoison (s : State) (p : PoisonAt) : State :=
  if s.poison.contains p then { s with poison := s.poison.filter fun q => q != p } else s

/-- Poison travels with the data of a sector from one level to the next. -/
def State.carryPoison (s : State) (from_ to_ : PoisonAt) : State :=
  if s.poison.contains from_ then s.markPoison to_ else s.clearPoison to_

/-- A write to the memory side takes the poison of the sectors it covers whole. -/
def State.cureMem (s : State) (pa n : Nat) : State :=
  if s.poison.isEmpty then s
  else { s with poison := s.poison.filter fun p => match p with
    | .mem k => !(decide (home pa ≤ 32 * k) && decide (32 * k + 32 ≤ home pa + n))
    | _ => true }

/-- A write at the memory side; at the sync engine every write is also tested against the watches (R220, R231). A write where the
memory map places nothing that it could reach changes no byte and stops the machine (R177). -/
def State.memWrite (s : State) (pa n x : Nat) : State :=
  match region pa with
  | .unassigned | .window _ | .aperture _ => { s with badAccess := true }
  | .sync _ | .remote _ =>
    let s := (s.putBytes pa n x).cureMem pa n
    if (s.die (syncDie pa)).watches.isEmpty then s else s.testWatches (syncDie pa) pa (pa + n)
  | _ => (s.putBytes pa n x).cureMem pa n

/-! ### DRAM that a delta run claims (R315, R333, R334) -/

/-- The delta cycle, of 0.5 ns, in which a core cycle, of 0.4 ns, begins (R4). -/
def deltaNow (now : Nat) : Nat := 4 * now / 5

/-- Pseudo-channel, bank and row of a stack-local address (R179). -/
def pchOf (l : Nat) : Nat := bits l 15 10
def bankOf (l : Nat) : Nat := bits l 21 16
def rowOf (l : Nat) : Nat := bits l 35 22

/-- Cycles that an external segment of `n` bytes occupies its pseudo-channel (R320). -/
def segmentCycles (n : Nat) : Nat := 8 + (n + 31) / 32

/-- Whether a run keeps an external segment of `n` bytes at a stack-local address from starting `u` cycles from now: its pseudo-channel
is claimed, and the row is locked, or no window is open, or an earlier external segment has not ended, or this one would not end inside the
window (R315, R333, R334). -/
def Run.keeps (r : Run) (now l n u : Nat) : Bool :=
  let open_ : Bool := match r.window with
    | some (a, b) => decide (r.origin + a ≤ deltaNow now) && decide (deltaNow now + u + segmentCycles n ≤ r.origin + b) &&
        decide (Store.get 0 r.external (pchOf l) ≤ deltaNow now)
    | none => false
  r.phase != .entering && r.pchMask.getLsbD (pchOf l) && (!open_ || r.locks.contains (pchOf l, bankOf l, rowOf l))

/-- The segments of an access, at most 1 KiB of one row each: address and bytes (R179). -/
def segmentsOf (pa n : Nat) : List (Nat × Nat) :=
  (upTo ((pa + n - 1) / 1024 + 1 - pa / 1024)).map fun i =>
    let lo := max pa (1024 * (pa / 1024 + i))
    (lo, min (pa + n) (1024 * (pa / 1024 + i + 1)) - lo)

/-- The stack and the stack-local address of a segment in an HBM view. -/
def hbmPlace (pa : Nat) : Option (Nat × Nat) :=
  match region pa with
  | .hbm => some (stackOf pa, home pa % 2 ^ 36)
  | _ => none

/-- Whether some segment of an access of another party, of those served one after the other, must wait at the DRAM sequencer; `used`
holds the cycles that earlier ones take, by stack and pseudo-channel (R315, R333). -/
def State.segsBlocked (s : State) : Store Nat → List (Nat × Nat) → Bool
  | _, [] => false
  | used, x :: xs =>
    match hbmPlace x.1 with
    | none => s.segsBlocked used xs
    | some (k, l) =>
      let key := 64 * k + pchOf l
      let u := Store.get 0 used key
      ((s.stack k).delta.run.any fun r => r.keeps s.now l x.2 u) || s.segsBlocked (Store.set 0 used key (u + segmentCycles x.2)) xs

/-- Whether an access of another party to bytes of an HBM view queues at the DRAM sequencer (R315). -/
def State.dramBlocked (s : State) (pa n : Nat) : Bool := s.segsBlocked [] (segmentsOf pa n)

/-- The pseudo-channels of HBM that an access reaches: stack and pseudo-channel. -/
def channelsOf (pa n : Nat) : List (Nat × Nat) :=
  (segmentsOf pa n).filterMap fun x => (hbmPlace x.1).map fun y => (y.1, pchOf y.2)

/-- Whether a run of the stack claims a pseudo-channel. -/
def State.claimed (s : State) (c : Nat × Nat) : Bool :=
  (s.stack c.1).delta.run.any fun r => r.phase != .entering && r.pchMask.getLsbD c.2

/-- Whether two ranges of addresses name a byte in common, under either view (R179). -/
def overlaps (pa n pb m : Nat) : Bool :=
  (segmentsOf pa n).any fun x => (segmentsOf pb m).any fun y =>
    decide (home x.1 < home y.1 + y.2) && decide (home y.1 < home x.1 + x.2)

/-- Whether an access that arrived earlier goes before this one: at a pseudo-channel of both it could be served now, or it is of the same
bytes (R315). What has queued keeps its place when the run has left. -/
def State.outrun (s : State) (who : DramParty) (pa n : Nat) : Bool :=
  (s.dramQueue.takeWhile fun w => w.who != who).any fun w =>
    overlaps w.pa w.n pa n || (!s.dramBlocked w.pa w.n && (channelsOf w.pa w.n).any fun c => (channelsOf pa n).contains c)

/-- Whether an access must wait at the DRAM sequencer. -/
def State.dramWaits (s : State) (who : DramParty) (pa n : Nat) : Bool := s.dramBlocked pa n || s.outrun who pa n

/-- A party no longer queues. -/
def State.dramLeave (s : State) (who : DramParty) : State :=
  if s.dramQueue.isEmpty then s else { s with dramQueue := s.dramQueue.filter fun w => w.who != who }

/-- An access queues, once; a party that now waits for another one queues anew. -/
def State.dramJoin (s : State) (who : DramParty) (pa n : Nat) : State :=
  if s.dramQueue.contains ⟨who, pa, n⟩ then s
  else { s with dramQueue := (s.dramQueue.filter fun w => w.who != who) ++ [⟨who, pa, n⟩] }

/-- An access is served: its external segments occupy their pseudo-channels, one after the other (R333). -/
def State.dramTake (s : State) (pa n : Nat) : State :=
  (segmentsOf pa n).foldl (fun s x => match hbmPlace x.1 with
    | none => s
    | some (k, l) =>
      if s.claimed (k, pchOf l) then
        let after (r : Run) := max (deltaNow s.now) (Store.get 0 r.external (pchOf l)) + segmentCycles x.2
        s.modStack k fun y => { y with delta := { y.delta with run := y.delta.run.map fun r =>
          { r with external := Store.set 0 r.external (pchOf l) (after r) } } }
      else s) s

/-- The first of some accesses, served one after the other, that must wait: one that is outrun or blocked, or that would not end in the
window after those before it (R315, R333). -/
def State.firstWaiting (s : State) (who : DramParty) : List (Nat × Nat) → List (Nat × Nat) → Option (Nat × Nat)
  | _, [] => none
  | before, x :: xs =>
    let all := before ++ segmentsOf x.1 x.2
    if s.outrun who x.1 x.2 || s.segsBlocked [] all then some x else s.firstWaiting who all xs

/-- Write the bytes of `x` that a mask names, `n` in all. -/
def State.memWriteMasked (s : State) (pa n x m : Nat) : State :=
  if m = 2 ^ n - 1 then s.memWrite pa n x
  else (upTo n).foldl (fun s j => if bit m j then s.memWrite (pa + j) 1 (x / 2 ^ (8 * j) % 256) else s) s

/-- Such a write is performed at the memory side, with the poison that it brings (R385). -/
def State.memLand (s : State) (pa n x m : Nat) (bad : Bool) : State :=
  let s := (s.dramTake pa n).memWriteMasked pa n x m
  if bad then s.markPoison (.mem (home pa / 32)) else s

/-- A write that no party stands behind, a write-back of core `core` or an engine's: performed now, or queued with its data at DRAM that
a run claims (R315). -/
def State.memPost (s : State) (pa n x m : Nat) (core : Option Nat) (bad : Bool) : State :=
  let who := DramParty.write s.fresh x m core bad
  if s.dramWaits who pa n then { (s.dramJoin who pa n) with fresh := s.fresh + 1 } else s.memLand pa n x m bad

/-- The end of a cycle at the DRAM sequencers: in order of arrival, the queued writes that can be served are, and an agent's step whose
access can be served in the next cycle is taken up again (R315, R333). -/
def State.settleDram (s : State) : State :=
  s.dramQueue.foldl (fun s w => match w.who with
    | .write _ x m _ bad => if s.dramWaits w.who w.pa w.n then s else (s.memLand w.pa w.n x m bad).dramLeave w.who
    | .step e => if ({ s with now := s.now + 1 } : State).dramWaits w.who w.pa w.n then s else s.soon e
    | _ => s) s

/-- `n` bytes as they will read once every queued write has been served. -/
def State.memAhead (s : State) (pa n : Nat) : Nat :=
  ((upTo n).map fun i => s.dramQueue.foldl (fun b w => match w.who with
      | .write _ x m _ _ => if w.pa ≤ pa + i ∧ pa + i < w.pa + w.n ∧ bit m (pa + i - w.pa) then x / 2 ^ (8 * (pa + i - w.pa)) % 256 else b
      | _ => b) (s.memByte (pa + i)).toNat).foldr (fun b acc => b + 256 * acc) 0

/-! ### The memory-side cache (R16, R199, R278, R314) -/

/-- The ways of a stack that serve as cache. -/
def Stack.cacheWays (x : Stack) : List Nat := (upTo 16).filter fun w => !x.sideWays.getLsbD w && !x.sideStatus.getLsbD w

/-- Lines of a way: 16 MiB of 128 bytes (R16). -/
def wayLines : Nat := 131072

/-- The lines that a way keeps, ascending. -/
def Stack.linesOf (x : Stack) (w : Nat) : List Nat := (x.kept.filter fun e => e.2.any fun l => l.way == w).map (·.1)

/-- Whether a run of the stack claims a line's pseudo-channel: no line of it is allocated (R314). -/
def Stack.claimsLine (x : Stack) (line : Nat) : Bool :=
  x.delta.run.any fun r => r.phase != .entering && r.pchMask.getLsbD (bits (line * 128) 15 10)

/-- Keep a line: a full way gives one up, written back. Policy: log entry 89. -/
def Stack.keepLine (x : Stack) (now line : Nat) (dirty : Bool) : Stack :=
  match Store.get none x.kept line with
  | some l => { x with kept := Store.set none x.kept line (some { l with dirty := l.dirty || dirty }) }
  | none =>
    let ways := x.cacheWays
    if ways.isEmpty ∨ x.claimsLine line then x
    else
      let w := ways.getD (Config.victim now line % ways.length) 0
      let old := x.linesOf w
      let kept := if wayLines ≤ old.length then Store.set none x.kept (old.getD (Config.victim now line % old.length) 0) none else x.kept
      { x with kept := Store.set none kept line (some ⟨w, dirty⟩) }

/-- Write back and invalidate the lines of a selection (R278, R314). -/
def Stack.dropKept (x : Stack) (p : Nat → SideLine → Bool) : Stack :=
  { x with kept := x.kept.filter fun e => match e.2 with
      | some l => !p e.1 l
      | none => true }

/-- The stack of an HBM address keeps the line. -/
def State.keepLine (s : State) (pa : Nat) (dirty : Bool) : State :=
  match region pa with
  | .hbm => s.modStack (stackOf pa) fun x => x.keepLine s.now (home pa / 128) dirty
  | _ => s

/-! ### Lines and sectors -/

/-- The bytes `off` to `off + n - 1` of a line. -/
def lineBytes (d : VWord) (off n : Nat) : Nat := d.toNat / 2 ^ (8 * off) % 2 ^ (8 * n)

/-- A line with bytes `off` to `off + n - 1` replaced. -/
def setLineBytes (d : VWord) (off n x : Nat) : VWord :=
  let m : Nat := (2 ^ (8 * n) - 1) * 2 ^ (8 * off)
  (d &&& ~~~(BitVec.ofNat 1024 m)) ||| BitVec.ofNat 1024 (x % 2 ^ (8 * n) * 2 ^ (8 * off))

/-- The sectors a byte range touches. -/
def sectorsTouched (off n : Nat) : BitVec 4 :=
  if n = 0 then 0
  else BitVec.ofNat 4 (joinNat4 off n)
where
  joinNat4 (off n : Nat) : Nat :=
    (upTo 4).foldr (fun k acc => (if off / 32 ≤ k ∧ k ≤ (off + n - 1) / 32 then 2 ^ k else 0) + acc) 0

/-- The sectors a byte range covers whole. -/
def sectorsWhole (off n : Nat) : BitVec 4 :=
  BitVec.ofNat 4 ((upTo 4).foldr (fun k acc => (if off ≤ 32 * k ∧ 32 * k + 32 ≤ off + n then 2 ^ k else 0) + acc) 0)

/-- The sector numbers named by four sector bits, ascending. -/
def sectorList (b : BitVec 4) : List Nat := (upTo 4).filter fun k => b.getLsbD k

/-- Bytes `off` to `off + n - 1` of a line, one bit each. -/
def byteRange (off n : Nat) : BitVec 128 := BitVec.ofNat 128 ((2 ^ n - 1) * 2 ^ off)

/-- The bits that the bytes of a 32-byte mask govern. -/
def byteBits (m : Nat) : Nat := (upTo 32).foldr (fun j acc => (if bit m j then 255 * 2 ^ (8 * j) else 0) + acc) 0

/-- A sector `old` with the bytes of `m` taken from `new`. -/
def mergeBytes (old new m : Nat) : Nat :=
  if m = 2 ^ 32 - 1 then new else (old ^^^ (old &&& byteBits m)) ||| (new &&& byteBits m)

/-- The bytes of sector `k` that a byte mask of a line names, and that mask without them. -/
def sectorMask (b : BitVec 128) (k : Nat) : Nat := bits b.toNat (32 * k + 31) (32 * k)
def clearSectors (b : BitVec 128) (ks : List Nat) : BitVec 128 := ks.foldl (fun b k => b &&& ~~~byteRange (32 * k) 32) b

/-- The pieces of a byte range by 128-byte line: (line, offset, bytes, bytes before it). -/
def lineSpans (pa n : Nat) : List (Nat × Nat × Nat × Nat) :=
  let off := pa % 128
  if off + n ≤ 128 then [(pa / 128, off, n, 0)]
  else [(pa / 128, off, 128 - off, 0), (pa / 128 + 1, 0, n - (128 - off), 128 - off)]

/-! ### Signatures (R206) -/

def fold9 (x : Nat) : Nat :=
  bits x 8 0 ^^^ bits x 17 9 ^^^ bits x 26 18 ^^^ bits x 35 27 ^^^ bits x 44 36 ^^^ bits x 53 45

/-- The four bits of a sector's signature (R206). -/
def sigHashes (pa : Nat) : List Nat :=
  let o := bits pa 51 5
  [0x1, 0x1F3, 0x3A5B, 0x6D1F1].map fun c => fold9 (bits (o * c) 46 0)

/-- Add the sector of an address to a signature (R206). -/
def sigAdd (g : Sig) (pa : Nat) : Sig := (sigHashes pa).foldl (fun g h => g ||| (1#512 <<< h)) g

/-- Whether the sector of an address matches a signature, under either of its names (R205, R206). -/
def sigMatch (g : Sig) (pa : Nat) : Bool :=
  (sigHashes pa).all (fun h => g.getLsbD h) || (sigHashes (otherView pa)).all (fun h => g.getLsbD h)

/-- Add sectors `b` of a line. -/
def sigAddSectors (g : Sig) (line : Nat) (b : BitVec 4) : Sig :=
  (sectorList b).foldl (fun g k => sigAdd g (line * 128 + 32 * k)) g

/-- Whether a line has a sector, among all four, that matches (R208, R209). -/
def lineMatches (g : Sig) (line : Nat) : Bool := (upTo 4).any fun k => sigMatch g (line * 128 + 32 * k)

/-! ### Records (R208) -/

/-- OR a release write's signature into a line's record, the most recently written first, at most `cap` kept. -/
def putRecord (cap : Nat) (l : List (Nat × Sig)) (line : Nat) (g : Sig) : List (Nat × Sig) :=
  let old := (l.find? fun e => e.1 == line).map (·.2)
  ((line, old.getD 0 ||| g) :: l.filter fun e => e.1 != line).take cap

/-- The record an acquire applies: all ones for a line without one (R208). -/
def getRecord (l : List (Nat × Sig)) (line : Nat) : Sig :=
  ((l.find? fun e => e.1 == line).map (·.2)).getD (BitVec.allOnes 512)

/-- The record of a line where there is one. -/
def keptRecord (l : List (Nat × Sig)) (line : Nat) : Sig := ((l.find? fun e => e.1 == line).map (·.2)).getD 0

/-- OR a signature into the record of a line where there is one. -/
def joinRecord (l : List (Nat × Sig)) (line : Nat) (g : Sig) : List (Nat × Sig) :=
  l.map fun e => if e.1 = line then (line, e.2 ||| g) else e

/-- Record a release write at the memory side or the sync engine of an address (R208). -/
def State.recordMem (s : State) (pa : Nat) (g : Sig) : State :=
  match region pa with
  | .sync d => s.modDie d fun x =>
      { x with syncRecords := Store.set 0 x.syncRecords (pa / 128) (Store.get 0 x.syncRecords (pa / 128) ||| g) }
  | .hbm => s.modStack (stackOf pa) fun x => { x with records := putRecord 4096 x.records (home pa / 128) g }
  | .side => s.modStack (stackOf pa) fun x => { x with records := putRecord 4096 x.records (pa / 128) g }
  | _ => s

/-- A release write that the L2 takes joins the record that the memory side has of the line, which a wider acquire applies. DESIGN CHOICE,
log entry 99. -/
def State.joinRecordMem (s : State) (pa : Nat) (g : Sig) : State :=
  match region pa with
  | .hbm => s.modStack (stackOf pa) fun x => { x with records := joinRecord x.records (home pa / 128) g }
  | .side => s.modStack (stackOf pa) fun x => { x with records := joinRecord x.records (pa / 128) g }
  | _ => s

/-- What a stack's memory side has recorded of a line. -/
def State.recordKept (s : State) (pa : Nat) : Sig :=
  match region pa with
  | .hbm => keptRecord (s.stack (stackOf pa)).records (home pa / 128)
  | .side => keptRecord (s.stack (stackOf pa)).records (pa / 128)
  | _ => 0

/-- The record of the memory side or the sync engine for a line; the sync engine keeps one for every line (R208). -/
def State.recordOfMem (s : State) (pa : Nat) : Sig :=
  match region pa with
  | .sync d => Store.get 0 (s.die d).syncRecords (pa / 128)
  | .hbm => getRecord (s.stack (stackOf pa)).records (home pa / 128)
  | .side => getRecord (s.stack (stackOf pa)).records (pa / 128)
  | _ => BitVec.allOnes 512

/-! ### The die L2 (R14, R197) -/

def State.l2Line (s : State) (die line : Nat) : L2Line := Store.get {} (s.die die).l2 line

def State.setL2Line (s : State) (die line : Nat) (x : L2Line) : State :=
  s.modDie die fun d => { d with l2 := Store.set {} d.l2 line x }

/-- Fetch the sectors `need` of a line into `x` from the memory side. -/
def State.fetchSectors (s : State) (line : Nat) (need : List Nat) (d : VWord) : VWord :=
  need.foldl (fun d k => setLineBytes d (32 * k) 32 (s.memRead (line * 128 + 32 * k) 32)) d

/-- The poison of sectors that the L2 reads from the memory side comes with them. -/
def State.l2FillPoison (s : State) (die line : Nat) (ks : List Nat) : State :=
  if s.poison.isEmpty then s
  else ks.foldl (fun s k => s.carryPoison (.mem (home (line * 128 + 32 * k) / 32)) (.l2 die (4 * line + k))) s

/-- Poison follows a write-back of bytes `m`: a sector written whole takes that of its source, a part can only add it. -/
def State.backPoison (s : State) (m : Nat) (from_ to_ : PoisonAt) : State :=
  if m = 2 ^ 32 - 1 ∨ s.poison.contains from_ then s.carryPoison from_ to_ else s

/-- A store to host or remote memory is on its way to its home agent, whose acknowledgement comes at a free time (R207, R390). -/
def State.awaitAck (s : State) (core : Nat) (ctx : Option Nat) : State :=
  ({ s with acks := s.acks ++ [⟨s.fresh, core, ctx⟩] } : State).laterOpen { i := .engineReply, c := opAck, d := s.fresh }

/-- Written bytes `m` of a sector reach the memory side, from the L2 where core `core` wrote them last; those of another package travel
there, and fail where no port carries them (R353). -/
def State.memWriteBack (s : State) (core pa v m : Nat) (bad : Bool) : State :=
  match region pa with
  | .remote p =>
    let s := if s.reachable p then s.memLand pa 32 v m bad else s
    (s.sendRequest p reqWrite pa 32 (BitVec.ofNat 64 m) v (.core core)).awaitAck core none
  | _ => s.memPost pa 32 v m (some core) bad

/-- Write dirty sectors of an L2 line selected by `b` to the memory side; the line stays valid. -/
def State.l2Clean (s : State) (die line : Nat) (b : BitVec 4) : State :=
  let l := s.l2Line die line
  let ds := sectorList (l.dirty &&& b)
  let s := if ds.isEmpty then s else s.keepLine (line * 128) true
  let s := ds.foldl (fun s k => s.memWriteBack (l.writers.getD k 0) (line * 128 + 32 * k) (lineBytes l.data (32 * k) 32)
    (sectorMask l.bytes k) (s.poison.contains (.l2 die (4 * line + k)))) s
  if ds.isEmpty then s else s.setL2Line die line { l with dirty := l.dirty &&& ~~~b, bytes := clearSectors l.bytes ds }

/-- Drop an L2 line after writing its dirty sectors to the memory side (R209). -/
def State.l2Drop (s : State) (die line : Nat) : State :=
  (upTo 4).foldl (fun s k => s.clearPoison (.l2 die (4 * line + k))) ((s.l2Clean die line 0xF).setL2Line die line {})

/-- Lines of the L2: 64 MiB of 128 bytes (R14). -/
def l2Lines : Nat := 524288

/-- Room for a line that the L2 of a die does not hold: a full L2 gives one up (R14). Policy: log entry 89. -/
def State.l2Room (s : State) (die line : Nat) : State :=
  let l2 := (s.die die).l2
  if l2Lines ≤ l2.length ∧ (s.l2Line die line).have_ = 0 then
    match l2[Config.victim s.now line % l2.length]? with
    | some e => s.l2Drop die e.1
    | none => s
  else s

/-- Bring the sectors a range touches into the L2. -/
def State.l2Fill (s : State) (die line : Nat) (b : BitVec 4) : State :=
  let need := b &&& ~~~(s.l2Line die line).have_
  if need = 0 then s
  else
    let s := (s.l2Room die line).keepLine (line * 128) false
    let x := s.l2Line die line
    (s.setL2Line die line { x with
      have_ := x.have_ ||| need, data := s.fetchSectors line (sectorList need) x.data }).l2FillPoison die line (sectorList need)

/-- Read bytes of one line through the L2. -/
def State.l2Read (s : State) (die line off n : Nat) : Nat × State :=
  let s := s.l2Fill die line (sectorsTouched off n)
  (lineBytes (s.l2Line die line).data off n, s)

/-- Write bytes of one line in the L2, naming the core as their last writer; a partial sector is fetched first. -/
def State.l2Write (s : State) (die core line off n x : Nat) : State :=
  let t := sectorsTouched off n
  let s := s.l2Room die line
  let s := s.l2Fill die line (t &&& ~~~sectorsWhole off n)
  let s := (sectorList (sectorsWhole off n)).foldl (fun s k => s.clearPoison (.l2 die (4 * line + k))) s
  let l := s.l2Line die line
  s.setL2Line die line
    { have_ := l.have_ ||| t, dirty := l.dirty ||| t, bytes := l.bytes ||| byteRange off n
      writers := (upTo 4).map fun k => if t.getLsbD k then core else l.writers.getD k 0
      data := setLineBytes l.data off n x }

/-- A core's written bytes `m` of sector `k` of a line reach the L2: no other byte of the sector changes there (R204). -/
def State.l2WriteBack (s : State) (die core line k v m : Nat) : State :=
  if m = 2 ^ 32 - 1 then s.l2Write die core line (32 * k) 32 v
  else
    let s := s.l2Fill die line (1#4 <<< k)
    let l := s.l2Line die line
    s.setL2Line die line
      { l with
        dirty := l.dirty ||| (1#4 <<< k), bytes := l.bytes ||| BitVec.ofNat 128 (m * 2 ^ (32 * k))
        writers := (upTo 4).map fun i => if i = k then core else l.writers.getD i 0
        data := setLineBytes l.data (32 * k) 32 (mergeBytes (lineBytes l.data (32 * k) 32) v m) }

/-! ### Cache banks (R162, R169, R172) -/

/-- The role code of bank `j` (R162). -/
def roleOf (roles : Word) (j : Nat) : Nat := bits roles.toNat (2 * j + 1) (2 * j)

/-- Whether a bank is CHANGING at cycle `now` (R171, R172). -/
def CoreSt.isChanging (c : CoreSt) (now j : Nat) : Bool := c.changing.any fun x => x.bank == j && decide (now ≤ x.stable)

/-- The cache banks that serve lookups (R169, R172). -/
def CoreSt.cacheBanks (c : CoreSt) (now : Nat) : List Nat :=
  (upTo 32).filter fun j => roleOf c.bankRole j == 0 && !c.isChanging now j

def CoreSt.line (c : CoreSt) (bank set : Nat) : CacheLine := Store.get {} c.lines (bank * 128 + set)
def CoreSt.setLine (c : CoreSt) (bank set : Nat) (x : CacheLine) : CoreSt :=
  { c with lines := Store.set {} c.lines (bank * 128 + set) x }

/-- The cache bank that holds a line, if any. -/
def CoreSt.findLine (c : CoreSt) (now line : Nat) : Option Nat :=
  (c.cacheBanks now).find? fun j => (c.line j (line % 128)).line == some line

/-- Write the dirty sectors of a cache line to the L2 (R169), leaving it valid and clean; the carried signature gains them
when the write-back is a release action (R207). -/
def State.cleanLine (s : State) (core bank set : Nat) (carry : Bool) : State :=
  let x := (s.core core).line bank set
  match x.line with
  | none => s
  | some line =>
    if x.dirty = 0 then s
    else
      let s := (sectorList x.dirty).foldl
        (fun s k => (s.l2WriteBack (dieOf core) core line k (lineBytes x.data (32 * k) 32) (sectorMask x.bytes k)).backPoison
          (sectorMask x.bytes k) (.cache core (4 * line + k)) (.l2 (dieOf core) (4 * line + k))) s
      s.modCore core fun c =>
        { c.setLine bank set { x with dirty := 0, bytes := 0 } with
          carried := if carry then sigAddSectors c.carried line x.dirty else c.carried }

/-- Write back and invalidate one cache line. -/
def State.dropLine (s : State) (core bank set : Nat) : State :=
  let s' := (s.cleanLine core bank set true).modCore core fun c => c.setLine bank set {}
  match ((s.core core).line bank set).line with
  | some line => (upTo 4).foldl (fun s k => s.clearPoison (.cache core (4 * line + k))) s'
  | none => s'

/-- The least recently used of the cache banks in a set. -/
def leastUsed (c : CoreSt) (set : Nat) : List Nat → Option Nat
  | [] => none
  | j :: js => match leastUsed c set js with
    | none => some j
    | some k => some (if (c.line k set).used < (c.line j set).used then k else j)

/-- Allocate a line: the lowest-numbered invalid way, otherwise the least recently used, written back first (R169). -/
def State.allocLine (s : State) (core line : Nat) : Option (Nat × State) :=
  let c := s.core core
  let set := line % 128
  let banks := c.cacheBanks s.now
  match banks.find? fun j => (c.line j set).line == none with
  | some j => some (j, s.modCore core fun c => c.setLine j set { line := some line })
  | none =>
    match leastUsed c set banks with
    | none => none
    | some j => some (j, (s.dropLine core j set).modCore core fun c => c.setLine j set { line := some line })

/-- The bank that holds a line after allocating it on a miss (R169). -/
def State.ensureLine (s : State) (core line : Nat) : Option (Nat × State) :=
  match (s.core core).findLine s.now line with
  | some j => some (j, s)
  | none => s.allocLine core line

/-- Note a use of a line. -/
def State.touchLine (s : State) (core bank set : Nat) : State :=
  s.modCore core fun c =>
    { c.setLine bank set { c.line bank set with used := c.useClock + 1 } with useClock := c.useClock + 1 }

/-- Fetch a present cache line from the L2 where it lacks sectors of `b`: the whole line is filled (R169). -/
def State.fillLine (s : State) (core bank line : Nat) (b : BitVec 4) : State :=
  let x := (s.core core).line bank (line % 128)
  let need := if b &&& ~~~x.have_ = 0 then 0 else ~~~x.have_
  (sectorList need).foldl
    (fun s k =>
      let (v, s) := s.l2Read (dieOf core) line (32 * k) 32
      (s.carryPoison (.l2 (dieOf core) (4 * line + k)) (.cache core (4 * line + k))).modCore core fun c =>
        let x := c.line bank (line % 128)
        c.setLine bank (line % 128)
          { x with have_ := x.have_ ||| (1#4 <<< k), data := setLineBytes x.data (32 * k) 32 v }) s

/-! ### Accesses by page attributes (R182, R199 to R203) -/

/-- The level a page's attributes let an access use: 0 cache banks, 1 the L2, 2 the memory side (R182, R199). No device cache keeps a
host line (R355). -/
def levelOf (ord hint : Nat) (pa : Nat) : Nat :=
  match region pa with
  | .hbm | .side | .remote _ => if ord = 0 ∨ atSync pa then 2 else min hint 2
  | _ => 2

/-- The sectors of an L2 line that are dirty with this core as last writer. -/
def L2Line.dirtyBy (l : L2Line) (core : Nat) : BitVec 4 :=
  BitVec.ofNat 4 ((upTo 4).foldr (fun k acc =>
    (if l.dirty.getLsbD k && l.writers.getD k 0 == core then 2 ^ k else 0) + acc) 0)

/-- What a core may have written of a line below a level goes up to it, so that a load there sees the context's own stores (R200): at memory's
level every dirty sector of the L2's line, whoever wrote it last. -/
def State.raiseOwn (s : State) (core level line : Nat) : State :=
  if level = 0 then s
  else
    let s := match (s.core core).findLine s.now line with
      | some j => s.cleanLine core j (line % 128) true
      | none => s
    let b := (s.l2Line (dieOf core) line).dirty
    if level = 1 ∨ b = 0 then s
    else (s.l2Clean (dieOf core) line b).modCore core fun c => { c with carried := sigAddSectors c.carried line b }

/-- Read bytes of one line at a level. -/
def State.readSpan (s : State) (core level line off n : Nat) : Nat × State :=
  let s := s.raiseOwn core level line
  match level with
  | 0 =>
    match s.ensureLine core line with
    | none => s.l2Read (dieOf core) line off n
    | some (j, s) =>
      let s := (s.fillLine core j line (sectorsTouched off n)).touchLine core j (line % 128)
      (lineBytes ((s.core core).line j (line % 128)).data off n, s)
  | 1 => s.l2Read (dieOf core) line off n
  | _ => (s.memRead (line * 128 + off) n, s)

/-- Keep the copies below a bypassing write in step with it (R200): the core's own cache line and its die's L2 line. -/
def State.updateCopies (s : State) (core level line off n x : Nat) : State :=
  let s := match (s.core core).findLine s.now line with
    | some j => if 1 ≤ level then s.modCore core fun c =>
        let l := c.line j (line % 128)
        c.setLine j (line % 128) { l with data := setLineBytes l.data off n x, bytes := l.bytes &&& ~~~byteRange off n }
      else s
    | none => s
  if 2 ≤ level ∧ ((s.l2Line (dieOf core) line).have_ ≠ 0 ∨ (s.l2Line (dieOf core) line).dirty ≠ 0) then
    let l := s.l2Line (dieOf core) line
    s.setL2Line (dieOf core) line { l with data := setLineBytes l.data off n x, bytes := l.bytes &&& ~~~byteRange off n }
  else s

/-- The carried signature gains the sectors of bytes that a core writes through its cache banks (R205, R207). -/
def State.carryBytes (s : State) (core line off n : Nat) : State :=
  s.modCore core fun c => { c with carried := sigAddSectors c.carried line (sectorsTouched off n) }

/-- Write bytes of one line at a level (R169). -/
def State.writeSpan (s : State) (core level line off n x : Nat) : State :=
  let s := if level = 0 then s else s.carryBytes core line off n
  match level with
  | 0 =>
    match s.ensureLine core line with
    | none => (s.l2Write (dieOf core) core line off n x).carryBytes core line off n
    | some (j, s) =>
      let t := sectorsTouched off n
      let s := (s.fillLine core j line (t &&& ~~~sectorsWhole off n)).touchLine core j (line % 128)
      let s := (sectorList (sectorsWhole off n)).foldl (fun s k => s.clearPoison (.cache core (4 * line + k))) s
      s.modCore core fun c =>
        let l := c.line j (line % 128)
        c.setLine j (line % 128)
          { l with have_ := l.have_ ||| t, dirty := l.dirty ||| t, bytes := l.bytes ||| byteRange off n, data := setLineBytes l.data off n x }
  | 1 => (s.l2Write (dieOf core) core line off n x).updateCopies core 1 line off n x
  | _ => (s.memWrite (line * 128 + off) n x).updateCopies core 2 line off n x

/-- Read `n ≤ 128` bytes at a physical address for a core. -/
def State.readPa (s : State) (core level pa n : Nat) : Nat × State :=
  (lineSpans pa n).foldl
    (fun (acc, s) sp =>
      let (v, s) := s.readSpan core level sp.1 sp.2.1 sp.2.2.1
      (acc + v * 2 ^ (8 * sp.2.2.2), s)) (0, s)

/-- Write `n ≤ 128` bytes at a physical address for a core. -/
def State.writePa (s : State) (core level pa n x : Nat) : State :=
  (lineSpans pa n).foldl
    (fun s sp => s.writeSpan core level sp.1 sp.2.1 sp.2.2.1 (x / 2 ^ (8 * sp.2.2.2))) s

/-- The first poisoned sector of a read of a core at a level, by address / 32, once the levels it uses hold the data (R385). -/
def State.readPoison (s : State) (core level pa n : Nat) : Option Nat :=
  if s.poison.isEmpty then none
  else ((upTo ((pa + n - 1) / 32 + 1 - pa / 32)).map (pa / 32 + ·)).find? fun k =>
    if level = 0 ∧ ((s.core core).findLine s.now (k / 4)).isSome then s.poison.contains (.cache core k)
    else if level ≤ 1 then s.poison.contains (.l2 (dieOf core) k)
    else s.poison.contains (.mem (home (32 * k) / 32))

/-! ### Release and acquire actions (R207, R209) -/

/-- Write back every dirty sector of the core's cache banks (R169, R207). -/
def State.cleanCore (s : State) (core : Nat) : State :=
  (s.core core).lines.foldl (fun s e => s.cleanLine core (e.1 / 128) (e.1 % 128) true) s

/-- Write to the memory side every dirty L2 sector whose last writer is the core; the carried signature gains them (R207). -/
def State.flushL2 (s : State) (core : Nat) : State :=
  (s.die (dieOf core)).l2.foldl
    (fun s e =>
      let b := e.2.dirtyBy core
      if b = 0 then s
      else (s.l2Clean (dieOf core) e.1 b).modCore core fun c => { c with carried := sigAddSectors c.carried e.1 b }) s

/-- The release actions of a scope (R207) but for their waits, which hold the operation (`withAcked`, `withFlush`). -/
def State.release (s : State) (core scope : Nat) : State :=
  if scope ≤ 1 then s
  else
    let s := s.cleanCore core
    if scope ≤ 3 then s else s.flushL2 core

/-- The acquire actions of a scope for a record (R209); the carried signature gains the record (R207). -/
def State.acquire (s : State) (core scope : Nat) (g : Sig) : State :=
  if scope ≤ 1 then s
  else
    let s := s.modCore core fun c => { c with carried := c.carried ||| g }
    let s := (s.core core).lines.foldl
      (fun s e => match e.2.line with
        | some l => if lineMatches g l then s.dropLine core (e.1 / 128) (e.1 % 128) else s
        | none => s) s
    if scope ≤ 3 then s
    else (s.die (dieOf core)).l2.foldl (fun s e => if lineMatches g e.1 then s.l2Drop (dieOf core) e.1 else s) s

/-- Whether nothing queues at DRAM and no run is there to make anything queue. -/
def State.dramIdle (s : State) : Bool := s.dramQueue.isEmpty && s.hbmStacks.all fun e => e.2.delta.run.isNone

/-- Whether a line's write-back would queue at DRAM (R315). -/
def State.lineQueues (s : State) (line : Nat) : Bool := s.dramWaits (.write s.fresh 0 0 none false) (128 * line) 128

/-- The dirty lines of a core's cache banks whose write-back to memory would queue: all of them (`own`), or those that match a
signature. -/
def State.lateCached (s : State) (core : Nat) (own : Bool) (g : Sig) : List Nat :=
  if s.dramIdle then []
  else (s.core core).lines.filterMap fun e => match e.2.line with
    | some l => if e.2.dirty != 0 && (own || lineMatches g l) && s.lineQueues l then some e.1 else none
    | none => none

/-- The lines of its die's L2 of which that holds: those that the core wrote last, or those that match. -/
def State.lateL2 (s : State) (core : Nat) (own : Bool) (g : Sig) : List Nat :=
  if s.dramIdle then []
  else (s.die (dieOf core)).l2.filterMap fun e =>
    if e.2.dirty != 0 && ((own && e.2.dirtyBy core != 0) || lineMatches g e.1) && s.lineQueues e.1 then some e.1 else none

/-- Whether a write-back of the core, or of a line of its die that matches, still queues. -/
def State.flushOwed (s : State) (core : Nat) (own : Bool) (g : Sig) : Bool :=
  s.dramQueue.any fun w => match w.who with
    | .write _ _ _ (some c) _ => (own && c == core) || (dieOf c == dieOf core && lineMatches g (w.pa / 128))
    | _ => false

/-- Whether what a release (`own`) or an acquire of signature `g` writes back to memory has not all been performed there (R207, R209,
R315). -/
def State.flushWaits (s : State) (core : Nat) (own : Bool) (g : Sig) : Bool :=
  !(s.lateCached core own g).isEmpty || !(s.lateL2 core own g).isEmpty || s.flushOwed core own g

/-- Write those lines back: they queue. The carried signature gains them (R207). -/
def State.flushLate (s : State) (core : Nat) (own : Bool) (g : Sig) : State :=
  let s := (s.lateCached core own g).foldl (fun s k => s.cleanLine core (k / 128) (k % 128) true) s
  (s.lateL2 core own g).foldl (fun s line =>
    let b := (s.l2Line (dieOf core) line).dirty
    (s.l2Clean (dieOf core) line b).modCore core fun c => { c with carried := sigAddSectors c.carried line b }) s

/-- Write back and invalidate the core's cache lines over a byte range, and at the memory side's level the die's L2 lines too
(R213). -/
def State.evictBytes (s : State) (core pa n : Nat) (alsoL2 : Bool) : State :=
  (lineSpans pa n).foldl
    (fun s sp =>
      let s := match (s.core core).findLine s.now sp.1 with
        | some j => s.dropLine core j (sp.1 % 128)
        | none => s
      if alsoL2 then s.l2Drop (dieOf core) sp.1 else s) s

/-! ### The engines' accesses -/

/-- Whether a side-store address belongs to a way that serves side store (R279). -/
def State.sideServes (s : State) (pa : Nat) : Bool :=
  (s.stack (stackOf pa)).sideStatus.getLsbD ((pa - sideBase) % 2 ^ 28 / 2 ^ 24)

/-- Write sync-engine SRAM one byte at a time where part of it does not take stores: the pending table, and the bytes of a
directory entry that only the engine writes (R219, R223). -/
def State.syncWrite (s : State) (pa n x : Nat) : State :=
  let off := syncOffset pa
  if off + n ≤ 0x380000 then s.memWrite pa n x
  else
    (upTo n).foldl (fun s i =>
      let o := off + i
      if o < 0x3FA000 ∨ (o - 0x3FA000) % 32 ≤ 4 then s else s.memWrite (pa + i) 1 (x / 256 ^ i % 256)) s

/-- A write at the memory side by a party that is no core, once it is served: where a way serves no side store, or the sync engine takes
no store, it changes nothing (R219, R223, R279). -/
def State.partyPut (s : State) (pa n x : Nat) : State :=
  match region pa with
  | .side => if s.sideServes pa then s.memWrite pa n x else s
  | _ => if atSync pa then s.syncWrite pa n x else s.memWrite pa n x

/-- Such a write that nothing waits for (R315). -/
def State.partyWrite (s : State) (pa n x : Nat) : State :=
  if s.dramWaits (.write s.fresh x (2 ^ n - 1) none false) pa n then s.memPost pa n x (2 ^ n - 1) none false
  else (s.dramTake pa n).partyPut pa n x

/-- Record a release write in every line that its bytes touch (R208). -/
def State.recordBytes (s : State) (pa n : Nat) (g : Sig) : State :=
  (upTo ((pa + n - 1) / 128 + 1 - pa / 128)).foldl (fun s i => s.recordMem (128 * (pa / 128 + i)) g) s

/-- Such writes with a release record (R197, R208, R212): served, or not waited for. -/
def State.releasePut (s : State) (pa n x : Nat) (g : Sig) : State := (s.partyPut pa n x).recordBytes pa n g
def State.releaseMem (s : State) (pa n x : Nat) (g : Sig) : State := (s.partyWrite pa n x).recordBytes pa n g

end Sys2Proof.Machine
end

