-- ==== Sys2Proof/Machine/Translate.lean ====
section
/-!
DEFINITION. Translation and page attributes (R176, R180 to R188): leaves, the walk, the TLBs, access rights and the faults
they take.
-/
namespace Sys2Proof.Machine

/-- A virtual address is canonical when bits [63:57] all equal bit 56 (R176). -/
def canonical (va : Nat) : Bool := bits va 63 57 == (if bit va 56 then 127 else 0)

/-! ### Leaf fields (R181) -/

def leafFmt (w : Nat) : Nat := bits w 12 9
def leafOrd (w : Nat) : Nat := bits w 8 7
def leafSize (w : Nat) : Nat := bits w 6 5
def leafClass (w : Nat) : Nat := if leafFmt w = 0 then bits w 14 13 else 0
/-- Format pages keep lines as HINT 0b01 states (R181). -/
def leafHint (w : Nat) : Nat := if leafFmt w = 0 then bits w 17 16 else 1
def leafSysatomic (w : Nat) : Bool := leafFmt w == 0 && bit w 15
def leafFrame (w : Nat) : Nat := if leafFmt w = 0 then bits w 53 18 * 2 ^ 16 else bits w 36 13 * 2 ^ 16
def leafScaleFrame (w : Nat) : Nat := bits w 63 37 * 2 ^ 13
/-- Bytes of the page. -/
def leafBytes (w : Nat) : Nat := match leafSize w with
  | 1 => 2 ^ 21
  | 2 => 2 ^ 30
  | _ => 2 ^ 16

/-- Walk reason codes (R188). -/
def xNoncanonical : Nat := 1
def xNotValid : Nat := 2
def xBadAttribute : Nat := 3
def xBadFrame : Nat := 4

/-- Protection reason codes (R188). -/
def pLocal : Nat := 1
def pUser : Nat := 8
def pRead : Nat := 9
def pWrite : Nat := 10
def pExecute : Nat := 11
def pClass : Nat := 12
def pFormat : Nat := 13
def pWindow : Nat := 14
def pAperture : Nat := 15

/-- Whether a leaf's fields are legal (R181, R182); the level it stands at is checked by the walk. -/
def leafLegal (w : Nat) : Bool :=
  leafOrd w != 3 && leafSize w != 3 &&
    (if leafFmt w = 0 then
      bits w 63 54 == 0 && leafFrame w % leafBytes w == 0 &&
        (match region (leafFrame w) with
         | .aperture _ => leafOrd w == 0
         | _ => true)
    else
      decide (leafFmt w ≤ 5) && leafSize w == 0 && !bit w 3 && (leafFmt w != 5 || leafScaleFrame w == 0))

/-- Whether a table frame lies in an HBM view (R180). -/
def tableFrameOk (pa : Nat) : Bool := region pa == .hbm

/-- Bits of the virtual address that index a level (R180). -/
def levelIndex (level va : Nat) : Nat := match level with
  | 0 => bits va 56 48
  | 1 => bits va 47 39
  | 2 => bits va 38 30
  | 3 => bits va 29 21
  | _ => bits va 20 16

/-- The size code a leaf at a level must have (R180). -/
def levelSize (level : Nat) : Option Nat := match level with
  | 2 => some 2
  | 3 => some 1
  | 4 => some 0
  | _ => none

/-- Whether a die's L2 holds the sector of a byte. -/
def State.inL2 (s : State) (die pa : Nat) : Bool := (s.l2Line die (pa / 128)).have_.getLsbD (pa % 128 / 32)

/-- A table entry as a walk of a die reads it: the die's L2 where it holds the sector, otherwise the memory side (R187). -/
def State.readTable (s : State) (die pa : Nat) : Nat :=
  if s.inL2 die pa then lineBytes (s.l2Line die (pa / 128)).data (pa % 128) 8 else s.memRead pa 8

/-- The address of the entry that a level of a walk reads. -/
def entryAt (level va table : Nat) : Nat := table + 8 * levelIndex level va

/-- The walk from the table at `table`, with `5 - level` levels of fuel (R180). -/
def State.walkFrom (s : State) (die va : Nat) : Nat → Nat → Nat → WalkState
  | 0, _, _ => .failed xBadAttribute
  | n + 1, level, table =>
    if !tableFrameOk table then .failed xBadFrame
    else
      let w := s.readTable die (entryAt level va table)
      if !bit w 0 then .failed xNotValid
      else if bits w 3 1 = 0 then
        if level = 4 ∨ bits w 11 4 ≠ 0 ∨ bits w 63 52 ≠ 0 then .failed xBadAttribute
        else s.walkFrom die va n (level + 1) (bits w 51 12 * 2 ^ 12)
      else if levelSize level ≠ some (leafSize w) ∨ !leafLegal w then .failed xBadAttribute
      else .leaf w

/-- The entries that such a walk reads at the memory side, not in the die's L2: each an address and its bytes. -/
def State.walkReadsFrom (s : State) (die va : Nat) : Nat → Nat → Nat → List (Nat × Nat)
  | 0, _, _ => []
  | n + 1, level, table =>
    if !tableFrameOk table then []
    else
      let entry := entryAt level va table
      let w := s.readTable die entry
      (if s.inL2 die entry then [] else [(entry, 8)]) ++
        if bit w 0 ∧ bits w 3 1 = 0 ∧ level ≠ 4 ∧ bits w 11 4 = 0 ∧ bits w 63 52 = 0 then
          s.walkReadsFrom die va n (level + 1) (bits w 51 12 * 2 ^ 12)
        else []

/-- The root table (R180). -/
def State.rootTable (s : State) : Nat := bits s.ptRoot.toNat 51 12 * 2 ^ 12

/-- Translate an address by the tables at PT_ROOT (R180), and what that reads at the memory side. -/
def State.walk (s : State) (die va : Nat) : WalkState := s.walkFrom die va 5 0 s.rootTable
def State.walkReads (s : State) (die va : Nat) : List (Nat × Nat) := s.walkReadsFrom die va 5 0 s.rootTable

/-! ### TLBs (R187) -/

def TlbEntry.covers (e : TlbEntry) (page : Nat) : Bool := decide (e.page ≤ page) && decide (page < e.page + e.pages)

/-- The 64 KiB page number of an address. -/
def pageOf (va : Nat) : Nat := bits va 56 16

def tlbLookup (l : List TlbEntry) (page : Nat) : Option Nat := (l.find? (·.covers page)).map (·.leaf)

/-- Enter a leaf, dropping the oldest entry of a full TLB. -/
def tlbInsert (cap : Nat) (l : List TlbEntry) (page leaf : Nat) : List TlbEntry :=
  let pages := leafBytes leaf / 2 ^ 16
  (⟨page / pages * pages, pages, leaf⟩ :: l.filter fun e => !e.covers page).take cap

/-- The first of the cluster and die TLBs that holds the page. -/
def State.outerTlb (s : State) (core page : Nat) : Option Nat :=
  match tlbLookup (s.cluster (clusterOf core)).tlb page with
  | some w => some w
  | none => tlbLookup (s.die (dieOf core)).tlb page

/-- Enter a leaf into the three TLBs above a core (R187). -/
def State.tlbFill (s : State) (core page leaf : Nat) : State :=
  let s := s.modCore core fun c => { c with tlb := tlbInsert 64 c.tlb page leaf }
  let s := s.modCluster (clusterOf core) fun c => { c with tlb := tlbInsert 2048 c.tlb page leaf }
  s.modDie (dieOf core) fun d => { d with tlb := tlbInsert 8192 d.tlb page leaf }

/-- What a bundle finds for a page: the L1 TLB, then the walk made for it (R187). -/
def State.lookup (s : State) (ctx va : Nat) : Option WalkState :=
  match tlbLookup (s.core (coreOf ctx)).tlb (pageOf va) with
  | some w => some (.leaf w)
  | none => ((s.ctxAt ctx).flow.walked.find? fun x => x.page == pageOf va).map (·.result)

/-! ### Rights (R183 to R185) -/

/-- Kinds of access, as R183 to R185 tell them apart. -/
inductive Access where
  | load | store | vload | vstore | gather | scatter | amo | table | fmtLoad | fmtStore | engine | waitw | fetch | shadow
  | confluence | query | reseau
deriving DecidableEq, Repr

def Access.needsR : Access → Bool
  | .load | .vload | .gather | .amo | .table | .fmtLoad | .engine | .waitw | .shadow | .query | .reseau => true
  | _ => false

def Access.needsW : Access → Bool
  | .store | .vstore | .scatter | .amo | .fmtStore | .engine | .shadow | .confluence => true
  | _ => false

/-- Loads and stores a cluster-window frame admits (R185), and `waitw`, which is checked as `ldg` is (R231). -/
def Access.windowOk : Access → Bool
  | .load | .store | .vload | .vstore | .gather | .scatter | .waitw => true
  | _ => false

/-- The class check of R184 for a page of class `c` (0 ordinary, 1 réseau, 2 basin window, 3 sync page). -/
def classOk (a : Access) (c : Nat) : Bool :=
  match a with
  | .load => true
  | .store => c != 2
  | .vload | .gather => c != 3
  | .vstore | .scatter => c ≤ 1
  | .amo => c == 0 || c == 3
  | .table => c == 0
  | .engine => c == 3
  | .shadow => c != 2
  | .confluence | .query => c == 2
  | .reseau => c == 1
  | _ => true

/-- Whether an access needs a raw page (R184). -/
def Access.needsRaw : Access → Bool
  | .amo | .table => true
  | _ => false

/-- What the ranges of a sync engine's SRAM admit (R219): the pending table and the directory take no `amo`, `ntile`, barrier
operation or `waitw`, and the directory scalar accesses only. -/
def syncRangeOk (a : Access) (off : Nat) : Bool :=
  if off < 0x380000 then true
  else match a with
    | .amo | .engine | .waitw => false
    | .load | .store => true
    | _ => off < 0x3FA000

/-- The protection reason an access meets on a leaf, in the order of R188, `none` when it is allowed. `pa` is its physical
address, `size3` marks `stg` of size 0b011 (R185), `priv` the mode (R183). -/
def protection (w pa : Nat) (a : Access) (priv : Bool) (size3 plain : Bool) (core : Nat) : Option Nat :=
  if !priv && a != .shadow && !bit w 4 then some pUser
  else if a.needsR && !bit w 1 then some pRead
  else if a.needsW && !bit w 2 then some pWrite
  else if a == .fetch && !bit w 3 then some pExecute
  else if !classOk a (leafClass w) then some pClass
  else if a.needsRaw && leafFmt w != 0 then some pFormat
  else match region pa with
    | .window c => if a.windowOk && plain && clusterOf c == clusterOf core then none else some pWindow
    | .aperture _ => if a == .store && plain && size3 && leafClass w == 0 then none else some pAperture
    | _ => if atSync pa && !syncRangeOk a (syncOffset pa) then some pClass else none

/-- An address's outcome before its bundle may issue. -/
inductive Xlate where
  | ok (pa leaf : Nat)
  | wait (va : Nat)
  | fault (cause reason va : Nat)
deriving DecidableEq, Repr

/-- TRAP_INFO of a translation or protection fault (R188). -/
def faultInfo (reason va : Nat) : Word := BitVec.ofNat 64 (reason * 2 ^ 60 + va % 2 ^ 57)

/-- The rules of one access: kind, mode, size code 3 of `stg`, and whether it is a plain load or store. -/
structure AccessRule where
  kind : Access
  size3 : Bool := false
  plain : Bool := false
  /-- The format that a page must have, of an access by blocks (R194). -/
  fmt : Nat := 0
deriving DecidableEq, Repr

/-- Whether a leaf's frame lies in assigned ranges (R177, R188). -/
def frameOk (w : Nat) : Bool :=
  region (leafFrame w) != .unassigned && region (leafFrame w + leafBytes w - 1) != .unassigned

/-- Translate one address of a context and check its rights (R180 to R188). `issued` is the address as the instruction gave
it, which fault reports carry (R186). -/
def State.translate (s : State) (ctx va issued : Nat) (r : AccessRule) (priv : Bool) : Xlate :=
  if !canonical va then .fault causeTranslation xNoncanonical issued
  else match s.lookup ctx va with
    | none => .wait va
    | some .pending => .wait va
    | some (.failed x) => .fault causeTranslation x issued
    | some (.leaf w) =>
      let pa := leafFrame w + va % leafBytes w
      if !frameOk w then .fault causeTranslation xBadFrame issued
      else if r.fmt ≠ 0 ∧ leafFmt w ≠ r.fmt then
        .fault causeTranslation xBadAttribute issued
      else match protection w pa r.kind priv r.size3 r.plain (coreOf ctx) with
        | some x => .fault causeProtection x issued
        | none => .ok pa w

/-! ### Waiting for a walk -/

/-- Whether a walk for the page is under way. -/
def State.walkPending (s : State) (ctx va : Nat) : Bool :=
  (s.ctxAt ctx).flow.walked.any fun x => x.page == pageOf va && x.result == .pending

/-- Ask for the walk of a page, once, and hold (R187). -/
def State.waitWalk (s : State) (va : Nat) : State :=
  if s.walkPending s.cur.ctx va then s.holdWaiting
  else (s.modCur fun c =>
    { c with requests := c.requests ++ [{ i := .tlbWalkDone, a := c.ctx, b := va }] }).holdWaiting

/-- An agent's step goes on once none of its accesses, each an address and its bytes, queues at DRAM that a run claims (R315); until then
it stands in the sequencer's queue, which takes it up again (`settleDram`). -/
def withDram (s : State) (e : Event) (l : List (Nat × Nat)) (go : State → Out) : Out :=
  match s.firstWaiting (.step e) [] l with
  | some x => .next (s.dramJoin (.step e) x.1 x.2)
  | none => go ((l.foldl (fun s x => s.dramTake x.1 x.2) s).dramLeave (.step e))

/-- What a walk or an outer TLB answers to a held bundle (R187): the leaf goes into the TLBs, a failure stays with the bundle. -/
def State.finishWalk (s : State) (e : Event) : State :=
  let core := coreOf e.a
  let page := pageOf e.b
  let r := match s.outerTlb core page with
    | some w => .leaf w
    | none => s.walk (dieOf core) e.b
  let s := s.modCtxAt e.a fun c => { c with flow := { c.flow with walked := ⟨page, r⟩ :: c.flow.walked.filter fun x => x.page != page } }
  match r with
  | .leaf w => s.tlbFill core page w
  | _ => s

/-- The accesses that a walk for a held bundle makes: none where an outer TLB holds the page. -/
def State.walkAccesses (s : State) (e : Event) : List (Nat × Nat) :=
  if (s.outerTlb (coreOf e.a) (pageOf e.b)).isSome then [] else s.walkReads (dieOf (coreOf e.a)) e.b

/-- A walk reads the tables when it ends; a read of DRAM that a run claims queues (R315). -/
def execTlbWalkDone (s : State) : Out := withDram s s.arg (s.walkAccesses s.arg) fun s => .next (s.finishWalk s.arg)

/-- Translations found for a held bundle are dropped: it asks anew. -/
def Ctx.dropWalked (c : Ctx) : Ctx := { c with flow := { c.flow with walked := c.flow.walked.filter fun x => x.result == .pending } }

/-- Drop the entries of every TLB that a write of TLB_INVAL names, and what walks have found for held bundles (R180). -/
def invalidateTlbs (s : State) (v : Word) : State :=
  let keep (l : List TlbEntry) : List TlbEntry :=
    if v.getLsbD 0 then [] else l.filter fun e => !e.covers (bits v.toNat 56 16)
  { s with
    ctxs := (s.ctxs.map (·.1)).foldl (fun m k => Store.set {} m k (Store.get {} m k).dropWalked) s.ctxs
    cores := (s.cores.map (·.1)).foldl
      (fun m k => let c := Store.get {} m k; Store.set {} m k { c with tlb := keep c.tlb }) s.cores
    clusters := (s.clusters.map (·.1)).foldl
      (fun m k => let c := Store.get {} m k; Store.set {} m k { c with tlb := keep c.tlb }) s.clusters
    dies := (s.dies.map (·.1)).foldl
      (fun m k => let c := Store.get {} m k; Store.set {} m k { c with tlb := keep c.tlb }) s.dies }

/-- A write to PT_ROOT invalidates every TLB entry of the module (R180). -/
def execPtRootWrite (s : State) : Out :=
  withMgmt s (.next (invalidateTlbs { s with ptRoot := s.arg.v &&& 0x000FFFFFFFFFF000#64 } 1))

/-- A write to TLB_INVAL drops the named page, or every page, from every TLB; bit 0 reads 1 until the drop and every walk begun
before it have ended (R180). -/
def execTlbInval (s : State) : Out :=
  withMgmt s
    (.next ({ invalidateTlbs s s.arg.v with tlbInval := s.tlbInval + 1 }.laterOpen { i := .tlbInvalDone, c := s.now, v := s.arg.v }))

/-- Whether a walk begun in cycle `t` or before has not ended; a walk's step holds the cycle in which it began. -/
def State.walksSince (s : State) (t : Nat) : Bool :=
  let mine (e : Event) : Bool := e.i == .tlbWalkDone && decide (e.c ≤ t)
  (s.timers.any fun w => mine w.2) || s.agenda.any mine || s.dramQueue.any fun w => match w.who with
    | .step e => mine e
    | _ => false

/-- Every TLB has dropped the entries: what walks begun before the write brought in is dropped too, and this write no longer keeps
bit 0 at 1. -/
def execTlbInvalDone (s : State) : Out :=
  .next (if s.walksSince s.arg.c then s.laterOpen s.arg else { invalidateTlbs s s.arg.v with tlbInval := s.tlbInval - 1 })

/-! ### Accesses that straddle pages -/

/-- One translated piece: physical address, bytes, bytes before it, leaf. -/
structure Piece where
  pa : Nat
  n : Nat
  before : Nat
  leaf : Nat
deriving DecidableEq, Repr

/-- Cut an access at a page boundary (R188, R202). -/
def pieces (va n : Nat) : List (Nat × Nat × Nat) :=
  let room := 2 ^ 16 - va % 2 ^ 16
  if n ≤ room then [(va, n, 0)] else [(va, room, 0), ((va + room) % 2 ^ 64, n - room, room)]

/-- Translate a list of pieces in order; the first that waits or faults decides (R188). -/
def State.translateAll (s : State) (ctx issued : Nat) (r : AccessRule) (priv : Bool) :
    List (Nat × Nat × Nat) → Except Xlate (List Piece)
  | [] => .ok []
  | (va, n, b) :: ps =>
    match s.translate ctx va ((issued + b) % 2 ^ 64) r priv with
    | .ok pa w =>
      match s.translateAll ctx issued r priv ps with
      | .ok l => .ok (⟨pa, n, b, w⟩ :: l)
      | .error x => .error x
    | x => .error x

/-- Go on with the translated pieces, hold for the walk, or take the fault (R52, R187, R188). -/
def withXlate (s : State) (x : Except Xlate (List Piece)) (k : List Piece → Out) : Out :=
  match x with
  | .ok l => k l
  | .error (.wait va) => .next (s.waitWalk va)
  | .error (.fault c x va) => .next (s.takeTrap c (faultInfo x va))
  | .error (.ok _ _) => k []

end Sys2Proof.Machine
end

