-- ==== Sys2Proof/Machine/LocalStore.lean ====
section
/-!
DEFINITION. The local store: local accesses (R165 to R168), bank roles (R162 to R164), role changes (R170 to R173) and
arbitration (R175).
-/
namespace Sys2Proof.Machine

/-- `n` bytes of a core's local store, little-endian. -/
def CoreSt.locRead (c : CoreSt) : Nat → Nat → Nat
  | _, 0 => 0
  | a, n + 1 => (Store.get 0 c.loc a).toNat + 256 * c.locRead (a + 1) n

/-- Write `n` bytes of a core's local store, little-endian. -/
def CoreSt.locWrite (c : CoreSt) : Nat → Nat → Nat → CoreSt
  | _, 0, _ => c
  | a, n + 1, x => CoreSt.locWrite { c with loc := Store.set 0 c.loc a (BitVec.ofNat 8 x) } (a + 1) n (x / 256)

/-- A write to a local store takes the poison of the sectors it covers whole (R385). -/
def State.cureLoc (s : State) (core a n : Nat) : State :=
  if s.poison.isEmpty then s
  else { s with poison := s.poison.filter fun p => match p with
    | .loc c k => !(c == core && decide (a ≤ 32 * k) && decide (32 * k + 32 ≤ a + n))
    | _ => true }

/-- Write `n` bytes of core `core`'s local store. -/
def State.locStore (s : State) (core a n x : Nat) : State := (s.modCore core fun c => c.locWrite a n x).cureLoc core a n

/-- The core of the bundle being tried. -/
def State.coreId (s : State) : Nat := coreOf s.cur.ctx

/-- TRAP_INFO of a local-store protection fault (R166). -/
def localInfo (sub ea : Nat) : Word := BitVec.ofNat 64 (2 ^ 60 + sub * 2 ^ 57 + ea % 2 ^ 57)

/-- Whether a busy bit of a kind holds a bundle in this cycle: one set by a bundle of this very cycle holds none (R46, R252). -/
def CoreSt.isBusy (c : CoreSt) (now : Nat) (k : BusyKind) : Bool :=
  c.busy.any fun b => b.kind == k && decide (now ≤ b.last) && decide (b.issued < now)

/-- Whether a busy bit of an operand bank is set: local accesses hold (R166, R252). -/
def CoreSt.operandBusy (c : CoreSt) (now j : Nat) : Bool := c.isBusy now (.bankRead j) || c.isBusy now (.bankWrite j)

/-- Whether the engine holds line `l` for an image: it has issued, before cycle `now` for the bundles of its own core (`own`), whose
present bundle it may be, or in it for any other party, and has not been granted the line (R253). -/
def Image.holds (m : Image) (now l : Nat) (own : Bool) : Bool :=
  (if own then decide (m.issued < now) else decide (m.issued ≤ now)) && decide (m.line ≤ l) && decide (l < m.line + m.lines) &&
    decide (now ≤ m.first + (l - m.line))

/-- Whether an access to a local line waits for the engine: a store for a line held either way, a load for one held for
writing (R253). -/
def CoreSt.lineHeld (c : CoreSt) (now l : Nat) (write own : Bool) : Bool :=
  c.images.any fun m => m.holds now l own && (m.write || write)

/-- Whether an image requests bank `j` in cycle `now` (R253). -/
def Image.requests (m : Image) (now j : Nat) : Bool :=
  decide (m.first ≤ now) && decide (now < m.first + m.lines) && (m.line + (now - m.first)) / 128 == j

/-- Bytes of a size code (R68). -/
def sizeBytes (z : BitVec 3) : Nat := 2 ^ (z.toNat % 4)

/-- A loaded value extended by its size code (R168). -/
def extendLoad (z : BitVec 3) (x : Nat) : Word :=
  let n := 8 * sizeBytes z
  if 4 ≤ z.toNat then word (toInt n true x) else BitVec.ofNat 64 x

/-! ### Arbitration (R175) -/

/-- The requesters of a bank, in the order of R175. -/
def reqBxe : Nat := 0
def reqEngine : Nat := 1
def reqWindow : Nat := 2
def reqBundle : Nat := 3

/-- The request of two that is granted before the other, each a requester and its wait: an aged one (wait 2 or more) with the longer
wait, otherwise the first in the order (R175). -/
def beats (a b : Nat × Nat) : Bool :=
  if 2 ≤ a.2 then decide (b.2 < a.2) || (a.2 == b.2 && decide (a.1 ≤ b.1))
  else decide (b.2 < 2) && decide (a.1 ≤ b.1)

/-- The winner among the requests of a bank. -/
def winnerOf : List (Nat × Nat) → Option (Nat × Nat)
  | [] => none
  | x :: xs => match winnerOf xs with
    | none => some x
    | some y => some (if beats x y then x else y)

/-- The image whose line the engines present at bank `j`: the one that has lost most, the older first. DEDUCED, log
entry 32. -/
def CoreSt.engineAt (c : CoreSt) (now j : Nat) : Option Image :=
  (c.images.filter fun m => m.requests now j).foldl
    (fun r m => match r with
      | none => some m
      | some x => some (if x.wait < m.wait then m else x)) none

/-- Whether a request is the BXE's. -/
def BankReq.bxe (r : BankReq) : Bool := r.op.isNone

/-- The first request of the BXE, or of the cluster window, at bank `j`. -/
def CoreSt.reqAt (c : CoreSt) (now : Nat) (bxe : Bool) (j : Nat) : Option BankReq :=
  c.bankReqs.find? fun r => r.bank == j && r.bxe == bxe && decide (r.from_ ≤ now)

/-- Whether a request at its bank may be granted: of a load or store through the window the bank is not CHANGING and no engine holds the
line (R172, R253). A ring's load has passed these checks at issue (R244). -/
def CoreSt.presents (c : CoreSt) (now : Nat) (r : BankReq) : Bool :=
  match r.op with
  | none => !c.isChanging now r.bank
  | some o => match o.sink with
    | .taken => true
    | _ =>
      !c.isChanging now r.bank &&
        !([o.a / 128, (o.a + o.n - 1) / 128].any fun l => c.lineHeld now l o.store.isSome false)

/-- What other parties than the core's bundle request of bank `j` in this cycle, with their waits. -/
def CoreSt.contenders (c : CoreSt) (now j : Nat) : List (Nat × Nat) :=
  let at_ (bxe : Bool) (who : Nat) : List (Nat × Nat) :=
    (((c.reqAt now bxe j).filter fun r => c.presents now r).map fun r => (who, r.wait)).toList
  at_ true reqBxe ++ ((c.engineAt now j).map fun m => (reqEngine, m.wait)).toList ++ at_ false reqWindow

/-- Whether the core's bundle loses arbitration for bank `j` in this cycle (R175). -/
def State.losesBank (s : State) (j : Nat) : Bool :=
  let wait := Store.get 0 s.ctx.flow.bankWaits j
  match winnerOf ((s.core s.coreId).contenders s.now j) with
  | none => false
  | some x => beats x (reqBundle, wait)

/-- A request of another party comes to a bank of a core: it is presented from the next cycle on (R175). -/
def State.askBank (s : State) (core : Nat) (r : BankReq) : State :=
  s.modCore core fun c => { c with bankReqs := c.bankReqs ++ [{ r with from_ := s.now + 1 }] }

/-- The parts of `n` bytes of a local store at `a` that lie in one bank each: address, bytes, bytes before. -/
def bankParts (a n : Nat) : List (Nat × Nat × Nat) :=
  let room := 2 ^ 14 - a % 2 ^ 14
  if n ≤ room then [(a, n, 0)] else [(a, room, 0), (a + room, n - room, room)]

/-- A bundle's access through the cluster window to `n` bytes at `a` of core `core`: one request for each bank (R175, R185). A store
writes the bytes of `x`; what a load brings goes to `sink`. -/
def State.askWindow (s : State) (core : Nat) (so : Bool) (detail a n : Nat) (store : Option Nat) (sink : Nat → WindowSink) : State :=
  (bankParts a n).foldl (fun s p => s.askBank core
    { bank := p.1 / 2 ^ 14, from_ := 0, left := 1
      op := some ⟨s.cur.ctx, s.ctx.csr.gen.toNat, so, detail, p.1, p.2.1, store.map fun x => x / 2 ^ (8 * p.2.2), sink (8 * p.2.2)⟩ }) s

/-- The first request of a list that waits at bank `j` for the BXE or the window: granted, or, where it is presented, its wait grows. -/
def stepReqs (now : Nat) (bxe : Bool) (j : Nat) (granted presented : Bool) : List BankReq → List BankReq
  | [] => []
  | r :: rs =>
    if r.bank = j ∧ r.bxe = bxe ∧ r.from_ ≤ now then
      (if granted then (if r.left ≤ 1 then rs else { r with left := r.left - 1, wait := 0 } :: rs)
       else if presented then { r with wait := r.wait + 1 } :: rs
       else r :: rs)
    else r :: stepReqs now bxe j granted presented rs

/-- The busy bits that keep bank `j` in the operand role clear with this cycle (R170). -/
def CoreSt.busyEnd (c : CoreSt) (now j : Nat) : Nat :=
  (c.busy.filter fun b => b.kind == .bankRead j || b.kind == .bankWrite j).foldl (fun m b => max m b.last) now

/-- When the leaving steps of role changes end: a change's banks one after the other, one line written back per cycle by the core's
path, an operand bank once its busy bits are clear (R170, R172). `change` and `ended` are the change and the leaving step before, `path`
the cycle with which the path has written what came before. -/
def CoreSt.retime (c : CoreSt) : Nat → Nat → Nat → List Changing → List Changing
  | _, _, _, [] => []
  | change, ended, path, x :: xs =>
    let start := if x.change = change then max x.from_ ended else x.from_
    let cost := x.lines.length
    let left := max x.left (if x.operand then c.busyEnd start x.bank else if cost = 0 then start else max start path + cost)
    { x with left := left, stable := left + 4 } :: c.retime x.change left (if cost = 0 then path else left) xs

/-- The engines lose a cycle for the operations `ops`: their images' further lines, their completion and their busy bits are one cycle
later, and role changes that wait for these (R170, R253). -/
def CoreSt.delayEngine (c : CoreSt) (ops : List Nat) : CoreSt :=
  if ops.isEmpty then c
  else
    let c : CoreSt := { c with
      images := c.images.map fun m => if ops.contains m.op then { m with first := m.first + 1, wait := m.wait + 1 } else m
      busy := c.busy.map fun b => if ops.contains b.op then { b with last := b.last + 1 } else b
      transposes := c.transposes.map fun t => if ops.contains t.op then { t with ready := t.ready + 1 } else t }
    { c with changing := c.retime 0 0 0 c.changing }

/-- Which requester wins bank `j` in a cycle, its own bundle where that has been served (R175). -/
def CoreSt.wins (c : CoreSt) (now j : Nat) : Nat :=
  if c.served.contains j then reqBundle else ((winnerOf (c.contenders now j)).map (·.1)).getD reqBundle

/-- The operations whose images lose bank `j` in a cycle. -/
def CoreSt.losers (c : CoreSt) (now j : Nat) : List Nat :=
  let given : Option Nat := if c.wins now j = reqEngine then (c.engineAt now j).map (·.op) else none
  ((c.images.filter fun m => m.requests now j).map (·.op)).filter fun o => given != some o

/-- The requests of bank `j` at the end of a cycle, judged in `c`: the winner is served, every other waits (R175). -/
def CoreSt.settleReqs (c : CoreSt) (now j : Nat) (l : List BankReq) : List BankReq :=
  let won := c.wins now j
  let shown (bxe : Bool) : Bool := ((c.reqAt now bxe j).map fun r => c.presents now r).getD false
  stepReqs now true j (won == reqBxe) (shown true) (stepReqs now false j (won == reqWindow) (shown false) l)

/-- What the cluster window's requests that are granted in a cycle do, bank by bank. -/
def CoreSt.grantedOps (c : CoreSt) (now : Nat) (js : List Nat) : List WindowOp :=
  js.filterMap fun j => if c.wins now j = reqWindow then (c.reqAt now false j).bind (·.op) else none

/-- The banks of a core that a party other than its bundle requests in a cycle. -/
def CoreSt.banksAsked (c : CoreSt) (now : Nat) : List Nat :=
  (c.bankReqs.map (·.bank) ++ (c.images.filter fun m => decide (m.first ≤ now) && decide (now < m.first + m.lines)).map
    fun m => (m.line + (now - m.first)) / 128).eraseDups

/-- The banks of a core at the end of a cycle: all are judged as they stood in it. -/
def CoreSt.settleBanks (c : CoreSt) (now : Nat) : CoreSt :=
  let js := c.banksAsked now
  let late := (js.flatMap (c.losers now)).eraseDups
  let c' : CoreSt := { c with
    bankReqs := js.foldl (fun l j => c.settleReqs now j l) c.bankReqs
    images := c.images.map fun m => if late.contains m.op then m else { m with wait := 0 }
    served := [] }
  c'.delayEngine late

/-- The bytes of a form as register writes (R168, R190, R191). -/
def LoadForm.write (f : LoadForm) (x : Nat) : RegWrite :=
  match f with
  | .scalar d z => .s d (extendLoad z x)
  | .vector v m => .v v m (BitVec.ofNat 1024 x)

/-- Bytes that a bank brings join a landing. -/
def Landing.bring (l : Landing) (shift x : Nat) (poison : Option Nat) : Landing :=
  match l.owed with
  | none => l
  | some o =>
    let raw := o.raw + x * 2 ^ shift
    { l with
      ws := [o.form.write raw]
      poison := match l.poison with
        | some k => some k
        | none => poison
      owed := if o.left ≤ 1 then none else some { o with raw := raw, left := o.left - 1 } }

/-- A load's bytes go where it waits for them (R86). -/
def Ctx.bring (c : Ctx) (k : WindowSink) (x : Nat) (poison : Option Nat) : Ctx :=
  match k with
  | .landing id shift =>
    { c with flow := { c.flow with
        landings := c.flow.landings.map fun l => if l.id = id then l.bring shift x poison else l } }
  | _ => c

/-- The first poisoned sector of a local store's bytes, by physical address / 32 of the cluster window (R385). -/
def State.windowPoison (s : State) (core a n : Nat) : Option Nat :=
  if s.poison.isEmpty then none
  else ((upTo ((a + n - 1) / 32 + 1 - a / 32)).map (a / 32 + ·)).find? (fun k => s.poison.contains (.loc core k)) |>.map
    fun k => (windowBase + core * 2 ^ 19) / 32 + k

/-- Whether bytes of a core's local store may be reached through the cluster window: their bank is scratchpad (R185). -/
def State.windowOk (s : State) (core a : Nat) : Bool := roleOf (s.core core).bankRole (a / 2 ^ 14) == 1

/-- The bundle holds for a lost arbitration (R80). -/
def State.holdBank (s : State) (j : Nat) : State :=
  s.modCur fun c => { c with held := true, heldOther := true, heldAwake := true, heldElse := true, heldApart := true, lost := j :: c.lost }

/-- Check and serve a local access (R166, R253). -/
def localAccess (s : State) (ea n : Nat) (write : Bool) (k : Nat → State → Out) : Out :=
  if 2 ^ 19 ≤ ea then .next (s.takeTrap causeProtection (localInfo 1 ea))
  else
    let a := ea - ea % n
    let j := bits a 18 14
    let c := s.core s.coreId
    if roleOf c.bankRole j = 0 then .next (s.takeTrap causeProtection (localInfo 2 ea))
    else if c.isChanging s.now j then .next s.hold
    else if roleOf c.bankRole j = 2 ∧ c.operandBusy s.now j then .next s.hold
    else if c.lineHeld s.now (a / 128) write true then .next s.hold
    else if s.losesBank j then .next (s.holdBank j)
    else k a (s.modCur fun c => { c with banks := j :: c.banks })

/-- A base register plus a scaled offset (R58). -/
def State.effective (s : State) (a : BitVec 6) (off : Int) (scale : Nat) : Nat := (s.rS a + word (off * scale)).toNat

def execLd (d a : BitVec 6) (o : BitVec 10) (z : BitVec 3) (s : State) : Out :=
  let n := sizeBytes z
  localAccess s (s.effective a (s.signedField o) n) n false fun x s =>
    .next (s.wS 3 d (extendLoad z ((s.core s.coreId).locRead x n)))

def execSt (d a : BitVec 6) (o : BitVec 10) (z : BitVec 3) (s : State) : Out :=
  let n := sizeBytes z
  localAccess s (s.effective a (s.signedField o) n) n true fun x s =>
    .next (s.locStore s.coreId x n (s.rS d).toNat)

def execVld (v : BitVec 5) (a : BitVec 6) (o : BitVec 10) (s : State) : Out :=
  localAccess s (s.effective a (s.signedField o) 128) 128 false fun x s =>
    .next (s.wV 4 v (BitVec.ofNat 1024 ((s.core s.coreId).locRead x 128)))

def execVst (v : BitVec 5) (a : BitVec 6) (o : BitVec 10) (s : State) : Out :=
  localAccess s (s.effective a (s.signedField o) 128) 128 true fun x s =>
    .next (s.locStore s.coreId x 128 (s.rV v).toNat)

/-! ### Bank roles -/

/-- How many banks have a role. -/
def countRole (roles : Word) (r : Nat) : Nat := ((upTo 32).filter fun j => roleOf roles j == r).length

/-- R163: scratchpad from bank 0 up, operand from bank 31 down, at least two cache banks. -/
def wellFormedRoles (roles : Word) : Bool :=
  let sc := countRole roles 1
  let op := countRole roles 2
  decide (sc + op + 2 ≤ 32) &&
    (upTo 32).all fun j => roleOf roles j == (if j < sc then 1 else if 32 - op ≤ j then 2 else 0)

/-- The BANK_ROLE value with banks `f` to `f + n` set to a role. -/
def setRoles (roles : Word) (f n : Nat) (r : BitVec 2) : Word :=
  (upTo (n + 1)).foldl (fun w k =>
    let m : Word := 3#64 <<< (2 * (f + k))
    (w &&& ~~~m) ||| (r.setWidth 64 <<< (2 * (f + k)))) roles

/-- The well-formed value with `sc` scratchpad and `op` operand banks (R174). -/
def grantRoles (sc op : Nat) : Word :=
  BitVec.ofNat 64 ((upTo 32).foldr (fun j acc => (if j < sc then 1 else if 32 - op ≤ j then 2 else 0) * 4 ^ j + acc) 0)

/-- Zero a bank's bytes (R170). -/
def CoreSt.zeroBank (c : CoreSt) (j : Nat) : CoreSt :=
  { c with loc := c.loc.filter fun e => e.1 / 2 ^ 14 != j }

/-- The sets of bank `j` that hold a line, lowest first (R169). -/
def CoreSt.setsListed (c : CoreSt) (j : Nat) : List Nat :=
  (c.lines.filter fun e => e.1 / 128 == j).map fun e => e.1 % 128

/-- Leave the old role of bank `j`, write its dirty lines back (R170); answers these, in the order in which they are written (R172). -/
def State.leaveBank (s : State) (core j : Nat) : List Nat × State :=
  let c := s.core core
  if roleOf c.bankRole j = 0 then
    let sets := c.setsListed j
    let dirty := (sets.filter fun k => (c.line j k).dirty != 0).filterMap fun k => (c.line j k).line
    let s := sets.foldl (fun s k => s.cleanLine core j k true) s
    (dirty, s.modCore core fun c => { c with lines := c.lines.filter fun e => e.1 / 128 != j })
  else ([], s)

/-- Begin the change of bank `j`, as part of change `n` of this cycle (R170, R172). -/
def State.changeBank (s : State) (core n j : Nat) : State :=
  let operand : Bool := roleOf (s.core core).bankRole j == 2
  let (gone, s) := s.leaveBank core j
  (s.modCore core fun c =>
    { c.zeroBank j with changing := c.changing ++ [⟨j, 0, 0, gone, s.now, n, operand⟩] }).cureLoc core (j * 2 ^ 14) (2 ^ 14)

/-- Give BANK_ROLE a new value: every bank whose field changes begins the change of R170, in ascending order (R172). -/
def State.changeRoles (s : State) (core : Nat) (new : Word) : State :=
  let old := (s.core core).bankRole
  let js := (upTo 32).filter fun j => roleOf old j != roleOf new j
  let n := ((s.core core).changing.foldl (fun m x => max m x.change) 0) + 1
  let s := (js.foldl (fun s j => s.changeBank core n j) s).modCore core fun c =>
    { c with bankRole := new, changing := c.retime 0 0 0 c.changing }
  { s with timers := s.timers ++ ((s.core core).changing.filter fun x => x.change == n).map fun x =>
      (x.stable + 1, { i := .bankChangeDone, a := core, b := x.bank }) }

/-- The BANK_ROLE that the `bank.role` operations already tried in this bundle leave (R173); a `csr.wr` of the bundle is not seen
(R126). -/
def State.rolesSoFar (s : State) : Word :=
  s.ctx.flow.pending.foldl
    (fun w p => match p.w with
      | .role f n r => if p.stamp = s.ctx.flow.stamp then setRoles w f n r else w
      | _ => w) (s.core s.coreId).bankRole

/-- The end of a `bank.role`'s cycle (R173). Beside a `csr.wr` of BANK_ROLE in its bundle the two act in slot order, and a value that is then
not well formed is not taken. DESIGN CHOICE, log entry 84. -/
def State.takeRoles (s : State) (core f n : Nat) (r : BitVec 2) : State :=
  let new := setRoles (s.core core).bankRole f n r
  if wellFormedRoles new then s.changeRoles core new else s

/-- Whether some of banks `f` to `f + n` is CHANGING. -/
def CoreSt.someChanging (c : CoreSt) (now f n : Nat) : Bool := (upTo (n + 1)).any fun k => c.isChanging now (f + k)

/-- Whether a role value exceeds the launch's grant (R164). -/
def CoreSt.exceedsGrant (c : CoreSt) (roles : Word) : Bool :=
  decide (c.grant.1 < countRole roles 1) || decide (c.grant.2 < countRole roles 2)

/-- BankRole of R173: BANK_ROLE takes the new value at the end of the cycle. -/
def execBankRole (f n : BitVec 5) (r : BitVec 2) (s : State) : Out :=
  noLent s
    (let c := s.core s.coreId
     let new := setRoles s.rolesSoFar f.toNat n.toNat r
     if c.someChanging s.now f.toNat n.toNat then .next s.hold
     else if !wellFormedRoles new || (!s.ctx.priv && c.exceedsGrant new) then .next (s.takeTrap causeProtection new)
     else .next (s.queue 1 (.role f.toNat n.toNat r)))

/-- BankFlush of R173. -/
def execBankFlush (f n : BitVec 5) (s : State) : Out :=
  noLent s
    (let c := s.core s.coreId
     if c.someChanging s.now f.toNat n.toNat then .next s.hold
     else
       let js := ((upTo (n.toNat + 1)).map (f.toNat + ·)).filter fun j => roleOf s.rolesSoFar j == 0
       .next (js.foldl (fun s j => ((s.core s.coreId).setsListed j).foldl (fun s k => s.cleanLine s.coreId j k true) s) s))

/-- A bank whose leaving step and clearing are done is STABLE (R171); a change that has been put off is waited for. -/
def execBankChangeDone (s : State) : Out :=
  let late := (s.core s.arg.a).changing.filter fun x => x.bank == s.arg.b && decide (s.now ≤ x.stable)
  let s := s.modCore s.arg.a fun c => { c with changing := c.changing.filter fun x => x.bank != s.arg.b || decide (s.now ≤ x.stable) }
  .next { s with timers := s.timers ++ (late.map fun x => (x.stable + 1, s.arg)) }

end Sys2Proof.Machine
end

