-- ==== Sys2Proof/Machine/Global.lean ====
section
/-!
DEFINITION. Global accesses: landings (R86), version windows (R343), loads and stores (R189 to R191), prefetch, codebook
tables, address generators (R192 to R194) and format accesses (R195, R196).
-/
namespace Sys2Proof.Machine

/-! ### Landings (R86, R87) -/

/-- Run with a free landing-buffer entry, or hold (R86). -/
def withEntry (s : State) (k : Out) : Out := if 16 ≤ s.ctx.flow.landings.length then holdUnlessTrapped k else k

/-- Take a landing-buffer entry for data that arrive after cycle `from_`: its registers see them from cycle `now + n`, or from the cycle
after they arrive when they are late (R86, R87), as what comes from another package always is (R354). `owed` is what banks have yet to
bring. -/
def State.landFrom (s : State) (from_ n : Nat) (ws : List RegWrite) (evs : List (EvKind × Nat)) (owed : Option Owed := none) : State :=
  let f := s.ctx.flow
  let due := s.now + n
  let arrives := (if s.cur.far then max due from_ else from_) + 1 + Config.arrivalDelay s.fresh
  let evs := if s.ctx.priv then [] else evs.map fun e => ⟨s.cur.slot, e.1.code, e.2⟩
  let s := s.modCtx fun c => { c with flow := { c.flow with
    landings := c.flow.landings ++ [⟨f.nextLanding, due, c.flow.stamp, s.cur.pc, ws, evs, s.cur.poison, owed⟩]
    nextLanding := c.flow.nextLanding + 1 } }
  { s with
    timers := s.timers ++ [(max due arrives, { i := .landing, a := s.cur.ctx, b := f.nextLanding })]
    fresh := s.fresh + 1 }

/-- The landing of data asked for in this cycle. -/
def State.land (s : State) (n : Nat) (ws : List RegWrite) (evs : List (EvKind × Nat)) : State := s.landFrom s.now n ws evs

/-- The landing of a load's bytes in a form, `parts` of which come through the cluster window (R175). -/
def State.landLoad (s : State) (n : Nat) (f : LoadForm) (v parts : Nat) : State :=
  s.landFrom s.now n [f.write v] [] (if parts = 0 then none else some ⟨f, v, parts⟩)

/-! ### Version windows (R343) -/

def State.mgmtReg (s : State) (off : Nat) : Word := Store.get 0 s.mgmt off

/-- The rewrite of R343 for window `i`, `none` where it does not match. VWIN_BASE and VWIN_SLOT0 stand with zeros above bit 56, so that no
window matches an address of the upper half. DESIGN CHOICE, log entry 107. -/
def State.windowRewrite (s : State) (round va i : Nat) : Option Nat :=
  let base := (s.mgmtReg (0xC00 + 0x20 * i)).toNat
  let size := (s.mgmtReg (0xC08 + 0x20 * i)).toNat
  let ctl := (s.mgmtReg (0xC18 + 0x20 * i)).toNat
  if bit ctl 63 ∧ ctl % 4 ≠ 0 ∧ base ≤ va ∧ va < base + size then
    some (va - base + (s.mgmtReg (0xC10 + 0x20 * i)).toNat + round % (ctl % 4) * size)
  else none

/-- VersionRewrite: the first window that holds the address rewrites it by PIN_ROUND (R186, R343). -/
def State.versionRewrite (s : State) (ctx va : Nat) : Nat :=
  let round := (s.ctxAt ctx).csr.pinRound.toNat % 2 ^ 32
  match (upTo 16).findSome? (s.windowRewrite round va) with
  | some v => v % 2 ^ 64
  | none => va

/-- The pieces of an access, each rewritten on its own (R343). -/
def State.accessPieces (s : State) (va n : Nat) : List (Nat × Nat × Nat) :=
  (pieces va n).map fun p => (s.versionRewrite s.cur.ctx p.1, p.2.1, p.2.2)

/-- Translate an access of the bundle being tried. -/
def State.xlate (s : State) (va n : Nat) (r : AccessRule) : Except Xlate (List Piece) :=
  s.translateAll s.cur.ctx va r s.ctx.priv (s.accessPieces va n)

/-! ### The asynchronous error log (R362) -/

/-- Write an entry of the error log of context `ctx`, then WRITTEN as a release write. -/
def State.errorLog (s : State) (ctx kind : Nat) (gen : Nat) (detail : Nat) : State :=
  let base := (s.mgmtReg 0x418).toNat + 256 * ctx
  let n := s.memAhead base 4
  let e := base + 16 + 16 * (n % 15)
  let s := s.partyWrite e 8 (kind % 256 + gen * 2 ^ 32)
  let s := s.partyWrite (e + 8) 8 detail
  s.releaseMem base 4 ((n + 1) % 2 ^ 32) (sigAdd (sigAdd 0 e) base)

/-- Log against the issuing context. -/
def State.errorLogHere (s : State) (kind detail : Nat) : State :=
  s.errorLog s.cur.ctx kind s.ctx.csr.gen.toNat detail

/-! ### Reading and writing a translated piece -/

/-- The lines of a local store that `n` bytes at `a` lie in. -/
def localLines (a n : Nat) : List Nat := [a / 128, (a + n - 1) / 128].eraseDups

/-- Bytes of a core's local store as a window access reads them: zero where their bank is not scratchpad (R185). -/
def State.windowRead (s : State) (core a n : Nat) : Nat := if s.windowOk core a then (s.core core).locRead a n else 0

/-- A bank grants a request through the cluster window (R175): the store or the load is performed, or refused and logged (R185). -/
def State.performWindow (s : State) (core : Nat) (o : WindowOp) : State :=
  let ok := s.windowOk core o.a
  let s := if ok || o.sink == .taken then s else s.errorLog o.ctx 2 o.gen o.detail
  match o.store, o.sink with
  | some x, _ => if ok then s.locStore core o.a o.n x else s
  | none, .poll e => s.soon { e with l := [s.windowRead core o.a o.n] }
  | none, _ =>
    if (s.ctxAt o.ctx).csr.gen.toNat = o.gen then
      s.modCtxAt o.ctx fun c => c.bring o.sink (s.windowRead core o.a o.n) (if ok then s.windowPoison core o.a o.n else none)
    else s

/-- The end of a cycle at every bank that a party other than a bundle requests (R175). -/
def State.settleBanks (s : State) : State :=
  s.cores.foldl (fun s e =>
    if e.2.bankReqs.isEmpty ∧ e.2.images.isEmpty ∧ e.2.served.isEmpty then s
    else
      (e.2.grantedOps s.now (e.2.banksAsked s.now)).foldl (fun s o => s.performWindow e.1 o)
        (s.modCore e.1 fun c => c.settleBanks s.now)) s

/-- The record of the memory side or the sync engine for the lines of some bytes (R208). -/
def State.recordOfBytes (s : State) (pa n : Nat) : Sig :=
  (lineSpans pa n).foldl (fun g sp => g ||| s.recordOfMem (128 * sp.1)) 0

/-- Whether loads of a page carry records and stores to it are release writes after a fence: SO and sync pages (R204). -/
def ordersPage (leaf : Nat) : Bool := leafOrd leaf == 0 || leafClass leaf == 3

/-- Note the record that a load of an SO or sync page carries (R204, R209). -/
def State.carryRecord (s : State) (leaf pa n : Nat) : State :=
  if ordersPage leaf then
    let g := s.recordOfBytes pa n
    s.modCtx fun c => { c with flow := { c.flow with acqSig := c.flow.acqSig ||| g } }
  else s

/-- Read sync-engine SRAM: the bytes of the pending table read zero (R219). -/
def State.syncRead (s : State) (pa n : Nat) : Nat :=
  let off := syncOffset pa
  if off + n ≤ 0x380000 ∨ 0x3FA000 ≤ off then s.memRead pa n
  else ((upTo n).map fun i => if 0x380000 ≤ off + i ∧ off + i < 0x3FA000 then 0 else (s.memByte (pa + i)).toNat).foldr
    (fun b acc => b + 256 * acc) 0

/-- Note that the slot's load reads of another package (R354). -/
def State.noteFar (s : State) (pa : Nat) : State :=
  match region pa with
  | .remote _ => s.modCur fun c => { c with far := true }
  | _ => s

/-- Note where the slot's load reads (R354), and the first poisoned sector of it (R385). -/
def State.notePoison (s : State) (level pa n : Nat) : State :=
  let s := s.noteFar pa
  if s.poison.isEmpty then s
  else
    let k := match region pa with
      | .window _ => none
      | .sync _ => s.readPoison s.coreId 2 pa n
      | _ => s.readPoison s.coreId level pa n
    match k with
    | none => s
    | some k => s.modCur fun c => { c with poison := some (c.poison.getD k) }

/-- The level a piece is read or written at. -/
def Piece.level (p : Piece) : Nat := levelOf (leafOrd p.leaf) (leafHint p.leaf) p.pa

/-- A request of the issuing context that no port can carry fails (R353): an error token comes back. -/
def State.remoteFails (s : State) (p pa : Nat) : State :=
  s.laterOpen { i := .remoteRequestFail, a := s.cur.ctx, b := p, c := s.ctx.csr.gen.toNat, v := BitVec.ofNat 64 pa }

/-- A request of the issuing context to another package (R353). -/
def State.ask (s : State) (q op pa n : Nat) (v : Word) (x : Nat) : State :=
  s.sendRequest q op pa n v x (.ctx s.cur.ctx s.ctx.csr.gen.toNat)

/-- A store of the issuing context past the caches to host or remote memory awaits its acknowledgement (R207). -/
def State.awaitStore (s : State) (level pa : Nat) : State :=
  match region pa with
  | .host | .remote _ => if level = 2 then s.awaitAck s.coreId (some s.cur.ctx) else s
  | _ => s

/-- Whether the sectors of a piece stand in the caches that a level lets the access use: the L2, and at level 0 the cache banks. -/
def State.cachedAt (s : State) (level : Nat) (p : Piece) : Bool :=
  level ≤ 1 && (lineSpans p.pa p.n).all fun sp =>
    let need := sectorsTouched sp.2.1 sp.2.2.1
    let l2 := (s.l2Line (dieOf s.coreId) sp.1).have_
    let l1 : BitVec 4 := match (s.core s.coreId).findLine s.now sp.1 with
      | some j => if level = 0 then ((s.core s.coreId).line j (sp.1 % 128)).have_ else 0
      | none => 0
    need &&& ~~~(l1 ||| l2) == 0

/-- Whether they stand in those that its page lets it use. -/
def State.cached (s : State) (p : Piece) : Bool := s.cachedAt p.level p

/-- Read bytes of plain memory, or of a sync engine's SRAM as it answers loads (R219), at a level. -/
def State.readAt (s : State) (level pa n : Nat) : Nat × State :=
  if atSync pa then (s.syncRead pa n, s) else s.readPa s.coreId level pa n

/-- Write such bytes; SRAM takes what a store may write there (R219, R223). -/
def State.writeAt (s : State) (level pa n x : Nat) : State :=
  if atSync pa then s.syncWrite pa n x else s.writePa s.coreId level pa n x

/-- Read one piece for the issuing context (R279); what lies in a cluster window its bank brings later (`windowLoads`). -/
def State.readPiece (s : State) (p : Piece) : Nat × State :=
  match region p.pa with
  | .window _ => (0, s)
  | .side =>
    if s.sideServes p.pa then
      let (v, s) := s.readPa s.coreId p.level p.pa p.n
      (v, s.carryRecord p.leaf p.pa p.n)
    else (0, s.errorLogHere 4 p.pa)
  | .remote q =>
    let s := if s.cached p then s else if s.reachable q then s.ask q reqRead p.pa p.n 0 0 else s.remoteFails q p.pa
    let (v, s) := s.readAt p.level p.pa p.n
    (v, s.carryRecord p.leaf p.pa p.n)
  | _ =>
    let (v, s) := s.readAt p.level p.pa p.n
    (v, s.carryRecord p.leaf p.pa p.n)

/-- Read an access piece by piece. -/
def State.readPieces (s : State) (l : List Piece) : Nat × State :=
  l.foldl (fun (acc, s) p =>
    let (v, s) := s.readPiece p
    (acc + v * 2 ^ (8 * p.before), s.notePoison p.level p.pa p.n)) (0, s)

/-- A store to an SO or sync page after a `fence.rel` is a release write and carries the carried signature (R204, R207). -/
def State.noteRelease (s : State) (leaf pa n : Nat) : State :=
  if s.ctx.flow.relFence ∧ ordersPage leaf then s.recordBytes pa n (s.core s.coreId).carried else s

/-- Write one piece for the issuing context; `va` is the access's address, which a refusal's log entry names (R185). A store through a
cluster window is performed when its bank grants it (R175, R198), and one to host or remote memory awaits its acknowledgement (R207). -/
def State.writePiece (s : State) (va : Nat) (p : Piece) (x : Nat) : State :=
  match region p.pa with
  | .window c => s.askWindow c (leafOrd p.leaf == 0) va (p.pa % 2 ^ 19) p.n (some x) (.landing 0)
  | .side =>
    if s.sideServes p.pa then (s.writePa s.coreId p.level p.pa p.n x).noteRelease p.leaf p.pa p.n
    else s.errorLogHere 4 p.pa
  | .remote q =>
    if !s.reachable q then s.remoteFails q p.pa
    else
      let s := if p.level = 2 then s.ask q reqWrite p.pa p.n 0 x else s
      ((s.writeAt p.level p.pa p.n x).noteRelease p.leaf p.pa p.n).awaitStore p.level p.pa
  | _ => ((s.writeAt p.level p.pa p.n x).noteRelease p.leaf p.pa p.n).awaitStore p.level p.pa

def State.writePieces (s : State) (va : Nat) (l : List Piece) (x : Nat) : State :=
  l.foldl (fun s p => s.writePiece va p (x / 2 ^ (8 * p.before))) s

/-! ### What an access waits for -/

/-- The cycle at whose end the `i`-th line that leaves a bank has been written back, one line per cycle (R172). -/
def Changing.written (x : Changing) (i : Nat) : Nat := x.left - x.lines.length + i + 1

/-- A global access whose line is leaving the cache holds until that line has been written back (R172). -/
def State.lineLeaving (s : State) (core pa n : Nat) : Bool :=
  (lineSpans pa n).any fun sp => (s.core core).changing.any fun x =>
    (indexed x.lines).any fun e => e.2 == sp.1 && decide (s.now ≤ x.written e.1)

/-- The bundle holds while lines that its access or its ordering operation needs at memory are written back there; lower slots of its own
that store act first (R211). The lines: those of a release (`own`) or that match a signature. -/
def State.holdFlush (s : State) (own : Bool) (g : Sig) : State :=
  let s := if s.cur.senders.isEmpty then s.hold else s.holdFor s.cur.senders
  s.modCur fun c => { c with
    requests := c.requests ++ [{ i := .engineReply, a := c.ctx, b := c.slot, c := opFlush, v := if own then 1 else 0, sig := g }] }

/-- The sectors of some pieces. -/
def piecesSig (l : List Piece) : Sig :=
  l.foldl (fun g p => (lineSpans p.pa p.n).foldl (fun g sp => sigAddSectors g sp.1 (sectorsTouched sp.2.1 sp.2.2.1)) g) 0

/-- Whether an access past the caches has to wait for copies in them to be written back at DRAM that a run claims (R315). -/
def State.copiesLate (s : State) (g : Sig) : Bool := !(s.lateCached s.coreId false g).isEmpty || !(s.lateL2 s.coreId false g).isEmpty

/-- Whether a piece must wait at the DRAM of a stack in compute mode (R315). -/
def State.pieceQueues (s : State) (level : Piece → Nat) (p : Piece) : Bool :=
  s.dramWaits (.ctx s.cur.ctx) p.pa p.n && !s.cachedAt (level p) p

/-- Hold while a piece of the access waits: it is an SO access and an earlier one has not been performed (R199), its line is leaving the
cache (R172), a dirty copy of what it reads or writes at memory has to
go there first, or it queues at the DRAM of a stack in compute mode (R315); then go on with the pieces served. `level` says at which level
each piece is accessed. -/
def withLinesAt (s : State) (level : Piece → Nat) (l : List Piece) (k : State → Out) : Out :=
  if (l.any fun p => leafOrd p.leaf == 0) && s.owesSo s.cur.ctx then .next s.holdAcked
  else if l.any fun p => s.lineLeaving s.coreId p.pa p.n then .next s.hold
  else if s.copiesLate (piecesSig (l.filter fun p => level p == 2)) then
    .next (s.holdFlush false (piecesSig (l.filter fun p => level p == 2)))
  else match l.find? (s.pieceQueues level) with
    | some p => .next (s.holdDram p.pa p.n)
    | none => k ((l.filter fun p => !s.cachedAt (level p) p).foldl (fun s p => s.dramTake p.pa p.n) s)

/-- The same at the levels that the pieces' pages have. -/
def withLines (s : State) (l : List Piece) (k : State → Out) : Out := withLinesAt s Piece.level l k

/-- Whether an access through the cluster window holds: an engine holds the line (R253). -/
def State.windowWaits (s : State) (write : Bool) (l : List Piece) : Bool :=
  l.any fun p => match region p.pa with
    | .window c => (localLines (p.pa % 2 ^ 19) p.n).any fun x => (s.core c).lineHeld s.now x write false
    | _ => false

/-- How many requests an access makes through the cluster window. -/
def windowParts (l : List Piece) : Nat :=
  (l.map fun p => match region p.pa with
    | .window _ => (bankParts (p.pa % 2 ^ 19) p.n).length
    | _ => 0).sum

/-- What a load reads through the cluster window is asked of its banks, for the landing that it takes; its first bit is bit `shift` of what
lands (R175, R185). -/
def State.windowLoads (s : State) (va : Nat) (l : List Piece) (shift : Nat) : State :=
  l.foldl (fun s p => match region p.pa with
    | .window c =>
      s.askWindow c (leafOrd p.leaf == 0) va (p.pa % 2 ^ 19) p.n none fun b =>
        .landing s.ctx.flow.nextLanding (shift + 8 * p.before + b)
    | _ => s) s

/-- A load that asks banks may have to be performed before the rest of its bundle (R199, R211). -/
def State.noteWindow (s : State) (parts : Nat) : State := if parts = 0 then s else s.noteSender

/-- A load: translate, then read (R188, R189). -/
def globalLoad (s : State) (va n : Nat) (a : Access) (due : Nat) (f : LoadForm) : Out :=
  withEntry s (withXlate s (s.xlate va n { kind := a, plain := true }) fun l =>
    withLines s l fun s =>
      if s.windowWaits false l then .next s.hold
      else
        let (v, s) := (s.windowLoads va l 0).readPieces l
        .next ((s.landLoad due f v (windowParts l)).noteWindow (windowParts l)))

/-- A store: translate, then write (R188, R189). -/
def globalStore (s : State) (va n : Nat) (r : AccessRule) (x : Nat) : Out :=
  withXlate s (s.xlate va n r) fun l =>
    withLines s l fun s => if s.windowWaits true l then .next s.hold else .next (s.writePieces va l x).noteSender

def execLdg (d a : BitVec 6) (u : BitVec 10) (z : BitVec 3) (s : State) : Out :=
  withDue s u.toNat fun n =>
    globalLoad s (s.effective a s.lentOffset (sizeBytes z)) (sizeBytes z) .load n (.scalar d z)

/-- The line an address names (R190). -/
def lineOf (ea : Nat) : Nat := ea - ea % 128

def execVldg (v : BitVec 5) (a : BitVec 6) (u : BitVec 10) (s : State) : Out :=
  withDue s u.toNat fun n =>
    globalLoad s (lineOf (s.effective a s.lentOffset 128)) 128 .vload n (.vector v (BitVec.ofNat 32 (2 ^ 32 - 1)))

def execVstg (v : BitVec 5) (a : BitVec 6) (o : BitVec 10) (s : State) : Out :=
  globalStore s (lineOf (s.effective a (s.signedField o) 128)) 128 { kind := .vstore, plain := true } (s.rV v).toNat

/-- Bring a line into the L2 (hint 0), or only into the memory-side cache (hint 1), where its TLBs translate it, its page lets the access
through and no run claims its DRAM; otherwise do nothing (R190, R315). -/
def execPref (l : BitVec 5) (a : BitVec 6) (o : BitVec 10) (s : State) : Out :=
  let va := lineOf (s.effective a (s.signedField o) 128)
  let rw := s.versionRewrite s.cur.ctx va
  let page := pageOf rw
  let leaf := match tlbLookup (s.core s.coreId).tlb page with
    | some w => some w
    | none => s.outerTlb s.coreId page
  match leaf with
  | none => .next s
  | some w =>
    let pa := leafFrame w + rw % leafBytes w
    let ok := canonical rw && (protection w pa .vload s.ctx.priv false true s.coreId).isNone && region pa != .unassigned
    let line := pa - pa % 128
    if !ok ∨ s.dramWaits (.ctx s.cur.ctx) line 128 then .next s
    else if l = 0 ∧ levelOf (leafOrd w) (leafHint w) pa ≤ 1 then .next (s.l2Fill (dieOf s.coreId) (pa / 128) 0xF)
    else if leafHint w ≤ 2 then .next (s.keepLine line false)
    else .next s

/-- Load a codebook table; entry `e` is bytes 2e and 2e + 1 (R190). -/
def execVldcb (x : BitVec 1) (a : BitVec 6) (u : BitVec 10) (s : State) : Out :=
  withDue s u.toNat fun n =>
    let ea := s.effective a s.lentOffset 16
    withEntry s (withXlate s (s.xlate (ea - ea % 16) 16 { kind := .table }) fun l =>
      withLines s l fun s =>
        let (v, s) := s.readPieces l
        .next (s.land n [.cbt x (BitVec.ofNat 128 v)] []))

/-! ### Gather and scatter (R191) -/

/-- The enabled positions and their addresses. -/
def State.lanesOf (s : State) (a : BitVec 6) (i : BitVec 5) (k : BitVec 3) : List (Nat × Nat) :=
  ((indexed (elems 32 (s.rV i))).filter fun p => (s.rK k).getLsbD p.1).map fun p =>
    (p.1, let ea := (s.rS a + word (toInt 32 true p.2)).toNat; ea - ea % 4)

/-- Translate every lane, the lowest first (R188). -/
def State.xlateLanes (s : State) (r : AccessRule) : List (Nat × Nat) → Except Xlate (List (Nat × Nat × List Piece))
  | [] => .ok []
  | (j, va) :: ls =>
    match s.xlate va 4 r with
    | .error x => .error x
    | .ok p => match s.xlateLanes r ls with
      | .error x => .error x
      | .ok l => .ok ((j, va, p) :: l)

/-- Go on with the translated lanes, hold or take the fault. -/
def withLanes (s : State) (write : Bool) (x : Except Xlate (List (Nat × Nat × List Piece)))
    (k : List (Nat × Nat × List Piece) → State → Out) : Out :=
  match x with
  | .ok l =>
    if l.any fun e => s.windowWaits write e.2.2 then .next s.hold
    else withLines s (l.flatMap (·.2.2)) fun s => k l s
  | .error e => withXlate s (.error e) fun _ => .next s

def execVgather (v : BitVec 5) (a : BitVec 6) (i : BitVec 5) (k : BitVec 3) (u : BitVec 6) (s : State) : Out :=
  withDue s (s.unsignedField u) fun n =>
    withEntry s (withLanes s false (s.xlateLanes { kind := .gather, plain := true } (s.lanesOf a i k)) fun l s =>
      let s := l.foldl (fun s e => s.windowLoads e.2.1 e.2.2 (32 * e.1)) s
      let (x, s') := l.foldl (fun (x, s) e => let (b, s) := s.readPieces e.2.2; (x + b * 2 ^ (32 * e.1), s)) (0, s)
      let parts := (l.map fun e => windowParts e.2.2).sum
      .next ((s'.landLoad n (.vector v (s.rK k)) x parts).noteWindow parts))

/-- Positions are written in ascending order, so the highest prevails where addresses coincide (R191). -/
def execVscatter (v : BitVec 5) (a : BitVec 6) (i : BitVec 5) (k : BitVec 3) (s : State) : Out :=
  noLent s (withLanes s true (s.xlateLanes { kind := .scatter, plain := true } (s.lanesOf a i k)) fun l s =>
    let xs := elems 32 (s.rV v)
    .next (l.foldl (fun s e => s.writePieces e.2.1 e.2.2 (at' xs e.1)) s).noteSender)

/-! ### Address generators (R192 to R194) -/

/-- Field `sel` of a generator, zero-extended (R192, R193). -/
def Agu.field (g : Agu) (sel : Nat) : Word :=
  match sel with
  | 0 => g.base
  | 1 => g.extent
  | 2 => g.bstride.setWidth 64
  | 3 => g.config.setWidth 64
  | _ => g.pad.setWidth 64

def Agu.setField (g : Agu) (sel : Nat) (x : Word) : Agu :=
  match sel with
  | 0 => { g with base := x }
  | 1 => { g with extent := x }
  | 2 => { g with bstride := x.setWidth 32 }
  | 3 => { g with config := x.setWidth 8 }
  | _ => { g with pad := x.setWidth 32 }

/-- A CONFIG value `agu.set` takes (R193). -/
def configOk (x : Word) : Bool :=
  decide (x.toNat < 256) && decide (x.toNat % 8 ≤ 5) && decide (9 ≤ x.toNat / 8) && decide (x.toNat / 8 ≤ 11)

def execAguSet (r : BitVec 6) (i : BitVec 3) (e : BitVec 4) (s : State) : Out :=
  noLent s
    (if 8 ≤ e.toNat then .next (s.wS 1 r ((s.ctx.r.getG i).field (e.toNat - 8)))
     else if e = 3 ∧ !configOk (s.rS r) then .next (s.takeTrap causeIllegal (s.rS r))
     else .next (s.queue 1 (.g i e (s.rS r))))

/-- Type code and block bytes of a format page (R37, R182). -/
def fmtType (f : Nat) : Nat := match f with
  | 1 => 16 | 2 => 17 | 3 => 14 | 4 => 15 | _ => 18

def blockBytes (f : Nat) : Nat := match f with
  | 2 => 16 | 5 => 48 | _ => 32

def blocksPerPage (f : Nat) : Nat := match f with
  | 2 => 4096 | 5 => 1365 | _ => 2048

def blockArea (f : Nat) : Nat := if f = 5 then 128 else 32

/-- A format access worked out (R194): the first element, the element count, and for each element its tensor block, its place
in it, and whether it is inside. -/
def Agu.plan (g : Agu) (f r c : Nat) : List (Nat × Nat × Bool) :=
  let a := blockArea f
  let bh := 2 ^ (g.config.toNat % 8)
  let bw := a / bh
  let n := 1024 / typeWidth (g.config.toNat / 8)
  let bs := g.bstride.toNat
  let b := r / bh * bs + c / bw
  let e0 := (b * a + (r % bh * bw + c % bw)) / n * n
  (upTo n).map fun i =>
    let e := e0 + i
    let b' := e / a
    let j := e % a
    let row := b' / bs * bh + j / bw
    let col := b' % bs * bw + j % bw
    (b', j, decide (row < g.extent.toNat % 2 ^ 32) && decide (col < g.extent.toNat / 2 ^ 32))

/-- The block numbers that hold an inside element, in element order. -/
def insideBlocks (l : List (Nat × Nat × Bool)) : List Nat := (l.filter (·.2.2)).map (·.1) |>.eraseDups

/-- The address of tensor block `b`, given BASE's block in its page (R194). -/
def Agu.blockVa (g : Agu) (f b0 b : Nat) : Nat :=
  g.base.toNat - g.base.toNat % 2 ^ 16 + (b0 + b) / blocksPerPage f * 2 ^ 16 + (b0 + b) % blocksPerPage f * blockBytes f

/-- One block as translated: tensor block, its index in its page, data address, leaf. -/
structure BlockAt where
  b : Nat
  idx : Nat
  pa : Nat
  leaf : Nat
deriving DecidableEq, Repr

/-- Translate the blocks in element order (R188); a page of another format is BAD_ATTRIBUTE (R194). -/
def State.xlateBlocks (s : State) (g : Agu) (r : AccessRule) (f b0 : Nat) : List Nat → Except Xlate (List BlockAt)
  | [] => .ok []
  | b :: bs =>
    let va := g.blockVa f b0 b % 2 ^ 64
    match s.translate s.cur.ctx (s.versionRewrite s.cur.ctx va) va { r with fmt := f } s.ctx.priv with
    | .ok pa w =>
      match s.xlateBlocks g r f b0 bs with
      | .error x => .error x
      | .ok l => .ok (⟨b, (b0 + b) % blocksPerPage f, pa, w⟩ :: l)
    | x => .error x

/-- Go on with the format of BASE's page and BASE's block index; BASE must start a block of a format page (R194). A leaf that is of no such
page and whose frame is bad besides takes BAD_ATTRIBUTE here, and BAD_FRAME where it is translated for an access (R188). DESIGN CHOICE,
log entry 108. -/
def withBase (s : State) (g : Agu) (k : Nat → Nat → Out) : Out :=
  let va := g.base.toNat
  let rw := s.versionRewrite s.cur.ctx va
  let bad (x : Nat) : Out := .next (s.takeTrap causeTranslation (faultInfo x va))
  if !canonical rw then bad xNoncanonical
  else match s.lookup s.cur.ctx rw with
    | none => .next (s.waitWalk rw)
    | some .pending => .next (s.waitWalk rw)
    | some (.failed x) => bad x
    | some (.leaf w) =>
      let f := leafFmt w
      if f = 0 ∨ va % 2 ^ 16 % blockBytes f ≠ 0 ∨ blocksPerPage f ≤ va % 2 ^ 16 / blockBytes f then bad xBadAttribute
      else k f (va % 2 ^ 16 / blockBytes f)

/-- Whether the spec states what a generator's access does: it has a block row and a DTYPE (R192, R194). DESIGN CHOICE otherwise,
log entry 25. -/
def Agu.stated (g : Agu) : Bool := g.bstride != 0 && configOk (g.config.setWidth 64)

/-- The level a format page's accesses use (R181, R182). -/
def pageLevel (b : BlockAt) : Nat := levelOf (leafOrd b.leaf) (leafHint b.leaf) b.pa

/-- The address of a block's scales (R37). -/
def scalePa (f : Nat) (b : BlockAt) : Nat := leafScaleFrame b.leaf + b.idx * granuleOf f
where
  granuleOf (f : Nat) : Nat := if f ≤ 2 then 2 else 1

/-- What element `j` of a block stands for (R32, R34, R36). -/
def blockElement (f : Nat) (data scale : Nat) (table : BitVec 128) (j : Nat) : Val :=
  match f with
  | 5 => bf16.decode (table.toNat / 2 ^ (16 * (data / 2 ^ (3 * j) % 8)) % 2 ^ 16)
  | 1 => dbDecode 6 (scale % 256) (scale / 256) (data / 2 ^ (8 * j) % 256)
  | 2 => dbDecode 2 (scale % 256) (scale / 256) (data / 2 ^ (4 * j) % 16)
  | f => mxDecode (fmtType f) (scale % 256) (data / 2 ^ (8 * j) % 256)

/-- Bytes of a block's scales (R37). -/
def scaleBytes (f : Nat) : Nat := if f = 5 then 0 else if f ≤ 2 then 2 else 1

/-- The data and the scales of a block as pieces of its page. -/
def BlockAt.data (b : BlockAt) (f : Nat) : Piece := ⟨b.pa, blockBytes f, 0, b.leaf⟩
def BlockAt.scales (b : BlockAt) (f : Nat) : List Piece := if f = 5 then [] else [⟨scalePa f b, scaleBytes f, 0, b.leaf⟩]
def BlockAt.pieces (f : Nat) (b : BlockAt) : List Piece := b.data f :: b.scales f

/-- Read every block's data and scales. -/
def State.readBlocks (s : State) (f : Nat) : List BlockAt → List (Nat × Nat × Nat × Nat) × State
  | [] => ([], s)
  | b :: bs =>
    let (d, s) := s.readPieces [b.data f]
    let (x, s) := s.readPieces (b.scales f)
    let (l, s) := s.readBlocks f bs
    ((b.b, b.idx, d, x) :: l, s)

/-- FPCTL's mode with SR taken as RNE (R195, R196). -/
def State.formatMode (s : State) (code : Nat) : Rnd :=
  let m := s.modeOf code
  if m = .sr then .rne else m

def execVldFmt (v : BitVec 5) (g : BitVec 3) (r c : BitVec 6) (u : BitVec 6) (s : State) : Out :=
  withDue s (s.unsignedField u) fun n =>
    let a := s.ctx.r.getG g
    withEntry s (withBase s a fun f b0 =>
      if !a.stated then
        .next ({ s with fresh := s.fresh + 1 }.land n [.v v (BitVec.ofNat 32 (2 ^ 32 - 1)) (Config.openVector s.fresh)] [])
      else
        let plan := a.plan f ((s.rS r).toNat % 2 ^ 32) ((s.rS c).toNat % 2 ^ 32)
        match s.xlateBlocks a { kind := .fmtLoad } f b0 (insideBlocks plan) with
        | .error x => withXlate s (.error x) fun _ => .next s
        | .ok blocks => withLines s (blocks.flatMap (·.pieces f)) fun s =>
          let dt := a.config.toNat / 8
          let w := typeWidth dt
          let (bs, s') := s.readBlocks f blocks
          let rs := plan.map fun e =>
            match bs.find? fun x => e.2.2 && x.1 == e.1 with
            | some (_, idx, d, x) =>
              (fmtOf dt).round
                (blockElement f d x (if idx % 2 = 0 then s.ctx.r.cbt0 else s.ctx.r.cbt1) e.2.1) (s.formatMode 7) false 0
            | none => (a.pad.toNat % 2 ^ w, [])
          .next (s'.land n [.v v (BitVec.ofNat 32 (2 ^ 32 - 1)) (joinV w (rs.map (·.1)))] (laneEvents w rs)))

/-- The bytes and scales of one block of 32 values, and what each element raises (R33, R35, R196). The spec gives a NaN block's own
events no lane: they stand at its NaN and infinite elements. DESIGN CHOICE, log entry 80. -/
def encodeBlock (f : Nat) (vs : List Val) (mode : Rnd) (sat : Bool) : Nat × Nat × List Elem :=
  let t := fmtType f
  match blockNan vs with
  | some ev =>
    (0, if f ≤ 2 then 0xFFFF else 0xFF, vs.map fun v =>
      (0, if v.isNan || v.isInf then ev.filter fun k => k == .nangen || v.isInf || v.isSnan else []))
  | none =>
    if f ≤ 2 then
      let (e0, e1) := dbExps (dbWidth t) vs
      let es := vs.map (dbElement (dbWidth t) e0 e1)
      (joinNat (dbWidth t + 2) (es.map (·.1)), e0 + 256 * e1, es)
    else
      let x := mxScale t vs
      let es := vs.map fun v => mxElement t x v mode sat 0
      (joinNat 8 (es.map (·.1)), x, es)

/-- Write one encoded block and its scales (R196). -/
def State.writeBlock (s : State) (f : Nat) (b : BlockAt) (data scale : Nat) : State :=
  (s.writePiece b.pa (b.data f) data).writePieces b.pa (b.scales f) scale

/-- Encode a register's elements into the blocks that the access covers (R196); a CB3 page is refused at BASE. DESIGN CHOICE, log entry
109. -/
def execVstFmt (v : BitVec 5) (g : BitVec 3) (r c : BitVec 6) (m : BitVec 3) (sat : BitVec 1) (s : State) : Out :=
  noLent s
    (let a := s.ctx.r.getG g
     withBase s a fun f b0 =>
       if f = 5 then .next (s.takeTrap causeTranslation (faultInfo xBadAttribute a.base.toNat))
       else if !a.stated then .next s
       else
         let plan := a.plan f ((s.rS r).toNat % 2 ^ 32) ((s.rS c).toNat % 2 ^ 32)
         match s.xlateBlocks a { kind := .fmtStore } f b0 (insideBlocks plan) with
         | .error x => withXlate s (.error x) fun _ => .next s
         | .ok blocks => withLines s (blocks.flatMap (·.pieces f)) fun s =>
           let dt := a.config.toNat / 8
           let w := typeWidth dt
           let items := plan.zip (elems w (s.rV v))
           .next (blocks.foldl (fun s b =>
             let mine := (indexed items).filter fun e => e.2.1.1 == b.b
             let vs := mine.map fun e => if e.2.1.2.2 then (fmtOf dt).decode e.2.2 else Val.zero false
             let (d, x, es) := encodeBlock f vs (s.formatMode m.toNat) (sat == 1)
             let evs := (mine.zip es).flatMap fun e => e.2.2.map fun k => (k, position w e.1.1)
             (s.logEvs evs).writeBlock f b d x) s).noteSender)

end Sys2Proof.Machine
end

