-- ==== Sys2Proof/Machine/Matrix.lean ====
section
/-!
DEFINITION. Accumulator tiles, operand banks in bit-plane layout, the matrix engine and its busy bits, start tokens, and the
transpose engine (R246 to R261, R372).
-/
namespace Sys2Proof.Machine

/-! ### Packed operands (R248, R249) -/

/-- Full plane count `P` of a matrix type (R248). -/
def planeCount (t : Nat) : Nat :=
  match t with
  | 8 => 53 | 9 => 24 | 10 => 8 | 11 => 11 | 16 => 6 | 17 => 2 | _ => 4

/-- A-chunks of a matrix type (R248). -/
def chunkCount (t : Nat) : Nat := match t with
  | 8 => 4 | 9 => 2 | _ => 1

/-- Whether a type is an MX or a DB block type. -/
def isMx (t : Nat) : Bool := t == 14 || t == 15
def isDb (t : Nat) : Bool := t == 16 || t == 17

/-- Bytes of an image's elements and of the whole image (R250). -/
def imageData (t : Nat) : Nat := if t = 17 then 512 else 128 * typeWidth t
def imageBytes (t : Nat) : Nat := imageData t + (if isMx t then 32 else if isDb t then 64 else 0)

/-- Little-endian bytes of a byte function. -/
def bytesAt (f : Nat → Nat) : Nat → Nat → Nat
  | _, 0 => 0
  | a, n + 1 => f a + 256 * bytesAt f (a + 1) n

/-- Element (`l`, `k`) of an image (R250). -/
def imageElem (t : Nat) (img : Nat → Nat) (l k : Nat) : Nat :=
  if t = 17 then img (16 * l + k / 2) / (if k % 2 = 0 then 1 else 16) % 16
  else bytesAt img ((32 * l + k) * (typeWidth t / 8)) (typeWidth t / 8)

/-- Sign, exponent field (or selector) and significand integer of `P` planes of an element word (R248). -/
def elemParts (t w : Nat) : Bool × Nat × Nat :=
  if isDb t then (bit w (dbWidth t + 1), w / 2 ^ dbWidth t % 2, w % 2 ^ dbWidth t)
  else
    let f := fmtOf t
    let e := w / 2 ^ f.fbits % 2 ^ f.ebits
    let m := (if e = 0 then 0 else 2 ^ f.fbits) + w % 2 ^ f.fbits
    (bit w f.signBit, e, m * 2 ^ (planeCount t - (f.fbits + 1)))

/-- A byte of eight bits, lowest first. -/
def byteOf (b : Nat → Bool) : Nat := (upTo 8).foldr (fun i acc => (if b i then 2 ^ i else 0) + acc) 0

/-- Byte `off` of the bank that `mpack` makes of an image, for offsets below 0x3400 (R249, R257). -/
def packByte (t : Nat) (img : Nat → Nat) (off : Nat) : Nat :=
  let part (l k : Nat) := elemParts t (imageElem t img l k)
  if off < 0x80 then byteOf fun i => (part (off / 4) (8 * (off % 4) + i)).1
  else if off < 0x2000 then
    let q := off / 128 - 1
    let o := off % 128
    if planeCount t ≤ q then 0
    else byteOf fun i => bit (part (o / 4) (8 * (o % 4) + i)).2.2 (planeCount t - 1 - q)
  else if off < 0x2400 then (part ((off - 0x2000) / 32) (off % 32)).2.1 % 256
  else if off < 0x2800 then (part ((off - 0x2400) / 32) (off % 32)).2.1 / 256
  else if 0x3000 ≤ off ∧ off < 0x3040 ∧ off - 0x3000 < imageBytes t - imageData t then img (imageData t + (off - 0x3000))
  else 0

/-- The significand integer of element (`l`, `k`) of a packed tile: the first `p` of the type's planes, the rest zero (R44,
R249, R256). -/
def planesOf (rd : Nat → Nat) (t p l k : Nat) : Nat :=
  (upTo p).foldl (fun m q => m + (if bit (rd (0x80 + 128 * q + 4 * l + k / 8)) (k % 8) then 2 ^ (planeCount t - 1 - q) else 0)) 0

/-- Value(X, l, k) with `p` planes (R256). -/
def packedValue (rd : Nat → Nat) (t p l k : Nat) : Val :=
  let s := bit (rd (4 * l + k / 8)) (k % 8)
  let m := planesOf rd t p l k
  let eb := rd (0x2000 + 32 * l + k)
  if isDb t then
    let w := dbWidth t
    dbDecode w (rd (0x3000 + 2 * l)) (rd (0x3000 + 2 * l + 1)) ((if s then 2 ^ (w + 1) else 0) + eb % 2 * 2 ^ w + m)
  else
    let f := fmtOf t
    let e := (if t = 8 then eb + 256 * rd (0x2400 + 32 * l + k) else eb) % 2 ^ f.ebits
    let extra := planeCount t - (f.fbits + 1)
    let full := planesOf rd t (planeCount t) l k / 2 ^ extra
    let word := (if s then 2 ^ f.signBit else 0) + e * 2 ^ f.fbits + full % 2 ^ f.fbits
    let v : Val :=
      if e = f.allOnes ∧ !(f.e4m3 && full % 2 ^ f.fbits != 7) then f.decode word
      else if m / 2 ^ extra = 0 then .zero s
      else .num ⟨s, m / 2 ^ extra, (if e = 0 then 1 else (e : Int)) - f.bias - f.fbits, false⟩
    if isMx t then
      let x := rd (0x3000 + l)
      if x = 0xFF then .nan false else v.scale ((x : Int) - 127)
    else v

/-! ### Exact accumulation (R42, R256) -/

/-- The finite nonzero values among some values. -/
def finites (vs : List Val) : List Dy := vs.filterMap fun v => match v with
  | .num d => some d
  | _ => none

/-- The exact sum of finite values as an integer multiple of `2^e`. -/
def sumAt (e : Int) (ds : List Dy) : Int := (ds.map fun d => d.at e).foldl (· + ·) 0

/-- Accumulate(d, T): the pairs whose products are the terms (R256). -/
def accumulate (d : Val) (pairs : List (Val × Val)) : BitVec 80 × List EvKind :=
  let read := d :: pairs.flatMap fun p => [p.1, p.2]
  let terms := pairs.map fun p => Val.mul p.1 p.2
  let all := d :: terms
  let inv := if read.any Val.isSnan then [EvKind.invalid] else []
  let bad := (pairs.any fun p => match p.1, p.2 with
    | .inf _, .zero _ => true
    | .zero _, .inf _ => true
    | _, _ => false) || (all.contains (.inf false) && all.contains (.inf true))
  if bad then (BitVec.ofNat 80 a80.nan, [.invalid, .nangen])
  else if read.any Val.isNan then (BitVec.ofNat 80 a80.nan, inv ++ [.nangen])
  else if all.contains (.inf false) then (BitVec.ofNat 80 (a80.inf false), inv)
  else if all.contains (.inf true) then (BitVec.ofNat 80 (a80.inf true), inv)
  else
    let ds := finites all
    let e := ds.foldl (fun e x => min e x.exp) 0
    match Val.ofScaled (sumAt e ds) e (all.all fun v => v == .zero true) with
    | .num x => let r := a80.roundFinite x .rne false 0; (BitVec.ofNat 80 r.1, r.2)
    | v => (BitVec.ofNat 80 (a80.signOf v.isNeg), [])

/-- The first occurrence of each event kind over elements in row-major order, at its column (R256, R258). -/
def firstKinds (l : List (Nat × List EvKind)) : List (EvKind × Nat) :=
  [.nangen, .invalid, .saturate, .overflow, .divzero, .underflow].filterMap fun k =>
    (l.find? fun e => e.2.contains k).map fun e => (k, e.1)

/-! ### Cores' tiles and banks -/

/-- Element (`i`, `j`) of tile `n`. -/
def CoreSt.tileAt (c : CoreSt) (n i j : Nat) : BitVec 80 := Store.get 0 c.tiles (1024 * n + 32 * i + j)

/-- The 1024 elements of a tile replaced, listed in row-major order. -/
def CoreSt.setTile (c : CoreSt) (n : Nat) (xs : List (BitVec 80)) : CoreSt :=
  { c with tiles := (indexed xs).foldl (fun m e => Store.set 0 m (1024 * n + e.1) e.2) c.tiles }

/-- A tile's rows and columns in row-major order. -/
def tilePositions : List (Nat × Nat) := (upTo 1024).map fun x => (x / 32, x % 32)

/-- The bytes of operand bank `j` by offset; the A bypass for bank 0 (R257). -/
def CoreSt.bankBytes (c : CoreSt) (j off : Nat) : Nat :=
  if j = 0 then (Store.get 0 c.bypass off).toNat else (Store.get 0 c.loc (j * 2 ^ 14 + off)).toNat

/-- Drop what has ended from the lists of busy bits and images. -/
def CoreSt.tidy (c : CoreSt) (now : Nat) : CoreSt :=
  { c with
    busy := c.busy.filter fun b => decide (now ≤ b.last)
    images := c.images.filter fun m => decide (now ≤ m.first + m.lines)
    planes := c.planes.filter fun b => decide (now < b) }

/-- Begin an operation of the engines: busy bits and images, under a new number. -/
def CoreSt.startOp (c : CoreSt) (now : Nat) (busy : List Busy) (images : List Image) : CoreSt :=
  let c := c.tidy now
  { c with
    opCount := c.opCount + 1
    busy := c.busy ++ busy.map fun b => { b with op := c.opCount + 1, issued := now }
    images := c.images ++ images.map fun m => { m with op := c.opCount + 1 } }

/-! ### Faults (R247, R254) -/

def matrixInfo (sub bank tile : Nat) : Word := BitVec.ofNat 64 (7 * 2 ^ 60 + sub * 2 ^ 16 + bank * 2 ^ 8 + tile)

def matrixFault (s : State) (sub bank tile : Nat) : Out := .next (s.takeTrap causeProtection (matrixInfo sub bank tile))

/-- Whether the issuing context may name a tile (R247). -/
def State.ownsTile (s : State) (n : Nat) : Bool :=
  s.ctx.priv || (s.core s.coreId).accOwn.getLsbD (4 * (s.cur.ctx % 4) + n)

/-- Check the tile's ownership (R247). -/
def withTile (s : State) (a : BitVec 2) (k : Out) : Out := if s.ownsTile a.toNat then k else matrixFault s 2 0 a.toNat

/-- The first bank of a list that is not in the operand role (R254). -/
def State.notOperand (s : State) (js : List Nat) : Option Nat :=
  js.find? fun j => roleOf (s.core s.coreId).bankRole j != 2

/-- Check and form an image's address: its low seven bits are ignored, and every byte lies in scratchpad banks (R250, R254). -/
def withImage (s : State) (a : BitVec 6) (bytes tile : Nat) (k : Nat → Out) : Out :=
  let base := (s.rS a).toNat - (s.rS a).toNat % 128
  let banks := (upTo ((bytes + 127) / 128)).map fun i => (base + 128 * i) / 2 ^ 14
  if 2 ^ 19 < base + bytes then matrixFault s 4 0 tile
  else match banks.find? fun j => roleOf (s.core s.coreId).bankRole j != 1 with
    | some j => matrixFault s 4 j tile
    | none => k base

/-- Lines of an image. -/
def imageLines (bytes : Nat) : Nat := (bytes + 127) / 128

/-- Whether some line of an image may not yet be read or written (R170, R253). -/
def State.imageWaits (s : State) (base bytes : Nat) (write : Bool) : Bool :=
  let c := s.core s.coreId
  (upTo (imageLines bytes)).any fun i =>
    c.lineHeld s.now (base / 128 + i) write true || c.isChanging s.now ((base + 128 * i) / 2 ^ 14)

/-- The bytes of an image in the scratchpad, by offset. -/
def CoreSt.imageAt (c : CoreSt) (base off : Nat) : Nat := (Store.get 0 c.loc (base + off)).toNat

/-- Write bytes to the local store. -/
def CoreSt.locWriteBytes (c : CoreSt) (base : Nat) (xs : List Nat) : CoreSt :=
  { c with loc := (indexed xs).foldl (fun m e => Store.set 0 m (base + e.1) (BitVec.ofNat 8 e.2)) c.loc }

/-! ### `mma` -/

/-- The plane count a `p` field names (R256). -/
def planesUsed (p t : Nat) : Nat := if p = 0 then planeCount t else p

/-- The ascending indices of the set bits of line `i`'s mask, at most 32 (R249, R256). -/
def maskPositions (rd : Nat → Nat) (i : Nat) : List Nat :=
  ((upTo 128).filter fun b => bit (rd (0x3400 + 16 * i + b / 8)) (b % 8)).take 32

/-- The operand pairs of element (`i`, `j`) (R256). -/
def mmaPairs (ra : Nat → Nat) (rb : Nat → Nat → Nat) (t p : Nat) (sparse : Bool) (i j : Nat) : List (Val × Val) :=
  if sparse then
    (indexed (maskPositions ra i)).map fun e =>
      (packedValue ra t (planeCount t) i e.1, packedValue (rb (e.2 / 32)) t p j (e.2 % 32))
  else (upTo 32).map fun k => (packedValue ra t (planeCount t) i k, packedValue (rb 0) t p j k)

/-- The whole effect on a tile (R256): its new elements and the events. -/
def mmaTile (c : CoreSt) (a x y p t : Nat) (zero sparse : Bool) : List (BitVec 80) × List (EvKind × Nat) :=
  let rs := tilePositions.map fun q =>
    let d : Val := if zero then .zero false else a80.decode (c.tileAt a q.1 q.2).toNat
    accumulate d (mmaPairs (c.bankBytes x) (fun m => c.bankBytes (y + m)) t p sparse q.1 q.2)
  (rs.map (·.1), firstKinds ((tilePositions.zip rs).map fun e => (e.1.2, e.2.2)))

/-- Whether the next `mma` of the core is a cold start: the engine has been idle for 64 cycles or more (R255). -/
def CoreSt.cold (c : CoreSt) (now : Nat) : Bool :=
  match c.lastActive with
  | none => true
  | some l => decide (l + 65 ≤ now)

/-- Begin the phases of an `mma` of cost `n` (R251, R252). -/
def CoreSt.startMma (c : CoreSt) (now ctx a n : Nat) (banks : List Nat) : CoreSt :=
  let b := max (now + 6) (c.planeEnd + 1)
  let c := c.startOp now
    ({ kind := .tile a, ctx := ctx, last := b + n + 5, mma := true } ::
      banks.map fun j => { kind := .bankRead j, ctx := ctx, last := b + n - 1, mma := true }) []
  { c with
    planes := c.planes ++ [b]
    planeEnd := b + n - 1
    lastActive := some (max (b + n + 5) (c.lastActive.getD 0))
    token := false }

/-- The three forms of `mma` (R251 to R256). -/
def mmaOp (s : State) (a : BitVec 2) (x y : BitVec 5) (p : BitVec 6) (t : BitVec 5) (zero sparse : Bool) : Out :=
  noLent s
    (let c := s.core s.coreId
     let ys := if sparse then (upTo 4).map (y.toNat + ·) else [y.toNat]
     let banks := (if x = 0 then [] else [x.toNat]) ++ ys
     withTile s a
       (match s.notOperand banks with
        | some j => matrixFault s 1 j a.toNat
        | none =>
          if x = 0 ∧ c.bypassTag ≠ some (t.toNat, s.cur.ctx) then matrixFault s 3 0 a.toNat
          else if (c.busy.any fun b => b.kind == .tile a.toNat && decide (s.now ≤ b.last) && !b.mma) ||
              (banks.any fun j => c.isBusy s.now (.bankWrite j) || c.isChanging s.now j) ||
              (x == 0 && c.isBusy s.now .bypass) ||
              decide (4 ≤ (c.planes.filter fun b => decide (s.now < b)).length) then .next s.hold
          else if c.cold s.now && !c.token then
            .next (s.modCur fun z => { z with requests := z.requests ++ [{ i := .tokenGrant, a := s.coreId }] }).holdToken
          else
            let r := mmaTile c a.toNat x.toNat y.toNat (planesUsed p.toNat t.toNat) t.toNat zero sparse
            .next ((s.logEvs r.2).modCore s.coreId fun c =>
              (c.setTile a.toNat r.1).startMma s.now s.cur.ctx a.toNat
                (chunkCount t.toNat * planesUsed p.toNat t.toNat) banks)))

def execMma (a : BitVec 2) (x y : BitVec 5) (p : BitVec 6) (t : BitVec 5) (s : State) : Out := mmaOp s a x y p t false false
def execMmaZ (a : BitVec 2) (x y : BitVec 5) (p : BitVec 6) (t : BitVec 5) (s : State) : Out := mmaOp s a x y p t true false
def execMmaSp (a : BitVec 2) (x y : BitVec 5) (p : BitVec 6) (t : BitVec 5) (s : State) : Out := mmaOp s a x y p t false true

/-! ### Start tokens (R255) -/

/-- `T`: the cycles between grants (R255, R375). -/
def Die.tokenGap (d : Die) : Nat := if d.rampLimit = 0 then 4000 else (4000 + d.rampLimit - 1) / d.rampLimit

/-- The first cycle not before `now` in which the die may grant. -/
def Die.tokenCycle (d : Die) (now : Nat) : Nat := match d.tokenLast with
  | none => now
  | some g => max now (g + d.tokenGap)

/-- A core's request stands until it is granted; the grant of a cycle is made when all its requests have been. -/
def State.wantToken (s : State) (core : Nat) : State :=
  let die := dieOf core
  let d := s.die die
  if d.tokenWants.contains core then s
  else
    let s := s.modDie die fun x => { x with tokenWants := x.tokenWants ++ [core] }
    if d.tokenWants.isEmpty then
      { s with timers := s.timers ++ [(d.tokenCycle s.now + 1, { i := .tokenGrant, a := die })] }
    else s

/-- The least core of a list. -/
def leastCore (l : List Nat) : Option Nat := l.min?

/-- The grant of the cycle before this one: to the requesting core with the lowest id above the core last granted, wrapping
(R255). -/
def execTokenGrant (s : State) : Out :=
  let die := s.arg.a
  let d := s.die die
  let next := match leastCore (d.tokenWants.filter fun c => decide (d.tokenLast.isSome = true ∧ d.tokenCore < c)) with
    | some c => some c
    | none => leastCore d.tokenWants
  let again (c : Nat) : State := { s with timers := s.timers ++ [(c + 1, { i := .tokenGrant, a := die })] }
  match next with
  | none => .next s
  | some c =>
    let g := s.now - 1
    if g < d.tokenCycle g then
      .next (if s.timers.any fun t => t.2.i == .tokenGrant && t.2.a == die then s else again (d.tokenCycle g))
    else
      let s := (s.modDie die fun x =>
        { x with tokenLast := some g, tokenCore := c, tokenWants := x.tokenWants.filter fun y => y != c }).modCore c
        fun k => { k with token := true }
      let d := s.die die
      if d.tokenWants.isEmpty then .next s
      else .next { s with timers := s.timers ++ [(d.tokenCycle (g + 1) + 1, { i := .tokenGrant, a := die })] }

/-! ### `mpack` -/

def execMpack (b : BitVec 5) (a : BitVec 6) (t : BitVec 5) (s : State) : Out :=
  noLent s
    (let bytes := imageBytes t.toNat
     let j := b.toNat
     match s.notOperand [j] with
     | some _ => matrixFault s 1 j 0
     | none => withImage s a bytes 0 fun base =>
       let c := s.core s.coreId
       if c.operandBusy s.now j || c.isChanging s.now j || s.imageWaits base bytes false then .next s.hold
       else
         let n := imageLines bytes
         .next ((s.modCore s.coreId fun c => c.startOp s.now
             [{ kind := .bankWrite j, ctx := s.cur.ctx, last := s.now + 7 + n }]
             [⟨0, s.cur.ctx, base / 128, n, s.now + 7, s.now, false, 0⟩]).queue 1
             (.img (j * 2 ^ 14) ((upTo 0x3400).map (packByte t.toNat (c.imageAt base))))))

/-! ### `mdrain` (R258, R372) -/

/-- The rounding mode and saturation of a drain; SR named by the encoding is illegal, by FPCTL it is RNE (R258). -/
def withDrain (s : State) (k : Rnd → Bool → Out) : Out :=
  withRounding s fun mode sat =>
    if s.rounding = some (5, sat) then .next s.illegal else k (if mode = .sr then .rne else mode) sat

/-- The block page format code of a block type (R182, R250). -/
def blockCode (t : Nat) : Nat := match t with
  | 16 => 1 | 17 => 2 | 14 => 3 | _ => 4

/-- Bytes of a number, little-endian. -/
def bytesOf (n x : Nat) : List Nat := (upTo n).map fun i => x / 256 ^ i % 256

/-- Row `i` of a tile converted: its data bytes, its scale bytes, its elements' results (R258). -/
def drainRow (c : CoreSt) (t n : Nat) (mode : Rnd) (sat : Bool) (i : Nat) : List Nat × List Nat × List Elem :=
  let vs := (upTo 32).map fun j => a80.decode (c.tileAt n i j).toNat
  if isMx t || isDb t then
    let (d, x, es) := encodeBlock (blockCode t) vs mode sat
    (bytesOf (imageData t / 32) d, bytesOf ((imageBytes t - imageData t) / 32) x, es)
  else
    let es := vs.map fun v => roundType t v mode sat 0
    (bytesOf (4 * typeWidth t) (joinNat (typeWidth t) (es.map (·.1))), [], es)

/-- A tile converted to an image, with its events (R250, R258). -/
def drainImage (c : CoreSt) (t n : Nat) (mode : Rnd) (sat : Bool) : List Nat × List (EvKind × Nat) :=
  let rows := (upTo 32).map (drainRow c t n mode sat)
  (rows.flatMap (·.1) ++ rows.flatMap (·.2.1),
    firstKinds (rows.flatMap fun r => (indexed r.2.2).map fun e => (e.1, e.2.2)))

def execMdrain (a : BitVec 2) (r : BitVec 6) (t : BitVec 5) (s : State) : Out :=
  withDrain s fun mode sat => withTile s a
    (let bytes := imageBytes t.toNat
     withImage s r bytes a.toNat fun base =>
       let c := s.core s.coreId
       if c.isBusy s.now (.tile a.toNat) || s.imageWaits base bytes true then .next s.hold
       else
         let n := imageLines bytes
         let x := drainImage c t.toNat a.toNat mode sat
         .next (((s.logEvs x.2).modCore s.coreId fun c =>
           c.startOp s.now [{ kind := .tile a.toNat, ctx := s.cur.ctx, last := s.now + 7 + n }]
             [⟨0, s.cur.ctx, base / 128, n, s.now + 7, s.now, true, 0⟩]).queue 1 (.img base x.1)))

/-- Convert and pack a tile into the A bypass, tagged with type and context (R258). -/
def execMdrainByp (a : BitVec 2) (t : BitVec 5) (s : State) : Out :=
  withDrain s fun mode sat => withTile s a
    (let c := s.core s.coreId
     if c.isBusy s.now (.tile a.toNat) then .next s.hold
     else
       let x := drainImage c t.toNat a.toNat mode sat
       .next ((s.logEvs x.2).modCore s.coreId fun c =>
         { c.startOp s.now [{ kind := .tile a.toNat, ctx := s.cur.ctx, last := s.now + 11 },
             { kind := .bypass, ctx := s.cur.ctx, last := s.now + 11 }] [] with
           bypassTag := some (t.toNat, s.cur.ctx)
           bypass := (upTo 0x3400).foldl
             (fun m o => Store.set 0 m o (BitVec.ofNat 8 (packByte t.toNat (at' x.1) o))) [] }))

/-- Every element becomes +0 (R258). -/
def execMzero (a : BitVec 2) (s : State) : Out :=
  withDrain s fun _ _ => withTile s a
    (if (s.core s.coreId).isBusy s.now (.tile a.toNat) then .next s.hold
     else .next (s.modCore s.coreId fun c =>
       (c.setTile a.toNat (List.replicate 1024 0)).startOp s.now [{ kind := .tile a.toNat, ctx := s.cur.ctx, last := s.now + 1 }] []))

/-- Write the tile as a raw image, in privileged mode (R372). -/
def execMdrainA80 (a : BitVec 2) (r : BitVec 6) (s : State) : Out :=
  withDrain s fun _ _ =>
    if !s.ctx.priv then .next s.illegal
    else withImage s r 16384 a.toNat fun base =>
      let c := s.core s.coreId
      if c.isBusy s.now (.tile a.toNat) || s.imageWaits base 16384 true then .next s.hold
      else
        .next ((s.modCore s.coreId fun c => c.startOp s.now [{ kind := .tile a.toNat, ctx := s.cur.ctx, last := s.now + 135 }]
            [⟨0, s.cur.ctx, base / 128, 128, s.now + 7, s.now, true, 0⟩]).queue 1
            (.img base (tilePositions.flatMap fun q => bytesOf 16 (c.tileAt a.toNat q.1 q.2).toNat)))

/-- Load the tile from a raw image, in privileged mode (R372). -/
def execMzeroA80 (a : BitVec 2) (r : BitVec 6) (s : State) : Out :=
  withDrain s fun _ _ =>
    if !s.ctx.priv then .next s.illegal
    else withImage s r 16384 a.toNat fun base =>
      let c := s.core s.coreId
      if c.isBusy s.now (.tile a.toNat) || s.imageWaits base 16384 false then .next s.hold
      else
        .next (s.modCore s.coreId fun c =>
          (c.setTile a.toNat ((upTo 1024).map fun i =>
            BitVec.ofNat 80 (bytesAt (c.imageAt base) (16 * i) 10))).startOp s.now
            [{ kind := .tile a.toNat, ctx := s.cur.ctx, last := s.now + 135 }]
            [⟨0, s.cur.ctx, base / 128, 128, s.now + 7, s.now, false, 0⟩])

/-! ### The transpose engine (R260, R261) -/

/-- The element width a transpose type selects (R260). -/
def transposeWidth (t : Nat) : Nat := if t = 1 ∨ t = 5 ∨ t = 10 ∨ t = 11 then 16 else 32

def transposeFault (s : State) (n : Nat) : Out := .next (s.takeTrap causeTranspose (BitVec.ofNat 64 n))

def execMtrPut (r : BitVec 6) (t : BitVec 5) (s : State) : Out :=
  noLent s
    (let w := transposeWidth t.toNat
     let bytes := 128 * w
     withImage s r bytes 0 fun base =>
       let c := s.core s.coreId
       if 4 ≤ c.transposes.length then transposeFault s 1
       else if s.imageWaits base bytes false then .next s.hold
       else
         let e (i j : Nat) := bytesAt (c.imageAt base) ((32 * i + j) * (w / 8)) (w / 8)
         .next { s.modCore s.coreId (fun c =>
             let c := c.startOp s.now [] [⟨0, s.cur.ctx, base / 128, imageLines bytes, s.now + 1, s.now, false, 0⟩]
             { c with transposes := c.transposes ++
                 [⟨s.cur.ctx, w, tilePositions.map fun q => e q.2 q.1, s.now + 48, c.opCount⟩] }) with
           timers := s.timers ++ [(s.now + 48 + 4096 + 1, { i := .transposeExpire, a := s.coreId, b := c.opCount + 1 })] })

def execMtrGet (r : BitVec 6) (t : BitVec 5) (s : State) : Out :=
  noLent s
    (let w := transposeWidth t.toNat
     let bytes := 128 * w
     withImage s r bytes 0 fun base =>
       let c := s.core s.coreId
       match c.transposes.find? fun x => x.ctx == s.cur.ctx with
       | none => transposeFault s 2
       | some x =>
         if s.now < x.ready then transposeFault s 2
         else if x.width ≠ w then transposeFault s 3
         else if s.imageWaits base bytes true then .next s.hold
         else
           .next ((s.modCore s.coreId fun c =>
             { c.startOp s.now [] [⟨0, s.cur.ctx, base / 128, imageLines bytes, s.now + 2, s.now, true, 0⟩] with
               transposes := c.transposes.erase x }).queue 1 (.img base (x.tile.flatMap (bytesOf (w / 8))))))

/-- An entry not taken within 4096 cycles of its ready cycle is discarded and logged (R261); a ready cycle that was put off is
waited for. -/
def execTransposeExpire (s : State) : Out :=
  match (s.core s.arg.a).transposes.find? fun x => x.op == s.arg.b with
  | none => .next s
  | some x =>
    if s.now ≤ x.ready + 4096 then
      .next { s with timers := s.timers ++ [(x.ready + 4096 + 1, s.arg)] }
    else
      .next ((s.modCore s.arg.a fun c => { c with transposes := c.transposes.erase x }).errorLog x.ctx 5
        (s.ctxAt x.ctx).csr.gen.toNat 0)

end Sys2Proof.Machine
end

