-- ==== Sys2Proof/Machine/Order.lean ====
section
/-!
DEFINITION. Ordering operations (R204 to R211), atomics (R213 to R215) and the tile queue (R93, R94). Accesses are performed
at issue, so the waits a fence or a release names are met when it is tried.
-/
namespace Sys2Proof.Machine

/-- Apply the records that the context's loads and atomics have carried (R209, R211); a wide acquire uses them up. -/
def State.acquireCarried (s : State) (scope : Nat) : State :=
  let s' := s.acquire s.coreId scope s.ctx.flow.acqSig
  if 4 ≤ scope then s'.modCtx fun c => { c with flow := { c.flow with acqSig := 0 } } else s'

/-- FenceRel: the release actions, after which stores to SO and sync pages and atomics are release writes (R204, R207); those of
scope `ctx` or `core` carry nothing. -/
def State.fenceRelease (s : State) (scope : Nat) : State :=
  (s.release s.coreId scope).modCtx fun c => { c with flow := { c.flow with relFence := c.flow.relFence || decide (2 ≤ scope) } }

/-- An ordering operation of scope `pkg` or wider holds until what it writes back to memory, as a release (`own`) or for a signature that
it applies, is performed there, where that queues at DRAM that a run claims (R207, R209, R211, R315). -/
def withFlush (s : State) (scope : Nat) (own : Bool) (g : Sig) (k : Out) : Out :=
  if 4 ≤ scope ∧ s.flushWaits s.coreId own g then .next (s.holdFlush own g) else k

/-- The signatures that a `fence.full` applies. -/
def State.fullSig (s : State) : Sig := s.ctx.flow.acqSig ||| (s.core s.coreId).carried

/-- FenceFull: both fences; of scope `pkg` or wider it also orders the two views of the context's own bytes (R205). -/
def State.fenceFull (s : State) (scope : Nat) : State :=
  let s := s.fenceRelease scope
  let s := s.acquireCarried scope
  if 4 ≤ scope then s.acquire s.coreId scope (s.core s.coreId).carried else s

def execFenceAcq (p : BitVec 3) (s : State) : Out :=
  noLent s (withReads s (withFlush s p.toNat false s.ctx.flow.acqSig (.next (s.acquireCarried p.toNat))))
def execFenceRel (p : BitVec 3) (s : State) : Out :=
  noLent s (withAcked s p.toNat (withFlush s p.toNat true 0 (.next (s.fenceRelease p.toNat))))
def execFenceFull (p : BitVec 3) (s : State) : Out :=
  noLent s (withAcked s p.toNat (withFlush s p.toNat true s.fullSig (.next (s.fenceFull p.toNat))))

/-- The level at which a scope's point stands (R197). -/
def pointLevel (scope : Nat) : Nat := if scope ≤ 1 then 0 else if scope ≤ 3 then 1 else 2

/-- The level an ordering access of a scope uses on a page: its own or the scope's point, whichever is wider (R207, R209). -/
def accessLevel (scope : Nat) (p : Piece) : Nat :=
  max (pointLevel scope) (levelOf (leafOrd p.leaf) (leafHint p.leaf) p.pa)

/-- The record that an acquire applies where a level reads a line (R208), with what the die, or the memory side, has recorded of the line at
its own level: a release of either scope is seen by an acquire of the other (R204). DESIGN CHOICE, log entry 99. -/
def State.recordAt (s : State) (level : Nat) (pa : Nat) : Sig :=
  let die := (s.die (dieOf s.coreId)).records
  if level ≤ 1 then getRecord die (pa / 128) ||| s.recordKept pa
  else s.recordOfMem pa ||| keptRecord die (pa / 128)

/-- Keep a release write's signature where it is written (R207, R208); a record that the other level has of the line gains it too. DESIGN
CHOICE, log entry 99. -/
def State.putRecordAt (s : State) (level : Nat) (pa : Nat) (g : Sig) : State :=
  if level = 0 then s
  else if level = 1 then
    (s.modDie (dieOf s.coreId) fun d => { d with records := putRecord 8192 d.records (pa / 128) g }).joinRecordMem pa g
  else (s.recordMem pa g).modDie (dieOf s.coreId) fun d => { d with records := joinRecord d.records (pa / 128) g }

/-- Whether a piece lies where caches and points of coherence apply, rather than in a window, a refused way or a package
that no port reaches (R353). -/
def State.plainMemory (s : State) (pa : Nat) : Bool :=
  match region pa with
  | .window _ => false
  | .side => s.sideServes pa
  | .remote q => s.reachable q
  | _ => true

/-- The request that an ordering access of remote memory past the caches makes (R353). -/
def State.askAt (s : State) (level op pa n x : Nat) : State :=
  match region pa with
  | .remote q => if level = 2 then s.ask q op pa n 0 x else s
  | _ => s

/-- LdAcq on one translated piece: read at the scope's point and apply its record, which a load of an SO or sync page carries besides
(R209, R211); on a UO page an `ldg` and a `fence.full` (R201). -/
def State.acquireRead (s : State) (scope : Nat) (p : Piece) : Nat × State :=
  if leafOrd p.leaf = 2 then
    let (v, s) := s.readPiece p
    (v, (s.notePoison p.level p.pa p.n).fenceFull scope)
  else if !s.plainMemory p.pa then
    let (v, s) := s.readPiece p
    (v, s.notePoison p.level p.pa p.n)
  else
    let level := accessLevel scope p
    let s := if 1 ≤ level then s.evictBytes s.coreId p.pa p.n (2 ≤ level) else s
    let (v, s) := (s.askAt level reqRead p.pa p.n 0).readAt level p.pa p.n
    let s := s.carryRecord p.leaf p.pa p.n
    (v, (s.notePoison level p.pa p.n).acquire s.coreId scope (s.recordAt level p.pa))

/-- What the acquire of an `ld.acq` applies. -/
def State.acquireSig (s : State) (scope : Nat) (l : List Piece) : Sig :=
  l.foldl (fun g p => g ||| s.recordAt (accessLevel scope p) p.pa) 0

/-- On a UO page the load is followed by a `fence.full` and holds as one does (R201, R211). -/
def execLdAcq (d a : BitVec 6) (u : BitVec 7) (p : BitVec 3) (s : State) : Out :=
  withDue s (s.unsignedField u) fun n =>
    let ea := (s.rS a).toNat - (s.rS a).toNat % 8
    withEntry s (withXlate s (s.xlate ea 8 { kind := .load }) fun l =>
      withLinesAt s (accessLevel p.toNat) l fun s =>
        let k : Out :=
          let (v, s) := l.foldl (fun (_, s) q => s.acquireRead p.toNat q) (0, s)
          .next (s.land n [.s d (BitVec.ofNat 64 v)] [])
        if l.any fun q => leafOrd q.leaf == 2 then withAcked s p.toNat (withFlush s p.toNat true s.fullSig k)
        else withFlush s p.toNat false (s.acquireSig p.toNat l) k)

/-- StRel on one translated piece: the release actions, then the write at the scope's point (R207, R211). One of scope `ctx` or `core` carries
nothing of its own (R207), and what a fence before it makes it carry (R204). -/
def State.releaseWrite (s : State) (va scope : Nat) (p : Piece) (x : Nat) : State :=
  if leafOrd p.leaf = 2 then (s.fenceFull scope).writePiece va p x
  else
    let s := s.release s.coreId scope
    if !s.plainMemory p.pa then s.writePiece va p x
    else
      let level := accessLevel scope p
      let s := ((s.askAt level reqWrite p.pa p.n x).writeAt level p.pa p.n x).awaitStore level p.pa
      if scope ≤ 1 then s.noteRelease p.leaf p.pa p.n else s.putRecordAt level p.pa (s.core s.coreId).carried

def execStRel (d a : BitVec 6) (p : BitVec 3) (s : State) : Out :=
  noLent s
    (let ea := (s.rS a).toNat - (s.rS a).toNat % 8
     withXlate s (s.xlate ea 8 { kind := .store }) fun l =>
       withLinesAt s (accessLevel p.toNat) l fun s =>
         let g := if l.any fun q => leafOrd q.leaf == 2 then s.fullSig else 0
         withAcked s p.toNat (withFlush s p.toNat true g
           (.next (l.foldl (fun s q => s.releaseWrite ea p.toNat q (s.rS d).toNat) s).noteSender)))

/-! ### Atomics (R213 to R215) -/

/-- The level of an `amo`'s execution point (R213): the home agent (or the sync engine), or the die's L2. -/
def amoLevel (p : Piece) : Nat :=
  if leafClass p.leaf = 3 ∨ leafOrd p.leaf = 0 ∨ leafSysatomic p.leaf then 2
  else if atSync p.pa then 2 else 1

/-- What an `amo` stores (`none` stores nothing) and raises, from the old bits and the operand's (R214, R215). -/
abbrev AmoFn := Nat → Nat → Nat → Option Nat × List EvKind

def amoInt (f : Nat → Nat → Nat → Nat) : AmoFn := fun w m v => (some (f w m v % 2 ^ w), [])

/-- The format of a floating-point `amo` (R67). -/
def amoFmt (w : Nat) : Fmt := if w = 64 then fp64 else fp32

/-- The sum of R215 on the words of a format. -/
def amoSum : AmoFn := fun n m v =>
  let f := amoFmt n
  let (x, e) := f.round (Val.add .rne (f.decode m) (f.decode v)) .rne false 0
  (some x, e)

/-- The minimum or maximum of R137 on the words of a format, as R215 has it. -/
def amoMinMax (isMin : Bool) : AmoFn := fun n m v =>
  let f := amoFmt n
  let x := f.decode m
  let y := f.decode v
  let inv := if x.isSnan || y.isSnan then [EvKind.invalid] else []
  if x.isNan && y.isNan then (some f.nan, inv ++ [.nangen])
  else if x.isNan then (some v, inv)
  else if y.isNan then (some m, inv)
  else
    let less := match x, y with
      | .zero _, .zero b => b && !x.isNeg
      | _, _ => y.cmp x == some .lt
    (some (if less == isMin then v else m), inv)

/-- The function of an `amo` by its encoding's number (R67, R214); `e` is what a compare-and-swap stores. -/
def amoFn (e : Nat) : Nat → AmoFn
  | 0 => amoInt fun _ m v => m + v
  | 1 => amoInt fun _ m v => m &&& v
  | 2 => amoInt fun _ m v => m ||| v
  | 3 => amoInt fun _ m v => m ^^^ v
  | 4 => amoInt fun w m v => if toInt w true v < toInt w true m then v else m
  | 5 => amoInt fun w m v => if toInt w true m < toInt w true v then v else m
  | 6 => amoInt fun _ _ v => v
  | 7 => fun w m v => (if m = v then some (e % 2 ^ w) else none, [])
  | 8 => amoSum
  | 9 => amoMinMax true
  | 10 => amoMinMax false
  | 11 => amoInt fun _ m v => min m v
  | _ => amoInt fun _ m v => max m v

/-- The L2 does not keep what its atomic unit has written of a page that lets no cache keep it (R182, R200). -/
def State.leaveL2 (s : State) (level : Nat) (p : Piece) : State :=
  if level = 1 ∧ p.level = 2 then s.l2Drop (dieOf s.coreId) (p.pa / 128) else s

/-- An `amo` of `n` bytes: function number `k` of the old value and sd; a compare-and-swap stores sd + 1 (R214). -/
def amoOp (k : Nat) (w : BitVec 1) (d a : BitVec 6) (u : BitVec 10) (s : State) : Out :=
  noLent s (withDue s u.toNat fun due =>
    let n := if w = 1 then 8 else 4
    let ea := (s.rS a).toNat - (s.rS a).toNat % n
    withEntry s (withXlate s (s.xlate ea n { kind := .amo }) fun l =>
      match l with
      | [] => .next s
      | p :: _ =>
        withLinesAt s amoLevel [p] fun s =>
        let level := amoLevel p
        let v := (s.rS d).toNat % 2 ^ (8 * n)
        let e := (s.rS (d + 1)).toNat
        let s := s.evictBytes s.coreId p.pa n (2 ≤ level)
        let (m, s) := if s.plainMemory p.pa then (s.askAt level reqAmo p.pa n (v + 2 ^ 64 * e + 2 ^ 128 * k)).readPa s.coreId level p.pa n
          else s.readPiece p
        let s := s.notePoison level p.pa n
        let (new, evs) := amoFn e k (8 * n) m v
        let g := s.recordAt level p.pa
        let s := s.modCtx fun c => { c with flow := { c.flow with acqSig := c.flow.acqSig ||| g } }
        let s := match new with
          | none => s
          | some x => if s.plainMemory p.pa then ((s.writePa s.coreId level p.pa n x).awaitStore level p.pa).leaveL2 level p else s
        let s := if s.ctx.flow.relFence then s.putRecordAt level p.pa (s.core s.coreId).carried else s
        .next (s.land due [.s d (BitVec.ofNat 64 m)] (evs.map fun k => (k, 0)))))

def execAmoAdd (w : BitVec 1) (d a : BitVec 6) (u : BitVec 10) (s : State) : Out := amoOp 0 w d a u s
def execAmoAnd (w : BitVec 1) (d a : BitVec 6) (u : BitVec 10) (s : State) : Out := amoOp 1 w d a u s
def execAmoOr (w : BitVec 1) (d a : BitVec 6) (u : BitVec 10) (s : State) : Out := amoOp 2 w d a u s
def execAmoXor (w : BitVec 1) (d a : BitVec 6) (u : BitVec 10) (s : State) : Out := amoOp 3 w d a u s
def execAmoMinSigned (w : BitVec 1) (d a : BitVec 6) (u : BitVec 10) (s : State) : Out := amoOp 4 w d a u s
def execAmoMaxSigned (w : BitVec 1) (d a : BitVec 6) (u : BitVec 10) (s : State) : Out := amoOp 5 w d a u s
def execAmoXchg (w : BitVec 1) (d a : BitVec 6) (u : BitVec 10) (s : State) : Out := amoOp 6 w d a u s
def execAmoCas (w : BitVec 1) (d a : BitVec 6) (u : BitVec 10) (s : State) : Out := amoOp 7 w d a u s
def execAmoFadd (w : BitVec 1) (d a : BitVec 6) (u : BitVec 10) (s : State) : Out := amoOp 8 w d a u s
def execAmoFmin (w : BitVec 1) (d a : BitVec 6) (u : BitVec 10) (s : State) : Out := amoOp 9 w d a u s
def execAmoFmax (w : BitVec 1) (d a : BitVec 6) (u : BitVec 10) (s : State) : Out := amoOp 10 w d a u s
def execAmoMinUnsigned (w : BitVec 1) (d a : BitVec 6) (u : BitVec 10) (s : State) : Out := amoOp 11 w d a u s
def execAmoMaxUnsigned (w : BitVec 1) (d a : BitVec 6) (u : BitVec 10) (s : State) : Out := amoOp 12 w d a u s

/-! ### The tile queue -/

/-- A record's draw (R94): the tile's number or pair, none where no tile is left. -/
def State.drawTile (s : State) (pa : Nat) : Option Nat :=
  let i := s.memRead pa 8
  let n := s.memRead (pa + 8) 4
  let w := s.memRead (pa + 12) 4
  if i < n then some (if w = 0 then i else i / w % 2 ^ 32 * 2 ^ 32 + i % w % 2 ^ 32) else none

/-- The record's count moves on. -/
def State.advanceTiles (s : State) (pa : Nat) : State := s.memWrite pa 8 (s.memRead pa 8 + 1)

/-- Draw one tile from the record at the 16-byte aligned address in sa (R93, R94); one of another package is drawn by its own engine, which
no port may reach (R353). -/
def execNtile (d a : BitVec 6) (u : BitVec 10) (s : State) : Out :=
  noLent s (withDue s u.toNat fun due =>
    let q := (s.rS a).toNat - (s.rS a).toNat % 16
    withEntry s (withXlate s (s.xlate q 16 { kind := .engine }) fun l =>
      match l with
      | [] => .next s
      | p :: _ =>
        let s := match region p.pa with
          | .remote q => if s.reachable q then s.ask q reqTile p.pa 16 0 0 else s.remoteFails q p.pa
          | _ => s
        let s := s.notePoison 2 p.pa 16
        match s.drawTile p.pa with
        | some x =>
          .next ((if s.plainMemory p.pa then s.advanceTiles p.pa else s).land due [.s d (BitVec.ofNat 64 x), .c 15 false] [])
        | none => .next (s.land due [.s d (BitVec.allOnes 64), .c 15 true] [])))

end Sys2Proof.Machine
end

