-- ==== Sys2Proof/Machine/Sync.lean ====
section
/-!
DEFINITION. Flags (R217, R218), the sync engine (R219 to R226), signals (R227), barriers (R228 to R230) and `waitw` (R231).
-/
namespace Sys2Proof.Machine

/-! ### Flags -/

def execFset (m : BitVec 16) (s : State) : Out := noLent s (.next (s.setFlags m))
def execFclr (m : BitVec 16) (s : State) : Out := noLent s (.next (s.clearFlags m))

/-- The signature carried by the releases that set the flags of `m` that are set (R212, R218). -/
def Ctx.flagSigs (c : Ctx) (m : BitVec 16) : Sig :=
  (upTo 16).foldl (fun g n => if (m &&& c.r.f).getLsbD n then g ||| Store.get 0 c.flow.flagSig n else g) 0

/-- Passing a test on the flags of `m`: the acquire of R212 and R218, at scope `pkg`, unless it has been performed ahead of the
bundle's accesses. -/
def State.passFlags (s : State) (m : BitVec 16) : State :=
  let g := s.ctx.flagSigs m
  let s := s.modCur fun c => { c with passed := c.passed ||| m }
  if g = 0 ∨ s.cur.acquired then s else s.acquire s.coreId 4 g

/-- Hold until the flags meet the wait; then pass, and clear the named flags when they are consumed (R55, R218). -/
def waitFlags (s : State) (m : BitVec 16) (any consume : Bool) : Out :=
  if flagsMet s.ctx.r.f m any then .next (if consume then (s.passFlags m).clearFlags m else s.passFlags m)
  else .next s.holdQuiet

def execFwait (m : BitVec 16) (y c : BitVec 1) (s : State) : Out := noLent s (waitFlags s m (y == 1) (c == 1))

/-- The SYNC header's wait (R55). -/
def execSyncHeader (m : BitVec 16) (y c : BitVec 1) (s : State) : Out := waitFlags s m (y == 1) (c == 1)

/-! ### The context directory (R223) -/

/-- The physical address of a context's directory entry. -/
def dirEntry (x : Nat) : Nat := syncBase + x / 768 * 2 ^ 22 + 0x3FA000 + 32 * (x % 768)

/-- The engine writes LIVE_GEN and LIVE when a prologue creates the context. -/
def State.dirCreate (s : State) (x : Nat) : State :=
  (s.memWrite (dirEntry x) 4 (s.ctxAt x).csr.gen.toNat).memWrite (dirEntry x + 4) 1 1

/-- The slot becomes FREE: LIVE clears, and RESTORED becomes NONE. -/
def State.dirFree (s : State) (x : Nat) : State :=
  let s := s.memWrite (dirEntry x + 4) 1 0
  if s.memRead (dirEntry x + 5) 1 % 4 = 2 then
    s.memWrite (dirEntry x + 5) 1 (s.memRead (dirEntry x + 5) 1 / 4 * 4)
  else s

/-! ### Deliveries (R222, R224) -/

/-- Set a flag of a context: it joins what is set, with the signature of its release; its core is woken (R226). -/
def State.deliverFlag (s : State) (x n : Nat) (g : Sig) : State :=
  (s.modCtxAt x fun c =>
    { c with
      r := { c.r with f := c.r.f ||| (1#16 <<< n) }
      flow := { c.flow with flagSig := Store.set 0 c.flow.flagSig n (Store.get 0 c.flow.flagSig n ||| g), quiet := false } }).modCore
    (coreOf x) fun c => { c with gated := false }

/-- OR a bit into a signal word at the engine, as a release (R224). -/
def State.orWord (s : State) (pa n : Nat) (g : Sig) : State := s.releaseMem pa 8 (s.memRead pa 8 ||| 2 ^ n) g

/-- How a delivery is decided (R224). -/
inductive Delivery where
  | flag (ctx : Nat)
  | word (pa : Nat)
  | stale
deriving DecidableEq, Repr

/-- The first row of R224's table that applies to a target word. -/
def State.decideDelivery (s : State) (t : Word) : Delivery :=
  let x := t.toNat % 2 ^ 12
  let gen := t.toNat / 2 ^ 32
  if 3072 ≤ x then .stale
  else
    let e := dirEntry x
    let aliasState := s.memRead (e + 5) 1 % 4
    let aliasGen := s.memRead (e + 8) 4
    let w := s.memRead (e + 16) 8
    if bit (s.memRead (e + 4) 1) 0 ∧ s.memRead e 4 = gen then .flag x
    else if aliasState = 2 ∧ aliasGen = gen then .flag x
    else if aliasState = 1 ∧ aliasGen = gen ∧ w % 8 = 0 ∧ syncBase + x / 768 * 2 ^ 22 ≤ w ∧
        w + 8 ≤ syncBase + x / 768 * 2 ^ 22 + 0x380000 then .word w
    else .stale

/-- This package's number (R341). -/
def State.pkgId (s : State) : Nat := (s.mgmtReg 0xA10).toNat % 64

/-- Whether a target word names a context of this module (R222). -/
def State.targetHere (s : State) (t : Word) : Bool := !t.getLsbD 18 || bits t.toNat 17 12 == s.pkgId

/-- Where a delivery comes from, for the report of a stale one (R224): a `sig` of a context with its generation, a barrier
record of a die, or an engine's action; or those of another package. -/
def srcSig : Nat := 0
def srcBarrier : Nat := 1
def srcBasin : Nat := 2
def srcDelta : Nat := 3
def srcPeer : Nat := 4
def srcPeerBarrier : Nat := 5

/-- Send a flag to a target: the delivery waits its turn at the target's engine, in the order sent (R225). `src` and `from_`
say where it comes from. -/
def State.sendFlag (s : State) (t : Word) (n src from_ gen : Nat) (g : Sig) : State :=
  s.soon { i := .signalDelivery, a := from_, b := n, c := src, d := gen, v := t, sig := g }

/-- `sig`: the release actions of the target's scope, then the send, carrying the carried signature (R227). -/
def execSig (a : BitVec 6) (n : BitVec 4) (s : State) : Out :=
  noLent s
    (let t := s.rS a
     let scope := if !s.targetHere t then 5 else if t.toNat % 2 ^ 12 / 768 = dieOf s.coreId then 3 else 4
     withAcked s scope (withFlush s scope true 0
       (let s := s.release s.coreId scope
        .next (s.sendFlag t n.toNat srcSig s.cur.ctx s.ctx.csr.gen.toNat (s.core s.coreId).carried))))

/-! ### Requests of a held bundle -/

/-- Operation codes of a request to an engine; the rest of `c` is the address. -/
def opBarInit : Nat := 0
def opBarArrive : Nat := 1
def opBarWait : Nat := 2
def opWaitw : Nat := 3
def opReserve : Nat := 4
def opRoundPin : Nat := 5
def opRoundWait : Nat := 6

/-- Whether a request goes to a sync engine, which serves those of one context to one word in the order of issue (R220): those of one bundle
go there one after the other. DEDUCED, log entry 114. -/
def Event.toSync (e : Event) : Bool := e.i == .engineReply && decide (e.c % 16 ≤ opWaitw)

/-- Whether a lower slot's request to a sync engine has not reached it (R46, R220): not yet made, on its way, or, of a `waitw`, not yet
watching its word. -/
def State.syncAhead (s : State) : Bool :=
  (s.cur.requests.any fun e => e.toSync && decide (e.b < s.cur.slot)) ||
    (upTo s.cur.slot).any fun i => match Store.get (.requested 0) s.ctx.flow.waits i with
      | .requested (id + 1) =>
        let op := Store.get 0 s.ctx.flow.waitOps i
        decide (op ≤ opWaitw) && !(s.dies.any fun d => d.2.watches.any fun w => w.ctx == s.cur.ctx && w.id == id)
      | _ => false

/-- The reply to the slot's request, if it has come; otherwise ask once and hold. `late` marks a check that could end in a
trap (R52). -/
def withReply (s : State) (e : Event) (late : Bool) (k : Nat → Out) : Out :=
  let quiet : Bool := e.i == .waitwPoll || e.c % 16 == opWaitw || e.c % 16 == opBarWait
  let hold (s : State) : State :=
    let s := if quiet then s.holdQuiet else s.hold
    if late then s.modCur fun c => { c with waiting := true } else s
  match Store.get (.requested 0) s.ctx.flow.waits s.cur.slot with
  | .replied x => k x
  | .requested 0 =>
    if e.toSync && s.syncAhead then .next (hold s)
    else .next (hold (s.modCur fun c => { c with requests := c.requests ++ [{ e with a := c.ctx, b := c.slot }] }))
  | .requested _ => .next (hold s)

def request (op pa : Nat) (v : Word) (g : Sig) : Event := { i := .engineReply, c := op + 16 * pa, v := v, sig := g }

/-! ### Barriers (R228 to R230) -/

/-- The scope of a record for a context of a core (R228). -/
def recordScope (core pa : Nat) : Nat :=
  match region pa with
  | .sync d => if d = dieOf core then 3 else 4
  | _ => 5

/-- EXPECTED and FLAG of a CONFIG value (R228). -/
def expected (v : Nat) : Nat := v % 2 ^ 20
def barFlag (v : Nat) : Nat := bits v 27 24

/-- The engine gives a record a CONFIG and an ARRIVED in one step; where there are arrivals, as many as CONFIG expects, the phase completes
with it: FLAG goes to every listed arrival, ARRIVED becomes 0, PHASE advances, the list clears (R229). -/
def State.barUpdate (s : State) (pa config arrived : Nat) : State :=
  let d := syncDie pa
  let phase := s.memRead (pa + 12) 4
  if 0 < arrived ∧ expected config ≤ arrived then
    let b := Store.get {} (s.die d).barriers pa
    let s := b.arrivals.foldl (fun s t => s.sendFlag t (barFlag config) srcBarrier d 0 b.sig) s
    (s.memWrite pa 16 (config + (phase + 1) % 2 ^ 32 * 2 ^ 96)).modDie d fun x => { x with barriers := Store.set {} x.barriers pa {} }
  else s.memWrite pa 16 (config + arrived % 2 ^ 32 * 2 ^ 64 + phase * 2 ^ 96)

/-- The engine applies a `bar.init` (R229). -/
def State.barInit (s : State) (pa : Nat) (v : Word) : State := s.barUpdate pa v.toNat (s.memRead (pa + 8) 4)

/-- The engine records an arrival of a target word (R229). -/
def State.barArrive (s : State) (pa : Nat) (t : Word) (g : Sig) : State :=
  (s.modDie (syncDie pa) fun x =>
    let b := Store.get {} x.barriers pa
    { x with barriers := Store.set {} x.barriers pa { arrivals := b.arrivals ++ [t], sig := b.sig ||| g } }).barUpdate pa
    (s.memRead pa 8) (s.memRead (pa + 8) 4 + 1)

/-- The physical address of a version set's record (R341). -/
def State.setAt (s : State) (i : Nat) : Nat := (s.mgmtReg 0xA00).toNat + 128 * i

/-- Whether a request that waits for a round has a pending-table entry (R348). -/
def SetAsk.entry : SetAsk → Bool
  | .wait _ => true
  | .pin _ | .launch _ _ _ => false

/-- Pending-table entries in use on a die: watches, arrivals, and what waits for a round there, `round.wait`, publications and round-done
messages (R221, R348, R350, R388); these last two wait even where the table is full (DESIGN CHOICE, log entry 113). Entries in the
overflow area leave the bytes of HBM there as they are. DESIGN CHOICE, log entry 111. -/
def State.entries (s : State) (d : Nat) : Nat :=
  let x := s.die d
  x.watches.length + (x.barriers.map fun b => b.2.arrivals.length).sum +
    (s.setWaits.filter fun w => w.ask.entry && syncDie (s.setAt w.set) == d).length +
    (s.roundWaits.filter fun w => syncDie (s.setAt w.set) == d).length

/-- Entries that a die has room for (R221). -/
def Die.entryRoom (x : Die) : Nat := 31232 + x.ovfSize.toNat / 16

/-- Whether a die has no free entry. -/
def State.entriesFull (s : State) (d : Nat) : Bool := decide ((s.die d).entryRoom ≤ s.entries d)

/-- SYNC_OVF_USED: the entries beyond the table, 16 bytes each (R221); as the table frees, entries move back to it. DESIGN CHOICE, log
entry 110. -/
def State.ovfUsed (s : State) (d : Nat) : Nat := (s.entries d - 31232) * 16

/-- The target word of the context of a bundle (R222). -/
def State.ownTarget (s : State) (ctx : Nat) : Word := BitVec.ofNat 64 ((s.ctxAt ctx).csr.gen.toNat * 2 ^ 32 + ctx)

/-- Translate a record's address for the sync engine (R230). -/
def withRecord (s : State) (a : BitVec 6) (align n : Nat) (k : Nat → Piece → Out) : Out :=
  let ea := (s.rS a).toNat - (s.rS a).toNat % align
  withXlate s (s.xlate ea n { kind := .engine }) fun l =>
    match l with
    | [] => .next s
    | p :: _ => k ea p

/-- The legal CONFIG values of `bar.init` (R230). -/
def configLegal (v : Word) : Bool := expected v.toNat != 0 && v.toNat / 2 ^ 28 == 0 && bits v.toNat 23 20 == 0

def execBarInit (r a : BitVec 6) (s : State) : Out :=
  noLent s
    (if !configLegal (s.rS r) then .next (s.takeTrap causeIllegal (s.rS r))
     else withRecord s a 16 16 fun _ p => withReply s (request opBarInit p.pa (s.rS r) 0) true fun _ => .next s)

/-- The protection fault CLASS at an address (R230). -/
def classFault (s : State) (ea : Nat) : Out := .next (s.takeTrap causeProtection (faultInfo pClass ea))

/-- A release that an engine is asked for treats the bundle's lower slots as earlier: those that store act first (R211). -/
def withEarlier (s : State) (k : Out) : Out :=
  if s.cur.senders.isEmpty then k else .next ((s.holdFor s.cur.senders).modCur fun c => { c with waiting := true })

def execBarArrive (a : BitVec 6) (s : State) : Out :=
  noLent s (withRecord s a 16 16 fun ea p => withEarlier s <|
    withReply s (request opBarArrive p.pa (s.ownTarget s.cur.ctx) 0) true fun x =>
      if x = 1 then classFault s ea else .next s)

/-- The flag is learnt from the record; then the bundle holds for it and consumes it (R230). -/
def execBarWait (a : BitVec 6) (s : State) : Out :=
  noLent s (withRecord s a 16 16 fun ea p =>
    withReply s (request opBarWait p.pa 0 0) true fun x =>
      if x = 1 then classFault s ea else withSound s [(4, x - 16)] (waitFlags s (1#16 <<< (x - 16)) false true))

/-- What the sync engine does with a barrier request of a context (R229, R230): 1 says EXPECTED is 0, 16 + n names flag n,
`none` that the request waits for a pending-table entry (R221). The arrival that completes a phase needs no entry. DESIGN CHOICE, log
entry 112. -/
def State.serveRecord (s : State) (op pa : Nat) (v : Word) (g : Sig) : Option Nat × State :=
  if op = opBarInit then (some 0, s.barInit pa v)
  else if expected (s.memRead pa 8) = 0 then (some 1, s)
  else if op = opBarWait then (some (16 + barFlag (s.memRead pa 8)), s)
  else if s.entriesFull (syncDie pa) ∧ s.memRead (pa + 8) 4 + 1 < expected (s.memRead pa 8) then (none, s)
  else (some 0, s.barArrive pa v g)

/-- How the engine of another package answers a barrier request, once a port has carried it there (R228, R353). Its answer is free. -/
def State.askRecord (s : State) (ctx p op pa : Nat) (v : Word) : Option Nat × State :=
  let s := s.sendRequest p (reqBarInit + op) pa 16 v 0 (.ctx ctx (s.ctxAt ctx).csr.gen.toNat)
  if !s.reachable p then (none, s)
  else
    let r := Config.peerReply s.fresh
    let s := { s with fresh := s.fresh + 1 }
    (some (if op = opBarInit then 0 else if r = 1 then 1 else if op = opBarWait then 16 + r % 16 else 0), s)

/-- What the engine that holds a record does for a context (R229, R230): the release actions come before an arrival, which waits for what
they wait for (R207), and asks again. -/
def State.serveBarrier (s : State) (ctx op pa : Nat) (v : Word) : Option Nat × State :=
  let core := coreOf ctx
  let scope := recordScope core pa
  if op = opBarArrive ∧ s.releaseOwes ctx scope then (none, s)
  else if op = opBarArrive ∧ 4 ≤ scope ∧ s.flushWaits core true 0 then (none, s.flushLate core true 0)
  else
    let s := if op = opBarArrive then s.release core scope else s
    match region pa with
    | .remote p => s.askRecord ctx p op pa v
    | _ => s.serveRecord op pa v (s.core core).carried

/-! ### Waiting on a word (R231) -/

def execWaitw (r a : BitVec 6) (c : BitVec 4) (s : State) : Out :=
  noLent s
    (let ea := (s.rS a).toNat - (s.rS a).toNat % 8
     withXlate s (s.xlate ea 8 { kind := .waitw, plain := true }) fun l =>
       match l with
       | [] => .next s
       | p :: _ =>
         let e : Event := if atSync p.pa then request opWaitw (p.pa * 16 + c.toNat) (s.rS r) 0
           else { i := .waitwPoll, c := p.pa * 16 + c.toNat, v := s.rS r }
         withReply s e false fun _ => .next s)

/-- Enter a watch at the engine that holds its word. -/
def State.watch (s : State) (w : Watch) : State := s.modDie (syncDie w.pa) fun y => { y with watches := y.watches ++ [w] }

/-- The sync engine takes a `waitw`: it tests at arrival and watches the word (R231); while no entry is free the `waitw` asks
again (R221). The engine of another package watches likewise, and its release comes at a free time (R353). -/
def State.serveWatch (s : State) (e : Event) : Option Nat × State :=
  let x := e.c / 16
  let pa := x / 16
  let w : Watch := ⟨e.a, e.b, e.d, pa, x % 16, e.v⟩
  match region pa with
  | .remote p =>
    let s := s.sendRequest p reqWatch pa 8 e.v (x % 16) (.ctx e.a (s.ctxAt e.a).csr.gen.toNat)
    (none, if s.reachable p then (s.watch w).laterOpen { e with i := .waitwPoll, c := x } else s)
  | _ =>
    if intCond 64 (x % 16) (s.memRead pa 8) e.v.toNat then (some 0, s)
    else if s.entriesFull (syncDie pa) then (none, s.laterOpen e)
    else (none, s.watch w)

/-- One read of a word in memory for context `x`, past its core's banks and the L2 (R231): a refused way of side store reads 0 and is
logged (R279), and a request that no port carries fails (R353). -/
def State.pollWord (s : State) (x pa : Nat) : Nat × State :=
  let gen := (s.ctxAt x).csr.gen.toNat
  match region pa with
  | .side => if s.sideServes pa then (s.memRead pa 8, s) else (0, s.errorLog x 4 gen pa)
  | .remote p => (s.memRead pa 8, s.sendRequest p reqRead pa 8 0 0 (.ctx x gen))
  | _ => (s.memRead pa 8, s)

/-- One read of a word that is not on a sync page; unmet, it is repeated within 256 cycles (R231). A read of DRAM that a run claims queues
(R315); one through the cluster window waits at its bank, which takes the step up again with what it has read (R175). For a word that a
peer's engine watches, the step is that engine's release, which comes at a free time. -/
def execWaitwPoll (s : State) : Out :=
  let e := { s.arg with l := [] }
  let pa := e.c / 16
  let again (s : State) : State :=
    { s with timers := s.timers ++ [(s.now + 1 + Config.engineDelay s.fresh % 256, e)], fresh := s.fresh + 1 }
  let still := Store.get (.requested 0) (s.ctxAt e.a).flow.waits e.b == .requested (e.d + 1)
  let test (v : Nat) (s : State) : Out := .next (if intCond 64 (e.c % 16) v e.v.toNat then s.reply e.a e.b e.d 0 else again s)
  if !still then .next (s.dramLeave (.step e))
  else if atSync pa then
    .next (if Config.peerAcks s.fresh then
      (s.reply e.a e.b e.d 0).modDie (syncDie pa) fun x => { x with watches := x.watches.filter fun w => w.ctx != e.a || w.id != e.d }
    else again s)
  else match region pa with
    | .window c =>
      (match s.arg.l with
       | [] => .next (({ s with cur := { ctx := e.a } } : State).askWindow c false pa (pa % 2 ^ 19) 8 none fun _ => .poll e)
       | v :: _ => test v s)
    | _ => withDram s e [(pa, 8)] fun s =>
      let (v, s) := s.pollWord e.a pa
      test v s

/-! ### Registers of the sync engine, and power gating -/

/-- Writes to the overflow registers are ignored while the area is in use (R221). -/
def execSyncOvfBaseWrite (s : State) : Out :=
  withMgmt s (.next (s.modDie s.arg.a fun x => if s.ovfUsed s.arg.a = 0 then { x with ovfBase := s.arg.v &&& ~~~0xFFFF#64 } else x))

def execSyncOvfSizeWrite (s : State) : Out :=
  withMgmt s (.next (s.modDie s.arg.a fun x => if s.ovfUsed s.arg.a = 0 then { x with ovfSize := s.arg.v &&& ~~~0xFFFF#64 } else x))

def execSyncStaleCountClear (s : State) : Out := withMgmt s (.next (s.modDie s.arg.a fun x => { x with staleCount := 0 }))

end Sys2Proof.Machine
end

