-- ==== Sys2Proof/Machine/Rings.lean ====
section
/-!
DEFINITION. Bobbin rings: descriptors (R232, R233), the ring tables (R234), handles (R235), positions (R236 to R239), faults
(R240) and the ring instructions (R241 to R244).
-/
namespace Sys2Proof.Machine

/-! ### Descriptors -/

/-- A descriptor's 80 bytes as one little-endian number, read as a ring (R232). -/
def ringOf (x : Nat) : Ring :=
  { base := bits x 18 0, home := bits x 37 32, stageLog2 := bits x 47 40, stages := bits x 55 48, fills := bits x 63 56
    prodH := bits x 66 64, consH := bits x 74 72, prod := BitVec.ofNat 256 (x / 2 ^ 128)
    cons := BitVec.ofNat 256 (x / 2 ^ 384) }

/-- CLUSTER of a descriptor (R232). -/
def ringCluster (x : Nat) : Nat := bits x 87 80

/-- R233 but for what concerns a RING_TABLE entry alone. -/
def ringValid (x : Nat) : Bool :=
  let r := ringOf x
  bits x 31 19 == 0 && bits x 39 38 == 0 && bits x 71 67 == 0 && bits x 79 75 == 0 && bits x 127 88 == 0 &&
    decide (8 ≤ r.stageLog2) && decide (r.stageLog2 ≤ 16) && decide (2 ≤ r.stages) && decide (r.stages ≤ 16) &&
    decide (r.fills ≤ 15) && r.base % 2 ^ r.stageLog2 == 0 && decide (r.base + r.stages * 2 ^ r.stageLog2 ≤ 2 ^ 19) &&
    r.cons != 0 && (r.prod != 0 || decide (1 ≤ r.fills)) && (r.prod &&& r.cons == 0 || r.prodH != r.consH)

/-! ### The table of a cluster -/

def Cluster.ring (c : Cluster) (i : Nat) : Option Ring := Store.get none c.rings i
def Cluster.setRing (c : Cluster) (i : Nat) (r : Option Ring) : Cluster := { c with rings := Store.set none c.rings i r }

/-- The lowest free index, if any (R234). -/
def Cluster.freeRing (c : Cluster) : Option Nat := (upTo 32).find? fun i => (c.ring i).isNone

/-- Free entries beyond every standing reservation (R234). -/
def Cluster.ringRoom (c : Cluster) : Nat := 32 - c.rings.length - (c.ringsReserved.map (·.2)).sum

/-- The live entry of a launch with a key. -/
def Cluster.findRing (c : Cluster) (launch : Option Nat) (key : Word) : Option (Nat × Ring) :=
  (c.rings.filterMap fun e => e.2.map fun r => (e.1, r)).find? fun e => e.2.key == key && e.2.launch == launch

/-- The bits of a set of contexts. -/
def membersOf (m : BitVec 256) : List Nat := (upTo 256).filter fun i => m.getLsbD i

/-- Fill: every producer is ahead of P and FD_P is F (R237). -/
def Ring.fill : Nat → Ring → Ring
  | 0, r => r
  | n + 1, r =>
    if (membersOf r.prod).all (fun i => decide (r.filled < Store.get 0 r.puts i)) ∧ Store.get 0 r.done r.filled = r.fills then
      Ring.fill n { r with done := Store.set 0 r.done r.filled 0, filled := r.filled + 1 }
    else r

/-- Drain: every consumer is ahead of C (R237). -/
def Ring.drain : Nat → Ring → Ring
  | 0, r => r
  | n + 1, r =>
    if (membersOf r.cons).all fun j => decide (r.drained < Store.get 0 r.takes j) then
      Ring.drain n { r with drained := r.drained + 1 }
    else r

/-- Add the increments of a cycle to the positions. -/
def addCounts (m inc : Store Nat) : Store Nat := inc.foldl (fun m e => Store.set 0 m e.1 (Store.get 0 m e.1 + e.2)) m

/-- The end of a cycle: this cycle's events, then fills and drains as far as they go (R237). At most `S` of either fit. -/
def Ring.settle (r : Ring) : Ring :=
  Ring.drain 16 (Ring.fill 16 { r with
    puts := addCounts r.puts r.newPuts, takes := addCounts r.takes r.newTakes, taken := r.taken + r.newTaken
    done := addCounts r.done r.newDone, newPuts := [], newTakes := [], newTaken := 0, newDone := [] })

/-- Whether an event of the present cycle changes the ring at its end. -/
def Ring.touched (r : Ring) : Bool := !(r.newPuts.isEmpty && r.newTakes.isEmpty && r.newDone.isEmpty && r.newTaken == 0)

/-- The end of a cycle for every ring that an event touched. -/
def State.settleRings (s : State) : State :=
  s.clusters.foldl (fun s c =>
    c.2.rings.foldl (fun s e => match e.2 with
      | some r =>
        if r.touched then s.modCluster c.1 fun k => k.setRing e.1 (some r.settle) else s
      | none => s) s) s

/-- The BXE takes a fill copy (R237), after those that it took in this cycle: the use it targets, `none` while it must wait. -/
def Ring.takeFill (r : Ring) : Option (Nat × Ring) :=
  let x := (r.taken + r.newTaken) / r.fills
  if x < r.drained + r.stages then some (x, { r with newTaken := r.newTaken + 1 }) else none

/-- A fill copy of use `x` has performed its last payload byte (R237). -/
def Ring.fillDone (r : Ring) (x : Nat) : Ring := { r with newDone := Store.set 0 r.newDone x (Store.get 0 r.newDone x + 1) }

/-- The local address of use `x`'s stage (R236). -/
def Ring.stageAt (r : Ring) (x : Nat) : Nat := r.base + x % r.stages * 2 ^ r.stageLog2

/-! ### Handles and faults -/

/-- A binding word: VALID, the side, the index (R235). -/
def bindWord (side idx : Nat) : Word := BitVec.ofNat 64 (2 ^ 31 + side * 2 ^ 8 + idx)

/-- The number of the issuer in its cluster (R241). -/
def meOf (ctx : Nat) : Nat := 4 * (coreOf ctx % 64) + ctx % 4

def ringInfo (sub idx k h : Nat) : Word := BitVec.ofNat 64 (6 * 2 ^ 60 + sub * 2 ^ 16 + idx * 2 ^ 8 + k * 2 ^ 4 + h)

def ringFault (s : State) (sub idx k h : Nat) : Out := .next (s.takeTrap causeProtection (ringInfo sub idx k h))

/-- The ring a handle names: its index, entry and side; UNBOUND otherwise (R240). -/
def withHandle (s : State) (h : BitVec 3) (k : Nat) (go : Nat → Ring → Nat → Out) : Out :=
  let w := (s.ctx.r.getH h).toNat
  if !bit w 31 then ringFault s 1 0 k h.toNat
  else match (s.cluster (clusterOf s.coreId)).ring (w % 32) with
    | none => ringFault s 1 0 k h.toNat
    | some r => go (w % 32) r (bits w 9 8)

/-- The context's own position on a side (R236). -/
def Ring.own (r : Ring) (side me : Nat) : Nat :=
  if side = 1 then Store.get 0 r.puts me else if side = 2 then Store.get 0 r.takes me else 0

/-- Whether use `x` is forbidden to a side for now (R238). -/
def Ring.forbids (r : Ring) (side x : Nat) : Bool :=
  if side = 1 then decide (r.drained + r.stages ≤ x) else decide (r.filled ≤ x)

/-- Check a ring access and hold until its use may be reached (R238, R240, R244); `last` is the byte after the access in its
stage. -/
def withStage (s : State) (h : BitVec 3) (k : BitVec 4) (last : Nat) (go : Ring → Nat → Out) : Out :=
  withHandle s h k.toNat fun idx r side =>
    if side ≠ 1 ∧ side ≠ 2 then ringFault s 2 idx k.toNat h.toNat
    else if r.stages ≤ k.toNat then ringFault s 3 idx k.toNat h.toNat
    else if 2 ^ r.stageLog2 < last then ringFault s 4 idx k.toNat h.toNat
    else
      let x := r.own side (meOf s.cur.ctx) + k.toNat
      if r.forbids side x then holdUnlessTrapped (go r (r.stageAt x)) else go r (r.stageAt x)

/-! ### `ring.def` (R241) -/

/-- The side a context has through handle `i` of a ring (R241). -/
def Ring.sideOf (r : Ring) (me i : Nat) : Nat :=
  if r.prod.getLsbD me ∧ i = r.prodH then 1 else if r.cons.getLsbD me ∧ i = r.consH then 2 else 0

/-- The word that a `ring.def` writes to handle `i`: every slot of its bundle reads the old one (R46, R241). DEDUCED, log entry 33. -/
def State.bindRing (s : State) (i : BitVec 3) (idx : Nat) (r : Ring) : State :=
  s.queue 1 (.h i (bindWord (r.sideOf (meOf s.cur.ctx) i.toNat) idx))

/-- Operation code of a request to the ring table. -/
def opRingDef : Nat := 7

/-- The entry that a `ring.def` attaches to, or creates from the descriptor that it reads (R241). The cluster's table has answered: what it
does it does as the bundle issues, since a bundle that traps or is pre-empted leaves none of its effects (R7, R52, R56). -/
def execRingDef (a : BitVec 6) (i : BitVec 3) (s : State) : Out :=
  noLent s
    (let key := s.rS a
     let launch := s.ctx.launch
     let k := clusterOf s.coreId
     let fault (sub : Nat) : Out := ringFault s sub 0 0 i.toNat
     let ask (go : Out) : Out := withReply s (request opRingDef i.toNat key 0) false fun _ => go
     if key.toNat % 16 ≠ 0 then fault 6
     else match (s.cluster k).findRing launch key with
       | some (idx, r) => ask (.next (s.bindRing i idx r))
       | none => withXlate s (s.xlate key.toNat 80 { kind := .load }) fun l => ask (withLines s l fun s =>
           let (d, s) := s.readPieces l
           if !ringValid d then fault 6
           else if (s.cluster k).ringRoom = 0 then fault 5
           else match (s.cluster k).freeRing with
             | none => fault 5
             | some idx =>
               let r := { ringOf d with launch := launch, key := key }
               .next ((s.modCluster k fun c => c.setRing idx (some r)).bindRing i idx r)))

/-! ### `ring.put` and `ring.take` (R237, R239, R242) -/

/-- Whether an engine operation that the context issued in an earlier cycle has yet to write (or read) the scratchpad (R239);
the context's local loads and stores are performed at issue, and so are its ring loads. -/
def State.engineOwes (s : State) (write : Bool) : Bool :=
  (s.core s.coreId).images.any fun m =>
    m.ctx == s.cur.ctx && m.write == write && decide (m.issued < s.now) &&
      decide (s.now < m.first + m.lines + (if write then 1 else 0))

def State.setRing (s : State) (idx : Nat) (r : Ring) : State :=
  s.modCluster (clusterOf s.coreId) fun c => c.setRing idx (some r)

def execRingPut (i : BitVec 3) (s : State) : Out :=
  noLent s (withHandle s i 0 fun idx r side =>
    let me := meOf s.cur.ctx
    if side ≠ 1 then ringFault s 2 idx 0 i.toNat
    else if s.engineOwes true then .next s.hold
    else if s.owesWindow s.cur.ctx then .next s.holdAcked
    else if r.forbids 1 (Store.get 0 r.puts me + Store.get 0 r.newPuts me) then .next s.hold
    else .next (s.setRing idx { r with newPuts := Store.set 0 r.newPuts me (Store.get 0 r.newPuts me + 1) }))

def execRingTake (i : BitVec 3) (s : State) : Out :=
  noLent s (withHandle s i 0 fun idx r side =>
    let me := meOf s.cur.ctx
    if side ≠ 2 then ringFault s 2 idx 0 i.toNat
    else if s.engineOwes false then .next s.hold
    else if r.forbids 2 (Store.get 0 r.takes me + Store.get 0 r.newTakes me) then .next s.hold
    else .next (s.setRing idx { r with newTakes := Store.set 0 r.newTakes me (Store.get 0 r.newTakes me + 1) }))

/-! ### `ring.ptr` (R243) -/

/-- BASE, HOME, S, STAGE_LOG2, F and the ring index in one word. -/
def Ring.conf (r : Ring) (idx : Nat) : Word :=
  BitVec.ofNat 64 (r.base + r.home * 2 ^ 24 + r.stages * 2 ^ 32 + r.stageLog2 * 2 ^ 40 + r.fills * 2 ^ 48 + idx * 2 ^ 52)

def execRingPtr (d : BitVec 6) (i : BitVec 3) (e : BitVec 4) (s : State) : Out :=
  noLent s
    (if e = 3 then .next (s.wS 2 d (s.ctx.r.getH i))
     else if 8 ≤ e.toNat then
       withStage s i (e - 8) 0 fun _ a => .next (s.wS 2 d (BitVec.ofNat 64 a))
     else withHandle s i 0 fun idx r side =>
       .next (s.wS 2 d (match e.toNat with
         | 0 => BitVec.ofNat 64 (r.filled % 2 ^ 32)
         | 1 => BitVec.ofNat 64 (r.drained % 2 ^ 32)
         | 2 => BitVec.ofNat 64 (r.own side (meOf s.cur.ctx) % 2 ^ 32)
         | 4 => BitVec.ofNat 64 (Store.get 0 r.done r.filled * 2 ^ 32 + r.taken % 2 ^ 32)
         | _ => r.conf idx)))

/-! ### Ring-relative loads and stores (R244) -/

/-- The home core of a ring of the issuer's cluster. -/
def State.homeOf (s : State) (r : Ring) : Nat := clusterOf s.coreId * 64 + r.home

/-- An access of another core's bank through the cluster window: it holds while the bank is CHANGING or its line is held by the engine
(R240, R253). -/
def remoteAccess (s : State) (home a : Nat) (write : Bool) (go : State → Out) : Out :=
  let c := s.core home
  if c.isChanging s.now (a / 2 ^ 14) || c.lineHeld s.now (a / 128) write false then .next s.hold else go s

/-- A store reaches the home bank as a window request, which a bank that is not scratchpad refuses (R175, R185, R244). The log entry's
detail is DEDUCED, log entry 34. -/
def State.ringStore (s : State) (home a n x : Nat) : State := (s.askWindow home false a a n (some x) (.landing 0)).noteSender

/-- A load's bytes are read as it issues; its request takes its turn at the home bank within the fixed latency, and a bank that is not
scratchpad gives zero (R185, R244). DEDUCED, log entry 34. -/
def State.ringLoad (s : State) (home a n : Nat) : Nat × State :=
  if s.windowOk home a then ((s.core home).locRead a n, s.askWindow home false a a n none fun _ => .taken)
  else (0, s.errorLogHere 2 a)

/-- RingAccess, then the access at the home core: `here` as a local access, `there` through the window (R244). -/
def ringAccess (s : State) (h : BitVec 3) (k : BitVec 4) (off n : Nat) (write : Bool)
    (here : Nat → State → Out) (there : Nat → Nat → State → Out) : Out :=
  withStage s h k (off * n + n) fun r a =>
    let ea := a + off * n
    if s.homeOf r = s.coreId then localAccess s ea n write here
    else remoteAccess s (s.homeOf r) ea write (there (s.homeOf r) ea)

def execRingLd (d : BitVec 6) (h : BitVec 3) (k : BitVec 4) (o : BitVec 9) (z : BitVec 3) (s : State) : Out :=
  let n := sizeBytes z
  ringAccess s h k (s.unsignedField o) n false
    (fun a s => .next (s.wS 3 d (extendLoad z ((s.core s.coreId).locRead a n))))
    (fun core a s => let (x, s) := s.ringLoad core a n; .next (s.wS 45 d (extendLoad z x)))

def execRingSt (d : BitVec 6) (h : BitVec 3) (k : BitVec 4) (o : BitVec 9) (z : BitVec 3) (s : State) : Out :=
  let n := sizeBytes z
  ringAccess s h k (s.unsignedField o) n true
    (fun a s => .next (s.locStore s.coreId a n (s.rS d).toNat))
    (fun core a s => .next (s.ringStore core a n (s.rS d).toNat))

def execRingVld (v : BitVec 5) (h : BitVec 3) (k : BitVec 4) (o : BitVec 9) (s : State) : Out :=
  ringAccess s h k (s.unsignedField o) 128 false
    (fun a s => .next (s.wV 4 v (BitVec.ofNat 1024 ((s.core s.coreId).locRead a 128))))
    (fun core a s => let (x, s) := s.ringLoad core a 128; .next (s.wV 46 v (BitVec.ofNat 1024 x)))

def execRingVst (v : BitVec 5) (h : BitVec 3) (k : BitVec 4) (o : BitVec 9) (s : State) : Out :=
  ringAccess s h k (s.unsignedField o) 128 true
    (fun a s => .next (s.locStore s.coreId a 128 (s.rV v).toNat))
    (fun core a s => .next (s.ringStore core a 128 (s.rV v).toNat))

end Sys2Proof.Machine
end

