-- ==== Sys2Proof/Machine/Graph.lean ====
section
/-!
DEFINITION. The command graph: what the walker reads, submission (R95 to R97), node states, marks and completion (R100, R101),
COND, WHILE and validation (R98, R99, R102, R103).
-/
namespace Sys2Proof.Machine

/-! ### What the walker reads -/

/-- The physical address of a virtual address under the walker's privileged rights, where it may be read or written. -/
def State.walkerPa (s : State) (va : Nat) (write : Bool) : Option (Nat × Nat) :=
  if !canonical va then none
  else match s.walk 0 va with
    | .leaf w => if bit w (if write then 2 else 1) && frameOk w then some (leafFrame w + va % leafBytes w, w) else none
    | _ => none

/-- Read `n` bytes at a virtual address, or fail where some of them are unreadable or poisoned (R106, R385). -/
def State.walkerRead (s : State) (va n : Nat) : Option Nat :=
  (pieces va n).foldl (fun acc p => match acc, s.walkerPa p.1 false with
    | some x, some (pa, _) => if s.memPoisoned pa p.2.1 then none else some (x + s.memRead pa p.2.1 * 2 ^ (8 * p.2.2))
    | _, _ => none) (some 0)

/-- Whether bytes that the walker may read are poisoned (R385). -/
def State.walkerPoisoned (s : State) (va n : Nat) : Bool :=
  (pieces va n).any fun p => (s.walkerPa p.1 false).any fun x => s.memPoisoned x.1 p.2.1

/-- The parts of a range that lie in one 64 KiB page each. -/
def pagesOf (va n : Nat) : List (Nat × Nat) :=
  (upTo ((va % 2 ^ 16 + n + 65535) / 65536)).map fun i =>
    let lo := max va ((va / 2 ^ 16 + i) * 2 ^ 16)
    (lo, min (va + n) ((va / 2 ^ 16 + i + 1) * 2 ^ 16) - lo)

/-- The accesses that the walker's reads of some virtual ranges make: of the tables, and of the ranges where they translate. -/
def State.walkerAccesses (s : State) (l : List (Nat × Nat)) : List (Nat × Nat) :=
  (l.flatMap fun r => pagesOf r.1 r.2).flatMap fun p =>
    (if canonical p.1 then s.walkReads 0 p.1 else []) ++ ((s.walkerPa p.1 false).map fun x => (x.1, p.2)).toList

/-- Go on once none of the virtual ranges that the walker is about to read, nor a table of their translation, queues at DRAM that a run
claims (R315). -/
def withWalker (s : State) (l : List (Nat × Nat)) (go : State → Out) : Out := withDram s s.arg (s.walkerAccesses l) go

/-- Whether a status word may lie at an address: 8-byte aligned, in HBM, side store or host memory (R97, R98). -/
def statusOk (pa : Nat) : Bool :=
  pa % 8 == 0 && (match region pa with
    | .hbm | .side | .host => true
    | _ => false)

/-! ### Parts of the walker -/

def State.modWalker (s : State) (f : Walker → Walker) : State := { s with walker := f s.walker }

def State.graph (s : State) (g : Nat) : Option Graph := Store.get none s.walker.graphs g

def State.setGraph (s : State) (g : Nat) (x : Option Graph) : State :=
  s.modWalker fun w => { w with graphs := Store.set none w.graphs g x }

def Graph.node (x : Graph) (n : Nat) : GraphNode := Store.get {} x.nodes n

def Graph.setNode (x : Graph) (n : Nat) (y : GraphNode) : Graph := { x with nodes := Store.set {} x.nodes n y }

/-- A node of a graph that runs. -/
def State.node (s : State) (g n : Nat) : GraphNode := ((s.graph g).map fun x => x.node n).getD {}

def State.modNode (s : State) (g n : Nat) (f : GraphNode → GraphNode) : State :=
  match s.graph g with
  | some x => s.setGraph g (some (x.setNode n (f (x.node n))))
  | none => s

/-- What the walker has acquired or released in a graph's course joins the signature of its status words (R97, R101, R204). DEDUCED, log
entry 100. -/
def State.joinGraph (s : State) (g : Nat) (sig : Sig) : State :=
  match s.graph g with
  | some x => s.setGraph g (some { x with sig := x.sig ||| sig })
  | none => s

def State.graphSig (s : State) (g : Nat) : Sig := ((s.graph g).map (·.sig)).getD 0

def NodePhase.final : NodePhase → Bool
  | .done | .skipped | .cancelled | .failed => true
  | _ => false

/-- State codes of a node status word (R101). -/
def NodePhase.code : NodePhase → Nat
  | .done => 2
  | .skipped => 3
  | .cancelled => 4
  | .failed => 5
  | _ => 0

def kindLaunch : Nat := 1
def kindCopy : Nat := 2
def kindBasin : Nat := 3
def kindDelta : Nat := 4
def kindRound : Nat := 5
def kindCond : Nat := 6
def kindWhile : Nat := 7

/-- Cause codes of node status words (R109, R389). -/
def causeBanks : Nat := 1
def causePlacement : Nat := 2
def causeRings : Nat := 3
def causeBadRecord : Nat := 4
def causeContextFault : Nat := 5
def causeCopyError : Nat := 6
def causeTimeout : Nat := 7
def causeLoopLimit : Nat := 8
def causeDeltaTiming : Nat := 9
def causeTableFull : Nat := 0xA
def causeRemoteFail : Nat := 0xB
def causeInherited : Nat := 0xC
def causeReset : Nat := 0xD

/-! ### Marks (R100) -/

/-- A node's counter has reached zero: it is READY, and the walker acts on it in its own time. -/
def State.makeReady (s : State) (g n : Nat) : State :=
  let k := s.walker.readyCount
  ((s.modNode g n fun x => { x with phase := .ready, seq := k }).modWalker fun w => { w with readyCount := k + 1 }).laterOpen
    { i := .nodeResolve, a := g, b := n }

/-- A mark reaches a node; on a WHILE node's back edge it is kept for the end of the iteration (R103). -/
def State.applyMark (s : State) (g sender n : Nat) (m : Mark) (origin : Nat) (sig : Sig) : State :=
  let x := s.node g n
  if x.kind = kindWhile ∧ sender = x.bodyLast then
    if x.phase = .looping then s.modNode g n fun x => { x with back := some (m, origin) } else s
  else
    let s := s.modNode g n fun x =>
      { x with left := x.left - 1, marks := x.marks ++ [(m, origin)], sig := x.sig ||| sig }
    if x.left = 1 then s.makeReady g n else s

/-- A node sends marks, with an origin and a signature; 0xFFFF names no successor. They reach their nodes at the end of the cycle. -/
def State.sendMarks (s : State) (g n : Nat) (marks : List (Nat × Mark)) (origin : Nat) (sig : Sig) : State :=
  s.modWalker fun w => { w with
    sent := w.sent ++ (marks.filter fun e => e.1 != 0xFFFF).map fun e => ⟨g, n, e.1, e.2, origin, sig⟩ }

/-- Insert a mark where it is applied: by graph, then by successor, then by sender, after those equal in all three (R100). -/
def insertMark (x : SentMark) : List SentMark → List SentMark
  | [] => [x]
  | y :: ys =>
    if x.graph < y.graph ∨ (x.graph = y.graph ∧ (x.node < y.node ∨ (x.node = y.node ∧ x.sender < y.sender))) then x :: y :: ys
    else y :: insertMark x ys

/-- The body of a WHILE node (R103). -/
def GraphNode.bodyNodes (x : GraphNode) : List Nat := (upTo (x.bodyLast + 1 - x.bodyFirst)).map (x.bodyFirst + ·)

/-- Whether every body node of a WHILE node is final (R103). -/
def Graph.bodyFinal (x : Graph) (w : GraphNode) : Bool := w.bodyNodes.all fun b => (x.node b).phase.final

/-- The steps by which WHILE nodes leave LOOPING once their back edge has come and, but for ERROR, their body is final. -/
def State.checkLoops (s : State) (g : Nat) : State :=
  match s.graph g with
  | none => s
  | some x => x.nodes.foldl (fun s e =>
      if e.2.kind = kindWhile ∧ e.2.phase = .looping then
        match e.2.back with
        | some (m, _) => if m = .error ∨ x.bodyFinal e.2 then s.soon { i := .whileBackEdge, a := g, b := e.1 } else s
        | none => s
      else s) s

/-! ### The end of a graph -/

/-- Whether nothing of a graph can run any more: no node is READY, DISPATCHING, RUNNING or LOOPING, and a WAITING node stands in
the body of a WHILE node that is final. -/
def Graph.ended (x : Graph) : Bool :=
  (upTo x.count).all fun n =>
    let y := x.node n
    y.phase.final || (y.phase == .waiting && x.nodes.any fun e =>
      e.2.kind == kindWhile && e.2.phase.final && decide (e.2.bodyFirst ≤ n) && decide (n ≤ e.2.bodyLast))

/-- Whether a node of the graph failed or was cancelled, by the phases that stand when the graph ends: a body node that failed in an
earlier iteration and was then reset counts no more (R97, R103). DESIGN CHOICE, log entry 95. -/
def Graph.hasErrors (x : Graph) : Bool := x.nodes.any fun e => e.2.phase == .failed || e.2.phase == .cancelled

/-- Write a graph status word, a release write of scope `sys` (R97). -/
def State.writeGraphStatus (s : State) (x : Graph) (state : Nat) : State :=
  s.releaseMem x.status 8 (state + x.firstFailed.getD 0 % 2 ^ 16 * 2 ^ 16 + (if state = 1 ∨ state = 2 then 0 else 2 ^ 63)) x.sig

/-- Forget the graph; its queue entry is returned in the next cycle (R96). -/
def State.dropGraph (s : State) (g : Nat) : State :=
  (s.setGraph g none).modWalker fun w => { w with returning := w.returning + 1 }

/-- End the graph once no mark of it is on its way and nothing of it can run (R96, R97). -/
def State.checkGraph (s : State) (g : Nat) : State :=
  match s.graph g with
  | some x =>
    if x.accepted ∧ (s.walker.sent.all fun e => e.graph != g) ∧ x.ended then
      (s.writeGraphStatus x (if x.hasErrors then 3 else 2)).dropGraph g
    else s
  | none => s

/-! ### Completion (R100, R101) -/

/-- A node enters a final state: its status word, the failure it records, and the marks it sends (R100, R101, R104). -/
def State.endNode (s : State) (g n : Nat) (phase : NodePhase) (cause origin : Nat) (sig : Sig) (marks : List (Nat × Mark)) :
    State :=
  let bad := phase = .failed ∨ phase = .cancelled
  let x := s.node g n
  let s := s.modNode g n fun y => { y with phase := phase, cause := cause, origin := origin }
  let s := s.joinGraph g sig
  let s := if x.nstatus = 0 then s
    else (s.releaseMem x.nstatus 8 (phase.code + cause * 2 ^ 8 + (if bad then origin % 2 ^ 16 * 2 ^ 16 + 2 ^ 63 else 0))
      (s.graphSig g)).joinGraph g (sigAdd 0 x.nstatus)
  let s := if phase = .failed then
      (match s.graph g with
        | some y => s.setGraph g (some { y with firstFailed := some (y.firstFailed.getD n) })
        | none => s).modWalker fun w => { w with frozen := true }
    else s
  ((s.sendMarks g n marks origin sig).checkLoops g).checkGraph g

/-- The end of a cycle: the marks sent in it are applied, those of one node by ascending sender (R100), and the queue entries of graphs
that have ended are returned (R96). -/
def State.settleWalker (s : State) : State :=
  let l := s.walker.sent.foldl (fun acc x => insertMark x acc) []
  let s := s.modWalker fun w => { w with sent := [], credits := w.credits + w.returning, returning := 0 }
  let s := l.foldl (fun s x => s.applyMark x.graph x.sender x.node x.mark x.origin x.sig) s
  (l.map (·.graph)).eraseDups.foldl (fun s g => (s.checkLoops g).checkGraph g) s

/-- The successors that receive a completing node's marks: a WHILE node's own go to SUCC[4..7] (R103), those of one that ends FAILED by
LOOP_LIMIT or BAD_RECORD too. DESIGN CHOICE, log entry 101. -/
def GraphNode.outs (x : GraphNode) : List Nat := if x.kind = kindWhile then x.succ.drop 4 else x.succ

/-- A node ends DONE and sends RUN, with the signature of R210. -/
def State.nodeDone (s : State) (g n : Nat) (sig : Sig) : State :=
  s.endNode g n .done 0 n sig ((s.node g n).outs.map fun k => (k, Mark.run))

/-- A node ends FAILED and sends ERROR, with a signature (R210, R277). -/
def State.nodeFailedWith (s : State) (g n cause : Nat) (sig : Sig) : State :=
  s.endNode g n .failed cause n sig ((s.node g n).outs.map fun k => (k, Mark.error))

def State.nodeFailed (s : State) (g n cause : Nat) : State := s.nodeFailedWith g n cause 0

/-- A node's TIMEOUT, counted from its first entry to RUNNING (R104); a microsecond is 2500 core cycles. -/
def State.startTimeout (s : State) (g n : Nat) : State :=
  let x := s.node g n
  let s := s.modNode g n fun y => { y with started := true }
  if x.timeout = 0 ∨ x.started then s else s.later (2500 * x.timeout) { i := .nodeTimeout, a := g, b := n, c := x.seq }

/-- A node enters RUNNING. -/
def State.runNode (s : State) (g n : Nat) : State := (s.modNode g n fun y => { y with phase := .running }).startTimeout g n

/-! ### Submission (R95, R96) -/

/-- One more rejected submission, saturating (R95). -/
def State.countRejected (s : State) : State := s.modWalker fun w => { w with rejected := min 255 (w.rejected + 1) }

def execSubmit (s : State) : Out :=
  let addr := s.arg.v.toNat
  if s.walker.credits = 0 ∨ s.walker.frozen ∨ addr % 64 ≠ 0 ∨ s.mc.stage ≠ 2 then .next s.countRejected
  else
    let id := s.walker.nextId
    .next (((s.setGraph id (some { addr := addr })).modWalker fun w =>
      { w with credits := w.credits - 1, nextId := id + 1 }).laterOpen { i := .graphValidation, a := id })

/-- ERR_ACK stands in the SUBMIT window, usable in stage 2 (R95, R380). -/
def execErrAck (s : State) : Out :=
  .next (if s.arg.v.getLsbD 0 ∧ s.mc.stage = 2 then s.modWalker fun w => { w with frozen := false, rejected := 0 } else s)

/-! ### Validation (R97 to R99, R103) -/

/-- A node record's 64 bytes (R98). -/
def nodeOf (x : Nat) : GraphNode :=
  { kind := bits x 3 0, deps := bits x 31 16, timeout := bits x 63 32, body := bits x 127 64, cond := bits x 191 128
    nstatus := bits x 255 192, succ := (upTo 8).map fun i => bits x (271 + 16 * i) (256 + 16 * i)
    bodyFirst := bits x 399 384, bodyLast := bits x 415 400, maxIter := bits x 447 416, left := bits x 31 16 }

/-- The fields of a record that R98 reserves are zero, and its kind is assigned. -/
def nodeFieldsOk (x : Nat) : Bool :=
  let k := bits x 3 0
  bits x 15 4 == 0 && bits x 511 448 == 0 && decide (1 ≤ k) && decide (k ≤ 8) &&
    (k == 6 || k == 7 || bits x 191 128 == 0) && ((k != 6 && k != 7 && k != 8) || bits x 127 64 == 0) &&
    (k == 7 || bits x 447 384 == 0)

/-- Every edge of a graph: from, to. -/
def edgesOf (ns : List GraphNode) : List (Nat × Nat) :=
  (indexed ns).flatMap fun e => (e.2.succ.filter fun k => k != 0xFFFF).map fun k => (e.1, k)

/-- Whether an edge is a WHILE node's back edge (R99). -/
def isBackEdge (ns : List GraphNode) (e : Nat × Nat) : Bool :=
  match ns[e.2]? with
  | some w => w.kind == kindWhile && w.bodyLast == e.1
  | none => false

/-- The shape rules of a WHILE node at index `i` (R103). A body that is empty, or holds the node itself, breaks them. DESIGN CHOICE, log
entry 96. -/
def whileOk (ns : List GraphNode) (i : Nat) (w : GraphNode) : Bool :=
  let inside (k : Nat) : Bool := decide (w.bodyFirst ≤ k) && decide (k ≤ w.bodyLast)
  decide (w.bodyFirst ≤ w.bodyLast) && decide (w.bodyLast < ns.length) && !inside i && decide (1 ≤ w.maxIter) &&
    ((w.succ.take 4).all fun k => k == 0xFFFF || inside k) && ((w.succ.drop 4).all fun k => k == 0xFFFF || !inside k) &&
    (match ns[w.bodyLast]? with
      | some l => l.succ.contains i
      | none => false) &&
    ((edgesOf ns).all fun e => inside e.1 == inside e.2 || (e.1 == i && inside e.2) || (e.1 == w.bodyLast && e.2 == i))

/-- Whether a graph's nodes pass R99. -/
def nodesOk (ns : List GraphNode) : Bool :=
  (indexed ns).all fun e =>
    (e.2.succ.all fun k => k == 0xFFFF || decide (k < ns.length)) &&
      e.2.deps == ((edgesOf ns).filter fun d => d.2 == e.1 && !isBackEdge ns d).length &&
      (e.2.kind != kindCond || e.2.succ.any fun k => k != 0xFFFF) && (e.2.kind != kindWhile || whileOk ns e.1 e.2) &&
      (e.2.nstatus == 0 || statusOk e.2.nstatus)

/-- The node records of a graph, `none` where one is unreadable or breaks R98. -/
def State.readNodes (s : State) (table : Nat) : Nat → Option (List GraphNode)
  | 0 => some []
  | n + 1 =>
    match s.readNodes table n, s.walkerRead (table + 64 * n) 64 with
    | some l, some x => if nodeFieldsOk x then some (l ++ [nodeOf x]) else none
    | _, _ => none

/-- Reject a graph through its status word (R99). -/
def State.rejectGraph (s : State) (g : Nat) (x : Graph) : State := (s.writeGraphStatus x 4).dropGraph g

/-- Accept a graph: it is journalled, its status word reads ACCEPTED, and nodes without dependences are READY (R96, R100). -/
def State.acceptGraph (s : State) (g : Nat) (x : Graph) : State :=
  let s := (s.setGraph g (some x)).writeGraphStatus x 1
  (upTo x.count).foldl (fun s n => if (x.node n).deps = 0 then s.makeReady g n else s) s

def execGraphValidation (s : State) : Out :=
  let g := s.arg.a
  let table := (s.graph g).bind fun x => (s.walkerRead x.addr 32).map fun d => (x.addr, bits d 63 0, bits d 95 64)
  withWalker s (match table with
    | some (a, t, n) => [(a, 32), (t, 64 * min n 65535)]
    | none => ((s.graph g).map fun x => (x.addr, 32)).toList) fun s =>
  match s.graph g with
  | none => .next s
  | some x =>
    match s.walkerRead x.addr 32 with
    | none => .next ((s.dropGraph g).countRejected)
    | some d =>
      let table := bits d 63 0
      let count := bits d 95 64
      let x := { x with count := count, status := bits d 191 128 }
      if !statusOk x.status then .next ((s.dropGraph g).countRejected)
      else if table % 64 ≠ 0 ∨ count = 0 ∨ 65535 < count ∨ bits d 127 96 ≠ 0 ∨ bits d 255 192 ≠ 0 then
        .next (s.rejectGraph g x)
      else match s.readNodes table count with
        | none => .next (s.rejectGraph g x)
        | some ns =>
          if nodesOk ns then
            .next (s.acceptGraph g { x with accepted := true, nodes := indexed ns })
          else .next (s.rejectGraph g x)

/-! ### COND and WHILE (R102, R103) -/

/-- The n32 condition word of a node. -/
def State.condWord (s : State) (x : GraphNode) : Option Nat := s.walkerRead x.cond 4

/-- The walker's acquires of scope `pkg`, of some virtual ranges for a graph (R102, R103, R105, R107). -/
def State.acquireFor (s : State) (g : Nat) (l : List (Nat × Nat)) : State :=
  (l.flatMap fun r => pagesOf r.1 r.2).foldl (fun s p => match s.walkerPa p.1 false with
    | some (pa, _) =>
      s.joinGraph g ((upTo ((pa + p.2 - 1) / 128 + 1 - pa / 128)).foldl (fun h i => h ||| s.recordOfMem (128 * (pa / 128 + i))) 0)
    | none => s) s

def execCondNode (s : State) : Out :=
  let g := s.arg.a
  let n := s.arg.b
  let x := s.node g n
  if x.phase ≠ .running then .next s
  else withWalker s [(x.cond, 4)] fun s => match s.condWord x with
    | none => .next (s.nodeFailed g n causeBadRecord)
    | some v =>
      .next ((s.acquireFor g [(x.cond, 4)]).endNode g n .done 0 n 0 ((indexed x.succ).map fun e => (e.2, if e.1 = min v 7 then Mark.run else Mark.skip)))

/-- Reset a body node for an iteration (R103): its TIMEOUT is measured anew. DESIGN CHOICE, log entry 102. -/
def GraphNode.rearm (x : GraphNode) : GraphNode :=
  { x with left := x.deps, marks := [], sig := 0, phase := .waiting, cause := 0, origin := 0, iter := 0, back := none
           started := false, launch := none }

def execWhileNode (s : State) : Out :=
  let g := s.arg.a
  let n := s.arg.b
  let x := s.node g n
  if x.phase ≠ .running then .next s
  else withWalker s [(x.cond, 4)] fun s => match s.condWord x with
    | none => .next (s.nodeFailed g n causeBadRecord)
    | some 0 => .next ((s.acquireFor g [(x.cond, 4)]).nodeDone g n 0)
    | some _ =>
      let s := s.acquireFor g [(x.cond, 4)]
      if x.maxIter ≤ x.iter then .next (s.nodeFailed g n causeLoopLimit)
      else
        let s := x.bodyNodes.foldl (fun s b => s.modNode g b GraphNode.rearm) s
        let s := s.modNode g n fun y => { y with phase := .looping, iter := y.iter + 1, back := none }
        .next (s.sendMarks g n ((x.succ.take 4).map fun k => (k, Mark.run)) n 0)

def execWhileBackEdge (s : State) : Out :=
  let g := s.arg.a
  let n := s.arg.b
  match s.graph g with
  | none => .next s
  | some x =>
    let w := x.node n
    match w.phase, w.back with
    | .looping, some (.error, origin) =>
      .next (s.endNode g n .cancelled causeInherited origin 0 (w.outs.map fun k => (k, Mark.error)))
    | .looping, some _ =>
      if x.bodyFinal w then
        .next ((s.modNode g n fun y => { y with phase := .running, back := none }).laterOpen { i := .whileNode, a := g, b := n })
      else .next s
    | _, _ => .next s

end Sys2Proof.Machine
end

