-- ==== Sys2Proof/Machine/Bxe.lean ====
section
/-!
DEFINITION. The block-transfer engine: aperture stores (R262 to R264), templates and tensors (R265 to R270), taking and
scheduling (R271 to R273), completion and errors (R274, R275) and COPY nodes (R277). The payload of a copy is read and then written
whole, in one step after its last chunk has started. DESIGN CHOICE, log entry 93.
-/
namespace Sys2Proof.Machine

/-- The walker's channel, and the COPY nodes that wait for room in it (R277). -/
def walkerChannel : Nat := 16
def walkerOverflow : Nat := 17

/-- Kinds of failure (R275). -/
def kindBadRequest : Nat := 1
def kindBadTemplate : Nat := 2
def kindTranslation : Nat := 3
def kindProtection : Nat := 4
def kindRing : Nat := 5
def kindWindow : Nat := 6
def kindData : Nat := 7
def kindTimeout : Nat := 8
def kindRemote : Nat := 9

def State.bxe (s : State) (k : Nat) : Bxe := (s.cluster k).bxe
def State.modBxe (s : State) (k : Nat) (f : Bxe → Bxe) : State := s.modCluster k fun c => { c with bxe := f c.bxe }

def Bxe.channel (b : Bxe) (c : Nat) : List CopyReq := Store.get [] b.channels c
def Bxe.setChannel (b : Bxe) (c : Nat) (l : List CopyReq) : Bxe := { b with channels := Store.set [] b.channels c l }
def Bxe.cls (b : Bxe) (c : Nat) : List Copy := Store.get [] b.classes c
def Bxe.setCls (b : Bxe) (c : Nat) (l : List Copy) : Bxe := { b with classes := Store.set [] b.classes c l }

/-! ### Starting a copy (R262 to R264) -/

/-- A copy enters a channel; the head of a channel is offered for taking. -/
def State.enqueueCopy (s : State) (k ch : Nat) (r : CopyReq) : State :=
  let old := (s.bxe k).channel ch
  let id := (s.bxe k).count
  let s := s.modBxe k fun b => { b.setChannel ch (old ++ [{ r with id := id }]) with count := id + 1 }
  if old.isEmpty ∧ ch ≤ walkerChannel then s.laterOpen { i := .copyTake, a := k, b := ch } else s

/-- The cluster whose aperture an address lies in. -/
def apertureOf (pa : Nat) : Option Nat := match region pa with
  | .aperture k => some k
  | _ => none

/-- Whether a store has to wait for room in an aperture channel (R264); one that is refused does not (R262). -/
def State.apertureFull (s : State) (pa : Nat) : Bool :=
  match apertureOf pa with
  | some k => clusterOf s.coreId == k && decide (8 ≤ ((s.bxe k).channel (bits pa 15 12)).length)
  | none => false

/-- A store reaches a BXE aperture: refused for another cluster, otherwise a release at scope `cluster` that starts a copy (R262,
R264). -/
def State.apertureEnter (s : State) (va k pa : Nat) (x : Word) : State :=
  if clusterOf s.coreId ≠ k then s.errorLogHere 3 va
  else
    (s.release s.coreId 2).enqueueCopy k (bits pa 15 12) ⟨0, some s.cur.ctx, s.ctx.csr.gen, s.ctx.launch, none, s.ctx.priv, x, 0, 0⟩

/-- A store of which some part lies in an aperture. Of one that crosses a page, each part in an aperture frame starts a copy with the whole
register's word, and any other part is stored: DESIGN CHOICE, log entry 91. -/
def apertureStore (s : State) (va : Nat) (l : List Piece) (x : Word) : Out :=
  let rest := l.filter fun p => (apertureOf p.pa).isNone
  let mine : Bool := l.any fun p => apertureOf p.pa == some (clusterOf s.coreId)
  let go : Out := withLines s rest fun s =>
    if s.windowWaits true rest then .next s.hold
    else .next (l.foldl (fun s p => match apertureOf p.pa with
      | some k => s.apertureEnter va k p.pa x
      | none => s.writePiece va p (x.toNat / 2 ^ (8 * p.before))) s).noteSender
  if l.any fun p => s.apertureFull p.pa then .next s.hold
  else if mine then withAcked s 2 go else go

def execStg (d a : BitVec 6) (o : BitVec 10) (z : BitVec 3) (s : State) : Out :=
  let n := sizeBytes z
  let ea := s.effective a (s.signedField o) n
  let r : AccessRule := { kind := .store, size3 := z == 3, plain := true }
  match s.xlate ea n r with
  | .ok l =>
    if l.any fun p => (apertureOf p.pa).isSome then apertureStore s ea l (s.rS d) else globalStore s ea n r (s.rS d).toNat
  | _ => globalStore s ea n r (s.rS d).toNat

/-! ### Addresses (R265, R268, R273) -/

/-- What stops an access of the BXE: the kind that fails its copy, a bank or a line that it waits for, or DRAM at an address. -/
inductive CopyStop where
  | kind (e : Nat)
  | bank
  | dram (pa n : Nat)
deriving DecidableEq, Repr

/-- A step of the BXE that has to wait: an access to DRAM queues, and the sequencer takes the step up again (R315); any other is tried again
after a free delay. -/
def State.waitCopy (s : State) (w : CopyStop) : State :=
  match w with
  | .dram pa n => s.dramJoin (.step s.arg) pa n
  | _ => (s.dramLeave (.step s.arg)).laterOpen s.arg

/-- The leaf that a TLB above the BXE of cluster `k` holds for an address. -/
def State.copyTlb (s : State) (k va : Nat) : Option Nat :=
  match tlbLookup (s.cluster k).tlb (pageOf va) with
  | some w => some w
  | none => tlbLookup (s.die (k / 3)).tlb (pageOf va)

/-- Translate an address for a copy, with the rights of its mode: the physical address, or the kind that fails it; WINDOW is one of its
payload alone (R273, R275). -/
def State.copyXlate (s : State) (k va : Nat) (a : Access) (priv payload : Bool) : Except Nat Nat :=
  if !canonical va then .error kindTranslation
  else
    let leaf := match s.copyTlb k va with
      | some w => WalkState.leaf w
      | none => s.walk (k / 3) va
    match leaf with
    | .leaf w =>
      let pa := leafFrame w + va % leafBytes w
      if !frameOk w then .error kindTranslation
      else match protection w pa a priv false true (k * 64) with
        | none => .ok pa
        | some x => .error (if payload && x == pWindow then kindWindow else kindProtection)
    | _ => .error kindTranslation

/-- What translating an address reads at the memory side. -/
def State.copyWalks (s : State) (k va : Nat) : List (Nat × Nat) :=
  if !canonical va || (s.copyTlb k va).isSome then [] else s.walkReads (k / 3) va

/-- Whether the L2 of a die holds every sector of a line. -/
def State.lineInL2 (s : State) (die line : Nat) : Bool := (s.l2Line die line).have_ == 15

/-- One byte as a copy reads it: module memory at the die L2 of the BXE, the rest at home (R273). It waits at a CHANGING bank, and at a line
that an engine writes (R172, R253); what its DRAM makes it wait for is tested for the whole access. -/
def State.copyByte (s : State) (k pa : Nat) (payload : Bool) : Except CopyStop (Nat × State) :=
  let l2 : Except CopyStop (Nat × State) :=
    let (v, s) := s.l2Read (k / 3) (pa / 128) (pa % 128) 1
    if s.poison.contains (.l2 (k / 3) (pa / 32)) then .error (.kind kindData) else .ok (v, s)
  match region pa with
  | .window c =>
    let a := pa % 2 ^ 19
    if (s.core c).isChanging s.now (a / 2 ^ 14) || (s.core c).lineHeld s.now (a / 128) false false then .error .bank
    else if !s.windowOk c a then .error (.kind (if payload then kindWindow else kindProtection))
    else if s.poison.contains (.loc c (a / 32)) then .error (.kind kindData)
    else .ok (s.windowRead c a 1, s)
  | .hbm => l2
  | .side => if s.sideServes pa then l2 else .error (.kind kindProtection)
  | .sync _ => .ok (s.syncRead pa 1, s)
  | .remote p => if s.reachable p then .ok ((s.memByte pa).toNat, s) else .error (.kind kindRemote)
  | _ => .ok ((s.memByte pa).toNat, s)

/-- Read `n` bytes of virtual memory for a copy, of its template or a tensor descriptor. -/
def State.copyBytes (s : State) (k : Nat) (priv : Bool) : Nat → Nat → Except CopyStop (Nat × State)
  | _, 0 => .ok (0, s)
  | va, n + 1 =>
    match s.copyXlate k va .vload priv false with
    | .error e => .error (.kind e)
    | .ok pa =>
      match s.copyByte k pa false with
      | .error e => .error e
      | .ok (v, s) =>
        match s.copyBytes k priv ((va + 1) % 2 ^ 64) n with
        | .error e => .error e
        | .ok (x, s) => .ok (v + 256 * x, s)

/-- The accesses at memory that reading a range makes: of the tables, and of what the L2 does not hold. -/
def State.copyAccesses (s : State) (k va n : Nat) (priv : Bool) : List (Nat × Nat) :=
  (pagesOf va n).flatMap fun p => s.copyWalks k p.1 ++ (match s.copyXlate k p.1 .vload priv false with
    | .ok pa => if (lineSpans pa p.2).all fun x => s.lineInL2 (k / 3) x.1 then [] else [(pa, p.2)]
    | .error _ => [])

/-- Such a read, or what it waits for. -/
def State.copyRead (s : State) (k : Nat) (priv : Bool) (va n : Nat) : Except CopyStop (Nat × State) :=
  match s.firstWaiting (.step s.arg) [] (s.copyAccesses k va n priv) with
  | some x => .error (.dram x.1 x.2)
  | none => s.copyBytes k priv va n

/-! ### Templates (R265 to R270) -/

/-- The address of a copy's template (R265). -/
def State.templateVa (s : State) (k : Nat) (r : CopyReq) : Nat :=
  let base := (s.mgmtReg (0x500 + 0x20 * k)).toNat
  base - base % 4096 + 128 * (r.word.toNat % 256)

/-- ITER, CLASS and SLOT of a request word; a COPY node's CLASS is its template's, the others are zero (R263, R277). -/
def CopyReq.iter (r : CopyReq) : Nat := if r.node.isSome then 0 else r.word.toNat / 2 ^ 32
def CopyReq.cls (r : CopyReq) : Nat := if r.node.isSome then bits r.image 9 8 else bits r.word.toNat 9 8
def CopyReq.slot (r : CopyReq) : Nat := if r.node.isSome then 0 else bits r.word.toNat 23 16

/-- Whether a request word's reserved fields are zero (R263). -/
def CopyReq.legal (r : CopyReq) : Bool := bits r.word.toNat 31 24 == 0 && bits r.word.toNat 15 10 == 0

/-- One side as the template gives it: mode, address, AUX, STEP. -/
def sideOf (mode addr aux step : Nat) : CopySide := ⟨mode, addr, aux, step, 0, 0, 0, 0, 0, 0⟩

/-- Read a tensor side's descriptor (R267). -/
def State.readTensor (s : State) (k : Nat) (priv : Bool) (d : CopySide) : Except CopyStop (CopySide × State) :=
  if d.mode ≠ 1 then .ok (d, s)
  else if d.addr % 32 ≠ 0 then .error (.kind kindBadTemplate)
  else match s.copyRead k priv d.addr 32 with
    | .error e => .error e
    | .ok (x, s) =>
      let t := { d with
        base := bits x 63 0, rows := bits x 95 64, cols := bits x 127 96, elemLog2 := bits x 135 128
        trLog2 := bits x 143 136, tcLog2 := bits x 151 144 }
      if 3 < t.elemLog2 ∨ 6 < t.trLog2 ∨ 6 < t.tcLog2 ∨ bits x 255 152 ≠ 0 then .error (.kind kindBadTemplate)
      else .ok (t, s)

/-- Whether a template's own fields pass R266 and R270. -/
def templateOk (x : Nat) : Bool :=
  let rows := bits x 47 32
  let rowBytes := bits x 95 64
  bits x 7 4 == 0 && decide (bits x 1 0 ≤ 1) && decide (bits x 3 2 ≤ 2) && bits x 15 10 == 0 &&
    bits x 31 29 == 0 && bits x 63 48 == 0 && decide (1 ≤ rows) && decide (1 ≤ rowBytes) && decide (rowBytes ≤ 2 ^ 24) &&
    decide (rows * rowBytes ≤ 2 ^ 32) && !bit x 639 && bits x 1023 640 == 0 &&
    (bits x 3 2 != 2 || (bits x 383 320 == 0 && bits x 511 448 == 0))

/-- Whether tensor sides agree with each other and with ROW_BYTES (R270). -/
def tensorsOk (c : Copy) : Bool :=
  let fits (d : CopySide) : Bool := d.mode != 1 || c.rowBytes % 2 ^ d.elemLog2 == 0
  fits c.src && fits c.dst && !(c.src.mode == 1 && c.dst.mode == 1 && c.src.elemLog2 != c.dst.elemLog2)

/-- A copy of a request with nothing read yet. -/
def blankCopy (r : CopyReq) (ch : Nat) : Copy :=
  ⟨r, ch, r.cls, 0, 0, 0, sideOf 0 0 0 0, sideOf 0 0 0 0, none, 0, 0, 0, 0, none, false, false⟩

/-- The fields of a template's 1024 bits (R266). -/
def templateCopy (r : CopyReq) (ch : Nat) (x : Nat) : Copy :=
  { blankCopy r ch with
    rows := bits x 47 32, rowBytes := bits x 95 64, pad := bits x 127 96
    src := sideOf (bits x 1 0) (bits x 191 128) (bits x 255 192) (bits x 447 384)
    dst := sideOf (bits x 3 2) (bits x 319 256) (bits x 383 320) (bits x 511 448)
    ring := if bits x 3 2 = 2 then some (bits x 28 24, 0) else none
    comp := bits x 575 512, compValue := bits x 639 576 }

/-- The address of a copy's completion word (R274). -/
def Copy.compVa (c : Copy) : Nat := (c.comp + 8 * c.req.slot) % 2 ^ 64

/-- A copy's template: a COPY node's as it was read when the node ran (R277), any other as it stands (R271). -/
def State.readTemplate (s : State) (k : Nat) (r : CopyReq) : Except CopyStop (Nat × State) :=
  match r.node with
  | some _ => .ok (r.image, s)
  | none => s.copyRead k r.priv (s.templateVa k r) 128

/-- A parsed copy, with the kind that fails it if any; or what it waits for. -/
def Copy.failedBy (c : Copy) (e : CopyStop) (s : State) : Except CopyStop (Copy × State) :=
  match e with
  | .kind e => .ok ({ c with err := some e }, s)
  | w => .error w

/-- The completion word's address as the take checks it (R274): a copy without it writes no word. -/
def State.checkWord (s : State) (k : Nat) (c : Copy) : Except CopyStop (Copy × State) :=
  if c.comp = 0 then .ok (c, s)
  else match s.firstWaiting (.step s.arg) [] (s.copyWalks k c.compVa) with
    | some x => .error (.dram x.1 x.2)
    | none => match s.copyXlate k c.compVa .store c.req.priv false with
      | .ok _ => .ok (c, s)
      | .error e => .ok ({ c with comp := 0, err := some e }, s)

/-- Read and check everything a take reads: the copy as it stands, or what it waits for (R263, R270, R274). The request word is checked
first, then the template, its tensors, and the completion word. DEDUCED, log entry 47. -/
def State.parseCopy (s : State) (k ch : Nat) (r : CopyReq) : Except CopyStop (Copy × State) :=
  match s.readTemplate k r with
  | .error e => (blankCopy r ch).failedBy (if r.legal ∨ e = .bank then e else match e with
      | .kind _ => .kind kindBadRequest
      | w => w) s
  | .ok (x, s) =>
    let c := templateCopy r ch x
    if !r.legal then c.failedBy (.kind kindBadRequest) s
    else if !templateOk x ∨ c.comp % 8 ≠ 0 then c.failedBy (.kind kindBadTemplate) s
    else match s.readTensor k r.priv c.src with
      | .error e => c.failedBy e s
      | .ok (src, s) =>
        match s.readTensor k r.priv c.dst with
        | .error e => ({ c with src := src } : Copy).failedBy e s
        | .ok (dst, s) =>
          let c := { c with src := src, dst := dst }
          if !tensorsOk c then c.failedBy (.kind kindBadTemplate) s else s.checkWord k c

/-! ### Reporting a failure (R275, R360, R362) -/

/-- TRAP_INFO[63:16] of a copy error (R357). -/
def copyErrorInfo (kind ch template : Nat) : Word :=
  BitVec.ofNat 64 (kind % 256 * 2 ^ 48 + ch % 16 * 2 ^ 24 + template % 256 * 2 ^ 16)

def State.launch (s : State) (l : Nat) : Option Launch := Store.get none s.walker.launches l

def State.setLaunch (s : State) (l : Nat) (x : Option Launch) : State :=
  s.modWalker fun w => { w with launches := Store.set none w.launches l x }

def State.modLaunch (s : State) (l : Nat) (f : Launch → Launch) : State :=
  match s.launch l with
  | some x => s.setLaunch l (some (f x))
  | none => s

/-- The walker looks whether a launch has ended. -/
def State.checkLaunch (s : State) (l : Option Nat) : State :=
  match l.bind s.launch with
  | some x => s.soon { i := .launchComplete, a := x.graph, b := x.node }
  | none => s

/-- The launch that created a context of a generation, whether or not the context still stands (R108). -/
def State.launchOf (s : State) (x gen : Nat) : Option Nat :=
  (s.walker.launches.find? fun e => e.2.any fun y => y.gens.contains (x, gen)).map (·.1)

/-- A launch will end FAILED with a cause; the first one stands. -/
def State.failLaunch (s : State) (l : Option Nat) (cause : Nat) : State :=
  match l with
  | none => s
  | some i => match Store.get none s.walker.launches i with
    | none => s
    | some x => s.modWalker fun w =>
        { w with launches := Store.set none w.launches i (some { x with failCause := some (x.failCause.getD cause) }) }

/-- Report a copy that failed to its context, or to the error log of a context that is not ACTIVE any more. -/
def State.reportCopy (s : State) (c : Copy) (kind : Nat) : State :=
  match c.req.ctx with
  | none => s
  | some x =>
    let ctx := s.ctxAt x
    if ctx.phase = .active ∧ ctx.csr.gen = c.req.gen then
      match ctx.flow.copyError with
      | none => s.modCtxAt x fun y => { y with flow := { y.flow with
          copyError := some (copyErrorInfo kind c.channel (c.req.word.toNat % 256)) } }
      | some _ =>
        (s.errorLog x 7 c.req.gen.toNat c.req.word.toNat).modCtxAt x fun y =>
          { y with flow := { y.flow with copyMore := true } }
    else (s.errorLog x 7 c.req.gen.toNat c.req.word.toNat).failLaunch c.req.launch causeCopyError

/-! ### Taking (R269, R271) -/

/-- A fill copy that has performed its payload, or failed, counts in its ring (R237, R269, R275). -/
def State.countFill (s : State) (k : Nat) (c : Copy) : State :=
  match c.ring with
  | some (i, x) => match (s.cluster k).ring i with
    | some r => s.modCluster k fun y => y.setRing i (some (r.fillDone x))
    | none => s
  | none => s

/-- The chunks of a copy have all started: its payload and its completion follow (R272, R274). -/
def State.endChunks (s : State) (k : Nat) (c : Copy) : State :=
  (s.modBxe k fun b => { b with ending := b.ending ++ [c] }).laterOpen { i := .copyComplete, a := k, b := c.req.id }

/-- A copy fails before any of its payload is performed: the completion follows (R275). -/
def State.failPayload (s : State) (k : Nat) (c : Copy) : State := (s.countFill k c).endChunks k { c with moved := true }

/-- Arm the step that starts the next chunk. -/
def State.armChunk (s : State) (k : Nat) : State :=
  let b := s.bxe k
  if b.armed ∨ b.classes.isEmpty then s
  else (s.modBxe k fun b => { b with armed := true }).later (max 1 (b.nextStart - s.now)) { i := .chunkStart, a := k }

/-- Whether a ring is frozen by a parked launch (R364). -/
def State.ringFrozen (s : State) (r : Ring) : Bool :=
  match r.launch with
  | some l => ((Store.get none s.walker.launches l).map fun x => x.frozen).getD false
  | none => false

/-- COPY nodes that wait for room enter the walker's channel while it has some (R277). -/
def Bxe.admitWalker (b : Bxe) : Bxe :=
  let n := 8 - (b.channel walkerChannel).length
  (b.setChannel walkerChannel (b.channel walkerChannel ++ (b.channel walkerOverflow).take n)).setChannel walkerOverflow
    ((b.channel walkerOverflow).drop n)

/-- The head of a channel leaves it; a COPY node that waits for room enters, and the next head is offered. -/
def State.popChannel (s : State) (k ch : Nat) : State :=
  let s := s.modBxe k fun b => b.setChannel ch ((b.channel ch).drop 1)
  let s := if ch = walkerChannel then s.modBxe k Bxe.admitWalker else s
  if ((s.bxe k).channel ch).isEmpty then s else s.laterOpen { i := .copyTake, a := k, b := ch }

/-- What a take makes of a parsed copy: `none` while it must wait, otherwise the copy and the cluster's rings. A fill copy that fails for
another reason than its ring's state or its F is given its use (R269, R271, R275). -/
def State.placeCopy (s : State) (k : Nat) (c : Copy) : Option (Copy × State) :=
  match c.ring with
  | none => some (c, s)
  | some (i, _) =>
    let noRing : Copy := { c with ring := none, err := some (c.err.getD kindRing) }
    match (s.cluster k).ring i with
    | none => some (noRing, s)
    | some r =>
      if r.fills = 0 then some (noRing, s)
      else if s.ringFrozen r then none
      else match r.takeFill with
        | none => none
        | some (x, r) =>
          let past : Bool := decide (2 ^ r.stageLog2 < c.dst.addr + c.rows * c.rowBytes)
          some ({ c with ring := some (i, x), err := if c.err = none ∧ past then some kindRing else c.err },
            s.modCluster k fun y => y.setRing i (some r))

def execCopyTake (s : State) : Out :=
  let k := s.arg.a
  let ch := s.arg.b
  match (s.bxe k).channel ch with
  | [] => .next s
  | r :: _ =>
    if 16 ≤ ((s.bxe k).cls r.cls).length then .next (s.waitCopy .bank)
    else match s.parseCopy k ch r with
      | .error w => .next (s.waitCopy w)
      | .ok (c, s') => match s'.placeCopy k c with
        | none => .next (s.waitCopy .bank)
        | some (c, s) =>
          let s := (s.popChannel k ch).dramLeave (.step s.arg)
          .next (if c.err.isSome then s.failPayload k c
            else (s.modBxe k fun b => b.setCls c.cls (b.cls c.cls ++ [c])).armChunk k)

/-! ### Chunks (R268, R272, R273) -/

/-- A signed 32-bit field. -/
def signed32 (x : Nat) : Int := toInt 32 true (x % 2 ^ 32)

/-- The virtual address of row `r`, byte `b` of a side, `none` where it is OUTSIDE (R268). -/
def CopySide.byteVa (d : CopySide) (iter r b : Nat) : Option Nat :=
  if d.mode = 0 then
    some (word ((d.addr : Int) + iter * toInt 64 true d.step + r * toInt 64 true d.aux + b)).toNat
  else
    let e := 2 ^ d.elemLog2
    let row := signed32 d.aux + iter * signed32 d.step + r
    let col := signed32 (d.aux / 2 ^ 32) + iter * signed32 (d.step / 2 ^ 32) + (b / e : Nat)
    if row < 0 ∨ (d.rows : Int) ≤ row ∨ col < 0 ∨ (d.cols : Int) ≤ col then none
    else
      let row := row.toNat
      let col := col.toNat
      let tr := 2 ^ d.trLog2
      let tc := 2 ^ d.tcLog2
      let tpr := (d.cols + tc - 1) / tc
      let t := row / tr * tpr + col / tc
      let w := row % tr * tc + col % tc
      some ((d.base + t * (tr * tc * e) + w * e + b % e) % 2 ^ 64)

/-- The pad byte of a source byte that is OUTSIDE (R268). -/
def padByte (c : Copy) (b : Nat) : Nat :=
  (c.pad + c.pad * 2 ^ 32) / 256 ^ (b % 2 ^ c.src.elemLog2) % 256

/-- Bytes of a copy, and of its next chunk (R272). -/
def Copy.total (c : Copy) : Nat := c.rows * c.rowBytes
def Copy.chunkBytes (c : Copy) : Nat := min 2048 (c.total - 2048 * c.next)

/-- Where a destination byte goes: a physical address, or `none` for a byte that is OUTSIDE (R268, R269). -/
def State.copyDst (s : State) (k : Nat) (c : Copy) (r b : Nat) : Except Nat (Option Nat) :=
  match c.ring with
  | some (i, x) =>
    match (s.cluster k).ring i with
    | none => .error kindRing
    | some ring =>
      let a := ring.stageAt x + c.dst.addr + r * c.rowBytes + b
      .ok (some (windowBase + (k * 64 + ring.home) * 2 ^ 19 + a))
  | none =>
    match c.dst.byteVa c.req.iter r b with
    | none => .ok none
    | some va => match s.copyXlate k va .vstore c.req.priv true with
      | .error e => .error e
      | .ok pa => .ok (some pa)

/-- Whether a destination byte waits at its bank or line (R172, R253). -/
def State.dstWaits (s : State) (pa : Nat) : Bool :=
  match region pa with
  | .window c => (s.core c).isChanging s.now (pa % 2 ^ 19 / 2 ^ 14) || (s.core c).lineHeld s.now (pa % 2 ^ 19 / 128) true false
  | _ => false

/-- Why a destination byte may not be written (R273, R279, R353). -/
def State.dstRefused (s : State) (pa : Nat) : Option Nat :=
  match region pa with
  | .window c => if s.windowOk c (pa % 2 ^ 19) then none else some kindWindow
  | .side => if s.sideServes pa then none else some kindProtection
  | .remote p => if s.reachable p then none else some kindRemote
  | _ => none

/-- What stops a destination byte: it waits at a CHANGING bank before the bank can refuse it (R172). -/
def State.dstStop (s : State) (pa : Nat) : Option CopyStop :=
  if s.dstWaits pa then some .bank else (s.dstRefused pa).map .kind

/-- One byte of a payload: where it goes and what it is, or what stops it. -/
def State.payloadByte (s : State) (k : Nat) (c : Copy) (q : Nat) : Except CopyStop (Option Nat × Nat × State) :=
  let r := q / c.rowBytes
  let b := q % c.rowBytes
  let src : Except CopyStop (Nat × State) := match c.src.byteVa c.req.iter r b with
    | none => .ok (padByte c b, s)
    | some va => match s.copyXlate k va .vload c.req.priv true with
      | .error e => .error (.kind e)
      | .ok pa => s.copyByte k pa true
  match src, s.copyDst k c r b with
  | .error e, _ => .error e
  | .ok _, .error e => .error (.kind e)
  | .ok (v, s), .ok none => .ok (none, v, s)
  | .ok (v, s), .ok (some pa) =>
    match s.dstStop pa with
    | some e => .error e
    | none => .ok (some pa, v, s)

/-- The `n` bytes of a payload from byte `q` on, with their destinations. -/
def State.payloadData (s : State) (k : Nat) (c : Copy) : Nat → Nat → Except CopyStop (List (Nat × Nat) × State)
  | _, 0 => .ok ([], s)
  | q, n + 1 =>
    match s.payloadByte k c q with
    | .error e => .error e
    | .ok (d, v, s) =>
      match s.payloadData k c (q + 1) n with
      | .error e => .error e
      | .ok (l, s) => .ok ((d.map fun pa => (pa, v)).toList ++ l, s)

/-- The kind that fails a chunk as it starts, if any: that of its first byte that fails (R275). -/
def State.chunkFails (s : State) (k : Nat) (c : Copy) : Option Nat :=
  (upTo c.chunkBytes).findSome? fun i => match s.payloadByte k c (2048 * c.next + i) with
    | .error (.kind e) => some e
    | _ => none

/-- A write that covers a whole sector takes its poison away (R385); here byte by byte, once all 32 have been written. -/
def State.curePoison (s : State) (l : List (Nat × Nat)) : State :=
  if s.poison.isEmpty then s
  else { s with poison := s.poison.filter fun p => match p with
      | .mem k => !((upTo 32).all fun i => l.any fun e => home e.1 == 32 * k + i)
      | .loc core k => !((upTo 32).all fun i => l.any fun e => e.1 == windowBase + core * 2 ^ 19 + 32 * k + i)
      | _ => true }

/-- The blocks of `m` bytes of ascending runs of addresses, each once per run. -/
def blocksOf (m : Nat) : List Nat → List Nat
  | a :: b :: l => if a / m = b / m then blocksOf m (b :: l) else a / m :: blocksOf m (b :: l)
  | l => l.map (· / m)

/-- Their 128-byte lines. -/
def linesOf (l : List Nat) : List Nat := blocksOf 128 l

/-- Runs of lines as ranges of addresses: one access each (R320). -/
def runsOf : List Nat → List (Nat × Nat)
  | [] => []
  | x :: xs => match runsOf xs with
    | (pa, n) :: l => if 128 * (x + 1) = pa then (128 * x, n + 128) :: l else (128 * x, 128) :: (pa, n) :: l
    | [] => [(128 * x, 128)]

/-- A copy asks the banks that hold some local-store lines for them (R175), by cluster-window line number. -/
def State.askBanks (s : State) (k id : Nat) (ls : List Nat) : State :=
  let bs : List (Nat × Nat) := ls.filterMap fun l => match region (128 * l) with
    | .window c => some (c, 128 * l % 2 ^ 19 / 2 ^ 14)
    | _ => none
  bs.eraseDups.foldl (fun s b => s.askBank b.1 { bank := b.2, from_ := 0, left := bs.count b, copy := (k, id) }) s

/-- Whether a bank has lines of a copy still to grant (R175). -/
def State.banksOwed (s : State) (k id : Nat) : Bool :=
  s.cores.any fun e => e.2.bankReqs.any fun r => r.bxe && r.copy == (k, id)

/-- The requests to other packages that some lines of a copy make (R353). -/
def State.askLines (s : State) (o : Requester) (op : Nat) (ls : List Nat) : State :=
  ls.foldl (fun s l => s.askTo o op (128 * l) 128 (if op = reqWrite then s.memRead (128 * l) 128 else 0) 0) s

/-- The lines of the die L2 that a line of a copy's destination stands in, under both of its names (R273). -/
def viewsOf (line : Nat) : List Nat :=
  match region (128 * line) with
  | .hbm | .side => [line, otherView (128 * line) / 128].eraseDups
  | _ => []

/-- The dirty sectors of an L2 line that a copy to the home addresses of `covered` does not cover whole (R273). -/
def State.uncovered (s : State) (die : Nat) (covered : Nat → Bool) (line : Nat) : BitVec 4 :=
  let d := (s.l2Line die line).dirty
  if d = 0 then 0
  else d &&& BitVec.ofNat 4 ((upTo 4).foldr (fun k acc =>
    (if (upTo 32).all fun i => covered (home (128 * line + 32 * k + i)) then 0 else 2 ^ k) + acc) 0)

/-- Those lines of which such a sector would queue at DRAM that a run claims (R315). -/
def State.lateViews (s : State) (die : Nat) (covered : Nat → Bool) (ls : List Nat) : List Nat :=
  if s.dramIdle then [] else (ls.flatMap viewsOf).filter fun l => s.uncovered die covered l != 0 && s.lineQueues l

/-- A line of module memory leaves the L2 of a die, under both of its names (R273): what it has dirty outside the copy is written back, what
the copy covers is discarded. -/
def State.dropViews (s : State) (die : Nat) (covered : Nat → Bool) (line : Nat) : State :=
  (viewsOf line).foldl (fun s l =>
    if (s.l2Line die l).have_ = 0 then s
    else
      let s := s.l2Clean die l (s.uncovered die covered l)
      (s.setL2Line die l { s.l2Line die l with dirty := 0 }).l2Drop die l) s

/-- Write a copy's bytes: local stores through the cluster window, module memory at the memory side after the die L2's lines have
been dropped, the rest at home (R273). -/
def State.copyWrite (s : State) (k id : Nat) (covered : Nat → Bool) (l : List (Nat × Nat)) : State :=
  let ls := linesOf (l.map (·.1))
  let s := ls.foldl (fun s x => s.dropViews (k / 3) covered x) s
  ((l.foldl (fun s e => match region e.1 with
    | .window c => s.modCore c fun x => x.locWrite (e.1 % 2 ^ 19) 1 e.2
    | .sync _ => s.syncWrite e.1 1 e.2
    | _ => s.memWrite e.1 1 e.2) s).curePoison l).askLines (.copy k id) reqWrite ls

/-- The signature of the sectors of module memory among some bytes (R206, R274). -/
def sigOf (g : Sig) (l : List (Nat × Nat)) : Sig :=
  l.foldl (fun g e => match region e.1 with
    | .window _ => g
    | _ => sigAdd g e.1) g

/-- The quantum of a class in bytes (R265). -/
def State.quantum (s : State) (k c : Nat) : Nat :=
  2048 * max 1 (bits (s.mgmtReg (0x508 + 0x20 * k)).toNat (8 * c + 7) (8 * c))

/-- Go round the classes to the one whose head may start its next chunk (R272); at most two passes are needed, for a quantum
covers any chunk. -/
def Bxe.serve (quantum : Nat → Nat) : Nat → Bxe → Option Bxe
  | 0, _ => none
  | n + 1, b =>
    match b.cls b.turn with
    | [] => Bxe.serve quantum n
        { b with deficit := Store.set 0 b.deficit b.turn 0, turn := (b.turn + 1) % 4, topped := false }
    | c :: _ =>
      let b := if b.topped then b
        else { b with deficit := Store.set 0 b.deficit b.turn (Store.get 0 b.deficit b.turn + quantum b.turn), topped := true }
      if c.chunkBytes ≤ Store.get 0 b.deficit b.turn then some b
      else Bxe.serve quantum n { b with turn := (b.turn + 1) % 4, topped := false }

/-- The head of the class being served has started a chunk: its deficit falls, and it goes to the end of its class with what it
has left; a class left empty loses its deficit and its turn (R272). -/
def Bxe.started (b : Bxe) (c : Copy) (now : Nat) (more : Bool) : Bxe :=
  let left := (b.cls b.turn).drop 1 ++ if more then [{ c with next := c.next + 1 }] else []
  let b := { b.setCls b.turn left with nextStart := now + 8 }
  if left.isEmpty then { b with deficit := Store.set 0 b.deficit b.turn 0, turn := (b.turn + 1) % 4, topped := false }
  else { b with deficit := Store.set 0 b.deficit b.turn (Store.get 0 b.deficit b.turn - c.chunkBytes) }

/-- A chunk starts; after its last one the copy leaves its class (R272), and a chunk that fails is its last (R275). -/
def execChunkStart (s : State) : Out :=
  let k := s.arg.a
  let s := s.modBxe k fun b => { b with armed := false }
  match Bxe.serve (s.quantum k) 9 (s.bxe k) with
  | none => .next s
  | some b =>
    match b.cls b.turn with
    | [] => .next s
    | c :: _ =>
      let bad := s.chunkFails k c
      let more := decide (2048 * (c.next + 1) < c.total) && bad.isNone
      let s := s.modBxe k fun _ => b.started c s.now more
      let c := { c with next := c.next + 1 }
      .next ((match bad with
        | some e => s.failPayload k { c with err := some e }
        | none => if more then s else s.endChunks k c).armChunk k)

/-! ### Completion (R274, R275, R277) -/

/-- Whether an earlier copy of the channel has yet to complete (R274): one taken, or, before a copy that its TIMEOUT took out of
the channel, one still there. -/
def Bxe.earlier (b : Bxe) (c : Copy) : Bool :=
  let before (x : Copy) : Bool := x.channel == c.channel && decide (x.req.id < c.req.id)
  b.ending.any before || (b.classes.any fun e => e.2.any before) ||
    ((b.channel c.channel).any fun r => decide (r.id < c.req.id)) ||
    (c.channel == walkerChannel && (b.channel walkerOverflow).any fun r => decide (r.id < c.req.id))

/-- The value of a completion word (R274, R275). -/
def Copy.word (c : Copy) : Nat :=
  match c.err with
  | none => c.compValue
  | some e => c.compValue - bits c.compValue 55 48 * 2 ^ 48 + e * 2 ^ 48 + (if bit c.compValue 63 then 0 else 2 ^ 63)

/-- A step of a copy that goes on later, with the copy as it stands among those that end. -/
def State.keepCopy (s : State) (k : Nat) (c : Copy) : State :=
  s.modBxe k fun b => { b with ending := b.ending.map fun x => if x.req.id = c.req.id then c else x }

/-- Ask the banks of some lines, once; then go on when they have granted them (R175). -/
def withBanks (s : State) (k : Nat) (c : Copy) (ls : List Nat) (go : Copy → Except State (Copy × State)) : Except State (Copy × State) :=
  let here := ls.any fun l => match region (128 * l) with
    | .window _ => true
    | _ => false
  if here && !c.asked then .error (((s.askBanks k c.req.id ls).keepCopy k { c with asked := true }).waitCopy .bank)
  else if here && s.banksOwed k c.req.id then .error (s.waitCopy .bank)
  else go { c with asked := false }

/-- Write back the L2's lines that have to be at memory before the copy's bytes (R273, R315); then go on. -/
def withViews (s : State) (k : Nat) (covered : Nat → Bool) (ls : List Nat) (go : Except State (Copy × State)) :
    Except State (Copy × State) :=
  let late := s.lateViews (k / 3) covered ls
  if late.isEmpty then go
  else .error ((late.foldl (fun s l => s.l2Clean (k / 3) l (s.uncovered (k / 3) covered l)) s).waitCopy .bank)

/-- Write the completion word, all of it at once, as a release write that carries the copy's signature; a mapping that has changed fails the
copy (R274). The answer is the copy, or the state in which it waits. -/
def State.completionWord (s : State) (k : Nat) (c : Copy) : Except State (Copy × State) :=
  let fails (e : Nat) : Copy := { c with err := some (c.err.getD (if e = kindWindow then kindProtection else e)) }
  if c.comp = 0 then .ok (c, s)
  else match s.firstWaiting (.step s.arg) [] (s.copyWalks k c.compVa) with
  | some x => .error (s.waitCopy (.dram x.1 x.2))
  | none => match s.copyXlate k c.compVa .store c.req.priv false with
    | .error e => .ok (fails e, s)
    | .ok pa => match s.dstStop pa with
      | some (.kind e) => .ok (fails e, s)
      | some w => .error (s.waitCopy w)
      | none => withBanks s k c [pa / 128] fun c => withViews s k (fun _ => false) [pa / 128]
        (match s.firstWaiting (.step s.arg) [] [(pa, 8)] with
        | some x => .error (s.waitCopy (.dram x.1 x.2))
        | none =>
          let s := (s.dropViews (k / 3) (fun _ => false) (pa / 128)).dramTake pa 8
          match region pa with
          | .window core => .ok (c, s.locStore core (pa % 2 ^ 19) 8 c.word)
          | _ => .ok (c, (s.releasePut pa 8 c.word c.sig).askTo (.copy k c.req.id) reqWrite pa 8 c.word c.sig))

/-- The addresses of a side of a payload, in the order of its bytes. -/
def Copy.vas (c : Copy) (d : CopySide) : List Nat :=
  (upTo c.total).filterMap fun q => d.byteVa c.req.iter (q / c.rowBytes) (q % c.rowBytes)

/-- The source addresses of a payload, in the order of its bytes. -/
def State.sources (s : State) (k : Nat) (c : Copy) : List Nat :=
  (c.vas c.src).filterMap fun va => (s.copyXlate k va .vload c.req.priv true).toOption

/-- The accesses at memory that a payload makes: of the tables, of the source lines that the L2 does not hold, and of the destination. -/
def State.payloadAccesses (s : State) (k : Nat) (c : Copy) (src dst : List Nat) : List (Nat × Nat) :=
  (blocksOf (2 ^ 16) (c.vas c.src ++ if c.ring.isSome then [] else c.vas c.dst)).eraseDups.flatMap
    (fun p => s.copyWalks k (2 ^ 16 * p)) ++
  runsOf (src.filter fun l => !s.lineInL2 (k / 3) l) ++ runsOf dst

/-- Whether an address lies in host or peer memory, whose home agent may refuse the copy (R275). -/
def atHome (pa : Nat) : Bool := match region pa with
  | .host | .remote _ => true
  | _ => false

/-- The payload of a copy: every byte read, then every byte written; or the state in which it waits. A copy that fails writes none of it,
which leaves each sector with its old value (R275, R276). DESIGN CHOICE, log entry 93. -/
def State.perform (s : State) (k : Nat) (c : Copy) : Except State (Copy × State) :=
  let fail (s : State) (e : Nat) : Except State (Copy × State) := .ok ({ c with moved := true, asked := false, err := some e }, s)
  match s.payloadData k c 0 c.total with
  | .error (.kind e) => fail s e
  | .error w => .error (s.waitCopy w)
  | .ok (l, s') =>
    let from_ := s.sources k c
    let to_ := l.map (·.1)
    let src := linesOf from_
    let dst := linesOf to_
    let homes := if s.dramIdle ∧ (s.die (k / 3)).l2.isEmpty then [] else to_.map home
    let covered (a : Nat) : Bool := homes.contains a
    withViews s k covered dst
    (let all := s.payloadAccesses k c src dst
     match s.firstWaiting (.step s.arg) [] all with
     | some x => .error (s.waitCopy (.dram x.1 x.2))
     | none => withBanks s k c (src ++ dst) fun c =>
       if ((from_ ++ to_).any atHome) && Config.homeRefuses s.fresh then fail { s with fresh := s.fresh + 1 } kindRemote
       else
         let s' := (all.foldl (fun s x => s.dramTake x.1 x.2) s').askLines (.copy k c.req.id) reqRead src
         .ok ({ c with moved := true, sig := sigOf c.sig l }, { s' with fresh := s.fresh + 1 }.copyWrite k c.req.id covered l))

/-- A copy's payload is performed; when every earlier copy of its channel has completed and the ports have accepted what it sent, its word is
written, and what follows for its context, its launch or its node is done (R274, R275, R277, R353). -/
def execCopyComplete (s : State) : Out :=
  let k := s.arg.a
  match (s.bxe k).ending.find? fun c => c.req.id == s.arg.b with
  | none => .next (s.dramLeave (.step s.arg))
  | some c =>
    if !c.moved then
      match s.perform k c with
      | .error s => .next s
      | .ok (c, s) => .next ((((s.countFill k c).keepCopy k c).dramLeave (.step s.arg)).laterOpen s.arg)
    else if (s.bxe k).earlier c || s.carrying (.copy k c.req.id) then .next (s.waitCopy .bank)
    else match s.completionWord k c with
      | .error s => .next s
      | .ok (c, s) =>
        let s := (s.modBxe k fun b => { b with ending := b.ending.filter fun x => x.req.id != c.req.id }).dramLeave (.step s.arg)
        let s := match c.err with
          | some e => s.reportCopy c e
          | none => s
        match c.req.node with
        | none => .next (s.checkLaunch c.req.launch)
        | some (g, n) =>
          if (s.node g n).phase ≠ .running then .next s
          else match c.err with
            | none => .next (s.nodeDone g n c.sig)
            | some e => .next (s.nodeFailedWith g n (if e = kindTimeout then causeTimeout else causeCopyError) c.sig)

/-- A copy of which a request could not be carried fails with kind REMOTE, unless it has failed already (R275, R353). -/
def State.copyRemoteFail (s : State) (k id : Nat) : State :=
  s.modBxe k fun b => { b with ending := b.ending.map fun c => if c.req.id = id then { c with err := some (c.err.getD kindRemote) } else c }

/-- A COPY node's TIMEOUT: its copy is taken out of its channel or class queue, or stops where its chunks have all started, and fails with
kind TIMEOUT; the node ends when it completes (R104, R277). -/
def State.expireCopy (s : State) (k g n : Nat) : State :=
  let mine (r : CopyReq) : Bool := r.node == some (g, n)
  let b := s.bxe k
  match [walkerChannel, walkerOverflow].findSome? fun ch =>
      ((b.channel ch).find? mine).map fun r => (ch, r) with
  | some (ch, r) =>
    let s := s.modBxe k fun b => (b.setChannel ch ((b.channel ch).filter fun x => !mine x)).admitWalker
    s.failPayload k { templateCopy r walkerChannel r.image with ring := none, err := some kindTimeout }
  | none =>
    match (upTo 4).findSome? fun c => (b.cls c).find? fun x => mine x.req with
    | some c =>
      (s.modBxe k fun b => b.setCls c.cls ((b.cls c.cls).filter fun x => !mine x.req)).failPayload k
        { c with err := some kindTimeout }
    | none =>
      let s := match b.ending.find? fun c => mine c.req && !c.moved with
        | some c =>
          let e : Event := { i := .copyComplete, a := k, b := c.req.id }
          ((s.countFill k c).dramLeave (.step e)).laterOpen e
        | none => s
      let timed (c : Copy) : Copy := if mine c.req then { c with err := some kindTimeout, moved := true } else c
      s.modBxe k fun b => { b with ending := b.ending.map timed }

/-- A COPY node runs: its template names the cluster; its copy enters that cluster's walker channel or waits for room (R277). A poisoned
template is a BAD_RECORD (R385). -/
def State.runCopyNode (s : State) (g n : Nat) : State :=
  let body := (s.node g n).body
  match s.walkerRead body 128 with
  | none => s.nodeFailed g n (if s.walkerPoisoned body 128 then causeBadRecord else causeCopyError)
  | some x =>
    let k := bits x 23 16
    if 11 < k then s.nodeFailed g n causeCopyError
    else
      let r : CopyReq := ⟨0, none, 0, none, some (g, n), true, 0, body, x⟩
      (s.modNode g n fun y => { y with origin := k }).enqueueCopy k
        (if 8 ≤ ((s.bxe k).channel walkerChannel).length then walkerOverflow else walkerChannel) r

/-- Copies of a launch that have not completed (R108). -/
def State.launchCopies (s : State) (l : Nat) : Bool :=
  s.clusters.any fun c =>
    let b := c.2.bxe
    (b.channels.any fun e => e.2.any fun r => r.launch == some l) ||
      (b.classes.any fun e => e.2.any fun c => c.req.launch == some l) || b.ending.any fun c => c.req.launch == some l

end Sys2Proof.Machine
end

