-- ==== Sys2Proof/Machine/Sets.lean ====
section
/-!
DEFINITION. Version sets: records (R341, R342), pins (R344, R345), `round.pin` and `round.wait` (R347, R348), publication and
the advance of a round (R349, R350), and ROUND nodes (R351).
-/
namespace Sys2Proof.Machine

/-! ### Set records (R341, R342) -/

/-- VSET_COUNT (R341). -/
def State.setCount (s : State) : Nat := (s.mgmtReg 0xA08).toNat % 2 ^ 11

/-- V of a set, as a divisor; 0 is no legal V (R342). DESIGN CHOICE, log entry 44. -/
def State.setV (s : State) (i : Nat) : Nat := max 1 (s.memRead (s.setAt i) 1 % 4)
def State.setShards (s : State) (i : Nat) : Nat := s.memRead (s.setAt i + 4) 4
def State.setMask (s : State) (i : Nat) : Nat := s.memRead (s.setAt i + 8) 8
def State.setRound (s : State) (i : Nat) : Nat := s.memRead (s.setAt i + 16) 4
def State.setFloor (s : State) (i : Nat) : Nat := s.memRead (s.setAt i + 20) 4
def State.setPub (s : State) (i j : Nat) : Nat := s.memRead (s.setAt i + 24 + 4 * j) 4
def State.setDone (s : State) (i j : Nat) : Nat := s.memRead (s.setAt i + 32 + 4 * j) 4
def State.setPins (s : State) (i k : Nat) : Nat := s.memRead (s.setAt i + 40 + 2 * k) 2

/-- Differences of rounds, which are taken modulo 2^32 (R342). -/
def countDiff (a b : Nat) : Nat := (a + 2 ^ 32 - b) % 2 ^ 32

/-- Rounds compare modulo 2^32 (R342). -/
def roundLe (a b : Nat) : Bool := decide (countDiff b a < 2 ^ 31)

/-- The number of bits set in PKG_MASK. -/
def packages (m : Nat) : Nat := ((upTo 64).filter fun p => bit m p).length

/-- One more stale publication or message, saturating (R342). -/
def State.stalePub (s : State) (i : Nat) : State :=
  s.memWrite (s.setAt i + 48) 4 (min (2 ^ 32 - 1) (s.memRead (s.setAt i + 48) 4 + 1))

/-! ### Pins (R344, R345) -/

/-- How a request for a pin is decided (R344). -/
inductive PinAnswer where
  | granted
  | waits
  | refused
deriving DecidableEq, Repr

/-- The decision of a request for round `r` of set `i`. -/
def State.pinAnswer (s : State) (i r : Nat) : PinAnswer :=
  if !roundLe r (s.setRound i) then .waits
  else if !roundLe (s.setFloor i) r then .refused
  else if s.setPins i (r % s.setV i) = 65535 then .waits
  else .granted

/-- Change the pins standing on a slot. -/
def State.addPins (s : State) (i k : Nat) (d : Int) : State :=
  s.memWrite (s.setAt i + 40 + 2 * k) 2 ((s.setPins i k : Int) + d).toNat

/-- Grant a pin on a round: the slot it stands on. -/
def State.grantPin (s : State) (i r : Nat) : State := s.addPins i (r % s.setV i) 1

/-- A request that has waited for set `i` is decided anew: answered, or it waits on (R344, R348). -/
def State.decideWait (s : State) (w : SetWait) : Option State :=
  let i := w.set
  match w.ask with
  | .wait e => if roundLe (e.v.toNat % 2 ^ 32) (s.setRound i) then some (s.reply e.a e.b e.d 0) else none
  | .pin e =>
    let r := e.v.toNat % 2 ^ 32
    match s.pinAnswer i r with
    | .granted =>
      some ({ s.grantPin i r with ctxPins := Store.set none s.ctxPins e.a (some (i, r % s.setV i)) }.reply e.a e.b e.d 1)
    | .refused => some (s.reply e.a e.b e.d 2)
    | .waits => none
  | .launch l round e =>
    let r := round.getD (s.setRound i)
    match s.pinAnswer i r with
    | .granted => some (((s.grantPin i r).modLaunch l fun x => { x with pins := x.pins ++ [(i, r)] }).soon e)
    | .refused => some (s.soon e)
    | .waits => none

/-- The engine decides what waits for set `i`, in order of arrival: after an advance of the round, a release of a pin, or a rise of
FLOOR (R344, R350). -/
def State.retrySet (s : State) (i : Nat) : State :=
  s.setWaits.foldl (fun s w =>
    if w.set ≠ i then s
    else match s.decideWait w with
      | some s => { s with setWaits := s.setWaits.erase w }
      | none => s) s

/-- A request waits at the engine. -/
def State.joinSet (s : State) (i : Nat) (a : SetAsk) : State := { s with setWaits := s.setWaits ++ [⟨i, a⟩] }

/-- Release a pin on a slot. -/
def State.unpin (s : State) (i k : Nat) : State := (s.addPins i k (-1)).retrySet i

/-- Release a context pin, if there is one (R347). -/
def State.releaseCtxPin (s : State) (x : Nat) : State :=
  match Store.get none s.ctxPins x with
  | some (i, k) => { s with ctxPins := Store.set none s.ctxPins x none }.unpin i k
  | none => s

/-- Whether a run that writes round `w` of set `i` may start; if so FLOOR rises in the same step. The slot tested, (w − V) mod V, is the
slot w mod V that the run writes (R345). -/
def State.vwait (s : State) (i w : Nat) : Option State :=
  let v := s.setV i
  let floor := countDiff (w + 1) v
  if s.setPins i (w % v) = 0 ∧ roundLe (s.setFloor i) floor then
    some ((s.memWrite (s.setAt i + 20) 4 floor).retrySet i)
  else none

/-! ### `round.pin` and `round.wait` (R348) -/

/-- The set id of an operand, checked against VSET_COUNT (R348). -/
def withSet (s : State) (a : BitVec 6) (k : Nat → Out) : Out :=
  let id := (s.rS a).toNat % 2 ^ 16
  if s.setCount ≤ id then classFault s id else k id

/-- The OR of the signatures carried by the publications of a set's rounds of a selection. -/
def State.setSig (s : State) (i : Nat) (p : Nat → Bool) : Sig :=
  ((Store.get [] s.setSigs i).filter fun e => p e.1).foldl (fun g e => g ||| e.2) 0

/-- That of its intact rounds, FLOOR to RR (R342, R348). -/
def State.intactSig (s : State) (i : Nat) : Sig :=
  s.setSig i fun w => roundLe (s.setFloor i) w && roundLe w (s.setRound i)

/-- The acquire of R348: the signatures of the set's intact rounds, at scope `sys` when another package takes part. -/
def State.acquireSet (s : State) (core i : Nat) : State :=
  s.acquire core (if s.setMask i = 2 ^ s.pkgId then 4 else 5) (s.intactSig i)

/-- PIN_ROUND as the engine's answer leaves it: 0 only released, 1 granted, 2 refused (R348). -/
def pinRoundAfter (old x : Word) (answer : Nat) : Word :=
  if answer = 1 then (old &&& 0xFFFFFFFE00000000#64) ||| (x &&& 0xFFFFFFFF#64)
  else if answer = 0 then old &&& ~~~0x100000000#64
  else old ||| 0x100000000#64

def execRoundPin (r a : BitVec 6) (s : State) : Out :=
  noLent s (withSet s a fun id =>
    withReply s (request opRoundPin id (s.rS r) 0) false fun y =>
      let s := s.acquireSet s.coreId id
      .next (s.queue 1 (.csr 0x014 (pinRoundAfter s.ctx.csr.pinRound (s.rS r) y))))

def execRoundWait (r a : BitVec 6) (s : State) : Out :=
  noLent s (withSet s a fun id =>
    withReply s (request opRoundWait id (s.rS r) 0) false fun _ => .next (s.acquireSet s.coreId id))

/-- The engine serves a `round.pin` of a context for set `i`: its context pin is released first; `none` waits (R344, R348). -/
def State.serveRoundPin (s : State) (e : Event) (i : Nat) : Option Nat × State :=
  let s := s.releaseCtxPin e.a
  if e.v.getLsbD 63 then (some 0, s)
  else
    let r := e.v.toNat % 2 ^ 32
    match s.pinAnswer i r with
    | .granted => (some 1, { s.grantPin i r with ctxPins := Store.set none s.ctxPins e.a (some (i, r % s.setV i)) })
    | .refused => (some 2, s)
    | .waits => (none, s.joinSet i (.pin e))

/-- The engine serves a `round.wait`, which waits in a pending-table entry, and asks again while none is free (R221, R348). -/
def State.serveRoundWait (s : State) (e : Event) (i : Nat) : Option Nat × State :=
  if roundLe (e.v.toNat % 2 ^ 32) (s.setRound i) then (some 0, s)
  else (none, if s.entriesFull (syncDie (s.setAt i)) then s.laterOpen e else s.joinSet i (.wait e))

/-! ### Publication and the round barrier (R349, R350) -/

/-- Whether a publication or message for round `w` can be taken now. -/
def State.roundFits (s : State) (i w : Nat) : Bool := roundLe w ((s.setRound i + 2) % 2 ^ 32)

/-- Join a signature to those of round `w` of the set; those of rounds below FLOOR, whose slots are gone, are forgotten. -/
def State.joinSetSig (s : State) (i w : Nat) (g : Sig) : State :=
  let l := (Store.get [] s.setSigs i).filter fun e => roundLe (s.setFloor i) e.1
  let old := ((l.find? fun e => e.1 == w).map (·.2)).getD 0
  { s with setSigs := Store.set [] s.setSigs i ((w, old ||| g) :: l.filter fun e => e.1 != w) }

/-- Send a round-done message to every package of PKG_MASK, with the set's OR (R349). -/
def State.sendRoundDone (s : State) (i w : Nat) : State :=
  let g := s.setSig i fun _ => true
  (upTo 64).foldl (fun s p =>
    if !bit (s.setMask i) p then s
    else if p = s.pkgId then s.laterOpen { i := .roundDoneMessage, a := i, b := w, sig := g }
    else s.sendRequest p reqRoundDone (s.setAt i) 16 (BitVec.ofNat 64 w) i .nobody g) s

/-- The engine takes a publication that fits (R349); the last of a round's shards sends round-done messages. -/
def State.takePublication (s : State) (i w : Nat) (g : Sig) : State :=
  let rr := s.setRound i
  if roundLe w rr then s.stalePub i
  else
    let j := countDiff w rr - 1
    let s := s.joinSetSig i w g
    let n := s.setPub i j + 1
    let s := s.memWrite (s.setAt i + 24 + 4 * j) 4 n
    if n = s.setShards i then s.sendRoundDone i w else s

/-- Advance the round while every package is done (R350). -/
def State.advanceRound (i : Nat) : Nat → State → State
  | 0, s => s
  | n + 1, s =>
    if s.setDone i 0 = packages (s.setMask i) then
      let s := s.memWrite (s.setAt i + 16) 4 ((s.setRound i + 1) % 2 ^ 32)
      let s := s.memWrite (s.setAt i + 24) 4 (s.setPub i 1)
      let s := s.memWrite (s.setAt i + 28) 4 0
      let s := s.memWrite (s.setAt i + 32) 4 (s.setDone i 1)
      State.advanceRound i n (s.memWrite (s.setAt i + 36) 4 0)
    else s

/-- The engine counts a round-done message that fits (R350). -/
def State.takeMessage (s : State) (i w : Nat) (g : Sig) : State :=
  let rr := s.setRound i
  if roundLe w rr then s.stalePub i
  else
    let j := countDiff w rr - 1
    let s := s.joinSetSig i w g
    let s := s.memWrite (s.setAt i + 32 + 4 * j) 4 (s.setDone i j + 1)
    State.advanceRound i 2 s

/-- A publication of a stack's run has been taken (R337, R349). -/
def State.pubTaken (s : State) (stack : Nat) : State :=
  s.modStack stack fun x => { x with delta := { x.delta with run := x.delta.run.map fun r => { r with pubs := r.pubs - 1 } } }

/-- Take one that waited. -/
def State.takeRoundWait (s : State) (w : RoundWait) : State :=
  match w.publication with
  | some k => (s.takePublication w.set w.round w.sig).pubTaken k
  | none => s.takeMessage w.set w.round w.sig

/-- Take the publications and messages of a set that have come to fit (R349, R350). -/
def State.retryRounds (i : Nat) : Nat → State → State
  | 0, s => s
  | n + 1, s =>
    match s.roundWaits.find? fun w => w.set == i && s.roundFits i w.round with
    | none => s
    | some w => State.retryRounds i n ({ s with roundWaits := s.roundWaits.erase w }.takeRoundWait w)

/-- ROUND nodes that wait for a round of the set: `bodyFirst` and `maxIter` of such a node hold its SET and ROUND. The walker ends them
while it runs (R380). -/
def State.finishRoundNodes (s : State) (i : Nat) : State :=
  if s.mc.stage ≠ 2 then s
  else s.walker.graphs.foldl (fun s g => match g.2 with
    | none => s
    | some x => x.nodes.foldl (fun s e =>
        if e.2.kind = kindRound ∧ e.2.phase = .running ∧ e.2.bodyFirst = i ∧ roundLe e.2.maxIter (s.setRound i) then
          s.nodeDone g.1 e.1 0
        else s) s) s

/-- What follows an advance: waiting publications and messages, then waiting pins and `round.wait`s, then ROUND nodes. -/
def State.afterRound (s : State) (i : Nat) : State :=
  ((State.retryRounds i s.roundWaits.length s).retrySet i).finishRoundNodes i

/-- A publication of a stack's run reaches the engine (R349). -/
def State.publish (s : State) (stack i w : Nat) (g : Sig) : State :=
  if s.roundFits i w then (s.takePublication i w g).pubTaken stack
  else { s with roundWaits := s.roundWaits ++ [⟨i, w, some stack, g⟩] }

def execRoundDoneMessage (s : State) : Out :=
  let i := s.arg.a
  if s.setCount ≤ i then .next s
  else if s.roundFits i s.arg.b then .next ((s.takeMessage i s.arg.b s.arg.sig).afterRound i)
  else .next { s with roundWaits := s.roundWaits ++ [⟨i, s.arg.b, none, s.arg.sig⟩] }

end Sys2Proof.Machine
end

