-- ==== Sys2Proof/Machine/Launch.lean ====
section
/-!
DEFINITION. Launches: the record and its checks (R105, R106), dispatch and the prologue (R79, R107, R174, R346), completion
(R108), what resetting a context does, and the walker's resolution of a READY node (R100, R101, R311, R351).
-/
namespace Sys2Proof.Machine

/-! ### The record (R105) -/

/-- Field of `n` bytes at byte `lo` of a record. -/
def fieldAt (x lo n : Nat) : Nat := x / 2 ^ (8 * lo) % 2 ^ (8 * n)

def Launch.codeBase (x : Launch) : Nat := fieldAt x.record 0 8
def Launch.codeLimit (x : Launch) : Nat := fieldAt x.record 8 8
def Launch.scratch (x : Launch) : Nat := fieldAt x.record 18 1
def Launch.operand (x : Launch) : Nat := fieldAt x.record 19 1
def Launch.flags (x : Launch) : Nat := fieldAt x.record 22 1

/-- Fields of a placement entry (R105). -/
def placeCore (p : Nat) : Nat := fieldAt p 0 2
def placeMask (p : Nat) : Nat := fieldAt p 2 1
def placePrio (p : Nat) : Nat := fieldAt p 3 1
def placeOwn (p : Nat) : Nat := fieldAt p 4 2
def placeEntry (p c : Nat) : Nat := fieldAt p (8 + 2 * c) 2

/-- The contexts that a launch creates. -/
def contextsOf (places : List Nat) : List Nat :=
  places.flatMap fun p => ((upTo 4).filter fun c => bit (placeMask p) c).map fun c => 4 * placeCore p + c

/-! ### The checks (R106) -/

/-- The record's own fields, in ascending byte offset, then the bank request. -/
def recordCause (x : Nat) : Option Nat :=
  if fieldAt x 0 8 % 16 ≠ 0 then some causeBadRecord
  else if fieldAt x 16 2 = 0 ∨ 768 < fieldAt x 16 2 then some causeBadRecord
  else if 32 < fieldAt x 20 1 then some causeRings
  else if 4 < fieldAt x 21 1 then some causeBadRecord
  else if 4 ≤ fieldAt x 22 1 then some causeBadRecord
  else if 1 < fieldAt x 23 1 then some causeBadRecord
  else if fieldAt x 28 4 ≠ 0 then some causeBadRecord
  else if fieldAt x 32 8 % 16 ≠ 0 then some causeBadRecord
  else if fieldAt x 72 8 % 8 ≠ 0 then some causeBadRecord
  else if fieldAt x 80 4 % 8 ≠ 0 then some causeBadRecord
  else if fieldAt x 100 4 ≠ 0 then some causeBadRecord
  else if fieldAt x 112 16 ≠ 0 then some causeBadRecord
  else if 32 < fieldAt x 18 1 + fieldAt x 19 1 + 2 then some causeBanks
  else none

/-- Whether two contexts own one tile. -/
def tileShared (own : Nat) : Bool := (upTo 4).any fun t => 1 < ((upTo 4).filter fun c => bit own (4 * c + t)).length

/-- One placement entry: reserved fields first, then its placement conditions; `seen` are the cores named before it. -/
def State.placeCause (s : State) (p : Nat) (seen : List Nat) : Option Nat :=
  let prio := placePrio p
  if 16 ≤ placeMask p ∨ bits prio 3 2 ≠ 0 ∨ bits prio 7 6 ≠ 0 ∨ fieldAt p 6 2 ≠ 0 then some causeBadRecord
  else if 767 < placeCore p ∨ Store.get false s.mc.coreFail (placeCore p) ∨ seen.contains (placeCore p) ∨ placeMask p = 0 ∨
      bits prio 5 4 < prio % 4 ∨ tileShared (placeOwn p) then some causePlacement
  else none

/-- Read and check the placement table, `n` entries from address `a` on. -/
def State.checkPlaces (s : State) : Nat → Nat → List Nat → Except Nat (List Nat)
  | _, 0, _ => .ok []
  | a, n + 1, seen =>
    match s.walkerRead a 16 with
    | none => .error causeBadRecord
    | some p => match s.placeCause p seen with
      | some c => .error c
      | none => match s.checkPlaces (a + 16) n (placeCore p :: seen) with
        | .error c => .error c
        | .ok l => .ok (p :: l)

/-- Whether an address lies on a writable sync page (R106). -/
def State.queueOk (s : State) (va : Nat) : Bool :=
  match s.walkerPa va true with
  | some (_, w) => leafClass w == 3
  | none => false

/-- R233 for a RING_TABLE entry: every context it names is one that the launch creates. -/
def ringEntryOk (x : Nat) (ctxs : List Nat) : Bool :=
  ringValid x && decide (ringCluster x ≤ 11) &&
    (membersOf ((ringOf x).prod ||| (ringOf x).cons)).all fun i => ctxs.contains (256 * ringCluster x + i)

/-- Read and check the ring table. -/
def State.checkRings (s : State) (ctxs : List Nat) : Nat → Nat → Except Nat (List Nat)
  | _, 0 => .ok []
  | a, n + 1 =>
    match s.walkerRead a 80 with
    | none => .error causeBadRecord
    | some x =>
      if !ringEntryOk x ctxs then .error causeRings
      else match s.checkRings ctxs (a + 80) n with
        | .error c => .error c
        | .ok l => .ok (x :: l)

/-- Ring entries that a launch asks of a cluster (R107). -/
def ringsIn (rings : List Nat) (k : Nat) : Nat := (rings.filter fun x => ringCluster x == k).length

/-- Read the pin table; it is checked at dispatch (R106, R346). -/
def State.readPins (s : State) : Nat → Nat → Option (List Nat)
  | _, 0 => some []
  | a, n + 1 => match s.walkerRead a 16, s.readPins (a + 16) n with
    | some x, some l => some (x :: l)
    | _, _ => none

/-- LAUNCH_RECORD_CHECK: the record at `body` with its tables, or the first cause that fails it, in the order of R106. -/
def State.checkLaunchRecord (s : State) (g n body : Nat) : Except Nat Launch :=
  if body % 64 ≠ 0 then .error causeBadRecord
  else match s.walkerRead body 256 with
    | none => .error causeBadRecord
    | some x =>
      match recordCause x with
      | some c => .error c
      | none => match s.checkPlaces (fieldAt x 32 8) (fieldAt x 16 2) [] with
        | .error c => .error c
        | .ok places =>
          if bit (fieldAt x 22 1) 0 ∧ !s.queueOk (fieldAt x 88 8) then .error causeBadRecord
          else match s.checkRings (contextsOf places) (fieldAt x 40 8) (fieldAt x 20 1) with
            | .error c => .error c
            | .ok rings =>
              if (upTo 12).any fun k => 32 < ringsIn rings k then .error causeRings
              else match s.readPins (fieldAt x 48 8) (fieldAt x 21 1) with
                | none => .error causeBadRecord
                | some pins => .ok { graph := g, node := n, record := x, places := places, rings := rings, pinTable := pins }

/-! ### What a held bundle has at the engines -/

def State.basin (s : State) (k id : Nat) : Basin := Store.get {} (s.stack k).basins id

def State.modBasin (s : State) (k id : Nat) (f : Basin → Basin) : State :=
  s.modStack k fun x => { x with basins := Store.set {} x.basins id (f (Store.get {} x.basins id)) }

/-- What a reservation has for one half: the stack, the basin, its arming count, and the room reserved. -/
structure Granted where
  stack : Nat
  basin : Nat
  arm : Nat
  room : Nat
deriving DecidableEq, Repr

/-- What a grant holds for the half at place `i`. -/
def grantAt (x i : Nat) : Option Granted :=
  let y := x / 16 / 2 ^ (26 * i) % 2 ^ 26
  if bit y 0 then some ⟨bits y 4 1, bits y 16 5, bits y 24 17, bits y 25 25⟩ else none

/-- Give back the room of a grant whose bundle does not issue (R284, R360). -/
def State.releaseGrant (s : State) (x : Nat) : State :=
  (upTo (x.log2 / 26 + 1)).foldl (fun s i => match grantAt x i with
    | some g =>
      if x < 8 ∨ (s.basin g.stack g.basin).arm.toNat ≠ g.arm then s
      else s.modBasin g.stack g.basin fun b => { b with room := b.room - g.room }
    | none => s) s

/-- Give back every grant that a context's held bundle has (R284, R360). -/
def State.releaseGrants (s : State) (ctx : Nat) : State :=
  let f := (s.ctxAt ctx).flow
  f.waits.foldl (fun s e => match e.2 with
    | .replied x => if Store.get 0 f.waitOps e.1 = opReserve then s.releaseGrant x else s
    | .requested _ => s) s

/-- Drop what engines have answered to the bundle; none of its accesses queues at DRAM any more. -/
def State.dropWaits (s : State) (x : Nat) : State :=
  (s.dramLeave (.ctx x)).modCtxAt x fun c => { c with flow := { c.flow with
    waits := [], waitOps := [], walked := [], fetching := none, bankWaits := [], quiet := false, poisoned := none } }

/-- Whether a request that waits for a round is one of a context's bundle. -/
def SetAsk.of (a : SetAsk) (x : Nat) : Bool :=
  match a with
  | .pin e | .wait e => e.a == x
  | .launch _ _ _ => false

/-- The bundle at the PC will not issue: room granted to it is released and its watches end (R284, R360). -/
def State.abandon (s : State) (x : Nat) : State :=
  let s := s.releaseGrants x
  let drop (d : Die) : Die := { d with watches := d.watches.filter fun w => w.ctx != x }
  let s := { s with
    dies := s.dies.foldl (fun (m : Store Die) (e : Nat × Die) => Store.set {} m e.1 (drop e.2)) s.dies
    setWaits := s.setWaits.filter fun w => !w.ask.of x }
  s.dropWaits x

/-! ### Creating and resetting contexts (R79, R104, R223, R358) -/

/-- The registers that every prologue sets alike (R79, R358). -/
def State.freshCtx (s : State) (x : Nat) : Ctx :=
  let old := s.ctxAt x
  { phase := .prologue
    csr := { gen := old.csr.gen + 1 }
    trap := {
      vec := s.mgmtReg 0x400 &&& 0x01FFFFFFFFFFFFF0#64
      scratch1 := s.mgmtReg 0x408 + BitVec.ofNat 64 x * s.mgmtReg 0x410 }
    flow := { nextLanding := old.flow.nextLanding } }

/-- The cycle in which every bank of a core is STABLE (R174). -/
def State.stableFrom (s : State) (core : Nat) : Nat :=
  (s.core core).changing.foldl (fun m c => max m (c.stable + 1)) (s.now + 1)

/-- What the contexts of a core hold stays with the core; a context leaves nothing of its own behind. -/
def State.clearEngines (s : State) (x : Nat) : State :=
  s.modCore (coreOf x) fun c => { c with transposes := c.transposes.filter fun t => t.ctx != x }

/-- A context becomes FREE (R79, R223). -/
def State.freeCtx (s : State) (x : Nat) : State :=
  (s.modCtxAt x fun c => { phase := .free, csr := { gen := c.csr.gen }, flow := { nextLanding := c.flow.nextLanding } }).dirFree x

/-- A context is reset to FREE: its context pin is released, and what its bundle has at the engines ends: granted room, watches, requests
for a round (R104, R221, R284, R347). -/
def State.resetCtx (s : State) (x : Nat) : State := (((s.abandon x).releaseCtxPin x).clearEngines x).freeCtx x

/-! ### Dispatch (R107) -/

/-- Whether a core runs no context of another launch. -/
def State.coreFreeFor (s : State) (l core : Nat) : Bool :=
  (ctxsOfCore core).all fun x => (s.ctxAt x).phase == .free || (s.ctxAt x).launch == some l
where
  ctxsOfCore (core : Nat) : List Nat := (upTo 4).map (4 * core + ·)

/-- DISPATCHING launches that became READY before launch `l`. -/
def State.aheadOf (s : State) (l : Nat) : List Launch :=
  (s.walker.dispatching.filter fun k => k < l).filterMap s.launch

/-- Whether the cores and ring entries of a launch are free, and not waited for by an earlier one. -/
def State.resourcesFree (s : State) (l : Nat) (x : Launch) : Bool :=
  let ahead := s.aheadOf l
  (x.places.all fun p => s.coreFreeFor l (placeCore p) &&
      !(ahead.any fun y => y.places.any fun q => placeCore q == placeCore p)) &&
    (x.dispatched || (upTo 12).all fun k =>
      decide (ringsIn x.rings k +
        ((ahead.filter fun y => !y.dispatched).map fun y => ringsIn y.rings k).sum ≤ (s.cluster k).ringRoom))

/-- The launch stops waiting to be dispatched: its ring reservations end (R234). -/
def State.leaveDispatch (s : State) (l : Nat) : State :=
  let s := s.modWalker fun w => { w with dispatching := w.dispatching.filter fun k => k != l }
  (upTo 12).foldl (fun s k =>
    if (s.cluster k).ringsReserved.isEmpty then s
    else s.modCluster k fun c => { c with ringsReserved := c.ringsReserved.filter fun e => e.1 != l }) s

/-- Release the launch's pins (R108, R346). -/
def State.releasePins (s : State) (l : Nat) : State :=
  match s.launch l with
  | none => s
  | some x => x.pins.foldl (fun s p => s.unpin p.1 (p.2 % s.setV p.1)) (s.modLaunch l fun x => { x with pins := [] })

/-- Free every ring entry of a launch (R234). -/
def State.freeRings (s : State) (l : Nat) : State :=
  { s with clusters := s.clusters.map fun c =>
      (c.1, { c.2 with rings := c.2.rings.filter fun e => match e.2 with
        | some r => r.launch != some l
        | none => false }) }

/-- A launch ends without having run, or after it has: pins, rings and the record go. -/
def State.dropLaunch (s : State) (l : Nat) : State :=
  let s := { s with setWaits := s.setWaits.filter fun w => match w.ask with
    | .launch k _ _ => k != l
    | _ => true }
  (((s.releasePins l).freeRings l).leaveDispatch l).setLaunch l none

/-- Steps 1 and 2 of R107: the count, and the tile-queue record, a release of scope `pkg`. -/
def State.writeTileQueue (s : State) (x : Launch) (count : Nat) : State :=
  if bit x.flags 0 then
    match s.walkerPa (fieldAt x.record 88 8) true with
    | some (pa, _) => s.releaseMem pa 16 (count * 2 ^ 64 + fieldAt x.record 84 4 * 2 ^ 96) (sigAdd 0 pa)
    | none => s
  else s

/-- One PIN_TABLE entry: whether it is legal, its set, and the round asked for, `none` for the current one (R346). -/
def State.pinEntry (s : State) (e : Nat) : Bool × Nat × Option Nat :=
  let i := fieldAt e 0 2
  let ok := decide (i < s.setCount) && decide (fieldAt e 2 1 < 2) && fieldAt e 3 5 == 0 && fieldAt e 12 4 == 0
  (ok, i, if bit (fieldAt e 2 1) 0 then none else some (fieldAt e 8 4))

/-- Take the pins of launch `l`, which is `y`, from where it left off: the outcome of the first entry that is not granted, or `granted`.
A waiting entry waits at the engine (R346). -/
def State.takePins (s : State) (l : Nat) (y : Launch) : List Nat → PinAnswer × State
  | [] => (.granted, s)
  | e :: es =>
    let (ok, i, round) := s.pinEntry e
    let r := round.getD (s.setRound i)
    if !ok then (.refused, s)
    else match s.pinAnswer i r with
      | .granted => State.takePins ((s.grantPin i r).modLaunch l fun x => { x with pins := x.pins ++ [(i, r)] }) l y es
      | .refused => (.refused, s)
      | .waits => (.waits, s.joinSet i (.launch l round { i := .launchDispatch, a := y.graph, b := y.node }))

/-- The ring definitions of a launch, in RING_TABLE order, each at the lowest free index (R234). -/
def State.defineRings (s : State) (l base : Nat) : Nat → List Nat → State
  | _, [] => s
  | i, x :: xs =>
    let k := ringCluster x
    let s := match (s.cluster k).freeRing with
      | none => s
      | some idx => s.modCluster k fun c =>
          c.setRing idx (some { ringOf x with launch := some l, key := BitVec.ofNat 64 (base + 80 * i) })
    State.defineRings s l base (i + 1) xs

/-- The handles that the prologue binds in a context (R235). -/
def State.boundHandles (s : State) (l x : Nat) : Store Word :=
  let me := meOf x
  (s.cluster (clusterOf (coreOf x))).rings.foldl (fun h e => match e.2 with
    | some r =>
      if r.launch ≠ some l then h
      else
        let h := if r.prod.getLsbD me then Store.set 0 h r.prodH (bindWord 1 e.1) else h
        if r.cons.getLsbD me then Store.set 0 h r.consH (bindWord 2 e.1) else h
    | none => h) []

/-- The scalar registers of R107: `s14`, `s15` and the arguments. -/
def launchScalars (x : Launch) (p o : Nat) : Store Word :=
  (indexed (upTo 16)).foldl (fun m e => Store.set 0 m (16 + e.1) (BitVec.ofNat 64 (fieldAt x.record (128 + 8 * e.2) 8)))
    (Store.set 0 (Store.set 0 [] 14 (BitVec.ofNat 64 p)) 15 (BitVec.ofNat 64 o))

/-- The control registers of a launched context (R107, R346). -/
def launchCsrs (k : Csrs) (x : Launch) (p o prio : Nat) : Csrs :=
  let base := BitVec.ofNat 64 (fieldAt x.record 72 8 + o * fieldAt x.record 80 4)
  { k with
    level := BitVec.ofNat 2 prio
    ceil := BitVec.ofNat 2 (prio / 16)
    seed := BitVec.ofNat 64 (fieldAt x.record 56 8)
    streamBase := BitVec.ofNat 64 (fieldAt x.record 64 8 + o * 2 ^ 45)
    contrib := BitVec.ofNat 32 (fieldAt x.record 24 4 + if fieldAt x.record 23 1 = 0 then o else p)
    pinRound := BitVec.ofNat 64 ((x.pins.head?.map (·.2)).getD 0)
    codeLimit := BitVec.ofNat 64 x.codeLimit &&& ~~~0xF#64
    shadowBase := base
    shadowTop := base
    shadowLimit := base + BitVec.ofNat 64 (fieldAt x.record 80 4) }

/-- Create context `c` of placement `p` (R107). -/
def State.createCtx (s : State) (l : Nat) (x : Launch) (p place c from_ : Nat) : State :=
  let id := 4 * placeCore place + c
  let o := 4 * p + c
  let f := s.freshCtx id
  ((s.setCtxAt id { f with
    pc := BitVec.ofNat 64 (x.codeBase + 16 * placeEntry place c)
    launch := some l
    r := { s := launchScalars x p o, h := s.boundHandles l id }
    csr := launchCsrs f.csr x p o (placePrio place)
    flow := { f.flow with earliest := from_ } }).dirCreate id).modLaunch l fun y => { y with gens := (id, f.csr.gen.toNat) :: y.gens }

/-- Zero the tiles that an ACC_OWN image gives to a context of the launch, which the mask names (R246). -/
def CoreSt.zeroTiles (c : CoreSt) (own mask : Nat) : CoreSt :=
  { c with tiles := c.tiles.filter fun e => !((upTo 4).any fun k => bit mask k && bit own (4 * k + e.1 / 1024)) }

/-- The bank grant and tiles of a placement, as launch and resume prologues apply them (R107, R174, R246, R365). -/
def State.applyPlace (s : State) (x : Launch) (place : Nat) : State :=
  let core := placeCore place
  (s.changeRoles core (grantRoles x.scratch x.operand)).modCore core fun c =>
    { c.zeroTiles (placeOwn place) (placeMask place) with
      grant := (x.scratch, x.operand)
      accOwn := BitVec.ofNat 16 (placeOwn place)
      bypassTag := none
      bypass := []
      gated := false }

/-- The prologue on one core: the acquire of its node's marks and pins, then the contexts (R107, R210, R346). -/
def State.prologue (s : State) (l : Nat) (x : Launch) (sig : Sig) (p place : Nat) : State :=
  let core := placeCore place
  let s := s.acquire core 4 sig
  let s := x.pins.foldl (fun s q => s.acquireSet core q.1) s
  let s := s.modCore core fun c => { c with carried := 0, icache := [] }
  let from_ := s.stableFrom core
  (upTo 4).foldl (fun s c => if bit (placeMask place) c then s.createCtx l x p place c from_ else s) s

/-- Every core's bank roles, then the rings, then the contexts (R107). -/
def State.runPrologues (s : State) (l : Nat) (x : Launch) (sig : Sig) : State :=
  let s := x.places.foldl (fun s place => s.applyPlace x place) s
  let s := s.defineRings l (fieldAt x.record 40 8) 0 x.rings
  (indexed x.places).foldl (fun s e => s.prologue l x sig e.1 e.2) s

/-- A launch fails before it has run. -/
def State.failDispatch (s : State) (l : Nat) (x : Launch) (cause : Nat) : State :=
  (s.dropLaunch l).nodeFailed x.graph x.node cause

/-- The ring entries of a launch are reserved from its dispatch on (R234). -/
def State.reserveRings (s : State) (l : Nat) (x : Launch) : State :=
  (upTo 12).foldl (fun s k =>
    if ringsIn x.rings k = 0 then s
    else s.modCluster k fun c => { c with ringsReserved := (l, ringsIn x.rings k) :: c.ringsReserved }) s

/-- Pins, then the prologues; a waiting pin keeps the launch DISPATCHING (R107, R346). -/
def State.dispatchPinned (s : State) (l : Nat) (x : Launch) : State :=
  match State.takePins s l x (x.pinTable.drop x.pins.length) with
  | (.waits, s) => s
  | (.refused, s) => s.failDispatch l x causeBadRecord
  | (.granted, s) =>
    let s := s.leaveDispatch l
    let x := (s.launch l).getD x
    let s := s.runPrologues l x (s.node x.graph x.node).sig
    (s.modLaunch l fun y => { y with live := contextsOf x.places }).runNode x.graph x.node

/-- Dispatch: the count and the tile queue once, then pins and prologues (R107). A count that is unreadable or poisoned fails the node with
BAD_RECORD. DESIGN CHOICE, log entry 97. -/
def State.dispatch (s : State) (l : Nat) (x : Launch) : State :=
  if x.dispatched then s.dispatchPinned l x
  else
    let count : Option Nat := if bit x.flags 1 then s.walkerRead (fieldAt x.record 104 8) 4 else some (fieldAt x.record 96 4)
    match count with
    | none => s.failDispatch l x causeBadRecord
    | some n =>
      if bit x.flags 1 ∧ n = 0 then (s.dropLaunch l).nodeDone x.graph x.node 0
      else
        let s := (s.writeTileQueue x n).reserveRings l x
        let x := { x with dispatched := true }
        (s.setLaunch l (some x)).dispatchPinned l x

def execLaunchDispatch (s : State) : Out :=
  let x := s.node s.arg.a s.arg.b
  if x.phase ≠ .dispatching then .next s
  else match s.launch x.seq with
    | none => .next s
    | some l =>
    if !s.resourcesFree x.seq l then .next (s.laterOpen s.arg)
    else
      let count := if bit l.flags 1 ∧ !l.dispatched then [(fieldAt l.record 104 8, 4)] else []
      withWalker s count fun s => .next ((s.acquireFor s.arg.a count).dispatch x.seq l)

/-! ### Completion (R108) and timeouts (R104) -/

def execLaunchComplete (s : State) : Out :=
  match s.walker.launches.find? fun e => match e.2 with
      | some x => x.graph == s.arg.a && x.node == s.arg.b && !s.walker.dispatching.contains e.1
      | none => false with
  | none => .next s
  | some (l, x) =>
    match x with
    | none => .next s
    | some x =>
      if !x.live.isEmpty ∨ !x.parked.isEmpty ∨ !x.resuming.isEmpty ∨ s.launchCopies l then .next s
      else
        let s := s.dropLaunch l
        .next (if (s.node x.graph x.node).phase ≠ .running then s else match x.failCause with
          | none => s.nodeDone x.graph x.node x.sig
          | some c => s.nodeFailedWith x.graph x.node c x.sig)

/-- Every context of a launch is reset, parked ones are discarded (R104, R364). -/
def State.resetLaunch (s : State) (l : Nat) (x : Launch) : State :=
  let s := x.live.foldl (fun s c => s.resetCtx c) s
  let s := x.resuming.foldl (fun s c => if (s.ctxAt c).launch = some l then s.resetCtx c else s) s
  (x.parkedPins.foldl (fun s p => s.unpin p.2.1 p.2.2) s).dropLaunch l

/-! ### Resolution of a READY node (R100) -/

/-- Module memory: the HBM views, side store and sync-engine SRAM (R177, R330). -/
def moduleMemory (pa : Nat) : Bool :=
  match region pa with
  | .hbm | .side | .sync _ => true
  | _ => false

/-- Whether a program header is bad (R310). -/
def headerBad (x : Nat) : Bool :=
  let code := fieldAt x 0 8
  let words := fieldAt x 8 2
  let par := fieldAt x 32 8
  let st := fieldAt x 40 8
  let inModule (a n : Nat) : Bool := moduleMemory a && moduleMemory (a + n - 1)
  decide (code % 8 ≠ 0) || decide (words = 0) || decide (8192 < words) || decide (16 ≤ fieldAt x 10 1) ||
    decide (6 ≤ fieldAt x 11 1) || decide (2 ^ 24 ≤ fieldAt x 12 4) || decide (par % 8 ≠ 0) || decide (st % 8 ≠ 0) ||
    !inModule code (8 * words) || (par != 0 && !inModule par 120) || (st != 0 && !inModule st 8) ||
    ((upTo 4).any fun i =>
      let p := fieldAt x (48 + 8 * i) 8
      bits p 31 17 != 0 || bits p 63 48 != 0) ||
    bits (fieldAt x 80 8) 31 17 != 0 || fieldAt x 88 40 != 0

/-- A start request enters a processor's queue, or the requester waits (R311). -/
def State.requestStart (s : State) (k : Nat) (r : StartReq) : Option State :=
  if 16 ≤ (s.stack k).delta.queue.length then none
  else some ((s.modStack k fun x => { x with delta := { x.delta with queue := x.delta.queue ++ [r] } }).laterOpen
    { i := .deltaRunSelect, a := k })

/-- A DELTA node asks its processor for a run, and asks again while the queue is full (R310, R311). -/
def State.startDelta (s : State) (g n : Nat) : State :=
  let body := (s.node g n).body
  match s.walkerPa body false, s.walkerRead body 128 with
  | some (pa, _), some x =>
    if body % 64 ≠ 0 ∨ headerBad x then s.nodeFailed g n causeBadRecord
    else match s.requestStart (fieldAt x 10 1 % 16) ⟨pa, some (g, n)⟩ with
      | some s => s
      | none => s.laterOpen s.arg
  | _, _ => s.nodeFailed g n causeBadRecord

/-- A ROUND node: its descriptor, and whether the round has come (R351). -/
def State.startRound (s : State) (g n : Nat) : State :=
  match s.walkerRead (s.node g n).body 16 with
  | none => s.nodeFailed g n causeBadRecord
  | some x =>
    let i := fieldAt x 0 2
    if s.setCount ≤ i ∨ fieldAt x 2 6 ≠ 0 ∨ fieldAt x 12 4 ≠ 0 then s.nodeFailed g n causeBadRecord
    else if roundLe (fieldAt x 8 4) (s.setRound i) then s.nodeDone g n 0
    else s.modNode g n fun y => { y with bodyFirst := i, maxIter := fieldAt x 8 4 }

/-- What the walker reads to run a node: its BODY, and a launch record's tables. -/
def State.nodeRanges (s : State) (x : GraphNode) : List (Nat × Nat) :=
  match x.kind with
  | 1 =>
    (x.body, 256) :: match s.walkerRead x.body 256 with
      | some r =>
        [(fieldAt r 32 8, 16 * min (fieldAt r 16 2) 768), (fieldAt r 40 8, 80 * min (fieldAt r 20 1) 32),
          (fieldAt r 48 8, 16 * min (fieldAt r 21 1) 4)]
      | none => []
  | 2 | 4 => [(x.body, 128)]
  | 5 => [(x.body, 16)]
  | _ => []

/-- Check a launch's record, read with an acquire as its tables are; it waits for dispatch in the order in which nodes became READY
(R105 to R107). -/
def State.startLaunch (s : State) (g n : Nat) : State :=
  let x := s.node g n
  match s.checkLaunchRecord g n x.body with
  | .error c => s.nodeFailed g n c
  | .ok l =>
    let s := (s.acquireFor g (s.nodeRanges x)).modNode g n fun y => { y with phase := .dispatching, launch := some y.seq }
    let s := (s.setLaunch x.seq (some l)).modWalker fun w => { w with dispatching := w.dispatching ++ [x.seq] }
    s.soon { i := .launchDispatch, a := g, b := n }

/-- Run a node by its kind (R98, R101). -/
def State.startNode (s : State) (g n : Nat) : State :=
  match (s.node g n).kind with
  | 1 => s.startLaunch g n
  | 2 => (s.runNode g n).runCopyNode g n
  | 3 => (s.runNode g n).soon { i := .basinDeclare, a := g, b := n }
  | 4 => (s.runNode g n).startDelta g n
  | 5 => (s.runNode g n).startRound g n
  | 6 => (s.runNode g n).laterOpen { i := .condNode, a := g, b := n }
  | 7 => (s.runNode g n).laterOpen { i := .whileNode, a := g, b := n }
  | _ => s.nodeDone g n 0

def execNodeResolve (s : State) : Out :=
  let g := s.arg.a
  let n := s.arg.b
  let x := s.node g n
  if x.phase = .running ∧ x.kind = kindDelta then withWalker s (s.nodeRanges x) fun s => .next (s.startDelta g n)
  else if x.phase ≠ .ready then .next s
  else match x.marks.find? fun m => m.1 == .error with
    | some (_, origin) =>
      .next (s.endNode g n .cancelled causeInherited origin 0 (x.succ.map fun k => (k, Mark.error)))
    | none =>
      if x.marks ≠ [] ∧ x.marks.all fun m => m.1 == .skip then
        .next (s.endNode g n .skipped 0 n 0 (x.succ.map fun k => (k, Mark.skip)))
      else withWalker s (s.nodeRanges x) fun s => .next (s.startNode g n)

end Sys2Proof.Machine
end

