-- ==== Sys2Proof/Machine/Basin.lean ====
section
/-!
DEFINITION. Side store (R278, R279), basins and the confluence engine: declaration (R280, R281), reservations (R284), packets
(R283, R285, R286), the order modes (R287, R288), staging (R289), completion (R290, R291), and `accw`, `mdrain.acc` and
`basin.q` (R293 to R295).
-/
namespace Sys2Proof.Machine

def Basin.bf (b : Basin) : Bool := b.flags.getLsbD 0
def Basin.init (b : Basin) : Bool := b.flags.getLsbD 1
def Basin.rearms (b : Basin) : Bool := b.flags.getLsbD 2
def Basin.actFlag (b : Basin) : Bool := b.flags.getLsbD 3
def Basin.actDelta (b : Basin) : Bool := b.flags.getLsbD 4
def Basin.tgtLive (b : Basin) : Bool := b.flags.getLsbD 5

/-- A basin is live while ARMED or COMPLETING (R281). -/
def Basin.live (b : Basin) : Bool := b.phase == .armed || b.phase == .completing

/-- Elements of a half, bytes of an input element, and the number of halves (R282). -/
def Basin.halfElems (b : Basin) : Nat := if b.bf then 64 else 32
def Basin.inputSize (b : Basin) : Nat := if b.bf then 2 else 4
def Basin.halves (b : Basin) : Nat := (b.elems + b.halfElems - 1) / b.halfElems

/-- The elements of half `h`. -/
def Basin.elemsOf (b : Basin) (h : Nat) : List Nat :=
  ((upTo b.halfElems).map (h * b.halfElems + ·)).filter fun e => e < b.elems

/-- The acceptance bits of a half, and all of them (R285). -/
def Basin.bitsOf (b : Basin) (h : Nat) : Nat := Store.get 0 b.accepted h
def Basin.fullMask (b : Basin) : Nat := 2 ^ b.n - 1

/-! ### Staging (R289) -/

/-- Staged contributions of a SEQ half: those past the first one missing. `zeros` are those of closes, which need no room (R305). -/
def seqStaged (n mask zeros : Nat) : Nat :=
  match (upTo n).find? fun k => !bit mask k with
  | none => 0
  | some low => ((upTo n).filter fun k => decide (low < k) && bit mask k && !bit zeros k).length

/-- Whether every present leaf of `[lo, lo + w)` has come. -/
def leavesIn (n mask lo w : Nat) : Bool :=
  let w := min w (n - lo)
  mask / 2 ^ lo % 2 ^ w == 2 ^ w - 1

/-- Staged records of a PAIR half: its complete present subtrees that have no complete sibling, over depth `d` from `lo`; one that
only closes made needs no room (R305). -/
def pairStaged (n mask zeros : Nat) : Nat → Nat → Nat
  | 0, lo => if lo < n ∧ bit mask lo ∧ !bit zeros lo then 1 else 0
  | d + 1, lo =>
    if n ≤ lo then 0
    else if leavesIn n mask lo (2 ^ (d + 1)) then (if leavesIn n zeros lo (2 ^ (d + 1)) then 0 else 1)
    else pairStaged n mask zeros d lo + pairStaged n mask zeros d (lo + 2 ^ d)

/-- The depth of the pair tree over `n` contributors (R287). -/
def pairDepth (n : Nat) : Nat := ((upTo 13).find? fun d => n ≤ 2 ^ d).getD 12

/-- The contributors of a half whose part is a close's +0. -/
def Basin.zerosOf (b : Basin) (h : Nat) : Nat := Store.get 0 b.zeros h

/-- Slots that half `h` uses with these acceptance bits. -/
def Basin.halfSlots (b : Basin) (h mask : Nat) : Nat :=
  if mask = b.fullMask then 0
  else match b.mode with
    | 1 => seqStaged b.n mask (b.zerosOf h)
    | 2 => pairStaged b.n mask (b.zerosOf h) (pairDepth b.n) 0
    | 3 => if mask = b.zerosOf h then 0 else 1
    | _ => 0

/-- Slots in use. -/
def Basin.slots (b : Basin) : Nat := (b.accepted.map fun e => b.halfSlots e.1 e.2).sum

/-- Bytes of a slot. -/
def Basin.slotBytes (b : Basin) : Nat := (if b.mode = 3 then 1280 else 128) * (if b.bf then 2 else 1)

def Basin.capacity (b : Basin) : Nat := b.stagingSize / b.slotBytes

/-- Whether contributor `k`'s bit in half `h` counts as set: a close that has been decided counts everywhere (R285, R305). -/
def Basin.hasBit (b : Basin) (h k : Nat) : Bool := bit (b.bitsOf h) k || b.closes.any fun c => c.1 == k

/-- Whether contributor `k`'s write to half `h` needs room: applied now, it would raise the number of slots in use. -/
def Basin.needsRoom (b : Basin) (h k : Nat) : Bool :=
  let m := b.bitsOf h
  !b.hasBit h k && decide (b.halfSlots h m < b.halfSlots h (m + 2 ^ k))

/-! ### The order modes (R287, R288) -/

/-- The bits of the basin's events that a list of kinds sets: INVALID, OVERFLOW, NANGEN (R288). -/
def basinEvents (es : List EvKind) : BitVec 3 :=
  (if es.contains .invalid then 1 else 0) ||| (if es.contains .overflow then 2 else 0) |||
    (if es.contains .nangen then 4 else 0)

/-- Add of R287 on FP32 words, carrying events. -/
def basinAdd (x y : Nat × List EvKind) : Nat × List EvKind :=
  let (r, es) := fp32.round (Val.add .rne (fp32.decode x.1) (fp32.decode y.1)) .rne false 0
  let inv := if (fp32.decode x.1).isSnan ∨ (fp32.decode y.1).isSnan then [EvKind.invalid] else []
  (r, x.2 ++ y.2 ++ inv ++ es)

/-- A NaN result is the canonical one, whatever it was made from (R287). -/
def basinFinish (x : Nat × List EvKind) : Nat × List EvKind :=
  let v := fp32.decode x.1
  if v.isNan then (0x7FC00000, x.2 ++ (if v.isSnan then [.invalid] else []) ++ [.nangen]) else x

/-- Exact(b, c) of R288: the exact sum rounded once; special values as in Accumulate of R256. -/
def basinExact (ws : List Nat) : Nat × List EvKind :=
  let vs := ws.map fp32.decode
  let inv := if vs.any Val.isSnan then [EvKind.invalid] else []
  if vs.contains (.inf false) ∧ vs.contains (.inf true) then (0x7FC00000, [.invalid, .nangen])
  else if vs.any Val.isNan then (0x7FC00000, inv ++ [.nangen])
  else if vs.contains (.inf false) then (fp32.inf false, [])
  else if vs.contains (.inf true) then (fp32.inf true, [])
  else
    let v := Val.ofScaled ((vs.filterMap fun v => match v with
      | .num d => some d
      | _ => none).foldl (fun a d => a + d.at (-149)) 0) (-149) (vs.all fun v => v == .zero true)
    fp32.round v .rne false 0

/-- Contribution `k`'s FP32 word for element `e`: a close's is +0 (R287, R305). -/
def Basin.word (b : Basin) (k e : Nat) : Nat :=
  let p := (Store.get 0 b.given (4096 * (e / b.halfElems) + k)).toNat
  let i := e % b.halfElems
  if b.bf then p / 2 ^ (16 * i) % 2 ^ 16 * 2 ^ 16 else p / 2 ^ (32 * i) % 2 ^ 32

/-- An element's base, if the basin has one (R280). -/
def Basin.baseWord (b : Basin) (e : Nat) : Option Nat :=
  if b.init then
    some ((upTo 4).foldr (fun i acc => (Store.get 0 b.base (b.result + 4 * e + i)).toNat + 256 * acc) 0)
  else none

/-- Fold contributions onto an element (R287). -/
def basinFold (r : Option (Nat × List EvKind)) (ws : List Nat) : Option (Nat × List EvKind) :=
  ws.foldl (fun r w => match r with
    | none => some (w, [])
    | some x => some (basinAdd x (w, []))) r

/-- An element's result once its half is complete, in the modes but ARRIVAL (R287). -/
def Basin.elemResult (b : Basin) (e : Nat) : Nat × List EvKind :=
  let base := (b.baseWord e).map fun w => (w, ([] : List EvKind))
  let ws := (upTo b.n).map fun k => b.word k e
  let r : Option (Nat × List EvKind) := match b.mode with
    | 2 =>
      let t := pairTree basinAdd (fun k => ws[k]?.map fun w => (w, [])) (pairDepth b.n) 0
      match base, t with
      | some x, some y => some (basinAdd x y)
      | none, t => t
      | x, none => x
    | 3 => some (basinExact (((b.baseWord e).toList) ++ ws))
    | _ => basinFold base ws
  basinFinish (r.getD (0, []))

/-! ### Applying a contribution (R285, R289, R290) -/

/-- Write consecutive elements of the result array, with their events; sectors that they cover whole lose their poison (R385). -/
def State.writeElems (s : State) (k id : Nat) (l : List (Nat × Nat × List EvKind)) : State :=
  let b := s.basin k id
  let s := l.foldl (fun s e => s.memWrite (b.result + 4 * e.1) 4 e.2.1) s
  let s := match l with
    | [] => s
    | e :: _ => s.cureMem (b.result + 4 * e.1) (4 * l.length)
  s.modBasin k id fun b => { b with events := l.foldl (fun v e => v ||| basinEvents e.2.2) b.events }

/-- ARRIVAL applies a half's contribution to the result array at once. -/
def State.applyArrival (s : State) (k id h c : Nat) : State :=
  let b := s.basin k id
  let l := (b.elemsOf h).map fun e =>
    let r : Option Nat := match Store.get none b.partials e with
      | some w => some w
      | none => b.baseWord e
    let x : Nat × List EvKind := match r with
      | none => (b.word c e, [])
      | some w => basinAdd (w, []) (b.word c e, [])
    (e, basinFinish x)
  (s.writeElems k id l).modBasin k id fun b =>
    { b with partials := l.foldl (fun m e => Store.set none m e.1 (some e.2.1)) b.partials }

/-- The bytes that a basin's arming leaves unpredictable, but in ARRIVAL mode: the result array, whose halves are incomplete (R290). -/
def State.spoilBasin (s : State) (b : Basin) : State :=
  if b.mode = 0 then s else s.spoil b.result (b.result + 4 * b.elems)

/-- The engine has staged or drained something: the bytes of the staging area are unpredictable anew, for the spec does not state what
lies where in it (R289). DESIGN CHOICE, log entry 92. -/
def State.stage (s : State) (b : Basin) : State :=
  let hi := b.staging + b.stagingSize
  if s.wild.any fun w => w.lo == b.staging && w.hi == hi then
    { s with wild := s.wild.map (fun w => if w.lo = b.staging ∧ w.hi = hi then { w with seed := s.fresh } else w), fresh := s.fresh + 1 }
  else s.spoil b.staging hi

/-- What the engine reads of a half's staged data is poisoned (R385): no rule places the slots. DESIGN CHOICE, log entry 92. -/
def State.stagedPoison (s : State) (b : Basin) : Bool :=
  s.poison.any fun p => match p with
    | .mem k => decide (b.staging < 32 * k + 32) && decide (32 * k < b.staging + b.stagingSize) && Config.stagedIn s.fresh k
    | _ => false

/-- A half's slots go from `before` to `after_`: its staged data are read, and the staging area changes (R289, R385). -/
def State.useStaging (s : State) (k id h before after_ : Nat) : State :=
  let b := s.basin k id
  if before = 0 ∧ after_ = 0 then s
  else
    let bad := decide (0 < before) && decide (after_ ≤ before) && s.stagedPoison b
    let s := s.stage b
    if bad then s.modBasin k id fun b => { b with checksum := true, spoilt := h :: b.spoilt } else s

/-- HALF_COMPLETE: the final elements of a half are written (R290), NaN where its staged data were poisoned (R385). -/
def State.finishHalf (s : State) (k id h : Nat) : State :=
  let b := s.basin k id
  let s := if b.mode = 0 then s
    else s.writeElems k id ((b.elemsOf h).map fun e =>
      (e, if b.spoilt.contains h then (0x7FC00000, [.nangen]) else b.elemResult e))
  s.modBasin k id fun b => { b with given := b.given.filter fun e => e.1 / 4096 != h, spoilt := b.spoilt.filter (· != h) }

/-- Set contributor `c`'s bit in half `h` and apply what it brings; `zero` says that a close brings it. -/
def State.acceptHalf (s : State) (k id h c : Nat) (payload : VWord) (zero : Bool) : State :=
  let b := s.basin k id
  let s := s.modBasin k id fun b =>
    { b with
      accepted := Store.set 0 b.accepted h (b.bitsOf h + 2 ^ c)
      zeros := if zero then Store.set 0 b.zeros h (b.zerosOf h + 2 ^ c) else b.zeros
      given := Store.set 0 b.given (4096 * h + c) payload }
  let b' := s.basin k id
  let s := if b.mode = 0 then s.applyArrival k id h c else s.useStaging k id h (b.halfSlots h (b.bitsOf h)) (b'.halfSlots h (b'.bitsOf h))
  if b'.bitsOf h = b.fullMask then s.finishHalf k id h else s

/-! ### Completion (R290, R291) -/

/-- The bytes of the result array, and the same with poisoned halves made NaN (R280, R385). -/
def State.captureBase (s : State) (b : Basin) : Store Byte × Bool :=
  let hi := b.result + 4 * b.elems
  let m := s.mem.filter fun e => decide (b.result ≤ e.1) && decide (e.1 < hi)
  let m := s.wild.foldl (fun m w =>
    (upTo (min w.hi hi - max w.lo b.result)).foldl (fun m i =>
      let a := max w.lo b.result + i
      Store.set 0 m a (Config.openByte w.seed a)) m) m
  let bad := (s.poison.filterMap fun p => match p with
    | .mem k => if b.result < 32 * k + 32 ∧ 32 * k < hi then some ((32 * k - b.result) / (4 * b.halfElems)) else none
    | _ => none).eraseDups
  (bad.foldl (fun m h => (b.elemsOf h).foldl (fun m e =>
    Store.set 0 (Store.set 0 (Store.set 0 (Store.set 0 m (b.result + 4 * e) 0) (b.result + 4 * e + 1) 0)
      (b.result + 4 * e + 2) 0xC0) (b.result + 4 * e + 3) 0x7F) m) m, !bad.isEmpty)

/-- Arm an entry: bits cleared, the next arming count, bases captured (R291). -/
def State.armBasin (s : State) (k id : Nat) (b : Basin) : State :=
  let (base, bad) := if b.init then s.captureBase b else ([], false)
  (s.spoilBasin b).modBasin k id fun _ =>
    { b with phase := .armed, arm := b.arm + 1, accepted := [], given := [], partials := [], room := 0, acting := 0
             zeros := [], closes := [], spoilt := [], base := base, checksum := b.checksum || bad }

/-- The actions are done: rearm, or COMPLETE (R291). -/
def State.finishBasin (s : State) (k id : Nat) : State :=
  let b := s.basin k id
  if b.rearms then s.armBasin k id { b with round := (b.round + 1) % 2 ^ 16 }
  else s.modBasin k id fun b => { b with phase := .complete, acting := 0 }

/-- After the flag: the start request, which waits while the queue is full (R290, R311). -/
def State.basinActed (s : State) (k id : Nat) : State :=
  let b := s.basin k id
  if b.phase ≠ .completing then s
  else if !b.actDelta then s.finishBasin k id
  else match s.requestStart k ⟨b.delta, none⟩ with
    | some s => s.finishBasin k id
    | none => s.modBasin k id fun b => { b with acting := 2 }

/-- Basins that wait for room in their stack's start queue ask again (R311). -/
def State.retryBasins (s : State) (k : Nat) : State :=
  (s.stack k).basins.foldl (fun s e => if e.2.acting = 2 then s.basinActed k e.1 else s) s

/-- The sectors of the result array (R290). -/
def Basin.resultSig (b : Basin) : Sig :=
  (upTo ((4 * b.elems + 31) / 32)).foldl (fun g i => sigAdd g (b.result + 32 * i)) 0

/-- The flag event of a completed basin: `a` names the basin, `d` is 1 when TARGET's GEN is ignored (R280, R290). -/
def Basin.flagEvent (b : Basin) (k id : Nat) : Event :=
  { i := .signalDelivery, a := 4096 * k + id, b := b.flag, c := srcBasin, d := if b.tgtLive then 1 else 0, v := b.target
    sig := b.resultSig }

/-- BASIN_COMPLETE, once every half is complete (R290). -/
def State.checkBasin (s : State) (k id : Nat) : State :=
  let b := s.basin k id
  if b.phase = .armed ∧ (b.accepted.filter fun e => e.2 == b.fullMask).length = b.halves then
    let s := s.modBasin k id fun b => { b with phase := .completing, acting := 1, completed := deltaNow s.now + 1 }
    if b.actFlag then s.soon (b.flagEvent k id) else s.basinActed k id
  else s

/-! ### Reservations (R284) -/

/-- A live basin of the stack that owns an address, whose intake range holds it (R282). -/
def State.basinOf (s : State) (pa : Nat) : Option (Nat × Nat × Basin) :=
  match region pa with
  | .hbm | .side =>
    let k := stackOf pa
    let a := home pa
    let inside (b : Basin) : Bool := decide (b.result ≤ a) && decide (a < b.result + b.elems * b.inputSize)
    ((s.stack k).basins.find? fun e => e.2.live && inside e.2).map fun e => (k, e.1, e.2)
  | _ => none

/-- A grant as the reply's number: 26 bits per half, the first of them 0 for a half that is not to be sent. -/
def packGrant (l : List (Option Granted)) : Nat :=
  8 + 16 * l.foldr (fun g acc => (match g with
    | some g => 1 + 2 * (g.stack + 16 * (g.basin + 4096 * (g.arm + 256 * g.room)))
    | none => 0) + 2 ^ 26 * acc) 0

/-- How a reservation for several halves goes about them: `mdrain.acc` leaves out the halves past the basin's elements (R294),
`rsscat` reserves every one by its own address (R304), a close needs no room (R305). -/
def reserveTile : Nat := 0
def reserveEach : Nat := 1
def reserveClose : Nat := 2

/-- What a reservation asks: contributor index, tag, input type, and its kind (R284). -/
def reserveWord (k tag : Nat) (bf : Bool) (kind : Nat) : Word :=
  BitVec.ofNat 64 (k % 2 ^ 32 + tag % 2 ^ 16 * 2 ^ 32 + (if bf then 2 ^ 48 else 0) + kind % 4 * 2 ^ 49)

/-- The sub-reason with which the engine refuses a half at an address (R284). A half inside an intake range lies below H. -/
def State.refusal (s : State) (pa : Nat) (v : Word) : Option Nat :=
  match s.basinOf pa with
  | none => some 1
  | some (_, _, b) =>
    if v.getLsbD 48 ≠ b.bf then some 3
    else if b.n ≤ v.toNat % 2 ^ 32 then some 4
    else none

/-- The halves of a reservation, `none` for one that is left out. -/
def State.reserved (s : State) (pa : Nat) (rel : List Nat) (kind : Nat) : List (Option Nat) :=
  match s.basinOf pa with
  | none => rel.map fun i => some (pa + 128 * i)
  | some (_, _, b) => rel.map fun i =>
    if kind = reserveTile ∧ b.halves ≤ (home pa - b.result) / 128 + i then none else some (pa + 128 * i)

/-- Grant one half after the other; `none` where one has to wait (R284). -/
def State.grantHalves (s : State) (v : Word) : List (Option Nat) → Option (List (Option Granted) × State)
  | [] => some ([], s)
  | none :: l => (s.grantHalves v l).map fun r => (none :: r.1, r.2)
  | some pa :: l =>
    match s.basinOf pa with
    | none => none
    | some (st, id, b) =>
      let tag := bits v.toNat 47 32
      let need := bits v.toNat 50 49 != reserveClose && tag == b.round && b.needsRoom ((home pa - b.result) / 128) (v.toNat % 2 ^ 32)
      if tag = (b.round + 1) % 2 ^ 16 ∨ (need ∧ b.capacity ≤ b.slots + b.room) then none
      else
        let n := if need then 1 else 0
        ((s.modBasin st id fun b => { b with room := b.room + n }).grantHalves v l).map fun r =>
          (some ⟨st, id, b.arm.toNat, n⟩ :: r.1, r.2)

/-- The engine's reply to a reservation for some halves from an address on; `none` is WAIT (R284). A package that no port reaches
grants nothing: the request fails, for a context `origin` as an error token (R353). -/
def State.serveReserve (s : State) (pa : Nat) (rel : List Nat) (v : Word) (origin : Requester := .nobody) :
    Option Nat × State :=
  match region pa with
  | .remote p =>
    let r := Config.peerReply s.fresh
    let s := { s with fresh := s.fresh + 1 }.sendRequest p reqReserve pa (128 * rel.length) v 0 origin
    (if !s.reachable p then none
     else if r = 0 then some (packGrant (rel.map fun _ => some ⟨0, 0, 0, 0⟩)) else if r ≤ 4 then some r else none, s)
  | _ =>
    let hs := s.reserved pa rel (bits v.toNat 50 49)
    match hs.findSome? fun h => h.bind fun a => s.refusal a v with
    | some f => (some f, s)
    | none => match s.grantHalves v hs with
      | some (g, s) => (some (packGrant g), s)
      | none => (none, s)

/-- The protection fault of a refused reservation (R284). -/
def basinFault (s : State) (sub k : Nat) : Out :=
  .next (s.takeTrap causeProtection (BitVec.ofNat 64 (5 * 2 ^ 60 + sub * 2 ^ 16 + k % 4096)))

/-- The contributor index as it leaves the package (R354). -/
def State.wireIndex (s : State) (pa k : Nat) : Nat :=
  match region pa with
  | .remote _ => s.pkgId * 64 + k % 64
  | _ => k

/-- Reserve, or hold or take the fault; after the reservations of lower slots have been answered (R293). -/
def withReserve (s : State) (pa k tag : Nat) (bf : Bool) (kind : Nat) (rel : List Nat) (go : Nat → Out) : Out :=
  if s.cur.reserving then .next s.holdWaiting
  else withReply (s.modCur fun c => { c with reserving := true })
    { request opReserve pa (reserveWord (s.wireIndex pa k) tag bf kind) 0 with l := rel } true fun x =>
      if x < 8 then basinFault s x k else go x

/-! ### Packets (R283, R285, R286) -/

/-- Cycles of 2 µs (R4, R286). -/
def resendCycles : Nat := 5000

/-- Who is told of a packet that no port can carry (R353). -/
def Packet.sender (p : Packet) : Requester :=
  match p.push, p.ctx with
  | some (k, i), _ => .push k i
  | none, some x => .ctx x p.gen.toNat
  | none, none => .nobody

/-- Send a packet on its way, for the first time or again. -/
def State.travel (s : State) (p : Packet) : State :=
  let s := s.later resendCycles { i := .confluenceResend, a := p.id }
  match region p.pa with
  | .remote q =>
    let ok := Config.peerAcks s.fresh && s.reachable q
    let s := { s with fresh := s.fresh + 1 }.sendRequest q reqPacket p.pa 128
      (reserveWord p.k p.tag p.bf (if p.close then reserveClose else reserveTile)) p.payload.toNat p.sender
    if ok then s.laterOpen { i := .confluenceAck, a := p.id } else s
  | _ => s.laterOpen { i := if p.close then .basinClose else .basinPacket, a := p.id }

/-- Enter a new packet and send it. -/
def State.sendPacket (s : State) (p : Packet) : State :=
  let p := { p with id := s.nextPacket }
  { s with packets := s.packets ++ [p], nextPacket := s.nextPacket + 1 }.travel p

/-- One packet per half that the grant names, each with its payload and its place from `pa` on (R283). -/
def State.sendHalves (s : State) (ctx : Option Nat) (gen : BitVec 32) (push : Option (Nat × Nat)) (grant pa k tag : Nat)
    (bf close drain : Bool) (l : List (Nat × VWord)) : State :=
  (indexed l).foldl (fun s e => match grantAt grant e.1 with
    | none => s
    | some g =>
      let a := pa + 128 * e.2.1
      s.sendPacket
        { id := 0, ctx := ctx, gen := gen, push := push, stack := g.stack, basin := g.basin
          half := (home a - (s.basin g.stack g.basin).result) / 128, k := s.wireIndex pa k, tag := tag, arm := BitVec.ofNat 8 g.arm
          bf := bf, close := close, payload := e.2.2, room := g.room, pa := a, sends := 1, arrived := 0, done := false
          drain := drain }) s

def State.packet (s : State) (i : Nat) : Option Packet := s.packets.find? fun p => p.id == i

def State.modPacket (s : State) (i : Nat) (f : Packet → Packet) : State :=
  { s with packets := s.packets.map fun p => if p.id = i then f p else p }

/-- Forget packets whose every copy has arrived and that wait for nothing. -/
def State.sweepPackets (s : State) : State := { s with packets := s.packets.filter fun p => !(p.done && decide (p.sends ≤ p.arrived)) }

/-- Release the room reserved for a packet at its first decision (R289). -/
def State.settleRoom (s : State) (p : Packet) : State :=
  if p.room = 0 then s
  else (s.modPacket p.id fun q => { q with room := 0 }).modBasin p.stack p.basin fun b =>
    if b.arm = p.arm then { b with room := b.room - p.room } else b

/-- Record a rejection (R278, R285): kind 1 a duplicate, 2 stale. -/
def Basin.rejected (b : Basin) (kind h k : Nat) : Basin :=
  { b with
    reject := BitVec.ofNat 64 (kind * 2 ^ 62 + h % 2 ^ 28 * 2 ^ 16 + k)
    dup := if kind = 1 then min 65535 (b.dup + 1) else b.dup
    stale := if kind = 2 then min 255 (b.stale + 1) else b.stale }

/-- Whether a packet is STALE for an entry (R285); an entry that is FREE takes nothing (R291). -/
def Basin.staleFor (b : Basin) (p : Packet) : Bool := b.phase == .free || b.arm != p.arm || b.round != p.tag

/-- A packet arrives once more, is decided, and its acknowledgement sets out (R285, R286). -/
def State.arrived (s : State) (p : Packet) : State :=
  ((s.modPacket p.id fun q => { q with arrived := q.arrived + 1 }).laterOpen { i := .confluenceAck, a := p.id })

/-- Go on once the result bytes of some halves of a basin do not queue at the DRAM of a run (R315). -/
def withHalves (s : State) (k id : Nat) (hs : List Nat) (go : State → Out) : Out :=
  let b := s.basin k id
  if b.live then withDram s s.arg (hs.map fun h => (b.result + 4 * b.halfElems * h, 4 * b.halfElems)) go else go s

/-- The decision of a packet (R285). -/
def State.decidePacket (s : State) (p : Packet) : State :=
  let s := (s.settleRoom p).arrived p
  let b := s.basin p.stack p.basin
  if b.staleFor p then s.modBasin p.stack p.basin fun b => b.rejected 2 p.half p.k
  else if b.hasBit p.half p.k then s.modBasin p.stack p.basin fun b => b.rejected 1 p.half p.k
  else (s.acceptHalf p.stack p.basin p.half p.k p.payload false).checkBasin p.stack p.basin

/-- Whether the next core cycle begins in the delta cycle of this one: packets that arrive now wait for those that arrive then (R4,
R285). -/
def State.deltaGoesOn (s : State) : Bool := deltaNow (s.now + 1) == deltaNow s.now

/-- Whether a packet of the same half with a lower contributor index has arrived in this delta cycle too, and is decided first
(R285). -/
def State.outranked (s : State) (p : Packet) : Bool :=
  s.agenda.any fun e => e.i == .basinPacket && e.c != 1 && (s.packet e.a).any fun q =>
    q.stack == p.stack && q.basin == p.basin && q.half == p.half && decide (q.k < p.k)

/-- A packet reaches the engine; one whose CRC fails (`c` is 1) is discarded unacknowledged (R283). -/
def execBasinPacket (s : State) : Out :=
  match s.packet s.arg.a with
  | none => .next s
  | some p =>
    if s.arg.c = 1 then
      .next ((s.modPacket p.id fun q => { q with arrived := q.arrived + 1 }).modBasin p.stack p.basin fun b =>
        { b with checksum := true }).sweepPackets
    else if s.deltaGoesOn then .next (s.later 1 s.arg)
    else if s.outranked p then .next (s.soon s.arg)
    else withHalves s p.stack p.basin [p.half] fun s => .next (s.decidePacket p).sweepPackets

/-- Halves of a close that are applied in one delta cycle (R305). -/
def closeBatch : Nat := 16

/-- The next halves to which a close in progress is applied (R305). -/
def Basin.closeNext (b : Basin) (k : Nat) : List Nat :=
  match b.closes.find? fun c => c.1 == k with
  | some c => ((upTo closeBatch).map (c.2 + ·)).filter fun h => h < b.halves
  | none => []

/-- Apply a close in progress to its next halves; the acknowledgement sets out after the last (R305). -/
def State.applyClose (s : State) (p : Packet) : State :=
  let hs := (s.basin p.stack p.basin).closeNext p.k
  let s := hs.foldl (fun s h =>
    if bit ((s.basin p.stack p.basin).bitsOf h) p.k then s else s.acceptHalf p.stack p.basin h p.k 0 true) s
  let s := s.modBasin p.stack p.basin fun b =>
    { b with closes := b.closes.map fun c => if c.1 = p.k then (c.1, c.2 + hs.length) else c }
  if ((s.basin p.stack p.basin).closeNext p.k).isEmpty then
    ((s.modBasin p.stack p.basin fun b => { b with closes := b.closes.filter fun c => c.1 != p.k }).arrived p).checkBasin p.stack p.basin
  else s.later (if s.deltaGoesOn then 2 else 1) { s.arg with c := 2 }

/-- A close reaches the engine and is decided by the STALE test (R305). One that finds every bit set has no effect; where a close of its
index is being applied, it is acknowledged when that has been applied to every half. `c` is 2 where a close in progress goes on, 3 where
another waits for its end. -/
def execBasinClose (s : State) : Out :=
  match s.packet s.arg.a with
  | none => .next s
  | some p =>
    let b := s.basin p.stack p.basin
    let busy := b.closes.any fun c => c.1 == p.k
    if s.arg.c = 3 then .next (if busy then s.later 1 s.arg else (s.arrived p).sweepPackets)
    else if b.staleFor p then
      .next (((s.arrived p).modBasin p.stack p.basin fun b => if s.arg.c = 2 then b else b.rejected 2 p.half p.k)).sweepPackets
    else if s.arg.c ≠ 2 ∧ busy then .next (s.later 1 { s.arg with c := 3 })
    else
      let s := if s.arg.c = 2 then s
        else { (s.modBasin p.stack p.basin fun b => { b with closes := b.closes ++ [(p.k, 0)] }) with arg := { s.arg with c := 2 } }
      withHalves s p.stack p.basin ((s.basin p.stack p.basin).closeNext p.k) fun s => .next (s.applyClose p).sweepPackets

/-- A push of packets whose every packet is done finishes (R335). -/
def State.notePush (s : State) (p : Packet) : State :=
  match p.push with
  | some (k, i) =>
    if s.packets.any fun q => q.push == some (k, i) && !q.done then s else s.soon { i := .dpushFinish, a := k, b := i }
  | none => s

def execConfluenceAck (s : State) : Out :=
  match s.packet s.arg.a with
  | none => .next s
  | some p =>
    if p.done then .next s
    else
      let remote : Bool := match region p.pa with
        | .remote _ => true
        | _ => false
      let s := s.modPacket p.id fun q => { q with done := true, arrived := if remote then q.sends else q.arrived }
      .next (s.notePush p).sweepPackets

/-- CONFLUENCE_LOST: the eighth send was not acknowledged, an error that nothing corrects (R286, R384). -/
def State.losePacket (s : State) (p : Packet) : State :=
  let s := s.uncorrected.modPacket p.id fun q => { q with done := true }
  match p.push, p.ctx with
  | some (k, _), _ =>
    (s.modStack k fun x => { x with delta := { x.delta with run := x.delta.run.map fun r => { r with pushLost := true } } }).notePush
      p
  | none, some x =>
    let s := s.errorLog x 6 p.gen.toNat p.pa
    if (s.ctxAt x).csr.gen = p.gen then s.failLaunch (s.ctxAt x).launch causeContextFault else s
  | none, none => s

/-- Two microseconds without an acknowledgement: the packet is sent again, which corrects its loss (R286, R384). -/
def execConfluenceResend (s : State) : Out :=
  match s.packet s.arg.a with
  | none => .next s
  | some p =>
    if p.done then .next s
    else if 8 ≤ p.sends then .next (s.losePacket p)
    else
      .next ((s.corrected.modPacket p.id fun q => { q with sends := q.sends + 1 }).travel p)

/-! ### `accw`, `mdrain.acc`, `basin.q` (R293 to R295) -/

/-- CONTRIB and the round tag of a context (R293). -/
def State.contrib (s : State) : Nat := s.ctx.csr.contrib.toNat
def State.roundTag (s : State) : Nat := s.ctx.csr.pinRound.toNat % 2 ^ 16

/-- Translate for the confluence engine, then go on with the physical address (R184). -/
def withConfluence (s : State) (ea n : Nat) (k : Nat → Out) : Out :=
  withXlate s (s.xlate ea n { kind := .confluence }) fun l =>
    match l with
    | [] => .next s
    | p :: _ => k p.pa

/-- The packets of a granted reservation of the context. -/
def State.sendMine (s : State) (grant pa k : Nat) (bf close drain : Bool) (l : List (Nat × VWord)) : State :=
  (s.sendHalves (some s.cur.ctx) s.ctx.csr.gen none grant pa k s.roundTag bf close drain l).noteSender

def execAccw (v : BitVec 5) (a : BitVec 6) (c : BitVec 12) (e b : BitVec 1) (s : State) : Out :=
  let ea := lineOf (s.effective a s.lentOffset 128)
  let k := if e = 1 then c.toNat else s.contrib
  withConfluence s ea 128 fun pa =>
    withReserve s pa k s.roundTag (b == 1) reserveTile [0] fun g =>
      .next (s.sendMine g pa k (b == 1) false false [(0, s.rV v)])

/-- The halves of a drained image (R259, R294). -/
def drainHalves (img : List Nat) (n : Nat) : List (Nat × VWord) :=
  (upTo n).map fun h => (h, BitVec.ofNat 1024 (((img.drop (128 * h)).take 128).foldr (fun b acc => b + 256 * acc) 0))

def execMdrainAcc (a : BitVec 2) (r : BitVec 6) (t : BitVec 5) (s : State) : Out :=
  withDrain s fun mode sat => withTile s a
    (let bytes := imageBytes t.toNat
     let n := bytes / 128
     let ea := (s.rS r).toNat - (s.rS r).toNat % bytes
     withConfluence s ea bytes fun pa =>
       if (s.core s.coreId).isBusy s.now (.tile a.toNat) then .next s.hold
       else withReserve s pa s.contrib s.roundTag (t == 10) reserveTile (upTo n) fun g =>
         let x := drainImage (s.core s.coreId) t.toNat a.toNat mode sat
         .next (((s.logEvs x.2).sendMine g pa s.contrib (t == 10) false true (drainHalves x.1 n)).modCore s.coreId fun c =>
           c.startOp s.now [{ kind := .tile a.toNat, ctx := s.cur.ctx, last := s.now + 7 + n }] []))

/-- State codes of a status word (R295). -/
def BasinPhase.code : BasinPhase → Nat
  | .free => 0 | .armed => 1 | .completing => 2 | .complete => 3

/-- The status word of entry `id` of stack `k` (R295). -/
def Basin.status (b : Basin) (k id : Nat) : Nat :=
  b.phase.code + b.events.toNat * 8 + (if b.actionLost then 2 ^ 6 else 0) + (if b.checksum then 2 ^ 7 else 0) +
    b.stale * 2 ^ 8 + b.dup * 2 ^ 16 + b.round * 2 ^ 32 + k * 2 ^ 48 + id * 2 ^ 52

/-- A query of another package's basin is a request to it (R295, R353). -/
def State.askQuery (s : State) (pa : Nat) : State :=
  match region pa with
  | .remote q => s.ask q reqQuery pa 1 0 0
  | _ => s

/-- The word that a query lands: a live basin's first, then that of a COMPLETE one, else 0 (R295). -/
def State.queryWord (s : State) (pa : Nat) : Word :=
  match s.basinOf pa with
  | some (k, id, b) => BitVec.ofNat 64 (b.status k id)
  | none =>
    match region pa with
    | .remote _ => Config.peerWord s.fresh
    | .hbm | .side =>
      let k := stackOf pa
      let a := home pa
      match (s.stack k).basins.find? fun e => e.2.phase == .complete && decide (e.2.result ≤ a) &&
          decide (a < e.2.result + e.2.elems * e.2.inputSize) with
      | some (id, b) => BitVec.ofNat 64 (b.status k id)
      | none => 0
    | _ => 0

def execBasinQ (d a : BitVec 6) (u : BitVec 10) (s : State) : Out :=
  noLent s (withDue s u.toNat fun n =>
    withEntry s (withXlate s (s.xlate (s.rS a).toNat 1 { kind := .query }) fun l =>
      match l with
      | [] => .next s
      | p :: _ => .next ((({ s with fresh := s.fresh + 1 }.askQuery p.pa).noteFar p.pa).land n [.s d (s.queryWord p.pa)] [])))

/-! ### Declaration (R280, R281) and retirement (R291) -/

/-- The fields of a declaration record. -/
def declared (x : Nat) (old : Basin) : Basin :=
  { result := fieldAt x 0 8, elems := fieldAt x 8 4 + 1, n := fieldAt x 12 2, mode := fieldAt x 16 1
    flags := BitVec.ofNat 8 (fieldAt x 17 1), flag := fieldAt x 18 1, round := fieldAt x 20 2, staging := fieldAt x 24 8
    stagingSize := fieldAt x 32 4, target := BitVec.ofNat 64 (fieldAt x 40 8), delta := fieldAt x 48 8, arm := old.arm
    reject := old.reject }

/-- Whether `n` bytes from `a` lie in a stack's bank-linear view or its side store (R281). -/
def State.inStack (s : State) (k a n : Nat) : Bool :=
  (decide (hbmBase + k * 2 ^ 36 ≤ a) && decide (a + n ≤ hbmBase + (k + 1) * 2 ^ 36)) ||
    (decide (sideBase + k * 2 ^ 28 ≤ a) && decide (a + n ≤ sideBase + (k + 1) * 2 ^ 28) &&
      (upTo 16).all fun w =>
        let lo := sideBase + k * 2 ^ 28 + w * 2 ^ 24
        decide (a + n ≤ lo) || decide (lo + 2 ^ 24 ≤ a) || (s.stack k).sideStatus.getLsbD w)

/-- Whether two byte ranges share a byte. -/
def rangesMeet (a n b m : Nat) : Bool := decide (0 < n) && decide (0 < m) && decide (a < b + m) && decide (b < a + n)

/-- Whether a record's own fields are legal (R280, R281). -/
def declarationOk (x : Nat) : Bool :=
  fieldAt x 22 2 == 0 && fieldAt x 36 4 == 0 && fieldAt x 56 8 == 0 && fieldAt x 0 8 % 256 == 0 &&
    decide (1 ≤ fieldAt x 12 2) && decide (fieldAt x 12 2 ≤ 4096) && decide (fieldAt x 14 2 ≤ 4095) &&
    decide (fieldAt x 16 1 ≤ 3) && decide (fieldAt x 17 1 < 64) && decide (fieldAt x 18 1 < 16) && decide (fieldAt x 19 1 ≤ 15) &&
    fieldAt x 24 8 % 4096 == 0 && fieldAt x 32 4 % 4096 == 0

/-- Whether a declaration for stack `k` and entry `id` is one the table may take (R281, its list of overlaps literally: DEDUCED, log
entry 51). -/
def State.declarable (s : State) (k id : Nat) (b : Basin) : Bool :=
  let others := (s.stack k).basins.filter fun e => e.2.live && e.1 != id
  let n := 4 * b.elems
  s.inStack k b.result n && (b.stagingSize == 0 || s.inStack k b.staging b.stagingSize) &&
    !rangesMeet b.staging b.stagingSize b.result n &&
    (others.all fun e =>
      !rangesMeet b.staging b.stagingSize e.2.result (4 * e.2.elems) && !rangesMeet b.staging b.stagingSize e.2.staging e.2.stagingSize &&
        !rangesMeet b.result n e.2.result (4 * e.2.elems)) &&
    (b.mode == 0 || decide (b.slotBytes ≤ b.stagingSize)) &&
    (!b.actFlag || (s.targetHere b.target && decide (b.target.toNat % 2 ^ 12 < 3072)))

def execBasinDeclare (s : State) : Out :=
  let g := s.arg.a
  let n := s.arg.b
  let y := s.node g n
  if y.phase ≠ .running then .next s
  else withWalker s [(y.body, 64)] fun s => match if y.body % 64 = 0 then s.walkerRead y.body 64 else none with
    | none => .next (s.nodeFailed g n causeBadRecord)
    | some x =>
      let k := fieldAt x 19 1
      let id := fieldAt x 14 2
      let b := declared x (s.basin k id)
      if !declarationOk x ∨ !s.declarable k id b then .next (s.nodeFailed g n causeBadRecord)
      else if (s.basin k id).live then .next (s.nodeFailed g n causeTableFull)
      else .next ((s.armBasin k id b).nodeDone g n 0)

/-- Choose the basin that BASIN_REJECT shows (R278). -/
def execBasinSelect (s : State) : Out :=
  withMgmt s (.next (s.modStack s.arg.a fun x => { x with basinSelect := s.arg.v.toNat % 4096 }))

/-- BASIN_SELECT with bit 63 frees the entry; its staged data are discarded (R278, R291). -/
def execBasinRetire (s : State) : Out :=
  let id := s.arg.v.toNat % 4096
  withMgmt s (.next ((s.modStack s.arg.a fun x => { x with basinSelect := id }).modBasin s.arg.a id fun b =>
    { b with
      phase := .free, accepted := [], given := [], partials := [], room := 0, acting := 0, zeros := [], closes := [], spoilt := [] }))

/-! ### Side store (R278) -/

/-- Whether a way holds a byte of a live basin's result array or staging area. -/
def State.wayInUse (s : State) (k w : Nat) : Bool :=
  let lo := sideBase + k * 2 ^ 28 + w * 2 ^ 24
  (s.stack k).basins.any fun e => e.2.live &&
    (rangesMeet lo (2 ^ 24) e.2.result (4 * e.2.elems) || rangesMeet lo (2 ^ 24) e.2.staging e.2.stagingSize)

/-- Discard the bytes of the ways of a mask: they read zero (R278). -/
def State.zeroWays (s : State) (k : Nat) (m : BitVec 16) : State :=
  (upTo 16).foldl (fun s w =>
    let lo := sideBase + k * 2 ^ 28 + w * 2 ^ 24
    if m.getLsbD w then s.zeroRange lo (lo + 2 ^ 24) else s) s

def execSideWaysWrite (s : State) : Out :=
  let k := s.arg.a
  let new : BitVec 16 := s.arg.v.setWidth 16
  let x := s.stack k
  withMgmt s
    (if x.converting ∨ (upTo 16).any fun w => x.sideWays.getLsbD w && !new.getLsbD w && s.wayInUse k w then .next s
     else if new = x.sideWays then .next s
     else
       .next ((s.modStack k fun x =>
         { x.dropKept fun _ l => new.getLsbD l.way with sideWays := new, sideStatus := x.sideWays &&& new, converting := true }).laterOpen
         { i := .sideConversionDone, a := k }))

/-- The ways that changed have been written back, invalidated and zeroed; SIDE_STATUS reads 0 again. -/
def execSideConversionDone (s : State) : Out :=
  let k := s.arg.a
  let x := s.stack k
  .next ((s.zeroWays k (x.sideWays ^^^ x.sideStatus ||| ~~~x.sideWays)).modStack k fun x =>
    { x with sideStatus := x.sideWays, converting := false })

end Sys2Proof.Machine
end

