-- ==== Sys2Proof/Machine/Control.lean ====
section
/-!
DEFINITION. Control flow (R47, R89 to R91), the TREE and LEND headers (R57, R60, R61), `halt`, `yield`, `prio` (R78, R80,
R92), and the trap instructions (R363, R367 to R371).
-/
namespace Sys2Proof.Machine

/-- No operation; its format takes no lent bits (R58). -/
def execNop (s : State) : Out := noLent s (.next s)

/-- The bundle transfers control: the next bundle issues `gap` cycles after it at the earliest (R89); the low four bits of a
target are ignored (R47). -/
def State.transfer (s : State) (target : Word) (gap : Nat) : State :=
  s.modCur fun c => { c with transfer := some (target &&& ~~~0xF#64, gap) }

/-- The address `off` bundles from the bundle (R47). -/
def State.relative (s : State) (off : Int) : Word := s.cur.pc + word (16 * off)

def execJmp (o : BitVec 26) (s : State) : Out := noLent s (.next (s.transfer (s.relative o.toInt) 1))
def execJmpi (a : BitVec 6) (s : State) : Out := noLent s (.next (s.transfer (s.rS a) 2))

/-- Branch when the condition bit reads 1, or 0 with neg (R89). -/
def execBrC (c : BitVec 4) (n : BitVec 1) (o : BitVec 21) (s : State) : Out :=
  noLent s (.next (if s.rC c != (n == 1) then s.transfer (s.relative o.toInt) 1 else s))

/-! ### The shadow stack (R91) -/

/-- Push: overflow traps; the return address is stored with privileged rights, `s63` is written and control transfers. -/
def pushCall (s : State) (target : Word) (gap : Nat) : Out :=
  let top := s.ctx.csr.shadowTop
  if s.ctx.csr.shadowLimit.toNat < top.toNat + 8 then .next (s.takeTrap causeShadow top)
  else
    withXlate s (s.translateAll s.cur.ctx top.toNat { kind := .shadow } true (s.accessPieces top.toNat 8)) fun l =>
      withLines s l fun s =>
        (let ra := s.cur.pc + 16
         let s := s.writePieces top.toNat l ra.toNat
         let s := s.modCtx fun c => { c with csr := { c.csr with shadowTop := top + 8 } }
         .next ((s.wS 1 63 ra).transfer target gap))

def execCall (o : BitVec 26) (s : State) : Out := noLent s (pushCall s (s.relative o.toInt) 1)
def execCalli (a : BitVec 6) (s : State) : Out := noLent s (pushCall s (s.rS a) 2)

/-- Operation code of a `ret`'s read of its shadow entry. -/
def opRet : Nat := 8

/-- Ret: the bundle holds until the entry below SHADOW_TOP has been read, which must equal `s63` in all 64 bits (R83, R91). The read is
none of the replies that delay the traps of higher slots (R52); the time it takes is open. DEDUCED, log entry 88. -/
def execRet (s : State) : Out :=
  noLent s
    (let c := s.ctx.csr
     let link := s.rS 63
     let bad : Out := .next (s.takeTrap causeIntegrity link)
     if c.shadowTop.toNat < c.shadowBase.toNat + 8 then bad
     else
       let ea := c.shadowTop.toNat - 8
       withXlate s (s.translateAll s.cur.ctx ea { kind := .shadow } true (s.accessPieces ea 8)) fun l =>
         withLines s l fun s => (withReply s (request opRet 0 0 0) false fun _ =>
           let (e, s') := s.readPieces l
           if e ≠ link.toNat then bad
           else .next ((s'.modCtx fun c => { c with csr := { c.csr with shadowTop := BitVec.ofNat 64 ea } }).transfer link 2)))

/-! ### Branch targets, TREE and LEND headers -/

def execSetbLabel (b : BitVec 2) (o : BitVec 23) (s : State) : Out :=
  noLent s (.next (s.queue 1 (.b b (s.relative o.toInt))))
def execSetbReg (b : BitVec 2) (a : BitVec 6) (s : State) : Out := noLent s (.next (s.queue 1 (.b b (s.rS a))))

/-- What the header lends to slots 1 to 3 (R57). -/
def execLendHeader (a b : BitVec 9) (c : BitVec 8) (s : State) : Out :=
  .next (s.modCur fun x => { x with lend := some (a.toNat, b.toNat, c.toNat) })

/-- The leaf of four tests: the first true one, counted from 1, or 0 (R60). -/
def leafTaken (a b c d : Bool) : Nat := if a then 1 else if b then 2 else if c then 3 else if d then 4 else 0

/-- The header chooses the leaf, by which slots 1 and 2 commit (R60). -/
def execTreeHeader (a b c d : BitVec 4) (x y : BitVec 5) (s : State) : Out :=
  .next (s.modCur fun z => { z with
    leaf := some (leafTaken (s.rC a) (s.rC b) (s.rC c) (s.rC d), x.toNat, y.toNat) })

/-- The transfer of the taken leaf: L0 falls through, −32 names `b[n]` (R61, R89). -/
def execBrTree (a b c d : BitVec 6) (n : BitVec 2) (s : State) : Out :=
  noLent s
    (let go (o : BitVec 6) : Out :=
       if o = 0x20 then withSound s [(5, n.toNat)] (.next (s.transfer (s.rB n) 2)) else .next (s.transfer (s.relative o.toInt) 1)
     match s.cur.leaf with
     | some (1, _, _) => go a
     | some (2, _, _) => go b
     | some (3, _, _) => go c
     | some (4, _, _) => go d
     | _ => .next s)

/-! ### halt, yield, prio -/

/-- The failure cause of a launch whose routine halts (R109, R363). -/
def haltCause (cause : Nat) : Nat := if cause = 0x21 then 0x06 else if cause = 0x22 then 0x0B else 0x05

/-- The context enters RETIRING (R92); in a routine it parks, or retires and ends its launch FAILED (R363, R364). -/
def execHalt (s : State) : Out :=
  noLent s (.next (s.modCtx fun c =>
    if c.priv then
      if c.trap.cause = 0x20 ∧ c.trap.info.getLsbD 8 then { c with phase := .parking }
      else { c with phase := .retiring, failCause := some (haltCause c.trap.cause.toNat) }
    else { c with phase := .retiring }))

/-- The next cycle is a switch (R80). -/
def execYield (s : State) : Out := noLent s (.next (s.modCur fun c => { c with yielded := true }))

/-- LEVEL becomes the smaller of the level and CEIL (R78). -/
def execPrio (l : BitVec 2) (s : State) : Out :=
  noLent s (.next (s.modCtx fun c =>
    { c with csr := { c.csr with level := if c.csr.ceil.toNat < l.toNat then c.csr.ceil else l } }))

/-! ### Traps -/

/-- The rest of the bundle takes effect, then TRAP is taken (R367); in privileged mode it is a double fault (R359). -/
def execTrap (c : BitVec 6) (s : State) : Out :=
  noLent s
    (if s.ctx.priv then .next (s.takeTrap causeTrap (c.setWidth 64))
     else .next (s.modCur fun x => { x with after := some (c.toNat, s.cur.slot) }))

/-- BREAKPOINT, precisely (R368). -/
def execBrk (c : BitVec 6) (s : State) : Out := noLent s (.next (s.takeTrap causeBreak (c.setWidth 64)))

/-- Return from the routine (R369): at the end of the cycle the mode is user again with the skip bits carried, the saved flags
join the set flags, and control goes to TRAP_PC with the timing of an indirect jump. Illegal in user mode (R54). -/
def execEret (s : State) : Out :=
  noLent s
    (if !s.ctx.priv then .next s.illegal
     else
       let t := s.ctx.trap
       .next (((s.queue 1 (.leave (if 0x20 ≤ t.cause.toNat then t.info.setWidth 4 else 0))).setFlags t.status).transfer
         t.pc 2))

/-- Whether everything of a context in flight has settled (R370): results issued before `stamp`, landings, busy bits, the packets of
`mdrain.acc`, and transposes ready. -/
def State.settled (s : State) (x : Nat) : Bool :=
  let c := s.ctxAt x
  let k := s.core (coreOf x)
  c.flow.landings.isEmpty && (c.flow.pending.all fun p => decide (c.flow.stamp ≤ p.stamp)) &&
    (k.busy.all fun b => b.ctx != x || decide (b.last < s.now)) && !s.owesDrain x &&
    (k.transposes.all fun t => t.ctx != x || decide (t.ready ≤ s.now))

/-- The bundle holds until what the context has issued before it has settled; its own slots have issued nothing yet (R46, R370). -/
def execCtxQuiesce (s : State) : Out :=
  noLent s
    (if !s.ctx.priv then .next s.illegal
     else if s.cur.drained then .next s else .next s.hold)

/-- One register of the first-event log, latency 2 (R371). -/
def execEvlogRd (d : BitVec 6) (r : BitVec 2) (s : State) : Out :=
  let l := s.ctx.log
  noLent s (.next (s.wS 2 d
    (match r.toNat with
     | 0 => l.pc
     | 1 => l.slot.setWidth 64
     | 2 => l.kind.setWidth 64
     | _ => l.sum.setWidth 64)))

/-- The log is emptied at the end of the bundle (R41). -/
def execEvlogClr (s : State) : Out := noLent s (.next (s.modCur fun c => { c with clearLog := true }))

end Sys2Proof.Machine
end

