-- ==== Sys2Proof/Machine/Csr.lean ====
section
/-!
DEFINITION. Control registers: numbers, access (R124, R125), reads (R123) and what a write does (R126).
-/
namespace Sys2Proof.Machine

/-- The access of a control register in user mode: readable, writable; `none` for an unassigned number (R124). -/
def csrUser (n : Nat) : Option (Bool × Bool) :=
  if n ≤ 0x007 then some (true, false)
  else if 0x010 ≤ n ∧ n ≤ 0x012 then some (true, true)
  else if 0x013 ≤ n ∧ n ≤ 0x016 then some (true, false)
  else if 0x018 ≤ n ∧ n ≤ 0x01B then some (true, false)
  else if 0x020 ≤ n ∧ n ≤ 0x023 then some (true, false)
  else if 0x030 ≤ n ∧ n ≤ 0x037 then some (false, false)
  else none

/-- Whether a read is allowed (R125): every assigned register is readable in privileged mode. -/
def csrReadable (priv : Bool) (n : Nat) : Bool :=
  match csrUser n with
  | none => false
  | some (r, _) => r || priv

/-- Whether a write is allowed (R125): CTX_ID, CORE_ID, CTX_GEN and CYCLE take none. -/
def csrWritable (priv : Bool) (n : Nat) : Bool :=
  match csrUser n with
  | none => false
  | some (_, w) => w || (priv && n != 0 && n != 1 && n != 2 && n != 4)

/-- A control register's value, reserved bits zero (R5, R124). -/
def State.readCsr (s : State) (x : Nat) (n : Nat) : Word :=
  let c := s.ctxAt x
  match n with
  | 0x000 => BitVec.ofNat 64 x
  | 0x001 => BitVec.ofNat 64 (coreOf x)
  | 0x002 => c.csr.gen.setWidth 64
  | 0x003 => BitVec.ofNat 64 (c.csr.level.toNat + 16 * c.csr.ceil.toNat)
  | 0x004 => BitVec.ofNat 64 (s.now - s.cycleBase)
  | 0x005 => c.csr.issueCount
  | 0x006 => c.csr.holdCount
  | 0x007 => c.csr.rampHoldCount
  | 0x010 => c.csr.fpctl.setWidth 64
  | 0x011 => c.csr.seed
  | 0x012 => c.csr.streamBase
  | 0x013 => c.csr.contrib.setWidth 64
  | 0x014 => c.csr.pinRound
  | 0x015 => (s.core (coreOf x)).accOwn.setWidth 64
  | 0x016 => (s.core (coreOf x)).bankRole
  | 0x018 => c.log.pc
  | 0x019 => c.log.slot.setWidth 64
  | 0x01A => c.log.kind.setWidth 64
  | 0x01B => c.log.sum.setWidth 64
  | 0x020 => c.csr.codeLimit
  | 0x021 => c.csr.shadowBase
  | 0x022 => c.csr.shadowTop
  | 0x023 => c.csr.shadowLimit
  | 0x030 => c.trap.pc
  | 0x031 => c.trap.slot.setWidth 64
  | 0x032 => c.trap.cause.setWidth 64
  | 0x033 => c.trap.info
  | 0x034 => c.trap.status.setWidth 64
  | 0x035 => c.trap.vec
  | 0x036 => c.trap.scratch0
  | 0x037 => c.trap.scratch1
  | _ => 0

/-- Write CTX_PRIO: CEIL is set, and a LEVEL above it becomes CEIL (R126). -/
def Csrs.writePrio (c : Csrs) (v : Word) : Csrs :=
  let l : BitVec 2 := v.setWidth 2
  let t : BitVec 2 := (v >>> 4).setWidth 2
  { c with ceil := t, level := if t.toNat < l.toNat then t else l }

/-- Write FPCTL: codes 0b110 and 0b111 leave the field unchanged (R27). -/
def Csrs.writeFpctl (c : Csrs) (v : Word) : Csrs :=
  if v.toNat % 8 ≤ 5 then { c with fpctl := v.setWidth 3 } else c

/-- Write a first-event log register (R126): events of instructions issued at or before `stamp` leave it as written. The three entry
registers describe one event, so that a write of any of them keeps such events out of all three. DESIGN CHOICE, log entry 83. -/
def EvLog.write (l : EvLog) (stamp n : Nat) (v : Word) : EvLog :=
  match n with
  | 0x018 => { l with pc := v &&& 0x01FFFFFFFFFFFFF0#64, clear := stamp }
  | 0x019 => { l with slot := v.setWidth 2, clear := stamp }
  | 0x01A => { l with kind := v.setWidth 13 &&& 0x1F07#13, stamp := stamp, clear := stamp }
  | _ => { l with sum := v.setWidth 6, sumClear := stamp }

/-- Write a control register of context scope; reserved bits are ignored (R5, R124, R126). -/
def Ctx.writeCsr (c : Ctx) (stamp n : Nat) (v : Word) : Ctx :=
  let k := c.csr
  let t := c.trap
  match n with
  | 0x003 => { c with csr := k.writePrio v }
  | 0x005 => { c with csr := { k with issueCount := v } }
  | 0x006 => { c with csr := { k with holdCount := v } }
  | 0x007 => { c with csr := { k with rampHoldCount := v } }
  | 0x010 => { c with csr := k.writeFpctl v }
  | 0x011 => { c with csr := { k with seed := v } }
  | 0x012 => { c with csr := { k with streamBase := v } }
  | 0x013 => { c with csr := { k with contrib := v.setWidth 32 } }
  | 0x014 => { c with csr := { k with pinRound := v } }
  | 0x018 => { c with log := c.log.write stamp n v }
  | 0x019 => { c with log := c.log.write stamp n v }
  | 0x01A => { c with log := c.log.write stamp n v }
  | 0x01B => { c with log := c.log.write stamp n v }
  | 0x020 => { c with csr := { k with codeLimit := v &&& ~~~0xF#64 } }
  | 0x021 => { c with csr := { k with shadowBase := v &&& ~~~0x7#64 } }
  | 0x022 => { c with csr := { k with shadowTop := v &&& ~~~0x7#64 } }
  | 0x023 => { c with csr := { k with shadowLimit := v &&& ~~~0x7#64 } }
  | 0x030 => { c with trap := { t with pc := v &&& ~~~0xF#64 } }
  | 0x031 => { c with trap := { t with slot := v.setWidth 2 } }
  | 0x032 => { c with trap := { t with cause := v.setWidth 8 } }
  | 0x033 => { c with trap := { t with info := v } }
  | 0x034 => { c with trap := { t with status := v.setWidth 16 } }
  | 0x035 => { c with trap := { t with vec := v &&& ~~~0xF#64 } }
  | 0x036 => { c with trap := { t with scratch0 := v } }
  | 0x037 => { c with trap := { t with scratch1 := v } }
  | _ => c

/-- What a `csr.wr` does at the end of its cycle (R126): core-scope registers act on the core. -/
def State.writeCsr (s : State) (x stamp n : Nat) (v : Word) : State :=
  match n with
  | 0x015 => s.modCore (coreOf x) fun c => { c with accOwn := v.setWidth 16 }
  | 0x016 => s.changeRoles (coreOf x) v
  | _ => s.modCtxAt x fun c => c.writeCsr stamp n v

/-- `csr.rd`: the value at the start of the issue cycle, latency 2 (R113, R123, R125). -/
def execCsrRd (d : BitVec 6) (n : BitVec 12) (s : State) : Out :=
  noLent s
    (if csrReadable s.ctx.priv n.toNat then .next (s.wS 2 d (s.readCsr s.cur.ctx n.toNat)) else .next s.illegal)

/-- `csr.wr` of a register without holds: it takes effect at the end of the cycle (R123, R125, R126). -/
def csrWrite (s : State) (r : BitVec 6) (n : BitVec 12) : Out :=
  noLent s (if csrWritable s.ctx.priv n.toNat then .next (s.queue 1 (.csr n (s.rS r))) else .next s.illegal)

def execCsrWr (r : BitVec 6) (n : BitVec 12) (s : State) : Out := csrWrite s r n
def execCsrWrFpctl (r : BitVec 6) (s : State) : Out := csrWrite s r 0x010
def execCsrWrCtxPrio (r : BitVec 6) (s : State) : Out := csrWrite s r 0x003

/-- Tiles whose owner differs between two ACC_OWN values (R105, R126). -/
def ownerChanges (a b : BitVec 16) : List Nat :=
  (upTo 4).filter fun t => (upTo 4).any fun c => a.getLsbD (4 * c + t) != b.getLsbD (4 * c + t)

/-- Writing ACC_OWN holds while a tile whose owner changes is busy (R126). -/
def execCsrWrAccOwn (r : BitVec 6) (s : State) : Out :=
  noLent s
    (if !csrWritable s.ctx.priv 0x015 then .next s.illegal
     else
       let c := s.core s.coreId
       if (ownerChanges c.accOwn ((s.rS r).setWidth 16)).any fun t => c.isBusy s.now (.tile t) then .next s.hold
       else csrWrite s r 0x015)

/-- Writing BANK_ROLE acts as `bank.role` on every bank whose field changes; a value that is not well formed is rejected
without a trap (R126, R173). -/
def execCsrWrBankRole (r : BitVec 6) (s : State) : Out :=
  noLent s
    (if !csrWritable s.ctx.priv 0x016 then .next s.illegal
     else
       let c := s.core s.coreId
       let new := s.rS r
       if !wellFormedRoles new then .next s
       else if (upTo 32).any fun j => roleOf c.bankRole j != roleOf new j && c.isChanging s.now j then .next s.hold
       else csrWrite s r 0x016)

end Sys2Proof.Machine
end

