-- ==== Sys2Proof/Machine/Traps.lean ====
section
/-!
DEFINITION. What comes to a core from outside its bundles: engine replies (R230, R284, R348), instruction fills (R83), landings
(R86, R87), the switch (R80), asynchronous traps (R360), flag deliveries (R224, R225), power gating (R226), contexts that become
FREE (R92), pre-emption, parking and resuming (R361 to R365).
-/
namespace Sys2Proof.Machine

/-! ### Replies and fills -/

/-- What the engine named by a request's operation answers; `none` means not yet. -/
def State.serve (s : State) (e : Event) : Option Nat × State :=
  let op := e.c % 16
  let x := e.c / 16
  if op ≤ opBarWait then s.serveBarrier e.a op x e.v
  else if op = opWaitw then s.serveWatch e
  else if op = opReserve then s.serveReserve x e.l e.v (.ctx e.a (s.ctxAt e.a).csr.gen.toNat)
  else if op = opRoundPin then s.serveRoundPin e x
  else if op = opRoundWait then s.serveRoundWait e x
  else if op = opUnit then (some e.v.toNat, s)
  else (some 0, s)

/-- Whether a request is still waited for. -/
def State.awaited (s : State) (e : Event) : Bool :=
  Store.get (.requested 0) (s.ctxAt e.a).flow.waits e.b == .requested (e.d + 1)

/-- The home agent acknowledges a store to host or remote memory, once the port has carried it (R207, R352). -/
def State.acknowledge (s : State) (e : Event) : State :=
  match s.acks.find? fun a => a.id == e.d with
  | none => s
  | some a =>
    let sender : Requester := match a.ctx with
      | some x => .ctx x (s.ctxAt x).csr.gen.toNat
      | none => .core a.core
    if s.carrying sender then s.laterOpen e else { s with acks := s.acks.erase a }

/-- An engine or the memory side answers a held bundle; a request that must wait is asked again, but for those that wait at the engine: a
`waitw`'s watch (R231), a `round.pin` and a `round.wait` (R344, R350), and those to a package that no port reaches (R353). -/
def execEngineReply (s : State) : Out :=
  let e := s.arg
  if e.c = opAck then .next (s.acknowledge e)
  else if !s.awaited e then .next s
  else match s.serve e with
    | (some x, s) => .next (s.reply e.a e.b e.d x)
    | (none, s) =>
      let far := (e.c % 16 ≤ opBarWait ∨ e.c % 16 = opReserve) ∧ s.unreachable (e.c / 16)
      .next (if [opWaitw, opRoundPin, opRoundWait].contains (e.c % 16) ∨ far then s else s.laterOpen e)

/-- The 128 bytes of a line as instruction fetch reads them: the die's L2 where it holds a sector, else the memory side. -/
def State.fetchLine (s : State) (die line : Nat) : VWord :=
  let l := s.l2Line die line
  (upTo 4).foldl (fun d k =>
    setLineBytes d (32 * k) 32
      (if l.have_.getLsbD k then lineBytes l.data (32 * k) 32 else s.memRead (line * 128 + 32 * k) 32)) 0

/-- Lines of an instruction cache: 64 KiB of 128 bytes (R15). -/
def icacheLines : Nat := 512

/-- Keep a line of code: a full cache gives one up (R15). Policy: log entry 89. -/
def CoreSt.keepCode (c : CoreSt) (now line : Nat) (d : VWord) : CoreSt :=
  let kept := if icacheLines ≤ c.icache.length ∧ Store.get none c.icache line = none then
      Store.set none c.icache ((c.icache[Config.victim now line % c.icache.length]?.map (·.1)).getD line) none
    else c.icache
  { c with icache := Store.set none kept line (some d) }

/-- A fetch for context `x` reaches side store in cache use, or another package: what the refusal or the request leaves (R279, R353). -/
def State.fetchNoted (s : State) (x pa : Nat) : State :=
  let gen := (s.ctxAt x).csr.gen.toNat
  match region pa with
  | .side => if s.sideServes pa then s else s.errorLog x 4 gen pa
  | .remote p => s.sendRequest p reqRead pa 128 0 0 (.ctx x gen)
  | _ => s

/-- A missing line of code arrives (R83); a fetch that misses the L2 queues at DRAM that a run claims (R315), and a refused one reads zero
(R279). -/
def execInstructionCacheFill (s : State) : Out :=
  let x := s.arg.a
  let line := s.arg.b
  let core := coreOf x
  let here := (s.l2Line (dieOf core) line).have_ == 15
  withDram s s.arg (if here then [] else [(line * 128, 128)]) fun s =>
    let refused := region (line * 128) == .side && !s.sideServes (line * 128)
    let d := if refused then 0 else s.fetchLine (dieOf core) line
    let s := (if here then s else s.fetchNoted x (line * 128)).modCore core fun c => c.keepCode s.now line d
    .next (s.modCtxAt x fun c => { c with flow := { c.flow with
      fetching := if c.flow.fetching = some line then none else c.flow.fetching } })

/-! ### Landings (R86, R87) -/

/-- A register write that a landing or a fixed-latency result makes. -/
def Regs.landed (r : Regs) (w : RegWrite) : Regs :=
  match w with
  | .s n x => r.setS n x
  | .v n m x => r.setV n (mergeV m (r.getV n) x)
  | .k n x => r.setK n x
  | .c n x => r.setC n x
  | .b n x => r.setB n x
  | .g n e x => r.setG n ((r.getG n).setField e.toNat x)
  | .h n x => r.setH n x
  | .cbt n x => if n = 0 then { r with cbt0 := x } else { r with cbt1 := x }
  | .sb x => { r with sb := x }
  | .csr _ _ => r
  | .leave _ => r
  | .quant _ _ _ _ _ _ _ _ _ _ _ _ => r
  | .img _ _ => r
  | .role _ _ _ => r

/-- The register that a write changes, by file and index. -/
def RegWrite.target (w : RegWrite) : Option (Nat × Nat) :=
  match w with
  | .s n _ => some (0, n.toNat)
  | .v n _ _ => some (1, n.toNat)
  | .k n _ => some (2, n.toNat)
  | .c n _ => some (3, n.toNat)
  | .b n _ => some (5, n.toNat)
  | .h n _ => some (6, n.toNat)
  | _ => none

/-- The register that a write replaces whole. -/
def RegWrite.whole (w : RegWrite) : Option (Nat × Nat) :=
  match w with
  | .v _ m _ => if m = BitVec.allOnes 32 then w.target else none
  | w => w.target

/-- The register that loaded bytes become. -/
def LoadForm.target (o : LoadForm) : Nat × Nat :=
  match o with
  | .scalar d _ => (0, d.toNat)
  | .vector v _ => (1, v.toNat)

/-- The registers that a landing writes; writes to s0, c0 and k0 are discarded. -/
def Landing.targets (l : Landing) : List (Nat × Nat) :=
  (l.ws.filterMap RegWrite.target ++ (l.owed.map fun o => o.form.target).toList).filter fun r =>
    !(r.2 == 0 && (r.1 == 0 || r.1 == 2 || r.1 == 3))

/-- A register written anew is no longer in error (R384). -/
def Flow.mended (f : Flow) (ws : List RegWrite) : Flow :=
  if f.parity.isEmpty then f
  else { f with parity := f.parity.filter fun r => !(ws.any fun w => w.whole == some r) }

/-- The entry's writes and events; results of the same cycle that were issued later prevail (R85); poisoned data are not
written (R385). Of two writes that the spec puts in one bundle and does not count in R51, `ntile`'s of c15 beside a compare's or another
`ntile`'s, the landing prevails, and of two landings the higher slot's. DESIGN CHOICE, log entry 82. -/
def Ctx.land (c : Ctx) (l : Landing) : Ctx :=
  let c := { c with flow := { c.flow with landings := c.flow.landings.filter fun x => x.id != l.id } }
  match l.poison with
  | some k => { c with flow := { c.flow with poisoned := some (c.flow.poisoned.getD k) } }
  | none =>
    let r := l.ws.foldl Regs.landed c.r
    let r := (c.flow.recent.filter fun p => decide (l.stamp < p.stamp)).foldl (fun r p => r.landed p.w) r
    { c with r := r, log := c.log.record l.stamp l.pc l.evs, flow := c.flow.mended l.ws }

/-- A landing's data have arrived, but for what banks have yet to bring: they land at their due cycle, or now when they are late. -/
def execLanding (s : State) : Out :=
  .next (match (s.ctxAt s.arg.a).flow.landings.find? fun l => l.id == s.arg.b with
    | some l =>
      if l.owed.isSome ∨ s.now < l.due then { s with timers := s.timers ++ [(max (s.now + 1) l.due, s.arg)] }
      else s.modCtxAt s.arg.a fun c => c.land l
    | none => s)

/-! ### The switch (R80) -/

/-- The ready context chosen next: the first after the running one, in turn, at the highest LEVEL among the ready ones of mask
`m`. -/
def State.nextRunning (s : State) (core m : Nat) : Option Nat :=
  let i := (s.core core).running
  let ready := ([i + 1, i + 2, i + 3, i].map (· % 4)).filter fun j => bit m j
  let level (j : Nat) : Nat := (s.ctxAt (4 * core + j)).csr.level.toNat
  ready.find? fun j => ready.all fun k => level k ≤ level j

/-- A switch withdraws the requests of every bundle but the chosen context's (R175). -/
def State.withdraw (s : State) (core : Nat) (keep : Option Nat) : State :=
  ([0, 1, 2, 3].map (4 * core + ·)).foldl (fun s x =>
    if (s.ctxAt x).flow.bankWaits.isEmpty ∨ keep = some (x % 4) then s
    else s.modCtxAt x fun c => { c with flow := { c.flow with bankWaits := [] } }) s

def execSwitch (s : State) : Out :=
  .next ((s.withdraw s.arg.a (s.nextRunning s.arg.a s.arg.c)).modCore s.arg.a fun c => match s.nextRunning s.arg.a s.arg.c with
    | some j => { c with running := j, granted := true, yielded := false }
    | none => { c with granted := false, yielded := false })

/-! ### Asynchronous traps (R358, R360) -/

/-- A context takes a trap in cycle `now`: the entry, and the first bundle of the routine at `now + 2` (R358). -/
def Ctx.trapped (c : Ctx) (now : Nat) (pc : Word) (slot cause : Nat) (info : Word) : Ctx :=
  let c := c.enterTrap pc slot cause info
  { c with flow := { c.flow with earliest := now + 2, skip := 0 } }

/-- Slots whose reply of operation kind `op` has value `v`, or any reply. -/
def Flow.repliedSlots (f : Flow) (ok : Nat → Nat → Bool) : Nat :=
  (upTo 4).foldr (fun i acc =>
    (match Store.get (.requested 0) f.waits i with
      | .replied v => if ok (Store.get 0 f.waitOps i) v then 2 ^ i else 0
      | .requested _ => 0) + acc) 0

/-- SKIP and GRANT of TRAP_INFO (R360). -/
def Flow.heldInfo (f : Flow) : Nat :=
  (f.skip.toNat ||| f.repliedSlots fun op v => op == opBarInit || (op == opBarArrive && v == 0)) +
    16 * f.repliedSlots fun op v => op == opRoundPin && v == 1

/-- The pending cause that is taken first, with TRAP_INFO, and the context with it no longer pending (R360). -/
def Ctx.takeCause (c : Ctx) : Option (Nat × Word × Ctx) :=
  let f := c.flow
  let low := f.heldInfo
  match f.copyError, f.remoteError, f.preempt with
  | some w, _, _ =>
    some (causeCopy, w ||| BitVec.ofNat 64 (low + if f.copyMore then 512 else 0),
      { c with flow := { f with copyError := none, copyMore := false } })
  | none, some w, _ =>
    some (causeRemote, w ||| BitVec.ofNat 64 (low + if f.remoteMore then 512 else 0),
      { c with flow := { f with remoteError := none, remoteMore := false } })
  | none, none, some park =>
    some (causePreempt, BitVec.ofNat 64 (low + if park then 256 else 0), { c with flow := { f with preempt := none } })
  | none, none, none => none

/-- The cycle after an asynchronous trap of the running context is empty (R358). -/
def State.emptyCycle (s : State) (x : Nat) : State :=
  s.modCore (coreOf x) fun c =>
    let c := { c with gated := false }
    if c.granted ∧ c.running = x % 4 then { c with gapUntil := s.now + 2, yielded := false } else c

def execAsyncTrap (s : State) : Out :=
  let x := s.arg.a
  let c := s.ctxAt x
  if c.phase ≠ .active ∨ c.priv then .next s
  else match c.takeCause with
    | none => .next s
    | some (cause, info, c') =>
      .next ((((s.setCtxAt x c').abandon x).modCtxAt x fun c => c.trapped s.now c.pc 0 cause info).emptyCycle x)

/-! ### Flag deliveries (R224, R225) -/

/-- STALE_DELIVERY: how a dropped delivery is reported (R224). A completion of another package's barrier counts on the die that holds
the context; where that is none, the other package counts it. -/
def State.reportStale (s : State) (e : Event) : State :=
  if e.c = srcSig then s.errorLog e.a 1 e.d e.v.toNat
  else if e.c = srcBarrier then
    let x := e.v.toNat % 2 ^ 12
    s.modDie (if x < 3072 then x / 768 else e.a) fun d => { d with staleCount := d.staleCount + 1 }
  else if e.c = srcPeerBarrier then
    let x := e.v.toNat % 2 ^ 12
    if x < 3072 then s.modDie (x / 768) fun d => { d with staleCount := d.staleCount + 1 } else s
  else if e.c = srcBasin then
    s.modBasin (e.a / 4096) (e.a % 4096) fun b => { b with actionLost := true }
  else if e.c = srcDelta then s.modStack e.a fun x =>
    { x with delta := { x.delta with run := x.delta.run.map fun r => { r with signalLost := true } } }
  else s

/-- The release write of a run's `dsig` has been performed: its next instruction may issue (R336). -/
def State.signalDone (s : State) (k : Nat) : State :=
  s.modStack k fun x => { x with delta := { x.delta with run := x.delta.run.map fun r =>
    { r with signalling := false, held := max r.held (deltaNow s.now - r.origin) } } }

/-- What follows for the party that sent an engine's action: the basin goes on (R290), the run's `dsig` is done (R336). -/
def State.deliveryServed (s : State) (e : Event) : State :=
  if e.c = srcBasin then s.basinActed (e.a / 4096) (e.a % 4096)
  else if e.c = srcDelta then s.signalDone e.a
  else s

/-- Decide a delivery whose target this module holds (R224); one that ignores GEN by the first row of R224's table alone (R280). -/
def State.deliverHere (s : State) (e : Event) : State :=
  let x := e.v.toNat % 2 ^ 12
  if e.c = srcBasin ∧ e.d = 1 then
    if x < 3072 ∧ bit (s.memRead (dirEntry x + 4) 1) 0 then s.deliverFlag x e.b e.sig else s.reportStale e
  else match s.decideDelivery e.v with
    | .flag x => s.deliverFlag x e.b e.sig
    | .word pa => s.orWord pa e.b e.sig
    | .stale => s.reportStale e

/-- A delivery leaves for another package, whose engine decides it and says whether it was stale: for a barrier's completion, one without
a die to count it there counts here (R224). One that no port carries fails: a core's comes back as an error token, a run's is a lost push,
a basin's a lost action (R335, R353). -/
def State.deliverFar (s : State) (e : Event) : State :=
  let p := bits e.v.toNat 17 12
  let ok := s.reachable p
  let origin : Requester := if e.c = srcSig then .ctx e.a e.d
    else if e.c = srcDelta ∧ ok then .push e.a (noPush + (((s.stack e.a).delta.run.map (·.origin)).getD 0)) else .nobody
  let s := s.sendRequest p (if e.c = srcBarrier then reqBarFlag else reqSignal) (dirEntry (e.v.toNat % 2 ^ 12)) 8 e.v e.b origin e.sig
  let stale := !Config.peerAcks s.fresh
  let s := { s with fresh := s.fresh + 1 }
  if !ok then
    if e.c = srcSig ∨ e.c = srcBarrier then s
    else if e.c = srcDelta then s.modStack e.a fun x =>
      { x with delta := { x.delta with run := x.delta.run.map fun r => { r with pushLost := true } } }
    else s.reportStale e
  else if e.c = srcBarrier then if 3072 ≤ e.v.toNat % 2 ^ 12 then s.reportStale e else s
  else if stale then s.reportStale e
  else s

/-- One delivery is served. -/
def execSignalDelivery (s : State) : Out :=
  let e := s.arg
  .next ((if s.targetHere e.v then s.deliverHere e else s.deliverFar e).deliveryServed e)

/-! ### Power gating (R226) -/

/-- Whether a core may be power-gated. -/
def State.mayGate (s : State) (core : Nat) : Bool :=
  let c := s.core core
  ((upTo 4).all fun i =>
    let x := s.ctxAt (4 * core + i)
    (x.phase == .free || (x.phase == .active && x.flow.quiet)) && x.flow.landings.isEmpty) &&
    (c.busy.all fun b => decide (b.last < s.now)) && c.transposes.isEmpty

/-- The core is gated: its matrix engine counts as idle for 64 cycles (R255). -/
def execPowerGate (s : State) : Out :=
  .next (if s.mayGate s.arg.a then s.modCore s.arg.a fun c => { c with gated := true, lastActive := none } else s)

/-! ### Contexts that retire (R92) -/

/-- Whether everything a retiring context waits for has happened, but for its release. -/
def State.mayFree (s : State) (x : Nat) : Bool :=
  let f := (s.ctxAt x).flow
  let c := s.core (coreOf x)
  f.landings.isEmpty && f.pending.isEmpty && (c.busy.all fun b => b.ctx != x || decide (b.last < s.now)) &&
    (c.transposes.all fun t => t.ctx != x) && !s.releaseOwes x 4

/-- A launch of which a context has gone from its list of live ones: the signature of the final release joins (R210), and the
first failure stands (R108). -/
def State.reportRetired (s : State) (l : Option Nat) (x : Nat) (fail : Option Nat) (sig : Sig) : State :=
  match l with
  | none => s
  | some i =>
    (s.modLaunch i fun y => { y with
      live := y.live.erase x, resuming := y.resuming.erase x
      frozen := !(y.parked.isEmpty && (y.resuming.erase x).isEmpty)
      failCause := match y.failCause with
        | some c => some c
        | none => fail
      sig := y.sig ||| sig }).checkLaunch l

/-- A retiring context becomes FREE after its release of scope `pkg`, once what that writes back has been performed (R92, R207). -/
def execContextFree (s : State) : Out :=
  let x := s.arg.a
  let c := s.ctxAt x
  if c.phase ≠ .retiring ∨ !s.mayFree x then .next s
  else if s.flushWaits (coreOf x) true 0 then .next (s.flushLate (coreOf x) true 0)
  else
    let s := s.release (coreOf x) 4
    let sig := (s.core (coreOf x)).carried
    .next (((s.releaseCtxPin x).freeCtx x).reportRetired c.launch x c.failCause sig)

/-! ### Pre-emption, parking and resuming (R361, R364, R365) -/

/-- PREEMPT_REQ: a request for a context that runs becomes pending, or changes the PARK bit of the pending one (R361). -/
def execPreemptReq (s : State) : Out :=
  let x := s.arg.v.toNat % 2 ^ 12
  let c := s.ctxAt x
  let named := { s with lastNamed := x }
  withMgmt s
    (.next (if x < 3072 ∧ (c.phase = .active ∨ c.phase = .prologue) then
        named.modCtxAt x fun c => { c with flow := { c.flow with preempt := some (s.arg.v.getLsbD 16) } }
      else named))

/-- Whether fill copies taken for a launch's rings have not completed (R364). -/
def State.fillsTaken (s : State) (l : Nat) : Bool :=
  s.clusters.any fun c =>
    let mine (y : Copy) : Bool := match y.ring with
      | some (i, _) => ((c.2.ring i).map fun r => r.launch == some l).getD false
      | none => false
    (c.2.bxe.classes.any fun e => e.2.any mine) || c.2.bxe.ending.any mine

/-- Discard the context's transpose entries, each with its log entry (R364). -/
def State.expireTransposes (s : State) (x : Nat) : State :=
  let n := ((s.core (coreOf x)).transposes.filter fun t => t.ctx == x).length
  (upTo n).foldl (fun s _ => s.errorLog x 5 (s.ctxAt x).csr.gen.toNat 0) (s.clearEngines x)

/-- The flags of a parked context join its signal word where it stands PARKED there (R223, R364). -/
def State.flagsToWord (s : State) (x : Nat) : State :=
  let e := dirEntry x
  let w := s.memRead (e + 16) 8
  let base := syncBase + x / 768 * 2 ^ 22
  if s.memRead (e + 5) 1 % 4 = 1 ∧ w % 8 = 0 ∧ base ≤ w ∧ w + 8 ≤ base + 0x380000 then
    let c := s.ctxAt x
    s.releaseMem w 8 (s.memRead w 8 ||| c.r.f.toNat) (c.flagSigs c.r.f)
  else s

def execParkComplete (s : State) : Out :=
  let x := s.arg.a
  let c := s.ctxAt x
  if c.phase ≠ .parking then .next s
  else
    let l := c.launch.getD 0
    let s := s.modLaunch l fun y => { y with frozen := true }
    if !s.settled x ∨ s.owesPackets x ∨ s.fillsTaken l then .next s
    else
      let pin := ((Store.get none s.ctxPins x).map fun p => (x, p)).toList
      .next ((((({ s with ctxPins := Store.set none s.ctxPins x none }).expireTransposes x).flagsToWord x).freeCtx x).modLaunch l fun y =>
        { y with
          live := y.live.erase x, resuming := y.resuming.erase x, parked := x :: y.parked, parkedPins := pin ++ y.parkedPins })

/-- The launch that has a context parked. -/
def State.parkedIn (s : State) (x : Nat) : Option Nat :=
  (s.walker.launches.find? fun e => match e.2 with
    | some y => y.parked.contains x
    | none => false).map (·.1)

def execResumeReq (s : State) : Out :=
  let x := s.arg.v.toNat % 2 ^ 12
  let named := { s with lastNamed := x }
  withMgmt s
    (.next (match s.parkedIn x with
      | some _ => named.laterOpen { i := .resumePrologue, a := x }
      | none => named))

/-- The context as a resume prologue creates it (R365). -/
def State.resumed (s : State) (x l : Nat) (y : Launch) (place from_ : Nat) : Ctx :=
  let f := s.freshCtx x
  { f with
    priv := true
    pc := s.mgmtReg 0x430 &&& 0x01FFFFFFFFFFFFF0#64
    launch := some l
    csr := { f.csr with
      level := BitVec.ofNat 2 (placePrio place)
      ceil := BitVec.ofNat 2 (placePrio place / 16)
      pinRound := BitVec.ofNat 64 ((y.pins.head?.map (·.2)).getD 0)
      codeLimit := BitVec.ofNat 64 y.codeLimit &&& ~~~0xF#64 }
    trap := { f.trap with cause := BitVec.ofNat 8 causeResume }
    flow := { f.flow with earliest := from_ } }

/-- The context pin that a parked context has kept (R347). -/
def Launch.pinOf (y : Launch) (x : Nat) : Option (Nat × Nat) :=
  match y.parkedPins.find? fun p => p.1 == x with
  | some p => some p.2
  | none => none

def execResumePrologue (s : State) : Out :=
  let x := s.arg.a
  match s.parkedIn x with
  | none => .next s
  | some l =>
    match s.launch l with
    | none => .next s
    | some y =>
      match y.places.find? fun p => placeCore p == coreOf x with
      | none => .next s
      | some place =>
        if !s.coreFreeFor l (coreOf x) then .next (s.laterOpen s.arg)
        else
          let s := s.applyPlace y place
          let s := s.setCtxAt x (s.resumed x l y place (s.stableFrom (coreOf x)))
          let s := { s with ctxPins := Store.set none s.ctxPins x (y.pinOf x) }
          .next ((s.dirCreate x).modLaunch l fun y =>
            { y with
              parked := y.parked.erase x, parkedPins := y.parkedPins.filter fun p => p.1 != x, resuming := x :: y.resuming
              gens := (x, (s.ctxAt x).csr.gen.toNat) :: y.gens
              live := x :: y.live })

/-- A resume routine has returned: its launch's rings thaw when no context is parked or resuming (R364). -/
def State.leaveResume (s : State) (x : Nat) : State :=
  match (s.ctxAt x).launch with
  | none => s
  | some l => match s.launch l with
    | none => s
    | some y =>
      if y.resuming.contains x then
        s.setLaunch l (some { y with
          resuming := y.resuming.erase x, frozen := !(y.parked.isEmpty && (y.resuming.erase x).isEmpty) })
      else s

end Sys2Proof.Machine
end

