-- ==== Sys2Proof/Machine/Scalar.lean ====
section
/-!
DEFINITION. Scalar operations (R111 to R122): register forms, immediates, bit fields, compares.
-/
namespace Sys2Proof.Machine

/-- A scalar result of latency `lat`, of a form that takes no lent bits (R58, R113). -/
def scalar (s : State) (lat : Nat) (d : BitVec 6) (x : Word) : Out := noLent s (.next (s.wS lat d x))

def execAdd (d a b : BitVec 6) (s : State) : Out := scalar s 1 d (s.rS a + s.rS b)
def execSub (d a b : BitVec 6) (s : State) : Out := scalar s 1 d (s.rS a - s.rS b)
def execMul (d a b : BitVec 6) (s : State) : Out := scalar s 4 d (s.rS a * s.rS b)

/-- Bits 127 to 64 of the signed product (R115). -/
def execMulh (d a b : BitVec 6) (s : State) : Out :=
  scalar s 4 d (BitVec.ofInt 64 ((s.rS a).toInt * (s.rS b).toInt / 2 ^ 64))

/-- Bits 127 to 64 of the unsigned product (R115). -/
def execMulhn (d a b : BitVec 6) (s : State) : Out :=
  scalar s 4 d (BitVec.ofNat 64 ((s.rS a).toNat * (s.rS b).toNat / 2 ^ 64))

/-- Quotient and remainder of R117, truncating toward zero; a zero divisor gives −1 and the dividend. -/
def divide (signed : Bool) (a b : Word) : Int × Int :=
  let x : Int := if signed then a.toInt else a.toNat
  let y : Int := if signed then b.toInt else b.toNat
  if y = 0 then (-1, x) else (Int.tdiv x y, x - Int.tdiv x y * y)

/-- A division or remainder: latency 18, DIVZERO on a zero divisor (R113, R114, R117). -/
def divideOp (s : State) (d b : BitVec 6) (r : Int) : Out :=
  noLent s
    (.next ((if s.rS b = 0 then s.logScalar [.divzero] else s).wS 18 d (word r)))

def execDiv (d a b : BitVec 6) (s : State) : Out := divideOp s d b (divide true (s.rS a) (s.rS b)).1
def execDivn (d a b : BitVec 6) (s : State) : Out := divideOp s d b (divide false (s.rS a) (s.rS b)).1
def execRem (d a b : BitVec 6) (s : State) : Out := divideOp s d b (divide true (s.rS a) (s.rS b)).2
def execRemn (d a b : BitVec 6) (s : State) : Out := divideOp s d b (divide false (s.rS a) (s.rS b)).2

def execAnd (d a b : BitVec 6) (s : State) : Out := scalar s 1 d (s.rS a &&& s.rS b)
def execOr (d a b : BitVec 6) (s : State) : Out := scalar s 1 d (s.rS a ||| s.rS b)
def execXor (d a b : BitVec 6) (s : State) : Out := scalar s 1 d (s.rS a ^^^ s.rS b)
def execAndn (d a b : BitVec 6) (s : State) : Out := scalar s 1 d (s.rS a &&& ~~~s.rS b)

/-- Shift amounts of 64 and more (R116) are cut off at 64, which gives the same result. -/
def shiftAmount (b : Word) : Nat := min b.toNat 64

def execShl (d a b : BitVec 6) (s : State) : Out := scalar s 1 d (s.rS a <<< shiftAmount (s.rS b))
def execShr (d a b : BitVec 6) (s : State) : Out := scalar s 1 d (s.rS a >>> shiftAmount (s.rS b))
def execSra (d a b : BitVec 6) (s : State) : Out := scalar s 1 d ((s.rS a).sshiftRight (shiftAmount (s.rS b)))
def execRotl (d a b : BitVec 6) (s : State) : Out := scalar s 1 d ((s.rS a).rotateLeft ((s.rS b).toNat % 64))

def execMin (d a b : BitVec 6) (s : State) : Out :=
  scalar s 1 d (if (s.rS a).toInt ≤ (s.rS b).toInt then s.rS a else s.rS b)
def execMax (d a b : BitVec 6) (s : State) : Out :=
  scalar s 1 d (if (s.rS a).toInt ≤ (s.rS b).toInt then s.rS b else s.rS a)
def execMinn (d a b : BitVec 6) (s : State) : Out :=
  scalar s 1 d (if (s.rS a).toNat ≤ (s.rS b).toNat then s.rS a else s.rS b)
def execMaxn (d a b : BitVec 6) (s : State) : Out :=
  scalar s 1 d (if (s.rS a).toNat ≤ (s.rS b).toNat then s.rS b else s.rS a)

/-- Zero bits above the highest one bit of a `w`-bit number; `w` when it is 0 (R115). -/
def leadingZeros (w x : Nat) : Nat := if x = 0 then w else w - 1 - x.log2

/-- One bits among the low `w` bits (R115, R139). -/
def onesBelow : Nat → Nat → Nat
  | 0, _ => 0
  | w + 1, x => x % 2 + onesBelow w (x / 2)

/-- Zero bits below the lowest one bit; `w` when there is none (R115). -/
def trailingZeros : Nat → Nat → Nat
  | 0, _ => 0
  | w + 1, x => if x % 2 = 1 then 0 else trailingZeros w (x / 2) + 1

def execClz (d a : BitVec 6) (s : State) : Out := scalar s 1 d (BitVec.ofNat 64 (leadingZeros 64 (s.rS a).toNat))
def execCtz (d a : BitVec 6) (s : State) : Out := scalar s 1 d (BitVec.ofNat 64 (trailingZeros 64 (s.rS a).toNat))
def execPopc (d a : BitVec 6) (s : State) : Out := scalar s 1 d (BitVec.ofNat 64 (onesBelow 64 (s.rS a).toNat))
def execMov (d a : BitVec 6) (s : State) : Out := scalar s 1 d (s.rS a)
def execCset (d : BitVec 6) (n : BitVec 4) (s : State) : Out := scalar s 1 d (if s.rC n then 1 else 0)
def execSel (d a b : BitVec 6) (n : BitVec 4) (s : State) : Out :=
  scalar s 1 d (if s.rC n then s.rS a else s.rS b)

/-! ### Immediates (R118, R119) -/

def execAddi (d a : BitVec 6) (i : BitVec 14) (s : State) : Out :=
  .next (s.wS 1 d (s.rS a + word (s.signedField i)))
def execAndi (d a : BitVec 6) (i : BitVec 12) (s : State) : Out :=
  .next (s.wS 1 d (s.rS a &&& BitVec.ofNat 64 (s.unsignedField i)))
def execOri (d a : BitVec 6) (i : BitVec 12) (s : State) : Out :=
  .next (s.wS 1 d (s.rS a ||| BitVec.ofNat 64 (s.unsignedField i)))
def execXori (d a : BitVec 6) (i : BitVec 12) (s : State) : Out :=
  .next (s.wS 1 d (s.rS a ^^^ BitVec.ofNat 64 (s.unsignedField i)))
def execLi (d : BitVec 6) (i : BitVec 20) (s : State) : Out := .next (s.wS 1 d (word (s.signedField i)))

/-- Bits `len` from `pos` up, as a mask. -/
def fieldMask (pos len : Nat) : Word := BitVec.ofNat 64 ((2 ^ len - 1) * 2 ^ pos)

/-- One quarter of `sd` is replaced, the rest kept as it stood before the bundle (R119). -/
def execLih (d : BitVec 6) (q : BitVec 2) (i : BitVec 16) (s : State) : Out :=
  let m := fieldMask (16 * q.toNat) 16
  scalar s 1 d ((s.rS d &&& ~~~m) ||| (i.setWidth 64 <<< (16 * q.toNat)))

/-! ### Bit fields and the funnel shift (R120, R121) -/

def execExtr (d a p l : BitVec 6) (s : State) : Out :=
  scalar s 1 d (BitVec.ofNat 64 (bits (s.rS a).toNat (p.toNat + l.toNat) p.toNat))
def execExtrs (d a p l : BitVec 6) (s : State) : Out :=
  scalar s 1 d (word (toInt (l.toNat + 1) true (bits (s.rS a).toNat (p.toNat + l.toNat) p.toNat)))
def execIns (d a p l : BitVec 6) (s : State) : Out :=
  let m := fieldMask p.toNat (l.toNat + 1)
  scalar s 1 d ((s.rS d &&& ~~~m) ||| ((s.rS a <<< p.toNat) &&& m))

/-- The window of 64 bits of `sa:sb` from bit `sc[5:0]` up (R121). -/
def execFsh (d a b c : BitVec 6) (s : State) : Out :=
  scalar s 1 d (BitVec.ofNat 64
    (((s.rS a).toNat * 2 ^ 64 + (s.rS b).toNat) / 2 ^ ((s.rS c).toNat % 64)))

/-! ### Compares (R122) -/

/-- Write a condition and its complement. -/
def compareOp (s : State) (d x : BitVec 4) (t : Bool) : State := (s.wC 1 d t).wC 1 x (!t)

def execCmp (d x c : BitVec 4) (a b : BitVec 6) (s : State) : Out :=
  noLent s (.next (compareOp s d x (intCond 64 c.toNat (s.rS a).toNat (s.rS b).toNat)))

def execCmpi (d x c : BitVec 4) (a : BitVec 6) (i : BitVec 8) (s : State) : Out :=
  .next (compareOp s d x (intCond 64 c.toNat (s.rS a).toNat (word (s.signedField i)).toNat))

end Sys2Proof.Machine
end

