-- ==== Sys2Proof/Machine/VArith.lean ====
section
/-!
DEFINITION. Vector arithmetic (R131 to R138), logic (R139), compares (R140), reductions and scans (R143, R144).
-/
namespace Sys2Proof.Machine

/-- Integer results finish by wrapping or saturating (R135). -/
def finishInt (t : Nat) (sat : Bool) (i : Int) : Elem :=
  let w := typeWidth t
  if sat then
    let (r, c) := clampInt w (typeSigned t) i
    (wrap w r, if c then [.saturate] else [])
  else (wrap w i, [])

/-- An element read as its type's integer (R135). -/
def readInt (t x : Nat) : Int := toInt (typeWidth t) (typeSigned t) x

/-- What two operands of one element compute: an integer function and a function on values (R134 to R136). -/
structure Arith where
  onInt : Int → Int → Int → Int
  onVal : Rnd → Val → Val → Val → Val

/-- One element of an arithmetic instruction (R134, R135). -/
def arithElem (f : Arith) (t : Nat) (mode : Rnd) (sat : Bool) (rnd : Nat) (a b d : Nat) : Elem :=
  if t ≤ 7 then finishInt t sat (f.onInt (readInt t a) (readInt t b) (readInt t d))
  else
    let fm := fmtOf t
    fm.round (f.onVal mode (fm.decode a) (fm.decode b) (fm.decode d)) mode sat rnd

/-- An arithmetic instruction of majors 0x10 and 0x11: `li`, `lf`, `lw` are its latencies for integers, floats and f64. -/
def arithOp (f : Arith) (li lf lw : Nat) (s : State) (d a b : BitVec 5) (k : BitVec 3) (t : BitVec 5) : Out :=
  withRounding s fun mode sat =>
    let t := t.toNat
    let w := typeWidth t
    let xs := elems w (s.rV a)
    let ys := elems w (s.rV b)
    let ds := elems w (s.rV d)
    let lat := if t ≤ 7 then li else if t = 8 then lw else lf
    .next ((s.perElement w lat d k fun i =>
      arithElem f t mode sat (s.rnd mode w i) (at' xs i) (at' ys i) (at' ds i)).drew (decide (8 ≤ t) && mode == .sr))

def arithAdd : Arith := ⟨fun a b _ => a + b, fun m a b _ => Val.add m a b⟩
def arithSub : Arith := ⟨fun a b _ => a - b, fun m a b _ => Val.add m a b.neg⟩
def arithMul : Arith := ⟨fun a b _ => a * b, fun _ a b _ => Val.mul a b⟩
def arithFma : Arith := ⟨fun a b d => a * b + d, fun m a b d => Val.fma m a b d⟩
def arithFms : Arith := ⟨fun a b d => a * b - d, fun m a b d => Val.fma m a b d.neg⟩
def arithFnma : Arith := ⟨fun a b d => -(a * b) + d, fun m a b d => Val.fma m a.neg b d⟩

def execVadd (d a b : BitVec 5) (k : BitVec 3) (t : BitVec 5) (s : State) : Out := arithOp arithAdd 2 4 6 s d a b k t
def execVsub (d a b : BitVec 5) (k : BitVec 3) (t : BitVec 5) (s : State) : Out := arithOp arithSub 2 4 6 s d a b k t
def execVmul (d a b : BitVec 5) (k : BitVec 3) (t : BitVec 5) (s : State) : Out := arithOp arithMul 4 4 6 s d a b k t
def execVfma (d a b : BitVec 5) (k : BitVec 3) (t : BitVec 5) (s : State) : Out := arithOp arithFma 4 5 8 s d a b k t
def execVfms (d a b : BitVec 5) (k : BitVec 3) (t : BitVec 5) (s : State) : Out := arithOp arithFms 4 5 8 s d a b k t
def execVfnma (d a b : BitVec 5) (k : BitVec 3) (t : BitVec 5) (s : State) : Out := arithOp arithFnma 4 5 8 s d a b k t

/-- `a < b` with −0 below +0 (R137). -/
def belowVal (a b : Val) : Bool :=
  match a, b with
  | .zero s, .zero u => s && !u
  | a, b => a.cmp b == some .lt

/-- Minimum or maximum of two words of a floating-point format (R137). -/
def minMaxFloat (f : Fmt) (isMin : Bool) (a b : Nat) : Elem :=
  let x := f.decode a
  let y := f.decode b
  let inv := if x.isSnan || y.isSnan then [EvKind.invalid] else []
  if x.isNan && y.isNan then (f.nan, inv ++ [.nangen])
  else if x.isNan then (b, inv)
  else if y.isNan then (a, inv)
  else (if belowVal y x == isMin then b else a, inv)

def minMaxElem (t : Nat) (isMin : Bool) (a b : Nat) : Elem :=
  if t ≤ 7 then (if decide (readInt t b < readInt t a) == isMin then b else a, [])
  else minMaxFloat (fmtOf t) isMin a b

def minMaxOp (isMin : Bool) (s : State) (d a b : BitVec 5) (k : BitVec 3) (t : BitVec 5) : Out :=
  withRoundingIgnored s
    (let t := t.toNat
     let w := typeWidth t
     let xs := elems w (s.rV a)
     let ys := elems w (s.rV b)
     .next (s.perElement w (if t ≤ 7 then 2 else if t = 8 then 6 else 4) d k fun i =>
       minMaxElem t isMin (at' xs i) (at' ys i)))

def execVmin (d a b : BitVec 5) (k : BitVec 3) (t : BitVec 5) (s : State) : Out := minMaxOp true s d a b k t
def execVmax (d a b : BitVec 5) (k : BitVec 3) (t : BitVec 5) (s : State) : Out := minMaxOp false s d a b k t

/-- `vabs` and `vneg` on a floating-point word: only the sign bit changes, and a NaN becomes canonical (R136). -/
def signElem (f : Fmt) (neg : Bool) (a : Nat) : Elem :=
  let v := f.decode a
  if v.isNan then (f.nan, nanEvents v.isSnan)
  else
    let m := a % 2 ^ f.signBit
    (m + f.signOf (neg && !bit a f.signBit), [])

def signOp (neg : Bool) (s : State) (d a : BitVec 5) (k : BitVec 3) (t : BitVec 5) : Out :=
  withRounding s fun _ sat =>
    let t := t.toNat
    let w := typeWidth t
    let xs := elems w (s.rV a)
    .next (s.perElement w (if t ≤ 7 then 2 else if t = 8 then 6 else 4) d k fun i =>
      let x := at' xs i
      if t ≤ 7 then finishInt t sat (if neg then -readInt t x else (readInt t x).natAbs)
      else signElem (fmtOf t) neg x)

def execVabs (d a : BitVec 5) (k : BitVec 3) (t : BitVec 5) (s : State) : Out := signOp false s d a k t
def execVneg (d a : BitVec 5) (k : BitVec 3) (t : BitVec 5) (s : State) : Out := signOp true s d a k t

/-! ### Functions of one operand (R138) -/

/-- Fixed-point bits of the expansions of `2^x` and `log2 x`. -/
def fixBits : Nat := 400

/-- `y + y^3/3 + y^5/5 + …` in fixed point, rounded down; `p` is the power of `y` reached, `y2` is `y^2`. -/
def atanhSum (y2 : Nat) : Nat → Nat → Nat → Nat
  | 0, _, _ => 0
  | n + 1, k, p => p / k + atanhSum y2 n (k + 2) (p * y2 / 2 ^ fixBits)

/-- ln 2 in fixed point, rounded down: twice the series at 1/3. -/
def ln2Fix : Nat := 2 * atanhSum (2 ^ fixBits / 9) 130 1 (2 ^ fixBits / 3)

/-- `e^t` in fixed point for `t < 1`, rounded down term by term. -/
def expSum (t : Nat) : Nat → Nat → Nat → Nat
  | 0, _, _ => 0
  | n + 1, k, p => p + expSum t n (k + 1) (p * t / 2 ^ fixBits / k)

/-- `2^x` for a nonzero `x`: exact for an integer, otherwise 400 bits of the expansion from below (R138). -/
def exp2Val (d : Dy) : Val :=
  let i : Int := if 0 ≤ d.exp then d.at 0 else (d.at d.exp) / (2 ^ (-d.exp).toNat : Nat)
  if i ≥ 20000 then .num ⟨false, 1, 20000, false⟩
  else if i ≤ -20000 then .num ⟨false, 1, -20000, false⟩
  else
    let r : Nat := if 0 ≤ d.exp then 0 else ((d.at d.exp) % (2 ^ (-d.exp).toNat : Nat)).toNat
    if r = 0 then .num ⟨false, 1, i, false⟩
    else
      let f := r * 2 ^ fixBits / 2 ^ (-d.exp).toNat
      .num ⟨false, expSum (f * ln2Fix / 2 ^ fixBits) 110 1 (2 ^ fixBits), i - fixBits, true⟩

/-- `log2 x` for a positive `x`: exact for a power of two, otherwise 400 bits of the expansion (R138). -/
def log2Val (d : Dy) : Val :=
  let l := d.mant.log2
  if d.mant = 2 ^ l then Val.ofInt (l + d.exp)
  else
    -- the significand in [3/4, 3/2)
    let e : Nat := if 2 * d.mant < 3 * 2 ^ l then l else l + 1
    let n : Int := (d.mant : Int) - (2 ^ e : Nat)
    let y := n.natAbs * 2 ^ fixBits / (d.mant + 2 ^ e)
    let s : Nat := 2 * atanhSum (y * y / 2 ^ fixBits) 260 1 y * 2 ^ fixBits / ln2Fix
    let t : Int := ((e : Int) + d.exp) * (2 ^ fixBits : Nat) + (if n < 0 then -(s : Int) else s)
    .num ⟨decide (t < 0), t.natAbs, -(fixBits : Int), true⟩

/-- One element of a function of one operand: the exact value and what its operand alone raises (R138). -/
def unaryVal (fn : Nat) (v : Val) : Val × List EvKind :=
  match v with
  | .nan b => (.nan b, [])
  | .zero s =>
    match fn with
    | 0 => (.inf s, [.divzero])
    | 1 => (.inf s, [.divzero])
    | 2 => (.zero s, [])
    | 3 => (.num ⟨false, 1, 0, false⟩, [])
    | _ => (.inf true, [.divzero])
  | .inf s =>
    match fn, s with
    | 0, s => (.zero s, [])
    | 1, false => (.zero false, [])
    | 2, false => (.inf false, [])
    | 3, false => (.inf false, [])
    | 3, true => (.zero false, [])
    | 4, false => (.inf false, [])
    | _, _ => (.nan true, [])
  | .num d =>
    if fn = 0 then (.num (Dy.div ⟨false, 1, 0, false⟩ d), [])
    else if fn = 3 then (exp2Val d, [])
    else if d.neg then (.nan true, [])
    else if fn = 1 then
      let e : Int := if d.exp % 2 = 0 then d.exp else d.exp - 1
      let m := if d.exp % 2 = 0 then d.mant else 2 * d.mant
      let k := 128 + m.log2
      let r := isqrt (2 ^ (2 * k) / m)
      (.num ⟨false, r, -(k : Int) - e / 2, r * r * m != 2 ^ (2 * k)⟩, [])
    else if fn = 2 then (.num d.sqrt, [])
    else (log2Val d, [])

def unaryOp (fn : Nat) (s : State) (d a : BitVec 5) (k : BitVec 3) (t : BitVec 5) : Out :=
  withRounding s fun mode sat =>
    let t := t.toNat
    let w := typeWidth t
    let fm := fmtOf t
    let xs := elems w (s.rV a)
    .next ((s.perElement w (if t = 8 then 24 else 12) d k fun i =>
      let (v, ev) := unaryVal fn (fm.decode (at' xs i))
      let (x, ev') := fm.round v mode sat (s.rnd mode w i)
      (x, ev ++ ev')).drew (mode == .sr))

def execVrcp (d a : BitVec 5) (k : BitVec 3) (t : BitVec 5) (s : State) : Out := unaryOp 0 s d a k t
def execVrsqrt (d a : BitVec 5) (k : BitVec 3) (t : BitVec 5) (s : State) : Out := unaryOp 1 s d a k t
def execVsqrt (d a : BitVec 5) (k : BitVec 3) (t : BitVec 5) (s : State) : Out := unaryOp 2 s d a k t
def execVexp2 (d a : BitVec 5) (k : BitVec 3) (t : BitVec 5) (s : State) : Out := unaryOp 3 s d a k t
def execVlog2 (d a : BitVec 5) (k : BitVec 3) (t : BitVec 5) (s : State) : Out := unaryOp 4 s d a k t

/-! ### Logic, shifts and counts (R139) -/

/-- A logical instruction: a function of the width and two element words. -/
def logicOp (f : Nat → Nat → Nat → Nat) (lat : Nat) (s : State) (d a b : BitVec 5) (k : BitVec 3) (t : BitVec 5) : Out :=
  let w := typeWidth t.toNat
  let xs := elems w (s.rV a)
  let ys := elems w (s.rV b)
  copyElements s w lat d k fun i => f w (at' xs i) (at' ys i)

def execVand (d a b : BitVec 5) (k : BitVec 3) (t : BitVec 5) (s : State) : Out :=
  logicOp (fun _ x y => x &&& y) 1 s d a b k t
def execVor (d a b : BitVec 5) (k : BitVec 3) (t : BitVec 5) (s : State) : Out :=
  logicOp (fun _ x y => x ||| y) 1 s d a b k t
def execVxor (d a b : BitVec 5) (k : BitVec 3) (t : BitVec 5) (s : State) : Out :=
  logicOp (fun _ x y => x ^^^ y) 1 s d a b k t
def execVandn (d a b : BitVec 5) (k : BitVec 3) (t : BitVec 5) (s : State) : Out :=
  logicOp (fun w x y => x &&& (2 ^ w - 1 - y)) 1 s d a b k t
def execVshl (d a b : BitVec 5) (k : BitVec 3) (t : BitVec 5) (s : State) : Out :=
  logicOp (fun w x y => if w ≤ y then 0 else x * 2 ^ y % 2 ^ w) 1 s d a b k t
def execVshr (d a b : BitVec 5) (k : BitVec 3) (t : BitVec 5) (s : State) : Out :=
  logicOp (fun w x y => if w ≤ y then 0 else x / 2 ^ y) 1 s d a b k t
def execVsra (d a b : BitVec 5) (k : BitVec 3) (t : BitVec 5) (s : State) : Out :=
  logicOp (fun w x y => wrap w (toInt w true x / (2 ^ min y w : Nat))) 1 s d a b k t
def execVpopc (d a : BitVec 5) (k : BitVec 3) (t : BitVec 5) (s : State) : Out :=
  logicOp (fun w x _ => onesBelow w x) 2 s d a a k t

/-! ### Compare (R140) -/

/-- The condition of one element pair and what it logs. -/
def compareElem (t cc a b : Nat) : Bool × List EvKind :=
  if t ≤ 7 then (intCond (typeWidth t) cc a b, []) else floatCond cc ((fmtOf t).decode a) ((fmtOf t).decode b)

/-- Bit `j` of the mask `vcmp` writes: every element in position `j`, where the position is enabled. -/
def compareBit (w : Nat) (m : Mask) (rs : List Bool) (j : Nat) : Bool :=
  if w = 64 then m.getLsbD (j / 2 * 2) && rs.getD (j / 2) false
  else m.getLsbD j && (upTo (32 / w)).all fun i => rs.getD (j * (32 / w) + i) false

/-- The mask whose bits `f` gives. -/
def maskOf (f : Nat → Bool) : Mask := BitVec.ofNat 32 (joinNat 1 ((upTo 32).map fun j => if f j then 1 else 0))

def execVcmp (d : BitVec 3) (c : BitVec 4) (a b : BitVec 5) (k : BitVec 3) (t : BitVec 5) (s : State) : Out :=
  withRoundingIgnored s
    (let t := t.toNat
     let w := typeWidth t
     let rs := ((elems w (s.rV a)).zip (elems w (s.rV b))).map fun p => compareElem t c.toNat p.1 p.2
     let m := s.rK k
     let evs := (indexed rs).map fun p => (0, if enabled m w p.1 then p.2.2 else [])
     .next ((s.logEvs (laneEvents w evs)).wK 2 d (maskOf (compareBit w m (rs.map (·.1))))))

/-! ### Reductions and scans (R143, R144) -/

/-- The rounding of reductions: SR from FPCTL rounds RNE, a lent SR is illegal (R133). -/
def withSumRounding (s : State) (k : Rnd → Bool → Out) : Out :=
  match s.rounding with
  | none => .next s.illegal
  | some (c, sat) =>
    if c = 5 then .next s.illegal
    else let m := s.modeOf c; k (if m = .sr then .rne else m) sat

/-- One node of `vred.add` and `vscan.add` (R143). -/
def addNode (t : Nat) (mode : Rnd) (sat : Bool) (a b : Nat) : Elem := arithElem arithAdd t mode sat 0 a b 0

/-- The value of `vred.max` with every leaf absent (R143). -/
def leastOf (t : Nat) : Nat := if t ≤ 7 then wrap (typeWidth t) (intMin (typeWidth t) (typeSigned t)) else (fmtOf t).inf true

/-- Write a reduction's value to element 0 and zeros elsewhere. -/
def State.reduce (s : State) (t lat : Nat) (d : BitVec 5) (r : Option Node) (empty : Nat) : State :=
  match r.map (·.written t) with
  | none => s.wV lat d (BitVec.ofNat 1024 empty)
  | some n => (s.logEvs n.evs).wV lat d (BitVec.ofNat 1024 (n.x % 2 ^ typeWidth t))

def execVredAdd (d a : BitVec 5) (k : BitVec 3) (t : BitVec 5) (s : State) : Out :=
  withSumRounding s fun mode sat =>
    let t := t.toNat
    let w := typeWidth t
    let l := logElems w
    let lat := if t ≤ 7 then 2 * l + 2 else if t = 8 then 6 * l + 2 else 4 * l + 2
    .next (s.reduce t lat d
      (pairTree (combine (addNode t mode sat)) (leafOf w (s.rK k) (elems w (s.rV a))) l 0) 0)

def execVredMax (d a : BitVec 5) (k : BitVec 3) (t : BitVec 5) (s : State) : Out :=
  withRoundingIgnored s
    (let t := t.toNat
     let w := typeWidth t
     .next (s.reduce t (2 * logElems w + 2) d
       (pairTree (combine (minMaxElem t false)) (leafOf w (s.rK k) (elems w (s.rV a))) (logElems w) 0) (leastOf t)))

def execVscanAdd (d a : BitVec 5) (k : BitVec 3) (t : BitVec 5) (s : State) : Out :=
  withSumRounding s fun mode sat =>
    let t := t.toNat
    let w := typeWidth t
    let l := logElems w
    let lat := if t ≤ 7 then 2 * l + 4 else if t = 8 then 6 * l + 6 else 4 * l + 6
    let leaf := leafOf w (s.rK k) (elems w (s.rV a))
    let rs := (upTo (1024 / w)).map fun i => (scanAt (addNode t mode sat) leaf l i).map (·.written t)
    .next ((s.logEvs (rs.flatMap fun r => (r.map (·.evs)).getD [])).wV lat d
      (joinV w (rs.map fun r => (r.map (·.x)).getD 0)))

end Sys2Proof.Machine
end

