-- ==== Sys2Proof/Machine/VConv.lean ====
section
/-!
DEFINITION. Conversion (R148 to R150), classification (R151), random numbers (R156), block scales, the scale bypass and
block conversion (R157 to R160).
-/
namespace Sys2Proof.Machine

/-- One element of `vcvt` (R148, R149). -/
def convertElem (dt st : Nat) (mode : Rnd) (sat : Bool) (rnd x : Nat) : Elem :=
  if dt ≤ 7 ∧ st ≤ 7 then
    let i := toInt (typeWidth st) (typeSigned st) x
    let (r, c) := clampInt (typeWidth dt) (typeSigned dt) i
    if c && sat then (wrap (typeWidth dt) r, [.saturate]) else (wrap (typeWidth dt) i, [])
  else roundType dt (decodeType st x) mode sat rnd

/-- `vcvt` under a given mode (R148): the view of the wider type governs, and when the destination is the narrower type its
upper elements keep their values: those that `vd` holds at issue, as R129 says of disabled elements. An event's position is that of the
element in the governing view. DESIGN CHOICE, log entry 81. -/
def convertOp (s : State) (dt st : Nat) (d a : BitVec 5) (k : BitVec 3) (mode : Rnd) (sat : Bool) : State :=
  let wd := typeWidth dt
  let ws := typeWidth st
  let w := max wd ws
  let n := 1024 / w
  let xs := elems ws (s.rV a)
  let old := elems wd (s.rV d)
  let rs := perElement w (s.rK k) (old.take n) fun i => convertElem dt st mode sat (s.rnd mode w i) (at' xs i)
  ((s.logEvs (laneEvents w rs)).wV (if dt = 8 ∨ st = 8 then 6 else 4) d
    (joinV wd (rs.map (·.1) ++ old.drop n))).drew
    (mode == .sr && (decide (8 ≤ dt) || decide (8 ≤ st)))

def execVcvt (d a x : BitVec 5) (k : BitVec 3) (y : BitVec 5) (s : State) : Out :=
  withRounding s fun mode sat => .next (convertOp s x.toNat y.toNat d a k mode sat)

/-- `vcvt` in SR; the lent rounding code must be zero (R65, R150). -/
def execVcvtSr (d a x : BitVec 5) (k : BitVec 3) (y : BitVec 5) (s : State) : Out :=
  match s.lentOpt with
  | none => .next (convertOp s x.toNat y.toNat d a k .sr false)
  | some l => if l = 0 ∨ l = 8 then .next (convertOp s x.toNat y.toNat d a k .sr (l == 8)) else .next s.illegal

/-- The class code of a word (R151). -/
def classOf (f : Fmt) (x : Nat) : Nat :=
  match f.decode x with
  | .nan b => if b then 0 else 1
  | .inf s => if s then 2 else 9
  | .zero s => if s then 5 else 6
  | .num d =>
    let sub := x / 2 ^ f.fbits % 2 ^ f.ebits = 0
    if d.neg then (if sub then 4 else 3) else (if sub then 7 else 8)

def execVclass (d a : BitVec 5) (k : BitVec 3) (y : BitVec 5) (s : State) : Out :=
  let w := typeWidth y.toNat
  let xs := elems w (s.rV a)
  copyElements s w 2 d k fun i => classOf (fmtOf y.toNat) (at' xs i)

/-- The element `vrng` writes (R156). -/
def randomElem (t key base i : Nat) : Nat :=
  let wide := philoxWord key (streamCtr base (2 * i)) 1 * 2 ^ 32 + philoxWord key (streamCtr base (2 * i)) 0
  let frac (n k : Nat) (f : Fmt) : Nat :=
    if n = 0 then 0 else (f.roundFinite ⟨false, n, -(k : Int), false⟩ .rne false 0).1
  match t with
  | 7 => wide
  | 8 => frac (wide / 2 ^ 11) 53 fp64
  | 9 => frac (drawWord key base 32 i / 2 ^ 8) 24 fp32
  | 10 => frac (drawWord key base 16 i / 2 ^ 24) 8 bf16
  | 11 => frac (drawWord key base 16 i / 2 ^ 21) 11 fp16
  | _ => drawWord key base (typeWidth t) i % 2 ^ typeWidth t

def execVrng (d : BitVec 5) (k : BitVec 3) (t : BitVec 5) (s : State) : Out :=
  withRoundingIgnored s
    (.next ((s.perElement (typeWidth t.toNat) 8 d k fun i =>
      (randomElem t.toNat s.ctx.csr.seed.toNat s.drawBase i, [])).drew true))

/-! ### Block scales (R157 to R160) -/

/-- The 32 FP32 values of a block, a disabled element counting as +0 (R158, R159). -/
def blockValues (x : VWord) (m : Mask) : List Val :=
  (indexed (elems 32 x)).map fun p => if enabled m 32 p.1 then fp32.decode p.2 else .zero false

/-- The scales of a block as SB holds them (R157, R158). -/
def blockScale (t : Nat) (vs : List Val) : BitVec 16 :=
  match blockNan vs with
  | some _ => if t ≤ 15 then 0x00FF else 0xFFFF
  | none =>
    if t ≤ 15 then BitVec.ofNat 16 (mxScale t vs)
    else let (e0, e1) := dbExps (dbWidth t) vs; BitVec.ofNat 16 (e0 + 256 * e1)

/-- SB receives a block's scales two cycles after issue; the n32 form copies bits [15:0] (R158). -/
def execVbmax (a : BitVec 5) (k : BitVec 3) (t : BitVec 5) (s : State) : Out :=
  withRoundingIgnored s
    (.next (s.queue 2 (.sb
      (if t = 6 then (s.rV a).setWidth 16 else blockScale t.toNat (blockValues (s.rV a) (s.rK k))))))

/-- One element of `vquant` under the scales `sb` (R159): its bits and what it raises. -/
def quantElem (t sb : Nat) (v : Val) (mode : Rnd) (sat : Bool) (rnd : Nat) : Elem :=
  if t ≤ 15 then
    if sb % 256 = 0xFF then (0, []) else mxElement t (sb % 256) v mode sat rnd
  else
    let e0 := sb % 256
    let e1 := sb / 256 % 256
    let w := dbWidth t
    if e0 = 0xFF ∨ e1 = 0xFF then (0, [])
    else match v with
      | .nan _ => (2 ^ w, [.invalid])
      | .inf s => ((if s then 2 ^ (w + 1) else 0) + 2 ^ w + 2 ^ w - 1, [.saturate])
      | v => dbElement w e0 e1 v

/-- Element width of a block format in bits (R37). -/
def blockElemWidth (t : Nat) : Nat := if t = 17 then 4 else 8

/-- Bytes of scale data of one block (R157). -/
def granuleBytes (t : Nat) : Nat := if t ≤ 15 then 1 else 2

/-- What a `vquant` raises (R159): the block's NaN events where its scale says NaN block, otherwise the elements'. The spec gives a
block's own events no lane: NANGEN stands at the lowest enabled element, INVALID at the lowest that raises it. DESIGN CHOICE, log entry
80. -/
def quantEvents (t sb : Nat) (m : Mask) (vs : List Val) (rs : List Elem) : List (EvKind × Nat) :=
  let on := (indexed vs).filter fun p => enabled m 32 p.1
  if sb % 256 = 0xFF ∨ (16 ≤ t ∧ sb / 256 % 256 = 0xFF) then
    match on with
    | [] => []
    | (i, _) :: _ =>
      (match on.filter fun p => p.2.isInf || p.2.isSnan with
        | [] => []
        | (j, _) :: _ => [(EvKind.invalid, j)]) ++ [(.nangen, i)]
  else (laneEvents 32 rs).filter fun e => m.getLsbD e.2

/-- Shift a register down by `n` bits and put `x` on top (R159). -/
def shiftIn (old : VWord) (n x : Nat) : VWord := (old >>> n) ||| (BitVec.ofNat 1024 x <<< (1024 - n))

/-- The two registers a `vquant` writes and its events, from SB, vd and vb at the start of its second cycle (R159). -/
def quantBlock (t : Nat) (x : VWord) (m : Mask) (mode : Rnd) (sat : Bool) (key ctr : Nat) (sb : BitVec 16)
    (d b : VWord) : VWord × VWord × List (EvKind × Nat) :=
  let vs := blockValues x m
  let n := sb.toNat
  let rs := (indexed vs).map fun p =>
    quantElem t n p.2 mode sat (if mode = .sr then drawWord key ctr 32 p.1 else 0)
  let w := blockElemWidth t
  let g := granuleBytes t
  (shiftIn d (32 * w) (joinNat w (rs.map (·.1))), shiftIn b (8 * g) (n % 2 ^ (8 * g)), quantEvents t n m vs rs)

/-- Quantise one block: `va` is read now, the rest at the start of the next cycle (R159). -/
def execVquant (d a b : BitVec 5) (k : BitVec 3) (t : BitVec 5) (s : State) : Out :=
  withRounding s fun mode sat =>
    .next ((s.queue 2 (.quant t.toNat d b (s.rV a) (s.rK k) mode sat s.ctx.csr.seed.toNat s.drawBase s.cur.slot s.cur.pc
      (!s.ctx.priv))).drew (decide (t.toNat ≤ 15) && mode == .sr))

/-- Decode the lowest block of `va` with the lowest granule of `vb` (R160). -/
def execVdeq (d a b : BitVec 5) (k : BitVec 3) (t : BitVec 5) (s : State) : Out :=
  withRounding s fun mode sat =>
    let t := t.toNat
    let xs := elemsOf (blockElemWidth t) 32 (s.rV a).toNat
    let sc := (s.rV b).toNat
    .next ((s.perElement 32 4 d k fun i =>
      let v := if t ≤ 15 then mxDecode t (sc % 256) (at' xs i)
        else dbDecode (dbWidth t) (sc % 256) (sc / 256 % 256) (at' xs i)
      fp32.round v mode sat (s.rnd mode 32 i)).drew (mode == .sr))

end Sys2Proof.Machine
end

