-- ==== Sys2Proof/Machine/Delta.lean ====
section
/-!
DEFINITION. Delta processors: issue and the exposed pipeline (R318, R319), arithmetic (R321 to R325), draws (R326 to R328) and
scalar instructions (R317, R329, R330). Every count is in delta cycles of the run.
-/
namespace Sys2Proof.Machine

/-! ### The run being executed -/

def State.runOf (s : State) (k : Nat) : Option Run := (s.stack k).delta.run

def State.setRun (s : State) (k : Nat) (r : Option Run) : State :=
  s.modStack k fun x => { x with delta := { x.delta with run := r } }

/-- The cycle of the run's own clock. -/
def State.runNow (s : State) (r : Run) : Nat := deltaNow s.now - r.origin

/-- The cycle in which the instruction at the PC issues: `wait` cycles after the one that it could have (R318). -/
def Run.issueAt (r : Run) (wait : Nat) : Nat := max (r.next + wait) r.held

/-! ### Registers (R309) -/

def Run.getE (r : Run) (n : BitVec 4) : Word := if n = 0 then 0 else Store.get 0 r.e n.toNat
def Run.getQ (r : Run) (n : BitVec 2) : VWord := if n = 0 then BitVec.allOnes 1024 else Store.get 0 r.q n.toNat

/-- A register written whole is no longer in error (R384). -/
def Run.mended (r : Run) (n : Nat) (whole : Bool) : Run :=
  if r.parity.isEmpty || !whole then r else { r with parity := r.parity.filter (· != n) }

/-- One result takes effect; writes to `e0` and `q0` are discarded. -/
def Run.apply (r : Run) (w : DeltaWrite) : Run :=
  match w with
  | .lanes d xs => { r.mended d (1024 ≤ xs.length) with d := xs.foldl (fun m x => Store.set 0 m (1024 * d + x.1) (BitVec.ofNat 32 x.2)) r.d }
  | .e n x => if n = 0 then r else { r.mended (32 + n) true with e := Store.set 0 r.e n x }
  | .q n x => if n = 0 then r else { r.mended (48 + n) true with q := Store.set 0 r.q n x }

/-- The run as an instruction issued in cycle `t` sees it (R317, R318). -/
def Run.settle (r : Run) (t : Nat) : Run :=
  let due := r.pending.takeWhile fun p => decide (p.at_ ≤ t)
  due.foldl (fun r p => r.apply p.w) { r with pending := r.pending.dropWhile fun p => decide (p.at_ ≤ t) }

/-- Put a write among those on their way, after every one that takes effect earlier, or in the same cycle and is of an instruction
issued no later (R318). -/
def insertPending (p : DeltaPending) : List DeltaPending → List DeltaPending
  | [] => [p]
  | q :: qs => if q.at_ < p.at_ ∨ (q.at_ = p.at_ ∧ q.order ≤ p.order) then q :: insertPending p qs else p :: q :: qs

/-- Queue a write of the instruction being issued. -/
def Run.queue (r : Run) (at_ : Nat) (w : DeltaWrite) : Run := { r with pending := insertPending ⟨at_, w, r.issued⟩ r.pending }

/-- The instruction has issued in cycle `t`, and the next one follows it (R318). -/
def Run.advance (r : Run) (t : Nat) : Run :=
  { r with pc := r.pc + 1, last := r.pc, issued := r.issued + 1, next := t + 1, held := 0 }

/-- Record sticky events (R319, R313). -/
def Run.record (r : Run) (es : List EvKind) : Run :=
  { r with events := es.foldl (fun b k => b ||| (1#6 <<< (k.code - 1))) r.events }

/-! ### Faults (R313) -/

/-- The run stops: no further instruction issues, and exit begins (R312, R314). -/
def State.stopRun (s : State) (k kind pc : Nat) : State :=
  match s.runOf k with
  | none => s
  | some r =>
    ((s.setRun k (some { r with phase := .exiting, kind := kind, faultPc := pc })).dramLeave (.run k)).laterOpen
      { i := .deltaExitDone, a := k }

/-- The instruction at the PC takes a delta timing fault and has no effect. -/
def deltaFault (s : State) (kind : Nat) : Out :=
  match s.runOf s.cur.stack with
  | none => .next s
  | some r => .next (s.stopRun s.cur.stack kind r.pc)

/-! The kinds of R313. -/

def runIllegal : Nat := 1
def runRow : Nat := 2
def runChannel : Nat := 3
def runOwner : Nat := 4
def runOverlap : Nat := 5
def runRange : Nat := 6
def runLocks : Nat := 7
def runData : Nat := 8
def runStopped : Nat := 9
def runPush : Nat := 10
def runCode : Nat := 11
def runHeader : Nat := 12

/-- Run an instruction of the stack's run: its issue cycle and the registers as it sees them. -/
def withRun (s : State) (wait : BitVec 6) (k : Run → Nat → Out) : Out :=
  match s.runOf s.cur.stack with
  | none => .next s
  | some r => let t := r.issueAt wait.toNat; k (r.settle t) t

/-- The run as an instruction leaves it. -/
def State.putRun (s : State) (r : Run) : Out := .next (s.setRun s.cur.stack (some r))

/-- The instruction does not issue yet; it is tried again in the next delta cycle (R335 to R338). -/
def State.deltaHold (s : State) : Out :=
  match s.runOf s.cur.stack with
  | none => .next s
  | some r => s.putRun { r with held := s.runNow r + 1 }

/-- An access of the run's instruction to another party's memory: it delays issue while the access queues at the DRAM sequencer
(R315). -/
def withRunDram (s : State) (pa n : Nat) (go : State → Out) : Out :=
  let who := DramParty.run s.cur.stack
  if s.dramWaits who pa n then (s.dramJoin who pa n).deltaHold else go ((s.dramTake pa n).dramLeave who)

/-! ### Lanes -/

/-- The physical address of a segment of a stack (R331). -/
def segPa (k seg : Nat) : Nat :=
  if bit seg 36 then sideBase + k * 2 ^ 28 + bits seg 27 0 else hbmBase + k * 2 ^ 36 + bits seg 35 0

/-- Lane `L` of a register that the segments fill, `b` bytes each; the bytes past the last one are 0 (R331). -/
def State.segLane (s : State) (k : Nat) (segs : List Nat) (b lane : Nat) : Nat :=
  match segs[4 * lane / b]? with
  | some seg => s.memRead (segPa k seg + 4 * lane % b) 4
  | none => 0

/-- The lanes of a data register. One that a `dldb` is filling reads, lane by lane, as it was or as it will be (R332). -/
def State.lanes (s : State) (r : Run) (d : BitVec 5) : List Nat :=
  let m := r.d.filter fun e => e.1 / 1024 == d.toNat
  let old (i : Nat) : Nat := (Store.get 0 m (1024 * d.toNat + i)).toNat
  (upTo 1024).map fun i =>
    match r.dldb with
    | some x =>
      if x.d = d.toNat ∧ !x.waited ∧ Config.laneLoaded (r.origin + r.next) i then s.segLane s.cur.stack x.segs x.bytes i else old i
    | none => old i

/-- Enabled(L) (R319). -/
def laneOn (q : VWord) (qn : BitVec 1) (i : Nat) : Bool := q.getLsbD i != (qn == 1)

/-! ### Draws (R326) -/

def Run.draw (r : Run) (ei : BitVec 4) (m : Nat) (lane : Nat) : Nat :=
  philoxWord r.seed (r.round * 2 ^ 40 ||| ((r.getE ei).toNat + lane) % 2 ^ 40) m

/-- Mode (R319, R322): the header's RND for 0b111, with SR taken as RNE where the operation does not allow it. -/
def Run.mode (r : Run) (rnd : BitVec 3) (sr : Bool) : Rnd :=
  let m := Rnd.ofCode (if rnd = 7 then r.rnd else rnd.toNat)
  if m = .sr ∧ !sr then .rne else m

/-- The random word of a lane in SR, 0 otherwise. -/
def Run.rnd32 (r : Run) (mode : Rnd) (ei : BitVec 4) (m : BitVec 2) (lane : Nat) : Nat :=
  if mode = .sr then r.draw ei m.toNat lane else 0

/-! ### Arithmetic (R321 to R324) -/

/-- A lanewise operation: `f` gives a lane's result from its lanes of da, db and dc. -/
def laneOp (s : State) (w : BitVec 6) (f : DrFields) (lat : Nat) (sr : Bool)
    (g : Rnd → Bool → Nat → Nat → Nat → Nat → Elem) : Out :=
  withRun s w fun r t =>
    let mode := r.mode f.rnd sr
    let q := r.getQ f.q
    let a := s.lanes r f.da
    let b := s.lanes r f.db
    let c := s.lanes r f.dc
    let rs := ((upTo 1024).filter (laneOn q f.qn)).map fun i =>
      (i, g mode (f.sat == 1) (r.rnd32 mode f.ei f.m i) (at' a i) (at' b i) (at' c i))
    s.putRun (((r.queue (t + lat) (.lanes f.dd.toNat (rs.map fun e => (e.1, e.2.1)))).record (rs.flatMap (·.2.2))).advance t)

def deltaArith (f : Arith) (lat : Nat) (s : State) (w : BitVec 6) (x : DrFields) : Out :=
  laneOp s w x lat true fun mode sat rnd a b c => arithElem f 9 mode sat rnd a b c

def execDadd (w : BitVec 6) (f : DrFields) (s : State) : Out := deltaArith arithAdd 4 s w f
def execDsub (w : BitVec 6) (f : DrFields) (s : State) : Out := deltaArith arithSub 4 s w f
def execDmul (w : BitVec 6) (f : DrFields) (s : State) : Out := deltaArith arithMul 4 s w f
def execDfma (w : BitVec 6) (f : DrFields) (s : State) : Out := deltaArith arithFma 6 s w f

def execDmin (w : BitVec 6) (f : DrFields) (s : State) : Out :=
  laneOp s w f 2 false fun _ _ _ a b _ => minMaxFloat fp32 true a b
def execDmax (w : BitVec 6) (f : DrFields) (s : State) : Out :=
  laneOp s w f 2 false fun _ _ _ a b _ => minMaxFloat fp32 false a b
def execDabs (w : BitVec 6) (f : DrFields) (s : State) : Out := laneOp s w f 2 false fun _ _ _ a _ _ => signElem fp32 false a
def execDneg (w : BitVec 6) (f : DrFields) (s : State) : Out := laneOp s w f 2 false fun _ _ _ a _ _ => signElem fp32 true a

/-- A function of one operand (R138). -/
def deltaUnary (fn : Nat) (s : State) (w : BitVec 6) (f : DrFields) : Out :=
  laneOp s w f 12 true fun mode sat rnd a _ _ =>
    let (v, ev) := unaryVal fn (fp32.decode a)
    let (x, ev') := fp32.round v mode sat rnd
    (x, ev ++ ev')

def execDrcp (w : BitVec 6) (f : DrFields) (s : State) : Out := deltaUnary 0 s w f
def execDrsqrt (w : BitVec 6) (f : DrFields) (s : State) : Out := deltaUnary 1 s w f
def execDsqrt (w : BitVec 6) (f : DrFields) (s : State) : Out := deltaUnary 2 s w f

/-- Every lane is written: da's where the mask is set, else db's (R321). -/
def execDsel (w : BitVec 6) (f : DrFields) (s : State) : Out :=
  withRun s w fun r t =>
    let q := r.getQ f.q
    let a := s.lanes r f.da
    let b := s.lanes r f.db
    s.putRun ((r.queue (t + 2) (.lanes f.dd.toNat ((upTo 1024).map fun i =>
      (i, if laneOn q f.qn i then at' a i else at' b i)))).advance t)

/-- The number whose bits are listed, lowest first. -/
def joinBits : List Bool → Nat
  | [] => 0
  | b :: bs => (if b then 1 else 0) + 2 * joinBits bs

def execDcmp (w : BitVec 6) (qd : BitVec 2) (da db : BitVec 5) (cc : BitVec 4) (q : BitVec 2) (qn : BitVec 1)
    (s : State) : Out :=
  withRun s w fun r t =>
    let m := r.getQ q
    let rs := (indexed ((s.lanes r da).zip (s.lanes r db))).map fun e =>
      if laneOn m qn e.1 then floatCond cc.toNat (fp32.decode e.2.1) (fp32.decode e.2.2) else (false, [])
    s.putRun (((r.queue (t + 2) (.q qd.toNat (BitVec.ofNat 1024 (joinBits (rs.map (·.1)))))).record (rs.flatMap (·.2))).advance t)

/-! ### Sums (R325) -/

/-- One node of a sum: Add under Mode, with what it has raised. -/
def sumNode (mode : Rnd) (sat : Bool) (a b : Elem) : Elem :=
  let r := arithElem arithAdd 9 mode sat 0 a.1 b.1 0
  (r.1, a.2 ++ b.2 ++ r.2)

/-- A sum over the enabled lanes by the pair tree; lane 0 receives it, the others +0. -/
def deltaSum (lat : Nat) (leaf : Bool → Nat → Elem) (s : State) (w : BitVec 6) (f : DrFields) : Out :=
  withRun s w fun r t =>
    let q := r.getQ f.q
    let a := s.lanes r f.da
    let v := pairTree (sumNode (r.mode f.rnd false) (f.sat == 1))
      (fun i => if laneOn q f.qn i then some (leaf (f.sat == 1) (at' a i)) else none) 10 0
    let (x, es) := loneNan 9 (v.getD (0, []))
    s.putRun (((r.queue (t + lat) (.lanes f.dd.toNat ((upTo 1024).map fun i => (i, if i = 0 then x else 0)))).record
      es).advance t)

def execDsum (w : BitVec 6) (f : DrFields) (s : State) : Out := deltaSum 42 (fun _ a => (a, [])) s w f

/-- The leaf of `dsq` is the rounded square. -/
def execDsq (w : BitVec 6) (f : DrFields) (s : State) : Out :=
  deltaSum 46 (fun sat a => arithElem arithMul 9 .rne sat 0 a a 0) s w f

/-! ### Random values, conversion, broadcast (R327, R328, R330) -/

/-- `(Draw >> 8) * 2^-24` as an FP32 word, exactly (R328). -/
def unitWord (x : Nat) : Nat :=
  if x / 2 ^ 8 = 0 then 0 else (fp32.roundFinite ⟨false, x / 2 ^ 8, -24, false⟩ .rne false 0).1

def execDrng (w : BitVec 6) (f : DrFields) (s : State) : Out :=
  withRun s w fun r t =>
    let on := (upTo 1024).filter (laneOn (r.getQ f.q) f.qn)
    s.putRun ((r.queue (t + 4) (.lanes f.dd.toNat (on.map fun i => (i, unitWord (r.draw f.ei f.m.toNat i))))).advance t)

/-- The lanes of a register whose bytes are a number. -/
def lanesOfBytes (x : Nat) : List (Nat × Nat) := (upTo 1024).map fun i => (i, x / 2 ^ (32 * i) % 2 ^ 32)

/-- One block of 32 lanes in an MXFP8 type (R33): the scale byte and the elements. -/
def encodeMx (t : Nat) (mode : Rnd) (sat : Bool) (rnd : Nat → Nat) (vs : List Val) : Nat × List Elem :=
  match blockNan vs with
  | some es => (0xFF, (indexed vs).map fun e => (0, if e.1 = 0 then es else []))
  | none => let x := mxScale t vs; (x, (indexed vs).map fun e => mxElement t x e.2 mode sat (rnd e.1))

/-- `dcvt` to a narrow type (R327). -/
def execDcvtTo (w : BitVec 6) (dd da t : BitVec 5) (rnd : BitVec 3) (sat : BitVec 1) (m : BitVec 2) (ei : BitVec 4)
    (s : State) : Out :=
  withRun s w fun r c =>
    let mode := r.mode rnd true
    let a := s.lanes r da
    let draw := r.rnd32 mode ei m
    let t := t.toNat
    let (bytes, es) : Nat × List EvKind :=
      if t ≤ 13 then
        let rs := (indexed a).map fun e => (fmtOf t).round (fp32.decode e.2) mode (sat == 1) (draw e.1)
        (joinNat (typeWidth t) (rs.map (·.1)), rs.flatMap (·.2))
      else
        let bs := (upTo 32).map fun j =>
          encodeMx t mode (sat == 1) (fun i => draw (32 * j + i)) (((a.drop (32 * j)).take 32).map fp32.decode)
        (joinNat 8 (bs.flatMap fun b => b.2.map (·.1)) + 2 ^ 8192 * joinNat 8 (bs.map (·.1)), bs.flatMap fun b => b.2.flatMap (·.2))
    s.putRun (((r.queue (c + 4) (.lanes dd.toNat (lanesOfBytes bytes))).record es).advance c)

/-- `dcvt` from a narrow type (R327). -/
def execDcvtFrom (w : BitVec 6) (dd da t : BitVec 5) (_rnd : BitVec 3) (_sat : BitVec 1) (_m : BitVec 2) (_ei : BitVec 4)
    (s : State) : Out :=
  withRun s w fun r c =>
    let x := joinNat 32 (s.lanes r da)
    let t := t.toNat
    let rs := (upTo 1024).map fun i =>
      let e := x / 2 ^ (typeWidth t * i) % 2 ^ typeWidth t
      let v := if t ≤ 13 then (fmtOf t).decode e else mxDecode t (x / 2 ^ (8192 + 8 * (i / 32)) % 256) e
      fp32.round v .rne false 0
    s.putRun (((r.queue (c + 4) (.lanes dd.toNat ((indexed rs).map fun e => (e.1, e.2.1)))).record (rs.flatMap (·.2))).advance c)

/-- Broadcast of an e register's low half (R330). -/
def execDbcast (w : BitVec 6) (f : DrFields) (s : State) : Out :=
  withRun s w fun r t =>
    let x := (r.getE f.ei).toNat % 2 ^ 32
    s.putRun ((r.queue (t + 2) (.lanes f.dd.toNat (((upTo 1024).filter (laneOn (r.getQ f.q) f.qn)).map fun i => (i, x)))).advance t)

/-! ### Scalars (R317, R329, R330) -/

/-- An ES operation of latency 1. -/
def scalarOp (op : Word → Word → Word) (s : State) (w : BitVec 6) (ed ea eb : BitVec 4) (isel : BitVec 1) (imm : BitVec 32) :
    Out :=
  withRun s w fun r t =>
    let y := if isel = 1 then imm.signExtend 64 else r.getE eb
    s.putRun ((r.queue (t + 1) (.e ed.toNat (op (r.getE ea) y))).advance t)

def execEadd (w : BitVec 6) (ed ea eb : BitVec 4) (isel : BitVec 1) (imm : BitVec 32) (s : State) : Out :=
  scalarOp (fun a b => a + b) s w ed ea eb isel imm

def execEmul (w : BitVec 6) (ed ea eb : BitVec 4) (isel : BitVec 1) (imm : BitVec 32) (s : State) : Out :=
  scalarOp (fun a b => a * b) s w ed ea eb isel imm

def execEli (w : BitVec 6) (ed : BitVec 4) (imm : BitVec 40) (s : State) : Out :=
  withRun s w fun r t => s.putRun ((r.queue (t + 1) (.e ed.toNat (imm.signExtend 64))).advance t)

/-- Continue at the target, one cycle later than in sequence (R318, R329). -/
def Run.transfer (r : Run) (t : Nat) (tgt : BitVec 13) : Run := 
  { r with last := r.pc, pc := tgt.toNat, issued := r.issued + 1, next := t + 2, held := 0 }

def execEbr (w : BitVec 6) (ea eb : BitVec 4) (cc : BitVec 4) (tgt : BitVec 13) (s : State) : Out :=
  withRun s w fun r t =>
    s.putRun (if intCond 64 cc.toNat (r.getE ea).toNat (r.getE eb).toNat then r.transfer t tgt else r.advance t)

def execEjmp (w : BitVec 6) (tgt : BitVec 13) (s : State) : Out := withRun s w fun r t => s.putRun (r.transfer t tgt)

def execEloop (w : BitVec 6) (ea : BitVec 4) (tgt : BitVec 13) (s : State) : Out :=
  withRun s w fun r t =>
    let x := r.getE ea - 1
    let r := r.queue (t + 1) (.e ea.toNat x)
    s.putRun (if x ≠ 0 then r.transfer t tgt else r.advance t)

/-- Whether one of `n` bytes lies in a pseudo-channel that the stack's run claims. -/
def Run.claims (r : Run) (k pa n : Nat) : Bool :=
  (segmentsOf pa n).any fun x => region x.1 == .hbm && stackOf x.1 == k && r.pchMask.getLsbD (pchOf (home x.1 % 2 ^ 36))

/-- A load of 8 bytes at a physical address (R330). -/
def execEld (w : BitVec 6) (ed ea : BitVec 4) (s : State) : Out :=
  withRun s w fun r t =>
    let pa := (r.getE ea).toNat
    if pa % 8 ≠ 0 ∨ !moduleMemory pa ∨ r.claims s.cur.stack pa 8 then deltaFault s runRange
    else withRunDram s pa 8 fun s =>
     if s.memPoisoned pa 8 then deltaFault s runData
     else
      let n := t + 1 + Config.engineDelay s.fresh
      let x : Nat := match region pa with
        | .sync _ => s.syncRead pa 8
        | .side => if s.sideServes pa then s.memRead pa 8 else 0
        | _ => s.memRead pa 8
      { s with fresh := s.fresh + 1 }.putRun { (r.queue n (.e ed.toNat (BitVec.ofNat 64 x))).advance t with next := n }

end Sys2Proof.Machine
end

