-- ==== Sys2Proof/Machine/DeltaRun.lean ====
section
/-!
DEFINITION. Delta processors: DRAM access (R320, R331, R332), waits and windows (R333), locks (R334), pushes, signals and
publications (R335 to R337), and the life of a run (R310 to R315, R338, R339).
-/
namespace Sys2Proof.Machine

/-! ### Segments (R320, R331) -/

/-- Bytes of a segment. -/
def segBytes (k : BitVec 3) : Nat := 1024 / 2 ^ k.toNat

/-- The first `n` segments that operands name. -/
def Run.segs (r : Run) (ea es : BitVec 4) (n : Nat) : List Nat :=
  (upTo n).map fun g => ((r.getE ea).toNat + g * (r.getE es).toNat) % 2 ^ 64

/-- Whether a segment names bytes that a DRAM instruction of the stack may move (R331). -/
def State.segOk (s : State) (k b seg : Nat) : Bool :=
  seg % b == 0 && bits seg 63 37 == 0 &&
    (!bit seg 36 || (bits seg 35 28 == 0 && (s.stack k).sideStatus.getLsbD (bits seg 27 24)))

/-- The key of a bank of a pseudo-channel. -/
def bankKey (seg : Nat) : Nat := 64 * pchOf seg + bankOf seg

/-- The checks and times of a list of segments issued in cycle `t` (R320): the run with its channels and banks brought
forward and the end of the last segment, or the kind of the fault. `own` holds the ends of this instruction's segments. -/
def Run.place (r : Run) (t b : Nat) : List Nat → Store Nat → Nat → Except Nat (Run × Nat)
  | [], own, e =>
    .ok ({ r with pchEnd := own.foldl (fun m x => Store.set 0 m x.1 x.2) r.pchEnd }, e)
  | seg :: segs, own, e =>
    if bit seg 36 then r.place t b segs own e
    else
      let p := pchOf seg
      let start := max t (Store.get 0 own p)
      let row := Store.get 0 r.rowStart (bankKey seg)
      if !r.pchMask.getLsbD p then .error runOwner
      else if start < Store.get 0 r.pchEnd p then .error runChannel
      else if row ≠ 0 ∧ start + 1 < 48 + row then .error runRow
      else
        let fin := start + 8 + b / 32
        { r with rowStart := Store.set 0 r.rowStart (bankKey seg) (start + 1) }.place t b segs (Store.set 0 own p fin) (max e fin)

/-- Whether some segment is in DRAM. -/
def anyDram (segs : List Nat) : Bool := segs.any fun x => !bit x 36

/-- Start a `dld` or `dst`: OVERLAP, RANGE, then the rules of R320. -/
def withSegs (s : State) (w : BitVec 6) (ea es : BitVec 4) (k : BitVec 3) (go : Run → Nat → List Nat → Nat → Out) : Out :=
  withRun s w fun r t =>
    let b := segBytes k
    let segs := r.segs ea es 4
    if r.dldb.any fun x => !x.waited then deltaFault s runOverlap
    else if segs.any fun x => !s.segOk s.cur.stack b x then deltaFault s runRange
    else match r.place t b segs [] 0 with
      | .error x => deltaFault s x
      | .ok (r, e) => go r t segs e

/-- A load of four segments: they land 16 cycles after the last ends, or at `t + 24` from side store alone (R320). -/
def execDld (w : BitVec 6) (d : BitVec 5) (ea es : BitVec 4) (k : BitVec 3) (s : State) : Out :=
  withSegs s w ea es k fun r t segs e =>
    let b := segBytes k
    if segs.any fun x => s.memPoisoned (segPa s.cur.stack x) b then deltaFault s runData
    else
      let l := if anyDram segs then e + 16 else t + 24
      let xs := (upTo 1024).map fun i => (i, s.segLane s.cur.stack segs b i)
      s.putRun ({ r.queue l (.lanes d.toNat xs) with dramDone := max r.dramDone l }.advance t)

/-- Add the sectors of `n` bytes to a signature (R206). -/
def sigAddBytes (g : Sig) (pa n : Nat) : Sig := (upTo ((n + 31) / 32)).foldl (fun g i => sigAdd g (pa + 32 * i)) g

/-- A store of four segments (R331). -/
def execDst (w : BitVec 6) (d : BitVec 5) (ea es : BitVec 4) (k : BitVec 3) (s : State) : Out :=
  withSegs s w ea es k fun r t segs e =>
    let b := segBytes k
    let x := joinNat 32 (s.lanes r d)
    let c := if anyDram segs then e else t + 8
    let s' := (indexed segs).foldl (fun s' g => s'.memWrite (segPa s.cur.stack g.2) b (x / 2 ^ (8 * b * g.1) % 2 ^ (8 * b))) s
    let sig := segs.foldl (fun g x => sigAddBytes g (segPa s.cur.stack x) b) r.sig
    s'.putRun ({ r with dramDone := max r.dramDone c, dstDone := max r.dstDone c, sig := sig }.advance t)

/-! ### The all-bank load (R332, R376) -/

/-- Place the segments of a wave: each waits for its pseudo-channel and its row cycle. -/
def Run.waveSegs (r : Run) (b start : Nat) : List Nat → Nat → Run × Nat
  | [], e => (r, e)
  | seg :: segs, e =>
    if bit seg 36 then r.waveSegs b start segs e
    else
      let p := pchOf seg
      let at_ := max (max start (Store.get 0 r.pchEnd p)) (Store.get 0 r.rowStart (bankKey seg) + 47)
      let at_ := if Store.get 0 r.rowStart (bankKey seg) = 0 then max start (Store.get 0 r.pchEnd p) else at_
      let fin := at_ + 8 + b / 32
      { r with
        pchEnd := Store.set 0 r.pchEnd p fin
        rowStart := Store.set 0 r.rowStart (bankKey seg) (at_ + 1) }.waveSegs b start segs (max e fin)

/-- The core cycle by which a delta cycle has begun (R4). -/
def coreCycle (c : Nat) : Nat := (5 * c + 3) / 4

/-- Take a step in a delta cycle of the run. -/
def State.atDelta (s : State) (r : Run) (c : Nat) (e : Event) : State :=
  { s with timers := s.timers ++ [(max (s.now + 1) (coreCycle (r.origin + c)), e)] }

/-- Start the next wave of the `dldb` in cycle `c`; the last one says when the load lands. -/
def State.startWave (s : State) (k c : Nat) (r : Run) (x : AllBank) : State :=
  let n := r.bankLimit
  let (r, e) := r.waveSegs x.bytes c ((x.segs.drop x.started).take n) c
  let x := { x with started := x.started + n }
  let lands := if anyDram x.segs then e + 16 else c + 24
  if x.segs.length ≤ x.started then
    (s.setRun k (some { r with dldb := some { x with lands := some lands }, dramDone := max r.dramDone lands })).atDelta r lands
      { i := .dldbComplete, a := k, b := lands }
  else (s.setRun k (some { r with dldb := some x })).atDelta r e { i := .dldbComplete, a := k, b := e }

def execDldb (w : BitVec 6) (d : BitVec 5) (ea es : BitVec 4) (k : BitVec 3) (s : State) : Out :=
  withRun s w fun r t =>
    let b := segBytes k
    let segs := r.segs ea es (4096 / b)
    if (r.dldb.any fun x => !x.waited) ∨ t < r.dramDone then deltaFault s runOverlap
    else if segs.any fun x => !s.segOk s.cur.stack b x then deltaFault s runRange
    else if segs.any fun x => !bit x 36 && !r.pchMask.getLsbD (pchOf x) then deltaFault s runOwner
    else if segs.any fun x => s.memPoisoned (segPa s.cur.stack x) b then deltaFault s runData
    else .next (s.startWave s.cur.stack t (r.advance t) ⟨d.toNat, segs, b, 0, none, false, false, r.pc, r.issued⟩)

/-- The end of a wave, or the landing of the last segment (`b` is the cycle): the lanes of the register are those of memory, unless an
error has struck the segments since issue (R313, R385). A run that exits starts no further wave (R314). -/
def execDldbComplete (s : State) : Out :=
  let k := s.arg.a
  match s.runOf k with
  | none => .next s
  | some r =>
    match r.dldb with
    | none => .next s
    | some x =>
      match x.lands with
      | some c =>
        let done (r : Run) : Run := { r with dldb := if x.waited then none else some { x with landed := true } }
        if s.arg.b ≠ c then .next s
        else if x.segs.any fun y => s.memPoisoned (segPa k y) x.bytes then
          let s := s.setRun k (some (done r))
          .next (if r.phase = .running then s.stopRun k runData x.pc else s)
        else
          let xs := (upTo 1024).map fun i => (i, s.segLane k x.segs x.bytes i)
          .next (s.setRun k (some (done { r with pending := insertPending ⟨c, .lanes x.d xs, x.order⟩ r.pending })))
      | none =>
        if r.phase = .running then .next (s.startWave k s.arg.b r x)
        else .next (s.setRun k (some { r with dldb := none }))

/-! ### Waits, windows and locks (R333, R334) -/

/-- Wait for the DRAM instructions, and open a window of `n` cycles. -/
def deltaWait (s : State) (w : BitVec 6) (n : Nat) : Out :=
  withRun s w fun r t =>
    if r.dldb.any fun x => x.lands.isNone then s.deltaHold
    else
      let u := max (t + 1) r.dramDone
      s.putRun { r.advance t with
        next := u + n, window := if n = 0 then r.window else some (u, u + n)
        dldb := r.dldb.bind fun x => if x.landed then none else some { x with waited := true } }

def execDwait (w : BitVec 6) (s : State) : Out := deltaWait s w 0
def execDwaitExt (w : BitVec 6) (n : BitVec 16) (s : State) : Out := deltaWait s w n.toNat

/-- The row of a DRAM segment. -/
def rowKey (seg : Nat) : Nat × Nat × Nat := (pchOf seg, bankOf seg, rowOf seg)

/-- The rows that `dlock` and `dunlock` name; a side-store address is ignored. -/
def withRows (s : State) (w : BitVec 6) (ea es : BitVec 4) (k : BitVec 3) (go : Run → Nat → List Nat → Out) : Out :=
  withRun s w fun r t =>
    let segs := r.segs ea es 4
    if segs.any fun x => !s.segOk s.cur.stack (segBytes k) x && !(bit x 36) then deltaFault s runRange
    else go r t (segs.filter fun x => !bit x 36)

def execDlock (w : BitVec 6) (ea es : BitVec 4) (k : BitVec 3) (s : State) : Out :=
  withRows s w ea es k fun r t segs =>
    let locks := segs.foldl (fun l x => if l.contains (rowKey x) then l else rowKey x :: l) r.locks
    if segs.any fun x => !r.pchMask.getLsbD (pchOf x) then deltaFault s runOwner
    else if 64 < locks.length then deltaFault s runLocks
    else s.putRun ({ r with locks := locks }.advance t)

def execDunlock (w : BitVec 6) (ea es : BitVec 4) (k : BitVec 3) (s : State) : Out :=
  withRows s w ea es k fun r t segs =>
    s.putRun ({ r with locks := r.locks.filter fun l => !(segs.map rowKey).contains l }.advance t)

/-! ### Pushes (R335) -/

/-- Whether a store push of `n` bytes, or with `host` a `dsig.st`, may name an address: module memory or a remote package's, or host
memory, with no byte in the run's own claimed pseudo-channels (R335, R336). -/
def Run.mayStore (r : Run) (k pa n : Nat) (host : Bool) : Bool :=
  (match region pa with
   | .hbm | .side | .sync _ | .remote _ => true
   | .host => host
   | _ => false) && !r.claims k pa n

/-- The push with a number of a stack's run. -/
def State.push (s : State) (k i : Nat) : Option Push :=
  match s.runOf k with
  | some r => r.pushes.find? fun p => p.id == i
  | none => none

def State.modRun (s : State) (k : Nat) (f : Run → Run) : State :=
  match s.runOf k with
  | some r => s.setRun k (some (f r))
  | none => s

/-- A push has finished. -/
def State.endPush (s : State) (k i : Nat) : State :=
  s.modRun k fun r => { r with pushes := r.pushes.filter fun p => p.id != i }

/-- A push is lost: a fault of kind PUSH for the next instruction (R335, R353). -/
def State.losePush (s : State) (k i : Nat) : State := (s.modRun k fun r => { r with pushLost := true }).endPush k i

/-- The halves of an accumulate push. -/
def Push.halves (p : Push) : List (Nat × VWord) := (upTo (p.n / 128)).map fun h => (h, BitVec.ofNat 1024 (p.data / 2 ^ (1024 * h)))

/-- Ask for the reservation of an accumulate push (R284): granted, its packets set out; WAIT delays the push and not the
pipeline; a fault reply loses it. -/
def State.reservePush (s : State) (k : Nat) (p : Push) : State :=
  if s.unreachable p.pa then s.losePush k p.id
  else match s.serveReserve p.pa (upTo (p.n / 128)) (reserveWord (s.wireIndex p.pa p.k) p.tag false reserveEach) (.push k p.id) with
  | (none, s) => s.laterOpen { i := .dpushFinish, a := k, b := p.id, c := 1 }
  | (some x, s) =>
    if x < 8 then s.losePush k p.id
    else s.sendHalves none 0 (some (k, p.id)) x p.pa p.k p.tag false false false p.halves

/-- Start a push: up to 64 are outstanding, and another delays issue. -/
def withPush (s : State) (w : BitVec 6) (d : BitVec 5) (ea : BitVec 4) (k : BitVec 3)
    (go : Run → Nat → Nat → Nat → Nat → Out) : Out :=
  withRun s w fun r t =>
    let pa := (r.getE ea).toNat
    let n := 4096 / 2 ^ k.toNat
    if pa % n ≠ 0 then deltaFault s runRange
    else if 64 ≤ r.pushes.length then s.deltaHold
    else go r t pa n (joinNat 32 ((s.lanes r d).take (n / 4)))

def execDpush (w : BitVec 6) (d : BitVec 5) (ea _ek : BitVec 4) (k : BitVec 3) (s : State) : Out :=
  withPush s w d ea k fun r t pa n x =>
    if !r.mayStore s.cur.stack pa n false then deltaFault s runRange
    else
      let p : Push := ⟨r.nextPush, false, pa, n, x, 0, 0⟩
      .next ((s.setRun s.cur.stack (some ({ r with
        pushes := r.pushes ++ [p], nextPush := r.nextPush + 1, sig := sigAddBytes r.sig pa n }.advance t))).laterOpen
        { i := .dpushFinish, a := s.cur.stack, b := p.id })

def execDpushAcc (w : BitVec 6) (d : BitVec 5) (ea ek : BitVec 4) (k : BitVec 3) (s : State) : Out :=
  withPush s w d ea k fun r t pa n x =>
    let v := (r.getE ek).toNat
    let p : Push := ⟨r.nextPush, true, pa, n, x, bits v 11 0, bits v 31 16⟩
    let idx := reserveWord (s.wireIndex pa p.k) p.tag false reserveEach
    match (s.serveReserve pa (upTo (n / 128)) idx).1 with
    | some c =>
      if c < 8 then deltaFault s runPush
      else .next ((s.setRun s.cur.stack (some ({ r with
        pushes := r.pushes ++ [p], nextPush := r.nextPush + 1 }.advance t))).reservePush s.cur.stack p)
    | none => .next ((s.setRun s.cur.stack (some ({ r with
        pushes := r.pushes ++ [p], nextPush := r.nextPush + 1 }.advance t))).reservePush s.cur.stack p)

/-- A store push reaches its home agent and is acknowledged, or an accumulate push whose packets are all done finishes (R335);
`c` is 1 when a delayed reservation is asked for again, 2 when a store has set out for another package. A store to a stack in compute mode
queues (R315); one to a peer that does not acknowledge it is lost, and so is one that no port carries (R353). -/
def execDpushFinish (s : State) : Out :=
  let k := s.arg.a
  match s.push k s.arg.b with
  | none => .next s
  | some p =>
    if s.arg.c = 1 then .next (s.reservePush k p)
    else if p.acc then .next (s.endPush k p.id)
    else withDram s s.arg [(p.pa, p.n)] fun s =>
      match region p.pa with
      | .remote _ =>
        let who := Requester.push k p.id
        if s.arg.c = 0 then
          let s := s.askTo who reqWrite p.pa p.n p.data 0
          .next (if s.unreachable p.pa then s else s.laterOpen { s.arg with c := 2 })
        else if s.carrying who then .next (s.laterOpen s.arg)
        else
          let ok := Config.peerAcks s.fresh
          let s := { s with fresh := s.fresh + 1 }
          .next (if ok then (s.memWrite p.pa p.n p.data).endPush k p.id else s.losePush k p.id)
      | .side => .next (if s.sideServes p.pa then (s.memWrite p.pa p.n p.data).endPush k p.id else s.losePush k p.id)
      | _ => .next ((s.partyPut p.pa p.n p.data).endPush k p.id)

/-! ### Signals, publications and the end (R336 to R338) -/

/-- Go on once every earlier `dst` and push has completed. -/
def withDone (s : State) (w : BitVec 6) (go : Run → Nat → Out) : Out :=
  withRun s w fun r t => if !r.pushes.isEmpty ∨ t < r.dstDone then s.deltaHold else go r t

/-- `dsig` to a target word: the next instruction waits until the delivery has been served. -/
def execDsig (w : BitVec 6) (ea _ev n : BitVec 4) (s : State) : Out :=
  withDone s w fun r t =>
    .next ((s.setRun s.cur.stack (some { r.advance t with signalling := true })).sendFlag (r.getE ea) n.toNat srcDelta
      s.cur.stack 0 r.sig)

/-- `dsig` of a word: a release write at its home agent; one to a package that no port reaches is lost (R353). -/
def execDsigSt (w : BitVec 6) (ea ev _n : BitVec 4) (s : State) : Out :=
  withDone s w fun r t =>
    let pa := (r.getE ea).toNat
    if pa % 8 ≠ 0 ∨ !r.mayStore s.cur.stack pa 8 true then deltaFault s runRange
    else if s.unreachable pa then s.putRun { r.advance t with pushLost := true }
    else withRunDram s pa 8 fun s =>
      ((s.releasePut pa 8 (r.getE ev).toNat r.sig).askTo (.push s.cur.stack (noPush + r.origin)) reqWrite pa 8 (r.getE ev).toNat
        r.sig).putRun (r.advance t)

/-- Publish the shard: the publication goes to the set's engine, which takes it now or when its round has come (R349). -/
def execDpub (w : BitVec 6) (es er : BitVec 4) (s : State) : Out :=
  withDone s w fun r t =>
    let i := (r.getE es).toNat % 2 ^ 16
    let s := s.setRun s.cur.stack (some { r.advance t with pubs := r.pubs + 1 })
    if s.setCount ≤ i then .next (s.pubTaken s.cur.stack)
    else .next ((s.publish s.cur.stack i ((r.getE er).toNat % 2 ^ 32) r.sig).afterRound i)

/-- Whether everything a run has issued has finished, by its own cycle `t`. -/
def Run.finished (r : Run) (t : Nat) : Bool :=
  r.pushes.isEmpty && r.pubs == 0 && !r.signalling && decide (r.dramDone ≤ t) && (r.dldb.all fun x => x.lands.isSome) &&
    r.pending.all fun p => decide (p.at_ ≤ t)

def execDhalt (w : BitVec 6) (s : State) : Out :=
  withRun s w fun r t =>
    if !r.finished t then s.deltaHold
    else .next ((s.setRun s.cur.stack (some { r.advance t with phase := .exiting })).laterOpen
      { i := .deltaExitDone, a := s.cur.stack })

/-! ### The life of a run (R310 to R314) -/

/-- Whether the prerequisite basin of a PRE field has completed its round, in an earlier delta cycle (R311, R339). -/
def State.preMet (s : State) (x : Nat) : Bool :=
  if !bit x 16 then true
  else
    let b := s.basin (bits x 15 12) (bits x 11 0)
    let past := (b.round + 2 ^ 16 - bits x 47 32) % 2 ^ 16
    ((b.phase == .complete && past == 0) || (b.phase != .free && decide (1 ≤ past) && decide (past ≤ 2 ^ 15))) &&
      decide (b.completed ≤ deltaNow s.now)

/-- Whether the prerequisites of a header are met; a write to a version set raises its FLOOR in the same step (R311, R345). -/
def State.prerequisites (s : State) (x : Nat) : Option State :=
  let v := fieldAt x 80 8
  if !((upTo 4).all fun i => s.preMet (fieldAt x (48 + 8 * i) 8)) then none
  else if !bit v 16 then some s
  else s.vwait (v % 2 ^ 16) (bits v 63 32)

/-- The header of a request as the memory side holds it; one with poison in it is bad (R385). -/
def State.headerOf (s : State) (q : StartReq) : Option Nat :=
  let x := s.memRead q.header 128
  let v := fieldAt x 80 8
  if q.header % 64 ≠ 0 ∨ !moduleMemory q.header ∨ s.memPoisoned q.header 128 ∨ headerBad x ∨
      (bit v 16 ∧ s.setCount ≤ v % 2 ^ 16) then none
  else some x

/-- A run with the constants of its header, and its stack's BANK_LIMIT, latched (R309, R312). -/
def runOfHeader (q : StartReq) (x limit : Nat) : Run :=
  { req := q, code := fieldAt x 0 8, words := fieldAt x 8 2, rnd := fieldAt x 11 1, round := fieldAt x 12 4
    seed := fieldAt x 16 8, bankLimit := limit, pchMask := BitVec.ofNat 64 (fieldAt x 24 8), param := fieldAt x 32 8, status := fieldAt x 40 8 }

/-- The oldest request whose prerequisites are met: it leaves the queue and its run begins to enter (R311). -/
def State.selectRun (s : State) (k : Nat) : List StartReq → State
  | [] => s
  | q :: qs =>
    let begin_ (s : State) (r : Run) (e : Event) : State :=
      ((s.modStack k fun x => { x with delta := { queue := x.delta.queue.erase q, run := some r } }).laterOpen e).retryBasins k
    match s.headerOf q with
    | none =>
      let x := s.memRead q.header 128
      let st := fieldAt x 40 8
      begin_ s { req := q, phase := .exiting, kind := runHeader, status := if moduleMemory st ∧ st % 8 = 0 then st else 0 }
        { i := .deltaExitDone, a := k }
    | some x =>
      match s.prerequisites x with
      | some s => begin_ s (runOfHeader q x (s.stack k).bankLimit) { i := .deltaEntryDone, a := k }
      | none => s.selectRun k qs

/-- An idle processor looks for a request it can start, and looks again while some wait. The headers are read at the memory side: one in
the DRAM of another run queues there (R315), and the step that the sequencer then takes has `b` 1. -/
def execDeltaRunSelect (s : State) : Out :=
  let k := s.arg.a
  let who : DramParty := .step { s.arg with b := 1 }
  let d := (s.stack k).delta
  if d.run.isSome ∨ d.queue.isEmpty then .next (s.dramLeave who)
  else
    let late (q : StartReq) : Bool := s.dramWaits who q.header 128
    let t := s.selectRun k (d.queue.filter fun q => !late q)
    if (t.stack k).delta.run.isSome then .next (t.dramLeave who)
    else
      let s := match d.queue.find? late with
        | some q => s.dramJoin who q.header 128
        | none => s.dramLeave who
      .next (if s.arg.b = 1 then s else s.laterOpen s.arg)

/-- The words of a program as memory holds them. -/
def State.loadProgram (s : State) (code words : Nat) : Store Word :=
  (upTo words).foldl (fun m i => Store.set 0 m i (BitVec.ofNat 64 (s.memRead (code + 8 * i) 8))) []

/-- The parameter block: e1 to e15, zeros where PARAM is 0 (R310). -/
def State.loadParams (s : State) (param : Nat) : Store Word :=
  if param = 0 then []
  else (upTo 15).foldl (fun m i => Store.set 0 m (i + 1) (BitVec.ofNat 64 (s.memRead (param + 8 * i) 8))) []

/-- What entry reads in DRAM that another run claims, for which it waits (R315). -/
def Run.entryReads (r : Run) : List (Nat × Nat) := (r.code, 8 * r.words) :: if r.param = 0 then [] else [(r.param, 120)]

/-- Entry ends: the memory-side cache gives up the lines of the claimed pseudo-channels, code and parameters are loaded, the status word
says RUNNING, and delta cycle 0 is the cycle after (R312, R314). An uncorrectable error in what entry reads stops the run. -/
def execDeltaEntryDone (s : State) : Out :=
  let k := s.arg.a
  match s.runOf k with
  | none => .next s
  | some r =>
    if r.phase ≠ .entering then .next s
    else withDram s s.arg r.entryReads fun s =>
     if s.memPoisoned r.code (8 * r.words) ∨ (r.param ≠ 0 ∧ s.memPoisoned r.param 120) then .next (s.stopRun k runData 0)
     else
      let s := s.modStack k fun y => y.dropKept fun line _ => r.pchMask.getLsbD (pchOf (line * 128))
      let r := { r with
        phase := .running, program := s.loadProgram r.code r.words, e := s.loadParams r.param, origin := deltaNow s.now + 1 }
      let s := s.setRun k (some r)
      .next (if r.status = 0 then s else if r.claims k r.status 8 then s.partyPut r.status 8 1 else s.partyWrite r.status 8 1)

/-- The status word of a run that has ended (R313). -/
def Run.statusWord (r : Run) : Nat :=
  let bad := r.kind ≠ 0
  (if r.kind = 0 then 2 else if r.kind = runStopped then 4 else 3) + r.kind * 2 ^ 8 +
    (if bad ∧ r.kind ≠ runCode ∧ r.kind ≠ runStopped then r.faultPc else r.last) * 2 ^ 16 + r.events.toNat * 2 ^ 32 +
    (if r.signalLost then 2 ^ 38 else 0) + (if bad then 2 ^ 63 else 0)

/-- What a run's end does for its node, whose marks carry the run's signature, or, without one, for SUBMIT_STATUS (R210, R312). -/
def State.endNodeOf (s : State) (r : Run) : State :=
  match r.req.node with
  | some (g, n) =>
    if (s.node g n).phase ≠ .running then s
    else if r.kind = 0 then s.nodeDone g n r.sig
    else s.nodeFailedWith g n (if r.kind = runHeader then causeBadRecord else if r.kind = runStopped then causeTimeout
      else causeDeltaTiming) r.sig
  | none => if r.kind = 0 then s else s.modWalker fun w => { w with frozen := true }

/-- Exit ends once everything issued has finished: the status word is written as a release, and the processor takes its next
request (R312, R314). -/
def execDeltaExitDone (s : State) : Out :=
  let k := s.arg.a
  match s.runOf k with
  | none => .next s
  | some r =>
    if r.phase ≠ .exiting then .next s
    else if !r.pushes.isEmpty ∨ r.pubs ≠ 0 ∨ r.signalling ∨ s.runNow r < r.dramDone ∨ r.dldb.any (fun x => x.lands.isNone) then
      .next (s.laterOpen s.arg)
    else
      let s := s.setRun k none
      let s := if r.status = 0 then s else s.releaseMem r.status 8 r.statusWord r.sig
      .next ((s.endNodeOf r).soon { i := .deltaRunSelect, a := k })

end Sys2Proof.Machine
end

