-- ==== Sys2Proof/Machine/Fabric.lean ====
section
/-!
DEFINITION. The flits that come in at the Gorper ports (R352), transactions of other packages (R353, R354), requests that fail, and
the host's accesses (R355).
-/
namespace Sys2Proof.Machine

/-! ### Flits (R352) -/

/-- How far SEQ `b` lies beyond SEQ `a`, modulo 2^12. -/
def seqAfter (a b : Nat) : Nat := (b + 2 ^ 12 - a) % 2 ^ 12

/-- The flits of a sender that an ACK does not cover. -/
def unacked (l : List Flit) (ack : Nat) : List Flit := l.filter fun f => decide (0 < seqAfter ack f.seq ∧ seqAfter ack f.seq < 2 ^ 11)

/-- An ACK or a NAK names the last SEQ received in order: what it covers is accepted, and the rest has made progress. -/
def Port.acked (p : Port) (ack : Nat) : Port :=
  let rest := unacked p.replay ack
  if rest.length < p.replay.length then { p with replay := rest.map fun f => { f with replays := 0 } } else p

/-- Data that waited go out while the sender has room. -/
def State.sendWaiting (s : State) (k : Nat) : State :=
  let p := s.port k
  let l := p.waiting.take (replayRoom - p.replay.length)
  l.foldl (fun s w => s.sendFlit k w.1 w.2) (s.modPort k fun p => { p with waiting := p.waiting.drop l.length })

def State.takeAck (s : State) (k ack : Nat) : State := (s.modPort k fun p => p.acked ack).sendWaiting k

/-- A port goes down, which nothing corrects (R384): the requests that it has not carried are put on another port of their route, or fail
(R353). -/
def State.portDown (s : State) (k : Nat) : State :=
  let p := s.port k
  (p.replay.filterMap (·.request) ++ p.waiting.filterMap (·.2)).foldl State.putRequest
    (s.uncorrected.modPort k fun p => { p with down := true, replay := [], waiting := [] })

/-- Replays of one flit without progress that take a port down. -/
def replayLimit : Nat := 16

/-- Replay flits of a port, each of which counts one replay more; where one has been replayed sixteen times the port goes down. A replay
is one correction (R384). -/
def State.replayFlits (s : State) (k : Nat) (l : List Flit) : State :=
  if l.isEmpty then s
  else if l.any fun f => decide (replayLimit ≤ f.replays) then s.portDown k
  else
    let s := s.corrected.modPort k fun p => { p with
      replay := p.replay.map fun f => if l.any fun g => g.seq == f.seq then { f with replays := f.replays + 1 } else f }
    l.foldl (fun s f => s.transmit k f) s

/-- A port answers: an idle flit with ACK and the credit of the flit it has accepted, or a NAK. Log entry 94. -/
def Port.answer (p : Port) (type credits : Nat) : Port := p.put p.nextSeq type credits 0

/-- A data flit in sequence is taken in. -/
def Port.accept (p : Port) (seq data : Nat) : Port :=
  { p with expected := (seq + 1) % 2 ^ 12, received := p.received ++ [{ seq := seq, data := data }] }

/-- A flit of 256 bytes, `d`, arrives at port `a`. One whose CRC fails, or whose SEQ is not the next expected, is discarded and answered
with a NAK. An idle flit and a NAK carry no transaction: their SEQ is the one that the next data flit has. Log entry 94. -/
def execFlitReceive (s : State) : Out :=
  let k := s.arg.a
  let x := s.arg.d
  let p := s.port k
  let seq := bits x 11 0
  let data := bits x 27 24 == flitData
  if p.down then .next s
  else if crc32 252 (x % 2 ^ 2016) ≠ bits x 2047 2016 ∨ seq ≠ p.expected then
    .next (s.modPort k fun p => p.answer flitNak 0)
  else
    let s := (s.modPort k fun p => { p with credits := p.credits + bits x 35 28 }).takeAck k (bits x 23 12)
    if data then
      .next (s.modPort k fun p => (p.accept seq (bits x 2015 64)).answer flitIdle 1)
    else if bits x 27 24 = flitNak then .next (s.soon { i := .flitNak, a := k, b := bits x 23 12 })
    else .next s

/-- A NAK: the sender replays from the flit after the SEQ it carries. -/
def execFlitNak (s : State) : Out :=
  let k := s.arg.a
  let s := s.takeAck k s.arg.b
  .next (if (s.port k).down then s else s.replayFlits k (s.port k).replay)

/-- A flit that 2 µs have not seen acknowledged is replayed unprompted: `b` is its SEQ, `c` which sending of it is watched. -/
def execFlitReplayTimeout (s : State) : Out :=
  let k := s.arg.a
  .next (if (s.port k).down then s
    else s.replayFlits k ((s.port k).replay.filter fun f => f.seq == s.arg.b && f.sends == s.arg.c))

/-! ### Transactions of peers (R353, R354) -/

/-- An `amo` at the home agent, by function number (R213, R216): the old value. -/
def State.homeAmo (s : State) (pa n k v e : Nat) (g : Sig) : Nat × State :=
  let m := s.memRead pa n
  (m, match (amoFn e k (8 * n) m (v % 2 ^ (8 * n))).1 with
    | some x => s.releasePut pa n x g
    | none => s)

/-- What a peer reads of module memory: zero where a way serves no side store (R279). -/
def State.peerRead (s : State) (pa n : Nat) : Nat :=
  match region pa with
  | .side => if s.sideServes pa then s.memRead pa n else 0
  | .sync _ => s.syncRead pa n
  | _ => s.memRead pa n

/-- Watch a word for a peer's `waitw` (R231), once an entry is free (R221). Such a watch stands for package `p` as context 3072 + p. -/
def State.watchFor (s : State) (e : Event) (pa : Nat) : State :=
  let w : Watch := ⟨peerCtx + e.a, 0, e.b, pa, e.d, e.v⟩
  if (s.die (syncDie pa)).watches.contains w ∨ s.entriesFull (syncDie pa) then s else s.watch w

/-- Whether such a watch stands. -/
def State.watchedFor (s : State) (e : Event) (pa : Nat) : Bool :=
  (s.die (syncDie pa)).watches.any fun w => w.ctx == peerCtx + e.a && w.id == e.b && w.pa == pa

/-- What a request of package `a` does, and its reply; `none` answers later. -/
def State.serveRemote (s : State) (op pa : Nat) (e : Event) : Option Nat × State :=
  let x := e.l.headD 0
  let y := e.l.getD 1 0
  if op = reqRead then (some (s.peerRead pa e.d), s)
  else if op = reqWrite then (some 0, s.releasePut pa e.d x e.sig)
  else if op = reqSignal then (some 0, s.sendFlag e.v e.d srcPeer 0 0 e.sig)
  else if op = reqBarFlag then (some 0, s.sendFlag e.v e.d srcPeerBarrier 0 0 e.sig)
  else if op = reqReserve then s.serveReserve pa e.l e.v
  else if op ≤ reqBarWait then s.serveRecord (op - reqBarInit) pa e.v e.sig
  else if op = reqRoundDone then (some 0, s.soon { i := .roundDoneMessage, a := x, b := e.v.toNat % 2 ^ 32, sig := e.sig })
  else if op = reqPacket then
    (some 0, s.sendHalves none 0 none y pa (e.v.toNat % 2 ^ 32) (bits e.v.toNat 47 32) (e.v.getLsbD 48)
      (bits e.v.toNat 50 49 == reserveClose) false [(0, BitVec.ofNat 1024 x)])
  else if op = reqRelease then (some 0, s.releaseGrant y)
  else if op = reqWatch then
    if intCond 64 e.d (s.memRead pa 8) e.v.toNat then (some 0, s) else (none, s.watchFor e pa)
  else if op = reqQuery then (some (s.queryWord pa).toNat, s)
  else if op = reqTile then
    match s.drawTile pa with
    | some x => (some x, s.advanceTiles pa)
    | none => (some (2 ^ 64 - 1), s)
  else if op = reqAmo then
    let r := s.homeAmo pa e.d (e.v.toNat % 16) x y e.sig
    (some r.1, r.2)
  else (some 0, s)

/-- The bytes that a request reads or writes. -/
def requestBytes (e : Event) : List (Nat × Nat) :=
  if [reqRead, reqWrite, reqAmo].contains (e.c % 16) then [(e.c / 16, max 1 e.d)] else []

/-- A numbered request `b` of package `a`: `c` is the operation and 16 times the address, `d` the bytes, or the flag or condition, `v` a
word, `l` the data. It is executed once, and a repeat is answered with the first reply; one that must wait asks again, but a `waitw`, which
its watch answers. An access to DRAM that a run claims queues (R315). What it says in these terms: log entry 94. -/
def execRemoteTransaction (s : State) : Out :=
  let e := s.arg
  let pa := e.c / 16
  match s.remoteReplies.find? fun r => r.1 == (e.a, e.b) with
  | some r => .next (s.sendReply e.a e.b pa r.2)
  | none =>
    if !(requestBytes e).all (fun r => moduleMemory r.1) then .next s
    else withDram s e (requestBytes e) fun s =>
      match s.serveRemote (e.c % 16) pa e with
      | (some y, s) => .next ({ s with remoteReplies := s.remoteReplies ++ [((e.a, e.b), y)] }.sendReply e.a e.b pa y)
      | (none, s) => .next (if e.c % 16 = reqWatch ∧ s.watchedFor e pa then s else s.laterOpen e)

/-- TRAP_INFO[63:16] of a remote error (R357). -/
def remoteErrorInfo (package : Nat) : Word := BitVec.ofNat 64 (package % 64 * 2 ^ 58 + causeRemoteFail * 2 ^ 48)

/-- A remote error token for context `x` of generation `gen`: it takes the asynchronous cause, or the error is logged (R353, R360,
R362). -/
def State.remoteToken (s : State) (x gen package pa : Nat) : State :=
  let c := s.ctxAt x
  if c.phase = .active ∧ c.csr.gen.toNat = gen then
    match c.flow.remoteError with
    | none => s.modCtxAt x fun c => { c with flow := { c.flow with remoteError := some (remoteErrorInfo package) } }
    | some _ => (s.errorLog x 9 gen pa).modCtxAt x fun c => { c with flow := { c.flow with remoteMore := true } }
  else (s.errorLog x 9 gen pa).failLaunch (s.launchOf x gen) causeRemoteFail

/-- A request of a stack's run that no port carried is a lost push (R335, R353): numbers from `noPush` on stand for a `dsig` of the run that
began in the cycle past it. -/
def State.pushFails (s : State) (k id : Nat) : State :=
  match s.runOf k with
  | none => s
  | some r => if (r.pushes.any fun p => p.id == id) || id == noPush + r.origin then s.losePush k id else s

/-- REMOTE_REQUEST_FAIL: `d` says whose request no port could carry, `a` and `c` which: a context and its CTX_GEN; a core, whose running
context is told; a cluster and its copy; a stack and its push. `b` is the package, `v` the address. That a line which a core had written
back goes to the context that runs: DESIGN CHOICE, log entry 103. -/
def execRemoteRequestFail (s : State) : Out :=
  let e := s.arg
  let x := 4 * e.a + (s.core e.a).running
  .next (match e.d with
    | 0 => s.remoteToken e.a e.c e.b e.v.toNat
    | 1 => s.remoteToken x (s.ctxAt x).csr.gen.toNat e.b e.v.toNat
    | 2 => s.copyRemoteFail e.a e.c
    | _ => s.pushFails e.a e.c)

/-! ### The host port (R355) -/

/-- What an access of the host does, and what it returns: `c` is 0 for a read of `b` bytes at `a`, 1 for a write of `d`, and 16 + k for
atomic k, of 4 or 8 bytes, with the operands `d` and `v` (R216). -/
def State.hostAccess (s : State) (e : Event) : Nat × State :=
  if e.c = 0 then (s.memRead e.a e.b, s)
  else
    let g := sigAddBytes s.hostSig (e.a - e.a % 32) (e.b + e.a % 32)
    let s := { s with hostSig := g }
    if e.c = 1 then (0, s.releasePut e.a e.b e.d g) else s.homeAmo e.a e.b (e.c % 16) e.d e.v.toNat g

/-- A host access to the interleaved view, performed at the memory side from stage 1 on (R355, R380), in the order of arrival. It queues
at DRAM that a run claims (R315). -/
def execHostMemAccess (s : State) : Out :=
  let e := s.arg
  if s.mc.stage ≠ 1 ∧ s.mc.stage ≠ 2 then .next s
  else if hbmBase < e.a + e.b then .next s
  else withDram s e [(e.a, max 1 e.b)] fun s =>
    let (x, s) := s.hostAccess e
    .next { s with hostData := x }

end Sys2Proof.Machine
end

