-- ==== Sys2Proof/Machine/Resets.lean ====
section
/-!
DEFINITION. Node timeouts (R104), the resets and what they keep (R387 to R389), start-up (R379, R380, R383), firmware and
attestation (R381, R382).
-/
namespace Sys2Proof.Machine

/-! ### Node timeouts (R104) -/

/-- The clusters whose engine may hold a COPY node's copy. -/
def State.expireCopies (s : State) (g n : Nat) : State := (upTo 12).foldl (fun s k => s.expireCopy k g n) s

/-- A DELTA node's TIMEOUT: its run stops, or its request leaves the queue, or it stops waiting for room (R104, R312). -/
def State.expireDelta (s : State) (g n : Nat) : State :=
  let mine (q : StartReq) : Bool := q.node == some (g, n)
  match (upTo 16).find? fun k => (s.runOf k).any fun r => mine r.req with
  | some k =>
    match s.runOf k with
    | some r => if r.phase = .exiting then s else s.stopRun k runStopped r.last
    | none => s
  | none =>
    ((upTo 16).foldl (fun s k =>
      if (s.stack k).delta.queue.any mine then
        (s.modStack k fun x => { x with delta := { x.delta with queue := x.delta.queue.filter fun q => !mine q } }).retryBasins k
      else s) s).nodeFailed g n causeTimeout

/-- A node's TIMEOUT elapses: `a` the graph, `b` the node, `c` its place in the order of READY nodes when it began to run. -/
def execNodeTimeout (s : State) : Out :=
  let g := s.arg.a
  let n := s.arg.b
  let x := s.node g n
  if x.seq ≠ s.arg.c ∨ (x.phase ≠ .running ∧ x.phase ≠ .looping) then .next s
  else if x.kind = kindLaunch then
    match s.launch x.seq with
    | some l => .next ((s.resetLaunch x.seq l).nodeFailed g n causeTimeout)
    | none => .next (s.nodeFailed g n causeTimeout)
  else if x.kind = kindCopy then .next (s.expireCopies g n)
  else if x.kind = kindDelta then .next (s.expireDelta g n)
  else .next (s.nodeFailed g n causeTimeout)

/-! ### The walker after a reset (R389) -/

/-- Steps of the walker itself. -/
def walkerStep (i : Instr) : Bool :=
  match i with
  | .graphValidation | .nodeResolve | .launchDispatch | .condNode | .whileNode | .whileBackEdge | .nodeTimeout => true
  | _ => false

/-- Drop the steps that a reset takes away, those too that stand at a DRAM sequencer. -/
def State.dropSteps (s : State) (p : Event → Bool) : State :=
  { s with
    agenda := s.agenda.filter fun e => !p e
    timers := s.timers.filter fun t => !p t.2
    dramQueue := s.dramQueue.filter fun w => match w.who with
      | .step e => !p e
      | _ => true }

/-- A node as the journal leaves it: RUNNING and LOOPING nodes end FAILED with cause RESET, READY and DISPATCHING nodes are READY
again. -/
def State.resumeNode (s : State) (g n : Nat) : State :=
  match (s.node g n).phase with
  | .running | .looping => s.nodeFailed g n causeReset
  | .ready | .dispatching => (s.modNode g n fun x => { x with phase := .ready, launch := none }).laterOpen { i := .nodeResolve, a := g, b := n }
  | _ => s

/-- The walker reads its journal: nodes of accepted graphs resume, submissions not accepted are counted as rejected. -/
def State.readJournal (s : State) : State :=
  s.walker.graphs.foldl (fun s e => match e.2 with
    | none => s
    | some x =>
      if x.accepted then (x.nodes.map (·.1)).foldl (fun s n => s.resumeNode e.1 n) s
      else (s.dropGraph e.1).countRejected) s

/-- Launches that have not run yet are dispatched anew; COPY nodes that wait for room wait no more. -/
def State.forgetDispatches (s : State) : State :=
  let s := s.walker.dispatching.foldl (fun s l => s.dropLaunch l) s
  (upTo 12).foldl (fun s k =>
    if ((s.bxe k).channel walkerOverflow).isEmpty then s else s.modBxe k fun b => b.setChannel walkerOverflow []) s

/-- Restart the walker. -/
def State.restartWalker (s : State) : State := ((s.dropSteps fun e => walkerStep e.i).forgetDispatches).readJournal

/-! ### Resets (R387, R388) -/

def State.modMc (s : State) (f : Mc → Mc) : State := { s with mc := f s.mc }

/-- No reset is taken while another is in progress: a later one waits. -/
def withNoReset (s : State) (kind : Nat) (k : Out) : Out :=
  if s.mc.resetting.isSome then .next (s.modMc fun m => { m with resetNext := m.resetNext ++ [kind] }) else k

/-- The step of a reset that was written. -/
def resetStep (kind : Nat) : Instr := if kind = 1 then .walkerReset else if kind = 2 then .warmReset else .coldReset

/-- A reset has finished; the oldest one that waits is taken. -/
def State.endReset (s : State) : State :=
  let s := s.modMc fun m => { m with resetting := none }
  match s.mc.resetNext with
  | [] => s
  | x :: xs => (s.modMc fun m => { m with resetNext := xs }).soon { i := resetStep x }

/-- A walker reset is done at once. Only a cold reset restarts a module whose start has failed or whose power has been removed (R378). -/
def execWalkerReset (s : State) : Out :=
  withNoReset s 1 (.next (if s.mc.stage = 2 then s.restartWalker else s).endReset)

/-- Steps that a warm reset leaves on their way: those of memory, basins, links, the host and the MC. -/
def keptStep (i : Instr) : Bool :=
  match i with
  | .basinPacket | .basinClose | .confluenceAck | .confluenceResend | .sideConversionDone | .sideWaysWrite | .roundDoneMessage
  | .tlbInval | .tlbInvalDone | .ptRootWrite | .flitReceive | .flitNak | .flitReplayTimeout | .remoteTransaction | .hostMemAccess
  | .telemetrySample | .thermalThrottle | .throttleEnd | .thermalTrip | .currentRampLimitWrite | .bankLimitWrite | .errCorrectedClear
  | .errUncorrectedClear | .walkerReset | .warmReset | .coldReset | .fwLoadGo | .fwLoadDone | .attestStart | .attestDone
  | .mgmtRegisterWrite | .softError | .basinSelect | .basinRetire | .syncOvfBaseWrite | .syncOvfSizeWrite | .deltaRunSelect
  | .submit | .errAck => true
  | _ => false

/-- A context slot after a reset: FREE, with its CTX_GEN (R388). -/
def resetSlot (c : Ctx) : Ctx := { phase := .free, csr := { gen := c.csr.gen }, flow := { nextLanding := c.flow.nextLanding } }

/-- The place of a byte in its directory entry, for an address in a sync engine's directory (R219, R223). -/
def dirByte (a : Nat) : Option Nat :=
  match region a with
  | .sync _ => if 0x3FA000 ≤ syncOffset a then some ((syncOffset a - 0x3FA000) % 32) else none
  | _ => none

/-- Every directory entry: LIVE cleared, ALIAS_STATE NONE (R388). Bytes that memory does not list are 0 already. -/
def State.resetDirectory (s : State) : State :=
  s.mem.foldl (fun s e => match dirByte e.1 with
    | some 4 => s.memWrite e.1 1 0
    | some 5 => s.memWrite e.1 1 (e.2.toNat / 4 * 4)
    | _ => s) s

/-- A die's sync engine: arrivals and watches are discarded, and a record that had pending arrivals has ARRIVED 0 (R388). -/
def State.resetBarriers (s : State) (d : Nat) : State :=
  let s' := (s.die d).barriers.foldl (fun s b => if b.2.arrivals.isEmpty then s else s.memWrite (b.1 + 8) 4 0) s
  s'.modDie d fun x => { x with
    barriers := [], watches := [], tokenLast := none, tokenCore := 0, tokenWants := [] }

/-- Every pin of every set (R388). -/
def State.resetPins (s : State) : State :=
  { (upTo s.setCount).foldl (fun s i => (upTo 3).foldl (fun s k => s.memWrite (s.setAt i + 40 + 2 * k) 2 0) s) s with ctxPins := [] }

/-- A stack: its run is reset, requests of nodes leave the queue, and room reserved by contexts is given back. -/
def State.resetStack (s : State) (k : Nat) : State :=
  let room (id : Nat) : Nat := ((s.packets.filter fun p => p.stack == k && p.basin == id && !p.done).map fun p => p.room).sum
  s.modStack k fun x => { x with
    delta := { queue := x.delta.queue.filter fun q => q.node.isNone }
    basins := x.basins.map fun e => (e.1, { e.2 with room := room e.1 }) }

/-- Basins whose flag was on its way go on with their next action: the delivery is dropped without report (R388). -/
def State.goOnBasins (s : State) : State :=
  s.hbmStacks.foldl (fun s k => k.2.basins.foldl (fun s e => if e.2.acting = 1 then s.basinActed k.1 e.1 else s) s) s

/-- Whether an access that queues at a DRAM sequencer outlasts a warm reset: a write, or that of a step which does. -/
def DramWait.outlasts (w : DramWait) : Bool :=
  match w.who with
  | .write _ _ _ _ _ => true
  | .step e => keptStep e.i
  | .ctx _ | .run _ => false

/-- What a warm reset does at once (R387, R388; what they do not name is DEDUCED, log entry 64). -/
def State.warm (s : State) : State :=
  let s := s.settleWalker.dropSteps fun e => !keptStep e.i
  let s := s.resetDirectory
  let s := { s with
    cur := {}, order := [], ran := true, arg := { i := .nop }, lastNamed := 0, cycleBase := s.now, setWaits := [], acks := []
    dramQueue := s.dramQueue.filter DramWait.outlasts
    ctxs := s.ctxs.foldl (fun (m : Store Ctx) (e : Nat × Ctx) => Store.set {} m e.1 (resetSlot (Store.get {} m e.1))) s.ctxs
    cores := []
    clusters := s.clusters.foldl (fun (m : Store Cluster) (e : Nat × Cluster) =>
      let c : Cluster := Store.get {} m e.1; Store.set {} m e.1 { c with rings := [], ringsReserved := [], bxe := {} }) s.clusters
    walker := { s.walker with launches := [], dispatching := [] } }
  let s := (upTo 4).foldl (fun s d => s.resetBarriers d) s
  let s := (upTo 16).foldl (fun s k => s.resetStack k) s
  (s.resetPins).goOnBasins

/-- A warm reset returns the module to stage 1; the walker reads its journal at stage 2 (R380, R387, R389). -/
def execWarmReset (s : State) : Out :=
  withNoReset s 2
    (if s.mc.stage ≠ 2 then .next s.endReset
     else .next ((s.warm.modMc fun m => { m with stage := 1, resetting := some 2 }).laterOpen { i := .stageAdvance }))

/-- Everything is reset; what the MC keeps is its flash, FW_MIN and the resets that wait (R381, R387). -/
def State.cold (s : State) : State :=
  { State.reset with
    fresh := s.fresh
    outside := s.outside
    mc := { fwMin := s.mc.fwMin, flash := s.mc.flash, flashTorn := s.mc.flashTorn, attesting := s.mc.attesting, resetting := some 3, resetNext := s.mc.resetNext } }

def execColdReset (s : State) : Out :=
  if s.mc.resetting.isSome ∧ s.mc.powered ∧ s.mc.stage ≠ 0xF then
    .next (s.modMc fun m => { m with resetNext := m.resetNext ++ [3] })
  else .next s.cold

/-! ### Start-up (R379, R380, R383) -/

/-- 250 µs in core cycles (R4, R377). -/
def telemetryCycles : Nat := 625000

/-- Power-good: the MC starts from ROM, stage 0 begins, and telemetry is live (R377, R380). -/
def execPowerGood (s : State) : Out :=
  .next (((s.modMc fun m => { m with
    stage := 0, cause := 0, powered := true, fwStatus := 0, stage0 := s.now, resetting := some 3 }).later telemetryCycles
    { i := .telemetrySample }).laterOpen { i := .stageAdvance })

/-- The start stops: STAGE reads FAILED with a cause (1 FIRMWARE, 2 SELFTEST). -/
def State.failStart (s : State) (cause : Nat) : State := (s.modMc fun m => { m with stage := 0xF, cause := cause }).endReset

/-- Whether the image in flash is good, its version and its digest (R381). -/
def State.flashImage (s : State) : Bool × Nat × Nat := match s.mc.flash with
  | some (v, d) => (true, v, d)
  | none => (Config.flashGood, Config.flashVersion, Config.flashDigest)

/-- Stage 1 or 2 is reached, or the start fails: the firmware must verify (R381), and the units must pass self-test, but a core
that fails is only marked (R383). After an interrupted write to flash the module stays at stage 0 with FIRMWARE; one in progress is waited
for. A load goes on whatever the start comes to: FW_STATUS reads LOADING until it is done (R381). -/
def execStageAdvance (s : State) : Out :=
  let n := s.fresh
  let s := { s with fresh := n + 1 }
  if s.mc.stage = 0 then
    let (good, v, d) := s.flashImage
    let status (n : Nat) : Nat := if s.mc.fwStatus = 3 then 3 else n
    if s.mc.flashTorn ∧ s.mc.fwStatus = 3 then .next (s.laterOpen s.arg)
    else if s.mc.flashTorn then .next (s.modMc fun m => { m with fwStatus := 2, cause := 1 }).endReset
    else if !good ∨ v < s.mc.fwMin then .next ((s.modMc fun m => { m with fwStatus := status 2 }).failStart 1)
    else
      let s := s.modMc fun m => { m with fwStatus := status 1, fwVersion := v, fwDigest := d }
      if !Config.selfTest n then .next (s.failStart 2)
      else .next ((s.modMc fun m => { m with stage := 1 }).laterOpen { i := .stageAdvance })
  else if s.mc.stage = 1 then
    if !Config.selfTest n then .next (s.failStart 2)
    else
      let fails := (upTo 768).foldl (fun m k => Store.set false m k (s.mc.resetting != some 2 && Config.coreFails n k)) s.mc.coreFail
      let s := s.modMc fun m => { m with stage := 2, coreFail := if m.resetting = some 2 then m.coreFail else fails }
      .next s.readJournal.endReset
  else .next s

/-! ### Firmware and attestation (R381, R382) -/

/-- A register of the CFG window. -/
def State.cfgReg (s : State) (off : Nat) : Word := Store.get 0 s.cfg off

/-- Writing 1 to FW_LOAD_GO starts the load. -/
def execFwLoadGo (s : State) : Out :=
  if s.arg.v.toNat ≠ 1 ∨ s.mc.fwStatus = 3 then .next s
  else .next ((s.modMc fun m => { m with fwStatus := 3 }).laterOpen { i := .fwLoadDone })

/-- The image has been read and judged: a good one is written to flash, which takes a time in which the write can be interrupted; then
(`a` is 1, `b` its version, `c` its digest) FW_MIN rises and the module is cold-reset (R381). -/
def execFwLoadDone (s : State) : Out :=
  let e := s.arg
  let n := (s.cfgReg 0x030).toNat
  let a := (s.cfgReg 0x028).toNat
  if s.mc.fwStatus ≠ 3 then .next s
  else if e.a = 1 then
    .next ((s.modMc fun m => { m with flash := some (e.b, e.c), flashTorn := false, fwMin := e.b, fwStatus := 1 }).soon { i := .coldReset })
  else
    let x := s.memRead (hostBase + a % 2 ^ 50) n
    match Config.imageVersion n x with
    | some v =>
      if v < s.mc.fwMin then .next (s.modMc fun m => { m with fwStatus := 2 })
      else .next ((s.modMc fun m => { m with flashTorn := true }).laterOpen { i := .fwLoadDone, a := 1, b := v, c := Config.imageDigest n x })
    | none => .next (s.modMc fun m => { m with fwStatus := 2 })

/-- The byte at a CFG offset of ATTEST_NONCE; `a` is the offset. -/
def State.nonceByte (s : State) (off : Nat) (x : Nat) : State :=
  { s with cfg := Store.set 0 s.cfg off (BitVec.ofNat 64 (x % 256)) }

/-- An attestation starts; one in progress starts again. -/
def State.startAttest (s : State) : State :=
  let k := s.mc.attesting + 1
  (s.modMc fun m => { m with attesting := k, attestBusy := true, attestReady := false, signature := none }).laterOpen { i := .attestDone, a := k }

def execAttestStart (s : State) : Out := .next (s.nonceByte 0x11F s.arg.v.toNat).startAttest

/-- What an attestation covers: the nonce, the digest, IDENT, STAGE and CORE_FAIL (R382). -/
def State.attested (s : State) : Nat :=
  let nonce := (upTo 32).foldr (fun i a => (s.cfgReg (0x100 + i)).toNat + 256 * a) 0
  let fails := (upTo 768).foldr (fun i a => (if Store.get false s.mc.coreFail i then 1 else 0) + 2 * a) 0
  nonce + 2 ^ 256 * (s.mc.fwDigest % 2 ^ 256 + 2 ^ 256 * (Config.ident % 2 ^ 48 + 2 ^ 48 *
    (s.mc.stage + 2 ^ 8 * (s.mc.cause + 2 ^ 8 * fails))))

def execAttestDone (s : State) : Out :=
  if s.arg.a ≠ s.mc.attesting then .next s
  else .next ({ s with fresh := s.fresh + 1 }.modMc fun m =>
    { m with attestBusy := false, attestReady := true, signature := some (Config.signature s.attested s.fresh) })

end Sys2Proof.Machine
end

