-- ==== Sys2Proof/Machine/Power.lean ====
section
/-!
DEFINITION. Limits, measurements and temperature (R374 to R378), error counters and soft errors (R384 to R386), plain register
writes, and what the host reads in the windows (R356).
-/
namespace Sys2Proof.Machine

/-! ### Limits (R375, R376) -/

/-- CURRENT_RAMP_LIMIT of die `a`: 0 is ignored, bits [63:8] are; a waiting request is granted under the new interval. -/
def execCurrentRampLimitWrite (s : State) : Out :=
  let n := s.arg.v.toNat % 256
  let k := s.arg.a
  if n = 0 then .next s
  else
    let s := s.modDie k fun d => { d with rampLimit := n }
    let d := s.die k
    .next (if d.tokenWants.isEmpty then s
      else { s with timers := s.timers ++ [(d.tokenCycle s.now + 1, { i := .tokenGrant, a := k })] })

/-- BANK_LIMIT of stack `a`: a write outside 4 to 64 is ignored. What a run has latched follows it (R309, R376): DEDUCED, log entry 57. -/
def execBankLimitWrite (s : State) : Out :=
  let n := s.arg.v.toNat
  .next (if 4 ≤ n ∧ n ≤ 64 then s.modStack s.arg.a fun x =>
    { x with bankLimit := n, delta := { x.delta with run := x.delta.run.map fun r => { r with bankLimit := n } } } else s)

/-! ### Telemetry (R377) -/

/-- The mean of some samples; how a fraction is rounded the spec does not say: DESIGN CHOICE, log entry 66. -/
def meanOf (l : List Nat) (n : Nat) : Nat :=
  if l.isEmpty then 0
  else l.sum / l.length + if l.sum % l.length ≠ 0 ∧ Config.meanRounds n then 1 else 0

/-- One die's registers at the end of an interval. -/
def State.sampleDie (s : State) (k : Nat) : State :=
  let n := s.fresh
  { s with fresh := n + 2 }.modDie k fun d =>
    let l := (Config.measured n % 2 ^ 32 :: d.samples).take 4
    { d with power := Config.measured n % 2 ^ 32, samples := l, powerAvg := meanOf l n, vmon := Config.measured (n + 1) % 2 ^ 16 }

/-- CLUSTER_PROC of cluster `c`: a new ring-oscillator count (R374). -/
def State.sampleProc (s : State) (c : Nat) : State :=
  { s with fresh := s.fresh + 1 }.modCluster c fun x => { x with proc := BitVec.ofNat 64 (Config.measured s.fresh % 2 ^ 32) }

/-- Whether a die rail, in mV, stands below 92 % of nominal (R378). -/
def railTrips (mv : Nat) : Bool := decide (100 * mv < 92 * Config.nominalRail)

/-- A signed 16-bit reading. -/
def reading (x : Word) : Int := toInt 16 true (x.toNat % 2 ^ 16)

/-- The hottest sensor of the module. -/
def State.maxTemp (s : State) : Int :=
  (((upTo 12).map fun c => reading (s.cluster c).temp) ++ (upTo 16).map fun k => reading (s.stack k).temp).foldl max
    (reading (s.cluster 0).temp)

/-- A telemetry record but for its first 8 bytes. -/
def State.telemetryRest (s : State) : Nat :=
  let us := (s.now - s.mc.stage0) / 2500
  let four (f : Die → Nat) : Nat := (upTo 4).foldr (fun d a => f (s.die d) % 2 ^ 32 + 2 ^ 32 * a) 0
  let flags := ((upTo 4).foldr (fun d a => (if (s.die d).hot then 2 ^ d else 0) + a) 0) + (if (s.die 0).samples.length < 4 then 16 else 0)
  us % 2 ^ 64 + 2 ^ 64 * (four (·.power) + 2 ^ 128 * (four (·.powerAvg) + 2 ^ 128 * (Config.measured s.fresh % 2 ^ 32 + 2 ^ 32 *
    (Config.measured (s.fresh + 1) % 2 ^ 32 + 2 ^ 32 * (wrap 16 s.maxTemp + 2 ^ 16 * flags)))))

/-! ### Temperature (R378) -/

/-- TEMP_THROTTLE. -/
def State.threshold (s : State) : Int := reading (s.mgmtReg 0x1418)

/-- Steps of the MC, which power does not leave. -/
def mcStep (i : Instr) : Bool :=
  match i with
  | .coldReset | .fwLoadGo | .fwLoadDone | .attestStart | .attestDone => true
  | _ => false

/-- A module without power (R378): nothing but the MC runs, what memory held is lost, and so are resets that waited for one in progress.
Log entry 98. -/
def State.unpowered (s : State) (cause : Nat) : State :=
  { State.reset with
    now := s.now
    agenda := s.agenda.filter fun e => mcStep e.i
    timers := s.timers.filter fun t => mcStep t.2.i
    cfg := s.cfg
    fresh := s.fresh
    outside := s.outside
    mgmt := s.mgmt
    mc := { s.mc with stage := 0xF, cause := cause, powered := false, resetting := none, resetNext := [] } }

/-- TELEMETRY_SAMPLE: the registers, then the record, bytes 8 to 63 first. A rail that reads below 92 % of nominal trips (R378). -/
def execTelemetrySample (s : State) : Out :=
  if !s.mc.powered then .next s
  else
    let s := (upTo 12).foldl (fun s c => s.sampleProc c) ((upTo 4).foldl (fun s d => s.sampleDie d) s)
    if (upTo 4).any fun d => railTrips (s.die d).vmon then .next (s.unpowered 4)
    else
    let n := s.telemHead
    let size := (s.mgmtReg 0x1208).toNat
    let rec_ := (s.mgmtReg 0x1200).toNat + 64 * (n % size)
    let s := if size = 0 then s
      else { (s.partyWrite (rec_ + 8) 56 s.telemetryRest).partyWrite rec_ 8 n with fresh := s.fresh + 2, telemHead := n + 1 }
    let s := (upTo 4).foldl (fun s d => if (s.die d).hot = (s.die d).throttled then s
      else s.modDie d fun x => { x with hot := x.throttled }) s
    .next (s.later telemetryCycles { i := .telemetrySample })

/-- The cluster sensors of a die. -/
def State.dieTemps (s : State) (d : Nat) : List Int := (upTo 3).map fun k => reading (s.cluster (3 * d + k)).temp

/-- A die runs throttled from when a sensor of it exceeds TEMP_THROTTLE until every one is 5 °C below (R378). -/
def State.checkThrottle (s : State) (d : Nat) : State :=
  if (s.dieTemps d).any fun t => decide (s.threshold < t) then s.modDie d fun x => { x with throttled := true, hot := true }
  else if (s.dieTemps d).all fun t => decide (t ≤ s.threshold - 80) then s.modDie d fun x => { x with throttled := false }
  else s

/-- The sensor of cluster `c` reads `v`: above 115 °C it trips. -/
def State.clusterReads (s : State) (c : Nat) (v : Word) : State :=
  if 115 * 16 < reading v then s.unpowered 3 else s.modCluster c fun x => { x with temp := v &&& 0xFFFF#64 }

/-- The sensor of cluster `b` reads `v`. -/
def execThermalThrottle (s : State) : Out :=
  let e := s.arg
  .next (if s.mc.powered then (s.clusterReads e.b e.v).checkThrottle (e.b / 3) else s)

/-- The sensors of die `a` read `l`, three clusters' in order. -/
def execThrottleEnd (s : State) : Out :=
  let e := s.arg
  .next ((upTo 3).foldl (fun (s : State) k => if s.mc.powered then s.clusterReads (3 * e.a + k) (BitVec.ofNat 64 (e.l.getD k 0)) else s)
    s |>.checkThrottle e.a)

/-- THERMAL_TRIP: `a` is 0 for the sensor of cluster `b`, 1 for that of stack `b`, which trips above 100 °C, 2 for the rail of die `b`, in
mV, which trips below 92 % of nominal; `v` is the reading. DIE_VMON takes a rail's reading at the end of an interval alone (R377). -/
def execThermalTrip (s : State) : Out :=
  let e := s.arg
  .next (if !s.mc.powered then s
    else match e.a with
    | 0 => (s.clusterReads e.b e.v).checkThrottle (e.b / 3)
    | 1 => if 100 * 16 < reading e.v then s.unpowered 3 else s.modStack e.b fun x => { x with temp := e.v &&& 0xFFFF#64 }
    | _ => if railTrips e.v.toNat then s.unpowered 4 else s)

/-! ### Errors (R374, R384 to R386) -/

def execErrCorrectedClear (s : State) : Out := .next { s with errCorrected := 0 }
def execErrUncorrectedClear (s : State) : Out := .next { s with errUncorrected := 0 }

/-- Another value in a register of a context; files are numbered as TRAP_INFO of a machine check numbers them (R357). -/
def Regs.corrupt (r : Regs) (file index : Nat) (x : Nat) : Regs :=
  match file with
  | 0 => r.setS (BitVec.ofNat 6 index) (BitVec.ofNat 64 x)
  | 1 => r.setV (BitVec.ofNat 5 index) (BitVec.ofNat 1024 x)
  | 2 => r.setK (BitVec.ofNat 3 index) (BitVec.ofNat 32 x)
  | 3 => r.setC (BitVec.ofNat 4 index) (bit x 0)
  | 4 => { r with f := if bit x 0 then r.f ||| 1#16 <<< index else r.f &&& ~~~(1#16 <<< index) }
  | 5 => r.setB (BitVec.ofNat 2 index) (BitVec.ofNat 64 x)
  | 6 => r.setH (BitVec.ofNat 3 index) (BitVec.ofNat 64 x)
  | _ => r.setG (BitVec.ofNat 3 index)
      { base := BitVec.ofNat 64 x, extent := BitVec.ofNat 64 (x / 2 ^ 64), bstride := BitVec.ofNat 32 (x / 2 ^ 128)
        config := BitVec.ofNat 8 (x / 2 ^ 160), pad := BitVec.ofNat 32 (x / 2 ^ 168) }

/-- Bytes of a sector whose error nothing can correct: free values (R9, R384). -/
def freeBytes (n : Nat) : Nat := ((upTo 32).map fun i => (Config.unpredictableByte (n + i)).toNat).foldr (fun b a => b + 256 * a) 0

/-- The sector that an uncorrectable error has hit holds free values from then on. -/
def State.scrambleAt (s : State) (p : PoisonAt) : State :=
  let x := freeBytes s.fresh
  let s := { s with fresh := s.fresh + 32 }
  match p with
  | .mem k => s.putBytes (32 * k) 32 x
  | .l2 d k =>
    let l := s.l2Line d (k / 4)
    s.setL2Line d (k / 4) (if l.have_.getLsbD (k % 4) then { l with data := setLineBytes l.data (32 * (k % 4)) 32 x } else l)
  | .cache core k => match (s.core core).findLine s.now (k / 4) with
    | some j => s.modCore core fun c =>
      let l := c.line j (k / 4 % 128)
      c.setLine j (k / 4 % 128) { l with data := setLineBytes l.data (32 * (k % 4)) 32 x }
    | none => s
  | .loc core k => s.modCore core fun c => c.locWrite (32 * k) 32 x

/-- An uncorrectable error of a sector: its data are lost and it is poisoned. -/
def State.poisonAt (s : State) (p : PoisonAt) : State := (s.uncorrected.scrambleAt p).markPoison p

/-- A wrong sum of the confluence adders: the element as it stands in the result array, and in ARRIVAL mode the sum that goes on (R386). -/
def State.wrongSum (s : State) (k id e x : Nat) : State :=
  let b := s.basin k id
  if !b.live ∨ b.elems ≤ e then s
  else (s.putBytes (b.result + 4 * e) 4 x).modBasin k id fun b =>
    { b with partials := if b.mode = 0 then Store.set none b.partials e (some (x % 2 ^ 32)) else b.partials }

/-- A wrong result of the delta ALUs, in a register that `Run.parity` numbers, one lane of a data register (R386). -/
def Run.wrong (r : Run) (n lane x : Nat) : Run :=
  if n < 32 then { r with d := Store.set 0 r.d (1024 * n + lane % 1024) (BitVec.ofNat 32 x) }
  else if n < 48 then { r with e := if n = 32 then r.e else Store.set 0 r.e (n - 32) (BitVec.ofNat 64 x) }
  else { r with q := if n = 48 then r.q else Store.set 0 r.q (n - 48) (BitVec.ofNat 1024 x) }

/-- SOFT_ERROR. `a` says where, `b`, `c` and `d` which: 0 an error that is corrected; an uncorrectable one 1 in the sector of
memory or sync SRAM at `b`, 2 in sector `c` of the L2 of die `b`, 3 in that of the cache banks and 4 of the local store of core
`b`, 5 in register `d` of file `c` of context `b`, 6 in register `c` of the run of stack `b`. A wrong result `l` of an unchecked unit,
which raises no event (R386): 7 of the ALUs and the réseau unit, in register `d` of file `c` of context `b`; 8 of the matrix arrays, in tile
element `c` of core `b`; 9 of the transpose engine, in element `d` of entry `c` of the queue of core `b`; 10 of the confluence adders, in
element `d` of basin `c` of stack `b`; 11 of the delta ALUs, in register `c` of the run of stack `b`, in lane `d` of a data register. -/
def execSoftError (s : State) : Out :=
  let e := s.arg
  match e.a with
  | 0 => .next s.corrected
  | 1 => .next { (s.poisonAt (.mem (home e.b / 32))) with errLastPa := e.b % 2 ^ 52 }
  | 2 => .next (s.poisonAt (.l2 e.b e.c))
  | 3 => .next (s.poisonAt (.cache e.b e.c))
  | 4 => .next (s.poisonAt (.loc e.b e.c))
  | 5 => .next ({ s.uncorrected with fresh := s.fresh + 1 }.modCtxAt e.b fun c =>
      { c with
        r := c.r.corrupt e.c e.d (Config.openVector s.fresh).toNat
        flow := { c.flow with parity := (e.c, e.d) :: c.flow.parity } })
  | 6 => .next (s.uncorrected.modRun e.b fun r => { r with parity := e.c :: r.parity })
  | 7 => .next (s.modCtxAt e.b fun c => { c with r := c.r.corrupt e.c e.d (e.l.headD 0) })
  | 8 => .next (s.modCore e.b fun c => { c with tiles := Store.set 0 c.tiles e.c (BitVec.ofNat 80 (e.l.headD 0)) })
  | 9 => .next (s.modCore e.b fun c => { c with transposes := c.transposes.modify e.c fun t => { t with tile := t.tile.set e.d (e.l.headD 0) } })
  | 10 => .next (s.wrongSum e.b e.c e.d (e.l.headD 0))
  | _ => .next (s.modRun e.b fun r => r.wrong e.c e.d (e.l.headD 0))

/-! ### Plain register writes (R356) -/

/-- The bits of a plain MGMT register that a write keeps, `none` for an offset with no register that takes one here. -/
def mgmtMask (off : Nat) : Option Word :=
  if off = 0x400 ∨ off = 0x430 then some 0x01FFFFFFFFFFFFF0#64
  else if off = 0x408 then some 0x01FFFFFFFFFFFFFF#64
  else if off = 0x410 ∨ off = 0x418 then some (BitVec.allOnes 64)
  else if 0x500 ≤ off ∧ off < 0x500 + 0x20 * 12 ∧ off % 0x20 = 0 then some (~~~0xFFF#64)
  else if 0x500 ≤ off ∧ off < 0x500 + 0x20 * 12 ∧ off % 0x20 = 8 then some 0xFFFFFFFF#64
  else if off = 0xA00 then some (BitVec.allOnes 64)
  else if off = 0xA08 then some 0x7FF#64
  else if off = 0xA10 then some 0x3F#64
  else if 0xC00 ≤ off ∧ off < 0xC00 + 0x20 * 16 ∧ (off % 0x20 = 0 ∨ off % 0x20 = 0x10) then some 0x01FFFFFFFFFF0000#64
  else if 0xC00 ≤ off ∧ off < 0xC00 + 0x20 * 16 ∧ off % 0x20 = 8 then some (BitVec.allOnes 64)
  else if 0xC00 ≤ off ∧ off < 0xC00 + 0x20 * 16 ∧ off % 0x20 = 0x18 then some 0x8000000000000003#64
  else if 0xE00 ≤ off ∧ off < 0x1000 ∧ off % 8 = 0 then some 0xFFFF#64
  else if off = 0x1200 ∨ off = 0x1208 then some (BitVec.allOnes 64)
  else if off = 0x1418 then some 0xFFFF#64
  else none

/-- Whether an offset is that of a BXE_QUANTA register (R265). -/
def isQuanta (off : Nat) : Bool := decide (0x500 ≤ off) && decide (off < 0x500 + 0x20 * 12) && off % 0x20 == 8

/-- BXE_QUANTA as it reads after a write: a field of 0 reads as 1 (R265). -/
def quantaOf (v : Word) : Word :=
  BitVec.ofNat 64 ((upTo 4).foldr (fun c a => max 1 (v.toNat / 2 ^ (8 * c) % 256) * 2 ^ (8 * c) + a) 0)

/-- A write of `v` at offset `a` of the MGMT window, or with `b` 1 of the CFG window, where no row of its own applies: a plain
register takes it, any other offset ignores it (R356). Writing a nonce byte clears ATTEST_STATUS, and starts anew an attestation
that is in progress (R382). -/
def execMgmtRegisterWrite (s : State) : Out :=
  let off := s.arg.a
  if s.arg.b = 1 then
    if off = 0x028 ∨ off = 0x030 then .next { s with cfg := Store.set 0 s.cfg off s.arg.v }
    else if 0x100 ≤ off ∧ off < 0x11F then
      let busy := s.mc.attestBusy
      let s := (s.nonceByte off s.arg.v.toNat).modMc fun m => { m with attestReady := false }
      .next (if busy then s.startAttest else s)
    else .next s
  else match mgmtMask off with
    | some m =>
      let v := s.arg.v &&& m
      let t := { s with mgmt := Store.set 0 s.mgmt off (if isQuanta off then quantaOf v else v) }
      if off < 0x1000 then withMgmt s (.next t)
      else .next (if off = 0x1418 then (upTo 4).foldl (fun s d => s.checkThrottle d) t else t)
    | none => .next s

/-! ### What the host reads (R95, R180, R221, R262, R278, R356, R361, R374, R379) -/

/-- PREEMPT_STATUS (R361). -/
def State.preemptStatus (s : State) : Nat :=
  (if s.ctxs.any fun e => (e.2.phase == .active || e.2.phase == .prologue) && e.2.flow.preempt.isSome then 1 else 0) +
    (if (s.parkedIn s.lastNamed).isSome then 2 else 0)

/-- BXE_OCCUPANCY: the copies queued in each channel (R262). -/
def State.occupancy (s : State) (k : Nat) : Nat :=
  (upTo 16).foldr (fun c a => min 15 ((s.bxe k).channel c).length * 16 ^ c + a) 0

/-- A register of the MGMT window; an offset that no chapter assigns, or that is only written, reads as zero. -/
def State.readMgmt (s : State) (off : Nat) : Word :=
  if off = 0x200 then s.ptRoot
  else if off = 0x208 then (if s.tlbInval ≠ 0 then 1 else 0)
  else if off = 0x428 then BitVec.ofNat 64 s.preemptStatus
  else if 0x300 ≤ off ∧ off < 0x380 then
    let d := s.die ((off - 0x300) / 0x20)
    match off % 0x20 with
    | 0 => d.ovfBase
    | 8 => d.ovfSize
    | 0x10 => BitVec.ofNat 64 (s.ovfUsed ((off - 0x300) / 0x20))
    | 0x18 => BitVec.ofNat 64 (min d.staleCount (2 ^ 32 - 1))
    | _ => 0
  else if 0x500 ≤ off ∧ off < 0x680 ∧ off % 0x20 = 0x10 then BitVec.ofNat 64 (s.occupancy ((off - 0x500) / 0x20))
  else if 0x800 ≤ off ∧ off < 0xA00 then
    let x := s.stack ((off - 0x800) / 0x20)
    match off % 0x20 with
    | 0 => x.sideWays.setWidth 64
    | 8 => if x.converting then 1 else 0
    | 0x18 => (Store.get {} x.basins x.basinSelect).reject
    | _ => 0
  else if 0x1000 ≤ off ∧ off < 0x1100 then
    let d := s.die ((off - 0x1000) / 0x40)
    match off % 0x40 with
    | 0 => BitVec.ofNat 64 d.rampLimit
    | 8 => BitVec.ofNat 64 d.power
    | 0x10 => BitVec.ofNat 64 d.powerAvg
    | 0x18 => BitVec.ofNat 64 d.vmon
    | 0x20 => if d.throttled then 1 else 0
    | _ => 0
  else if 0x1100 ≤ off ∧ off < 0x1200 then
    let x := s.stack ((off - 0x1100) / 0x10)
    match off % 0x10 with
    | 0 => BitVec.ofNat 64 x.bankLimit
    | 8 => x.temp
    | _ => 0
  else if off = 0x1210 then BitVec.ofNat 64 s.telemHead
  else if 0x1300 ≤ off ∧ off < 0x1360 ∧ off % 8 = 0 then (s.cluster ((off - 0x1300) / 8)).temp
  else if 0x1380 ≤ off ∧ off < 0x13E0 ∧ off % 8 = 0 then (s.cluster ((off - 0x1380) / 8)).proc
  else if off = 0x1400 then BitVec.ofNat 64 s.errCorrected
  else if off = 0x1408 then BitVec.ofNat 64 s.errUncorrected
  else if off = 0x1410 then BitVec.ofNat 64 s.errLastPa
  else if (mgmtMask off).isSome then s.mgmtReg off
  else 0

/-- A register of the SUBMIT window (R95). -/
def State.readSubmit (s : State) (off : Nat) : Word :=
  match off with
  | 0x008 => BitVec.ofNat 64 s.walker.credits
  | 0x010 => BitVec.ofNat 64 ((if s.walker.frozen then 1 else 0) + s.walker.rejected * 2 ^ 8)
  | _ => 0

/-- A register of the CFG window (R379); CORE_FAIL, ATTEST_SIG and DEV_CERT read in units of 8 bytes. -/
def State.readCfg (s : State) (off : Nat) : Word :=
  if off = 0x000 then BitVec.ofNat 64 (Config.ident % 2 ^ 48)
  else if off = 0x008 then BitVec.ofNat 64 (s.mc.stage + s.mc.cause * 2 ^ 8)
  else if off = 0x018 then BitVec.ofNat 64 (s.mc.fwStatus + s.mc.fwVersion * 2 ^ 32)
  else if off = 0x020 then BitVec.ofNat 64 (s.mc.fwMin % 2 ^ 32)
  else if off = 0x028 ∨ off = 0x030 then s.cfgReg off
  else if off = 0x120 then (if s.mc.attestReady then 1 else 0)
  else if 0x400 ≤ off ∧ off < 0x460 ∧ off % 8 = 0 then
    BitVec.ofNat 64 ((upTo 64).foldr (fun i a => (if Store.get false s.mc.coreFail (8 * (off - 0x400) + i) then 1 else 0) + 2 * a) 0)
  else if 0x1000 ≤ off ∧ off < 0x1974 ∧ off % 8 = 0 then
    BitVec.ofNat 64 ((s.mc.signature.getD 0) % 2 ^ (8 * 2420) / 2 ^ (8 * (off - 0x1000)))
  else if 0x2000 ≤ off ∧ off < 0x3000 ∧ off % 8 = 0 then
    BitVec.ofNat 64 ((upTo 8).foldr (fun i a => (Config.devCert (off - 0x2000 + i)).toNat + 256 * a) 0)
  else 0

end Sys2Proof.Machine
end

