-- ==== Sys2Proof/Machine/Reseau.lean ====
section
/-!
DEFINITION. Réseau regions (R297 to R307): the header and its checks, corners, `rsld`, `rsscat` and its close.
-/
namespace Sys2Proof.Machine

/-! ### The header (R297, R298) -/

/-- The fields of a header and of the level record it was read with. -/
structure Grid where
  dims : Nat
  levels : Nat
  featLog2 : Nat
  wide : Bool
  res : Nat
  tlog2 : Nat
  dense : Bool
  table : Nat
  grad : Nat
deriving DecidableEq, Repr

/-- Features of an entry, and the bytes of a feature in the table (R297). -/
def Grid.feats (g : Grid) : Nat := 2 ^ g.featLog2
def Grid.featBytes (g : Grid) : Nat := if g.wide then 4 else 2

/-- The header's first 16 bytes and a level record as fields. -/
def gridOf (h r : Nat) : Grid :=
  { dims := bits h 4 0, levels := bits h 12 8, featLog2 := bits h 17 16, wide := bit h 18, res := bits r 31 0
    tlog2 := bits r 36 32, dense := bit r 39, table := bits r 127 64, grad := bits r 191 128 }

/-- The fixed part of a header is valid (R298). -/
def headerOk (h : Nat) : Bool :=
  bits h 7 5 == 0 && bits h 15 13 == 0 && bits h 23 19 == 0 && bits h 127 24 == 0 && decide (1 ≤ bits h 4 0) &&
    decide (bits h 4 0 ≤ 16) && decide (1 ≤ bits h 12 8) && decide (bits h 12 8 ≤ 16)

/-- A level record is valid for an instruction; `scat` for `rsscat` (R298). -/
def levelOk (h r : Nat) (scat : Bool) : Bool :=
  let g := gridOf h r
  bits r 38 37 == 0 && bits r 63 40 == 0 && bits r 255 192 == 0 && decide (1 ≤ g.res) && decide (g.res ≤ 2 ^ 24) &&
    decide (4 ≤ g.tlog2) && decide (g.tlog2 ≤ 24) && (!g.dense || decide ((g.res + 1) ^ g.dims ≤ 2 ^ g.tlog2)) &&
    g.table % 128 == 0 && g.grad % 128 == 0 && !(scat && g.grad == 0)

/-- The protection fault RESEAU with its sub-reason (R306). -/
def reseauFault (s : State) (sub level : Nat) : Out :=
  .next (s.takeTrap causeProtection (BitVec.ofNat 64 (sub * 2 ^ 16 + level * 2 ^ 3)))

/-- Whether `n` bytes from a translated address leave its page (R306, SPAN). -/
def leavesPage (p : Piece) (n : Nat) : Bool := decide (leafBytes p.leaf < p.pa % leafBytes p.leaf + n)

/-- Steps 2 and 3 of R306: the header is translated and read, and checked; `lastReg` is the highest register number used. -/
def withGrid (s : State) (base level : Nat) (scat : Bool) (lastReg : Grid → Nat) (k : Grid → State → Out) : Out :=
  let va := base - base % 2 ^ 13
  withXlate s (s.xlate va 16 { kind := .reseau }) fun lh =>
    withXlate s (s.xlate (va + 16 + 32 * level) 32 { kind := .reseau }) fun lr =>
      withLines s (lh ++ lr) fun s =>
        (let (h, s) := s.readPieces lh
         let (r, s) := s.readPieces lr
         if !headerOk h then reseauFault s 1 level
         else if bits h 12 8 ≤ level then reseauFault s 2 level
         else if !levelOk h r scat then reseauFault s 1 level
         else if 31 < lastReg (gridOf h r) then reseauFault s 3 level
         else k (gridOf h r) s)

/-! ### Corners (R299, R300) -/

/-- The multipliers of the hash (R299). -/
def hashMult (i : Nat) : Nat :=
  [0x00000001, 0x85EBCA77, 0xC2B2AE3D, 0x27D4EB2F, 0x165667B1, 0x9E3779B1, 0x7FEB352D, 0x846CA68B, 0xD3A2646D, 0xFD7046C5,
    0xB55A4F09, 0x6A09E667, 0xBB67AE85, 0x3C6EF373, 0xA54FF53B, 0x510E527F].getD i 0

/-- Index (R299). -/
def Grid.index (g : Grid) (y : List Nat) : Nat :=
  if g.dense then (indexed y).foldl (fun e p => e + p.2 * (g.res + 1) ^ p.1) 0
  else (indexed y).foldl (fun h p => h ^^^ (p.2 * hashMult p.1) % 2 ^ 32) 0 % 2 ^ g.tlog2

/-- The floor of a value that is no NaN, clamped to 0 to `n - 1` (R300). -/
def cellOf (x : Val) (n : Nat) : Nat :=
  match x with
  | .num d => if d.neg then 0 else min (if 0 ≤ d.exp then d.mant * 2 ^ d.exp.toNat else d.mant / 2 ^ (-d.exp).toNat) (n - 1)
  | .inf s => if s then 0 else n - 1
  | _ => 0

/-- The fraction left over a cell, clamped to 0 to 1 (R300). -/
def fracOf (x : Val) (cell : Nat) : Val :=
  let y := Val.add .rne x (Val.ofInt (-(cell : Int)))
  if y.isNeg then .zero false
  else match y.cmp (Val.ofInt 1) with
    | some .lt => y
    | _ => Val.ofInt 1

/-- Cell of one lane (R300): per dimension the cell and the fraction, or `none` for a NaN coordinate; with its events. -/
def cellsOf (n : Nat) : List Nat → Option (List (Nat × Val)) × List EvKind
  | [] => (some [], [])
  | p :: ps =>
    if (fp32.decode p).isNan then (none, [.invalid])
    else
      let (w, ev) := fp32.round (Val.mul (fp32.decode p) (Val.ofInt n)) .rne false 0
      let x := fp32.decode w
      let c := cellOf x n
      match cellsOf n ps with
      | (none, es) => (none, ev ++ es)
      | (some l, es) => (some ((c, fracOf x c) :: l), ev ++ es)

/-- Weight of a corner (R300): the FP32 word, the grid coordinates, and the events. -/
def cornerWeight (corner : Nat) (cells : List (Nat × Val)) : Nat × List Nat × List EvKind :=
  let r := (indexed cells).foldl (fun (acc : Val × List EvKind) e =>
    let a : Val × List EvKind := if bit corner e.1 then (e.2.2, [])
      else
        let o := fp32.round (Val.add .rne (Val.ofInt 1) e.2.2.neg) .rne false 0
        (fp32.decode o.1, o.2)
    let w := fp32.round (Val.mul acc.1 a.1) .rne false 0
    (fp32.decode w.1, acc.2 ++ a.2 ++ w.2)) (Val.ofInt 1, [])
  ((fp32.round r.1 .rne false 0).1, (indexed cells).map fun e => e.2.1 + (if bit corner e.1 then 1 else 0), r.2)

/-- Element `j` of the coordinate registers from `vc` on, per dimension. -/
def State.point (s : State) (vc : BitVec 5) (dims j : Nat) : List Nat :=
  (upTo dims).map fun i => (s.rV (vc + BitVec.ofNat 5 i)).toNat / 2 ^ (32 * j) % 2 ^ 32

/-! ### The unit's places (R307) -/

/-- Whether an operation waits in the unit: it starts in a later cycle. -/
def CoreSt.reseauFull (c : CoreSt) (now : Nat) : Bool := c.reseau.any fun o => decide (now < o.1)

/-- Enter an operation of `n` corner cycles: it starts when the one in progress has ended. -/
def CoreSt.reseauEnter (c : CoreSt) (now n : Nat) : CoreSt :=
  let live := c.reseau.filter fun o => decide (now ≤ o.2)
  let start := live.foldl (fun t o => max t (o.2 + 1)) now
  { c with reseau := live ++ [(start, start + n - 1)] }

/-- The last corner cycle of the unit's operations, the latest of which entered last. -/
def CoreSt.reseauEnd (c : CoreSt) : Nat := (c.reseau.getLast?.map (·.2)).getD 0

/-- The corner cycles of an operation with `size`-byte features. -/
def Grid.cornerCycles (g : Grid) (size : Nat) : Nat := 2 ^ g.dims * ((g.feats * size + 7) / 8)

/-! ### `rsld` (R302) -/

/-- One entry's features as FP32 words, read through the page of TABLE. -/
def State.readEntry (s : State) (g : Grid) (p : Piece) (e : Nat) : List Nat × State :=
  let n := g.feats * g.featBytes
  let (x, s) := s.readPiece { p with pa := p.pa + e * n, n := n }
  ((upTo g.feats).map fun f =>
    if g.wide then x / 2 ^ (32 * f) % 2 ^ 32 else x / 2 ^ (16 * f) % 2 ^ 16 * 2 ^ 16,
    s.notePoison p.level (p.pa + e * n) n)

/-- The features of entries, each entry read once (R301). -/
def State.readEntries (s : State) (g : Grid) (p : Piece) : List Nat → Store (List Nat) × State
  | [] => ([], s)
  | e :: es =>
    let (q, s) := s.readEntry g p e
    let (m, s) := s.readEntries g p es
    (Store.set [] m e q, s)

/-- One corner added to a lane's sums and events; `entries` are the features read. -/
def Grid.corner (g : Grid) (entries : Store (List Nat)) (cells : List (Nat × Val)) (a : List (Option Nat) × List EvKind) (c : Nat) :
    List (Option Nat) × List EvKind :=
  let (w, y, es) := cornerWeight c cells
  let rs := (a.1.zip (Store.get [] entries (g.index y))).map fun e =>
    let prod := Val.mul (fp32.decode w) (fp32.decode e.2)
    match e.1 with
    | none => fp32.round prod .rne false 0
    | some r => fp32.round (Val.add .rne (fp32.decode r) prod) .rne false 0
  (rs.map fun r => some r.1, a.2 ++ es ++ rs.flatMap (·.2))

/-- One lane of `rsld`: its F results and events. -/
def Grid.interpolate (g : Grid) (entries : Store (List Nat)) (point : List Nat) : List Nat × List EvKind :=
  match cellsOf g.res point with
  | (none, es) => ((upTo g.feats).map fun _ => 0, es)
  | (some cells, es) =>
    let a := (upTo (2 ^ g.dims)).foldl (g.corner entries cells) ((upTo g.feats).map fun _ => none, es)
    (a.1.map fun r => r.getD 0, a.2)

/-- The enabled lanes. -/
def lanesIn (m : Mask) : List Nat := (upTo 32).filter fun j => m.getLsbD j

/-- Every enabled lane: per feature the result register, and the events by lane. -/
def State.interpolateAll (s : State) (g : Grid) (entries : Store (List Nat)) (vc : BitVec 5) (m : Mask) :
    List Nat × List (EvKind × Nat) :=
  (lanesIn m).foldl (fun (acc : List Nat × List (EvKind × Nat)) j =>
    let (r, es) := g.interpolate entries (s.point vc g.dims j)
    ((acc.1.zip r).map fun e => e.1 + e.2 * 2 ^ (32 * j), acc.2 ++ es.map (fun e => (e, j))))
    ((upTo g.feats).map fun _ => 0, [])

/-- The entries that the enabled lanes name, each once. -/
def State.entriesOf (s : State) (g : Grid) (vc : BitVec 5) (m : Mask) : List Nat :=
  ((lanesIn m).flatMap fun j => match (cellsOf g.res (s.point vc g.dims j)).1 with
    | none => []
    | some cells => (upTo (2 ^ g.dims)).map fun c => g.index (cornerWeight c cells).2.1).eraseDups

/-- The landing of an operation whose last corner cycle is `last`: its data arrive after that, and after those of the loads before it
(R307). -/
def State.landUnit (s : State) (last n : Nat) (ws : List RegWrite) (evs : List (EvKind × Nat)) : State :=
  let from_ := max last (s.core s.coreId).reseauLand
  (s.landFrom from_ n ws evs).modCore s.coreId fun x => { x with reseauLand := from_ + 1 + Config.arrivalDelay s.fresh }

/-- Whether the slot's operation has entered the unit while its bundle held. -/
def State.hasEntered (s : State) : Bool := Store.get 0 s.ctx.flow.waitOps s.cur.slot == opUnit

/-- An `rsld` of `n` corner cycles enters the unit as it issues, unless an `rsscat` of a higher slot has had it enter already; its last
corner cycle (R307). -/
def State.enterLoad (s : State) (n : Nat) : Nat × State :=
  let entered := s.hasEntered
  let f := s.ctx.flow
  let s := if entered then s else s.modCore s.coreId fun x => x.reseauEnter s.now n
  (match Store.get (.requested 0) f.waits s.cur.slot with
    | .replied last => if entered then last else (s.core s.coreId).reseauEnd
    | .requested _ => (s.core s.coreId).reseauEnd,
    s.modCur fun c => { c with units := c.units ++ [(c.slot, n)] })

/-- The vector registers that a group names, from `r` on. -/
def groupRegs (r : BitVec 5) (n : Nat) : List (Nat × Nat) := (upTo n).map fun i => (1, r.toNat + i)

def execRsld (v : BitVec 5) (a : BitVec 6) (c : BitVec 5) (k : BitVec 3) (l : BitVec 4) (d : BitVec 3) (s : State) : Out :=
  withDue s (s.unsignedField d) fun n =>
    withEntry s
      (withGrid s (s.rS a).toNat l.toNat false (fun g => max (c.toNat + g.dims - 1) (v.toNat + g.feats - 1)) fun g s =>
         withSound s (groupRegs c g.dims) (withXlate s (s.xlate g.table 1 { kind := .reseau }) fun ps =>
           match ps with
           | [] => .next s
           | p :: _ =>
             let size := g.feats * g.featBytes
             let need := s.entriesOf g c (s.rK k)
             if leavesPage p (2 ^ g.tlog2 * size) then reseauFault s 4 l.toNat
             else if !s.hasEntered && (s.core s.coreId).reseauFull s.now then .next s.hold
             else withLines s (need.map fun e => { p with pa := p.pa + e * size, n := size }) fun s =>
               let (entries, s) := s.readEntries g p need
               let (rs, es) := s.interpolateAll g entries c (s.rK k)
               let (last, s) := s.enterLoad (g.cornerCycles g.featBytes)
               .next (s.landUnit last n ((indexed rs).map fun e => .v (v + BitVec.ofNat 5 e.1) (s.rK k) (BitVec.ofNat 1024 e.2)) es)))

/-! ### `rsscat` (R303 to R305) -/

/-- The vector registers that a result on its way writes. -/
def RegWrite.vectors : RegWrite → List Nat
  | .v r _ _ => [r.toNat]
  | .quant _ x y _ _ _ _ _ _ _ _ _ => [x.toNat, y.toNat]
  | _ => []

/-- Whether an earlier result or landing for a vector register in a range is yet to be written (R304). -/
def Flow.writesAny (f : Flow) (lo n : Nat) : Bool :=
  let hit (w : RegWrite) : Bool := w.vectors.any fun r => decide (lo ≤ r) && decide (r < lo + n)
  (f.pending.any fun p => decide (p.stamp < f.stamp) && hit p.w) || f.landings.any fun l => decide (l.stamp < f.stamp) && l.ws.any hit

/-- One term: element, corner, lane and FP32 word (R304). -/
structure Term where
  x : Nat
  corner : Nat
  lane : Nat
  word : Nat
deriving DecidableEq, Repr

/-- The terms of one lane, by ascending corner, and its events. -/
def State.laneTerms (s : State) (g : Grid) (v c : BitVec 5) (j : Nat) : List Term × List (EvKind × Nat) :=
  match cellsOf g.res (s.point c g.dims j) with
  | (none, es) => ([], es.map fun e => (e, j))
  | (some cells, es) =>
    (upTo (2 ^ g.dims)).foldl (fun (acc : List Term × List (EvKind × Nat)) cn =>
      let (w, y, we) := cornerWeight cn cells
      let fs := (upTo g.feats).map fun f =>
        let up := (s.rV (v + BitVec.ofNat 5 f)).toNat / 2 ^ (32 * j) % 2 ^ 32
        let t := fp32.round (Val.mul (fp32.decode up) (fp32.decode w)) .rne false 0
        (({ x := g.index y * g.feats + f, corner := cn, lane := j, word := t.1 } : Term), t.2)
      (acc.1 ++ fs.map (·.1), acc.2 ++ (we ++ fs.flatMap (·.2)).map fun e => (e, j))) ([], es.map fun e => (e, j))

/-- The terms of every enabled lane. -/
def State.allTerms (s : State) (g : Grid) (v c : BitVec 5) (m : Mask) : List Term × List (EvKind × Nat) :=
  (lanesIn m).foldl (fun acc j => let r := s.laneTerms g v c j; (acc.1 ++ r.1, acc.2 ++ r.2)) ([], [])

/-- Terms in ascending (corner, lane); those of one corner stand by lane already. -/
def byCorner (dims : Nat) (ts : List Term) : List Term := (upTo (2 ^ dims)).flatMap fun c => ts.filter fun t => t.corner == c

/-- S of an element and its events: the first term as it is, each later one added with one rounding (R304). -/
def elementSum (ts : List Term) : Nat × List (EvKind × Nat) :=
  match ts with
  | [] => (0, [])
  | t :: rest =>
    rest.foldl (fun acc u =>
      let r := fp32.round (Val.add .rne (fp32.decode acc.1) (fp32.decode u.word)) .rne false 0
      (r.1, acc.2 ++ r.2.map fun e => (e, u.lane))) (t.word, [])

/-- The halves of GRAD that hold a named element, ascending (R304). -/
def halvesOf (g : Grid) (ts : List Term) : List Nat :=
  (upTo (2 ^ g.tlog2 * g.feats / 32 + 1)).filter fun h => ts.any fun t => t.x / 32 == h

/-- The packet of a half: S where it is defined, +0 elsewhere; and the sums' events (R304). -/
def halfPayload (ts : List Term) (h : Nat) : VWord × List (EvKind × Nat) :=
  let es := (upTo 32).map fun i => elementSum (ts.filter fun t => t.x == 32 * h + i)
  (joinV 32 (es.map (·.1)), es.flatMap (·.2))

/-- Steps of R306 for `rsscat`: the header, then GRAD for writing and its span. -/
def withGrad (s : State) (base level : Nat) (lastReg : Grid → Nat) (k : Grid → Piece → State → Out) : Out :=
  withGrid s base level true lastReg fun g s =>
    withXlate s (s.xlate g.grad 1 { kind := .confluence }) fun ps =>
      match ps with
      | [] => .next s
      | p :: _ => if leavesPage p (2 ^ g.tlog2 * g.feats * 4) then reseauFault s 4 level else k g p s

/-- What a request to enter the unit is: slot `i`'s operation, of `n` corner cycles. -/
def unitRequest (ctx i n : Nat) : Event := { i := .engineReply, a := ctx, b := i, c := opUnit + 16 * n }

/-- The operations that this bundle's lower slots ask to enter the unit. -/
def State.reseauSoFar (s : State) : CoreSt :=
  (s.cur.requests.filter fun e => e.i == .engineReply && e.c % 16 == opUnit).foldl (fun c e => c.reseauEnter s.now (e.c / 16)) (s.core s.coreId)

/-- An `rsscat` of `n` corner cycles enters the unit while its bundle holds, after the `rsld`s of lower slots, and goes on once the unit has
served it (R307). DEDUCED, log entry 115. -/
def withUnit (s : State) (n : Nat) (k : State → Out) : Out :=
  let f := s.ctx.flow
  match Store.get (.requested 0) f.waits s.cur.slot with
  | .requested 0 =>
    if s.reseauSoFar.reseauFull s.now then .next s.holdWaiting
    else
      let loads := (s.cur.units.filter fun u => Store.get 0 f.waitOps u.1 != opUnit).map fun u => unitRequest s.cur.ctx u.1 u.2
      .next (s.modCur fun c => { c with requests := c.requests ++ loads ++ [unitRequest c.ctx c.slot n] }).holdWaiting
  | .replied _ =>
    k (if s.hasEntered then
        s.modCtx fun c => { c with flow := { c.flow with waits := c.flow.waits.filter fun e => e.1 != s.cur.slot } }
      else s)
  | .requested _ => if s.hasEntered then .next s.holdWaiting else k s

def execRsscat (v : BitVec 5) (a : BitVec 6) (c : BitVec 5) (k : BitVec 3) (l : BitVec 4) (s : State) : Out :=
  noLent s
    (withGrad s (s.rS a).toNat l.toNat (fun g => max (c.toNat + g.dims - 1) (v.toNat + g.feats - 1)) fun g p s =>
       withSound s (groupRegs c g.dims ++ groupRegs v g.feats)
       (if s.ctx.flow.writesAny v.toNat g.feats ∨ s.ctx.flow.writesAny c.toNat g.dims then .next s.hold
       else
         let (ts, es) := s.allTerms g v c (s.rK k)
         let ts := byCorner g.dims ts
         let hs := halvesOf g ts
         let ps := hs.map fun h => (h, halfPayload ts h)
         match hs with
         | [] =>
           if (s.core s.coreId).reseauFull s.now then .next s.hold
           else .next ((s.logEvs es).modCore s.coreId fun x => x.reseauEnter s.now (g.cornerCycles 4))
         | h0 :: _ =>
           let idx := bits (s.rS a).toNat 11 0
           withUnit s (g.cornerCycles 4) fun s =>
             withReserve s (p.pa + 128 * h0) idx s.roundTag false reserveEach (hs.map (· - h0)) fun grant =>
               .next ((s.logEvs (es ++ ps.flatMap (·.2.2))).sendMine grant (p.pa + 128 * h0) idx false false false
                 (ps.map fun e => (e.1 - h0, e.2.1)))))

/-- `rsscat` with CLOSE (R305). -/
def execRsscatClose (_v : BitVec 5) (a : BitVec 6) (c : BitVec 5) (_k : BitVec 3) (l : BitVec 4) (s : State) : Out :=
  noLent s
    (withGrad s (s.rS a).toNat l.toNat (fun g => c.toNat + g.dims - 1) fun g p s =>
       if (s.core s.coreId).reseauFull s.now then .next s.hold
       else if s.owesPackets s.cur.ctx then .next s.holdAcked
       else
         let idx := bits (s.rS a).toNat 11 0
         withReserve s p.pa idx s.roundTag false reserveClose [0] fun grant =>
           .next ((s.sendMine grant p.pa idx false true false [(0, 0)]).modCore s.coreId fun x =>
             x.reseauEnter s.now (g.cornerCycles 4)))

end Sys2Proof.Machine
end

