-- ==== Sys2Proof/Machine/VMove.lean ====
section
/-!
DEFINITION. Vector select, move, broadcast and permute (R141, R142), lane bit fields (R145), halves (R152) and mask
operations (R146).
-/
namespace Sys2Proof.Machine

/-- The mask selects between two sources, and every element is written (R141). -/
def execVsel (d a b : BitVec 5) (k : BitVec 3) (t : BitVec 5) (s : State) : Out :=
  let w := typeWidth t.toNat
  let xs := elems w (s.rV a)
  let ys := elems w (s.rV b)
  copyElements s w 1 d 0 fun i => if enabled (s.rK k) w i then at' xs i else at' ys i

def execVmov (d a : BitVec 5) (k : BitVec 3) (t : BitVec 5) (s : State) : Out :=
  let w := typeWidth t.toNat
  let xs := elems w (s.rV a)
  copyElements s w 1 d k fun i => at' xs i

def execVbcast (d : BitVec 5) (a : BitVec 6) (k : BitVec 3) (t : BitVec 5) (s : State) : Out :=
  let w := typeWidth t.toNat
  copyElements s w 1 d k fun _ => (s.rS a).toNat % 2 ^ w

/-- Element `i` is the element of `va` that the low bits of element `i` of `vb` name (R142). -/
def execVperm (d a b : BitVec 5) (k : BitVec 3) (t : BitVec 5) (s : State) : Out :=
  let w := typeWidth t.toNat
  let xs := elems w (s.rV a)
  let ys := elems w (s.rV b)
  copyElements s w 3 d k fun i => at' xs (at' ys i % (1024 / w))

/-- A bit field of each 32-bit element, `l` holding the length minus one (R145). -/
def execVextr (d a p : BitVec 5) (k : BitVec 3) (l : BitVec 5) (s : State) : Out :=
  let xs := elems 32 (s.rV a)
  copyElements s 32 1 d k fun i => bits (at' xs i) (p.toNat + l.toNat) p.toNat

/-- The low halves of two registers (R152). -/
def execVpack (d a b : BitVec 5) (k : BitVec 3) (t : BitVec 5) (s : State) : Out :=
  let w := typeWidth t.toNat
  let h := 1024 / w / 2
  let xs := elems w (s.rV a)
  let ys := elems w (s.rV b)
  copyElements s w 1 d k fun i => if i < h then at' xs i else at' ys (i - h)

/-- The halves of a register exchanged (R152). -/
def execVunpack (d a : BitVec 5) (k : BitVec 3) (t : BitVec 5) (s : State) : Out :=
  let w := typeWidth t.toNat
  let n := 1024 / w
  let xs := elems w (s.rV a)
  copyElements s w 1 d k fun i => at' xs ((i + n / 2) % n)

/-! ### Mask operations (R146) -/

/-- A mask result, latency 1, no lent bits. -/
def maskOp (s : State) (d : BitVec 3) (x : Mask) : Out := noLent s (.next (s.wK 1 d x))

def execKand (d a b : BitVec 3) (s : State) : Out := maskOp s d (s.rK a &&& s.rK b)
def execKor (d a b : BitVec 3) (s : State) : Out := maskOp s d (s.rK a ||| s.rK b)
def execKxor (d a b : BitVec 3) (s : State) : Out := maskOp s d (s.rK a ^^^ s.rK b)
def execKnot (d a : BitVec 3) (s : State) : Out := maskOp s d (~~~s.rK a)
def execKmovKk (d a : BitVec 3) (s : State) : Out := maskOp s d (s.rK a)
def execKmovKs (d : BitVec 3) (a : BitVec 6) (s : State) : Out := maskOp s d ((s.rS a).setWidth 32)
def execKmovSk (a : BitVec 3) (d : BitVec 6) (s : State) : Out :=
  noLent s (.next (s.wS 1 d ((s.rK a).setWidth 64)))

end Sys2Proof.Machine
end

