-- ==== Sys2Proof/Machine/Dispatch.lean ====
section
/-!
DEFINITION. Dispatch: the meaning of every instruction and step, one arm per constructor of `Instr`.
-/
namespace Sys2Proof.Machine

/-- The effect of one operation of a bundle, one delta instruction or one step of another agent. -/
def exec (i : Instr) (s : State) : Host.Outcome State Fault Refusal :=
  match i with
  | .prio x1 => Sys2Proof.Machine.execPrio x1 s
  | .jmpi x1 => Sys2Proof.Machine.execJmpi x1 s
  | .calli x1 => Sys2Proof.Machine.execCalli x1 s
  | .trap x1 => Sys2Proof.Machine.execTrap x1 s
  | .brk x1 => Sys2Proof.Machine.execBrk x1 s
  | .evlogRd x1 x2 => Sys2Proof.Machine.execEvlogRd x1 x2 s
  | .fset x1 => Sys2Proof.Machine.execFset x1 s
  | .fclr x1 => Sys2Proof.Machine.execFclr x1 s
  | .fwait x1 x2 x3 => Sys2Proof.Machine.execFwait x1 x2 x3 s
  | .jmp x1 => Sys2Proof.Machine.execJmp x1 s
  | .call x1 => Sys2Proof.Machine.execCall x1 s
  | .brC x1 x2 x3 => Sys2Proof.Machine.execBrC x1 x2 x3 s
  | .brTree x1 x2 x3 x4 x5 => Sys2Proof.Machine.execBrTree x1 x2 x3 x4 x5 s
  | .add x1 x2 x3 => Sys2Proof.Machine.execAdd x1 x2 x3 s
  | .sub x1 x2 x3 => Sys2Proof.Machine.execSub x1 x2 x3 s
  | .mul x1 x2 x3 => Sys2Proof.Machine.execMul x1 x2 x3 s
  | .mulh x1 x2 x3 => Sys2Proof.Machine.execMulh x1 x2 x3 s
  | .mulhn x1 x2 x3 => Sys2Proof.Machine.execMulhn x1 x2 x3 s
  | .div x1 x2 x3 => Sys2Proof.Machine.execDiv x1 x2 x3 s
  | .divn x1 x2 x3 => Sys2Proof.Machine.execDivn x1 x2 x3 s
  | .rem x1 x2 x3 => Sys2Proof.Machine.execRem x1 x2 x3 s
  | .remn x1 x2 x3 => Sys2Proof.Machine.execRemn x1 x2 x3 s
  | .and x1 x2 x3 => Sys2Proof.Machine.execAnd x1 x2 x3 s
  | .or x1 x2 x3 => Sys2Proof.Machine.execOr x1 x2 x3 s
  | .xor x1 x2 x3 => Sys2Proof.Machine.execXor x1 x2 x3 s
  | .andn x1 x2 x3 => Sys2Proof.Machine.execAndn x1 x2 x3 s
  | .shl x1 x2 x3 => Sys2Proof.Machine.execShl x1 x2 x3 s
  | .shr x1 x2 x3 => Sys2Proof.Machine.execShr x1 x2 x3 s
  | .sra x1 x2 x3 => Sys2Proof.Machine.execSra x1 x2 x3 s
  | .rotl x1 x2 x3 => Sys2Proof.Machine.execRotl x1 x2 x3 s
  | .min x1 x2 x3 => Sys2Proof.Machine.execMin x1 x2 x3 s
  | .max x1 x2 x3 => Sys2Proof.Machine.execMax x1 x2 x3 s
  | .minn x1 x2 x3 => Sys2Proof.Machine.execMinn x1 x2 x3 s
  | .maxn x1 x2 x3 => Sys2Proof.Machine.execMaxn x1 x2 x3 s
  | .clz x1 x2 => Sys2Proof.Machine.execClz x1 x2 s
  | .ctz x1 x2 => Sys2Proof.Machine.execCtz x1 x2 s
  | .popc x1 x2 => Sys2Proof.Machine.execPopc x1 x2 s
  | .mov x1 x2 => Sys2Proof.Machine.execMov x1 x2 s
  | .cset x1 x2 => Sys2Proof.Machine.execCset x1 x2 s
  | .sel x1 x2 x3 x4 => Sys2Proof.Machine.execSel x1 x2 x3 x4 s
  | .addi x1 x2 x3 => Sys2Proof.Machine.execAddi x1 x2 x3 s
  | .andi x1 x2 x3 => Sys2Proof.Machine.execAndi x1 x2 x3 s
  | .ori x1 x2 x3 => Sys2Proof.Machine.execOri x1 x2 x3 s
  | .xori x1 x2 x3 => Sys2Proof.Machine.execXori x1 x2 x3 s
  | .cmp x1 x2 x3 x4 x5 => Sys2Proof.Machine.execCmp x1 x2 x3 x4 x5 s
  | .cmpi x1 x2 x3 x4 x5 => Sys2Proof.Machine.execCmpi x1 x2 x3 x4 x5 s
  | .li x1 x2 => Sys2Proof.Machine.execLi x1 x2 s
  | .lih x1 x2 x3 => Sys2Proof.Machine.execLih x1 x2 x3 s
  | .extr x1 x2 x3 x4 => Sys2Proof.Machine.execExtr x1 x2 x3 x4 s
  | .extrs x1 x2 x3 x4 => Sys2Proof.Machine.execExtrs x1 x2 x3 x4 s
  | .ins x1 x2 x3 x4 => Sys2Proof.Machine.execIns x1 x2 x3 x4 s
  | .fsh x1 x2 x3 x4 => Sys2Proof.Machine.execFsh x1 x2 x3 x4 s
  | .csrRd x1 x2 => Sys2Proof.Machine.execCsrRd x1 x2 s
  | .csrWr x1 x2 => Sys2Proof.Machine.execCsrWr x1 x2 s
  | .csrWrFpctl x1 => Sys2Proof.Machine.execCsrWrFpctl x1 s
  | .csrWrCtxPrio x1 => Sys2Proof.Machine.execCsrWrCtxPrio x1 s
  | .csrWrAccOwn x1 => Sys2Proof.Machine.execCsrWrAccOwn x1 s
  | .csrWrBankRole x1 => Sys2Proof.Machine.execCsrWrBankRole x1 s
  | .setbLabel x1 x2 => Sys2Proof.Machine.execSetbLabel x1 x2 s
  | .setbReg x1 x2 => Sys2Proof.Machine.execSetbReg x1 x2 s
  | .syncHeader x1 x2 x3 => Sys2Proof.Machine.execSyncHeader x1 x2 x3 s
  | .lendHeader x1 x2 x3 => Sys2Proof.Machine.execLendHeader x1 x2 x3 s
  | .treeHeader x1 x2 x3 x4 x5 x6 => Sys2Proof.Machine.execTreeHeader x1 x2 x3 x4 x5 x6 s
  | .vadd x1 x2 x3 x4 x5 => Sys2Proof.Machine.execVadd x1 x2 x3 x4 x5 s
  | .vsub x1 x2 x3 x4 x5 => Sys2Proof.Machine.execVsub x1 x2 x3 x4 x5 s
  | .vmul x1 x2 x3 x4 x5 => Sys2Proof.Machine.execVmul x1 x2 x3 x4 x5 s
  | .vmin x1 x2 x3 x4 x5 => Sys2Proof.Machine.execVmin x1 x2 x3 x4 x5 s
  | .vmax x1 x2 x3 x4 x5 => Sys2Proof.Machine.execVmax x1 x2 x3 x4 x5 s
  | .vabs x1 x2 x3 x4 => Sys2Proof.Machine.execVabs x1 x2 x3 x4 s
  | .vneg x1 x2 x3 x4 => Sys2Proof.Machine.execVneg x1 x2 x3 x4 s
  | .vfma x1 x2 x3 x4 x5 => Sys2Proof.Machine.execVfma x1 x2 x3 x4 x5 s
  | .vfms x1 x2 x3 x4 x5 => Sys2Proof.Machine.execVfms x1 x2 x3 x4 x5 s
  | .vfnma x1 x2 x3 x4 x5 => Sys2Proof.Machine.execVfnma x1 x2 x3 x4 x5 s
  | .vrcp x1 x2 x3 x4 => Sys2Proof.Machine.execVrcp x1 x2 x3 x4 s
  | .vrsqrt x1 x2 x3 x4 => Sys2Proof.Machine.execVrsqrt x1 x2 x3 x4 s
  | .vsqrt x1 x2 x3 x4 => Sys2Proof.Machine.execVsqrt x1 x2 x3 x4 s
  | .vexp2 x1 x2 x3 x4 => Sys2Proof.Machine.execVexp2 x1 x2 x3 x4 s
  | .vlog2 x1 x2 x3 x4 => Sys2Proof.Machine.execVlog2 x1 x2 x3 x4 s
  | .vand x1 x2 x3 x4 x5 => Sys2Proof.Machine.execVand x1 x2 x3 x4 x5 s
  | .vor x1 x2 x3 x4 x5 => Sys2Proof.Machine.execVor x1 x2 x3 x4 x5 s
  | .vxor x1 x2 x3 x4 x5 => Sys2Proof.Machine.execVxor x1 x2 x3 x4 x5 s
  | .vandn x1 x2 x3 x4 x5 => Sys2Proof.Machine.execVandn x1 x2 x3 x4 x5 s
  | .vshl x1 x2 x3 x4 x5 => Sys2Proof.Machine.execVshl x1 x2 x3 x4 x5 s
  | .vshr x1 x2 x3 x4 x5 => Sys2Proof.Machine.execVshr x1 x2 x3 x4 x5 s
  | .vsra x1 x2 x3 x4 x5 => Sys2Proof.Machine.execVsra x1 x2 x3 x4 x5 s
  | .vpopc x1 x2 x3 x4 => Sys2Proof.Machine.execVpopc x1 x2 x3 x4 s
  | .vcmp x1 x2 x3 x4 x5 x6 => Sys2Proof.Machine.execVcmp x1 x2 x3 x4 x5 x6 s
  | .vsel x1 x2 x3 x4 x5 => Sys2Proof.Machine.execVsel x1 x2 x3 x4 x5 s
  | .vmov x1 x2 x3 x4 => Sys2Proof.Machine.execVmov x1 x2 x3 x4 s
  | .vbcast x1 x2 x3 x4 => Sys2Proof.Machine.execVbcast x1 x2 x3 x4 s
  | .vperm x1 x2 x3 x4 x5 => Sys2Proof.Machine.execVperm x1 x2 x3 x4 x5 s
  | .vredAdd x1 x2 x3 x4 => Sys2Proof.Machine.execVredAdd x1 x2 x3 x4 s
  | .vredMax x1 x2 x3 x4 => Sys2Proof.Machine.execVredMax x1 x2 x3 x4 s
  | .vscanAdd x1 x2 x3 x4 => Sys2Proof.Machine.execVscanAdd x1 x2 x3 x4 s
  | .kand x1 x2 x3 => Sys2Proof.Machine.execKand x1 x2 x3 s
  | .kor x1 x2 x3 => Sys2Proof.Machine.execKor x1 x2 x3 s
  | .kxor x1 x2 x3 => Sys2Proof.Machine.execKxor x1 x2 x3 s
  | .knot x1 x2 => Sys2Proof.Machine.execKnot x1 x2 s
  | .kmovKk x1 x2 => Sys2Proof.Machine.execKmovKk x1 x2 s
  | .kmovKs x1 x2 => Sys2Proof.Machine.execKmovKs x1 x2 s
  | .kmovSk x1 x2 => Sys2Proof.Machine.execKmovSk x1 x2 s
  | .vcvt x1 x2 x3 x4 x5 => Sys2Proof.Machine.execVcvt x1 x2 x3 x4 x5 s
  | .vcvtSr x1 x2 x3 x4 x5 => Sys2Proof.Machine.execVcvtSr x1 x2 x3 x4 x5 s
  | .vclass x1 x2 x3 x4 => Sys2Proof.Machine.execVclass x1 x2 x3 x4 s
  | .vbmax x1 x2 x3 => Sys2Proof.Machine.execVbmax x1 x2 x3 s
  | .vquant x1 x2 x3 x4 x5 => Sys2Proof.Machine.execVquant x1 x2 x3 x4 x5 s
  | .vdeq x1 x2 x3 x4 x5 => Sys2Proof.Machine.execVdeq x1 x2 x3 x4 x5 s
  | .vpack x1 x2 x3 x4 x5 => Sys2Proof.Machine.execVpack x1 x2 x3 x4 x5 s
  | .vunpack x1 x2 x3 x4 => Sys2Proof.Machine.execVunpack x1 x2 x3 x4 s
  | .vextr x1 x2 x3 x4 x5 => Sys2Proof.Machine.execVextr x1 x2 x3 x4 x5 s
  | .vrng x1 x2 x3 => Sys2Proof.Machine.execVrng x1 x2 x3 s
  | .mma x1 x2 x3 x4 x5 => Sys2Proof.Machine.execMma x1 x2 x3 x4 x5 s
  | .mmaZ x1 x2 x3 x4 x5 => Sys2Proof.Machine.execMmaZ x1 x2 x3 x4 x5 s
  | .mmaSp x1 x2 x3 x4 x5 => Sys2Proof.Machine.execMmaSp x1 x2 x3 x4 x5 s
  | .mpack x1 x2 x3 => Sys2Proof.Machine.execMpack x1 x2 x3 s
  | .mdrain x1 x2 x3 => Sys2Proof.Machine.execMdrain x1 x2 x3 s
  | .mdrainByp x1 x2 => Sys2Proof.Machine.execMdrainByp x1 x2 s
  | .mdrainAcc x1 x2 x3 => Sys2Proof.Machine.execMdrainAcc x1 x2 x3 s
  | .mzero x1 => Sys2Proof.Machine.execMzero x1 s
  | .mdrainA80 x1 x2 => Sys2Proof.Machine.execMdrainA80 x1 x2 s
  | .mzeroA80 x1 x2 => Sys2Proof.Machine.execMzeroA80 x1 x2 s
  | .mtrPut x1 x2 => Sys2Proof.Machine.execMtrPut x1 x2 s
  | .mtrGet x1 x2 => Sys2Proof.Machine.execMtrGet x1 x2 s
  | .ld x1 x2 x3 x4 => Sys2Proof.Machine.execLd x1 x2 x3 x4 s
  | .st x1 x2 x3 x4 => Sys2Proof.Machine.execSt x1 x2 x3 x4 s
  | .vld x1 x2 x3 => Sys2Proof.Machine.execVld x1 x2 x3 s
  | .vst x1 x2 x3 => Sys2Proof.Machine.execVst x1 x2 x3 s
  | .bankRole x1 x2 x3 => Sys2Proof.Machine.execBankRole x1 x2 x3 s
  | .bankFlush x1 x2 => Sys2Proof.Machine.execBankFlush x1 x2 s
  | .ldg x1 x2 x3 x4 => Sys2Proof.Machine.execLdg x1 x2 x3 x4 s
  | .stg x1 x2 x3 x4 => Sys2Proof.Machine.execStg x1 x2 x3 x4 s
  | .vldg x1 x2 x3 => Sys2Proof.Machine.execVldg x1 x2 x3 s
  | .vstg x1 x2 x3 => Sys2Proof.Machine.execVstg x1 x2 x3 s
  | .pref x1 x2 x3 => Sys2Proof.Machine.execPref x1 x2 x3 s
  | .vldcb x1 x2 x3 => Sys2Proof.Machine.execVldcb x1 x2 x3 s
  | .vldFmt x1 x2 x3 x4 x5 => Sys2Proof.Machine.execVldFmt x1 x2 x3 x4 x5 s
  | .vstFmt x1 x2 x3 x4 x5 x6 => Sys2Proof.Machine.execVstFmt x1 x2 x3 x4 x5 x6 s
  | .vgather x1 x2 x3 x4 x5 => Sys2Proof.Machine.execVgather x1 x2 x3 x4 x5 s
  | .vscatter x1 x2 x3 x4 => Sys2Proof.Machine.execVscatter x1 x2 x3 x4 s
  | .ldAcq x1 x2 x3 x4 => Sys2Proof.Machine.execLdAcq x1 x2 x3 x4 s
  | .stRel x1 x2 x3 => Sys2Proof.Machine.execStRel x1 x2 x3 s
  | .fenceAcq x1 => Sys2Proof.Machine.execFenceAcq x1 s
  | .fenceRel x1 => Sys2Proof.Machine.execFenceRel x1 s
  | .fenceFull x1 => Sys2Proof.Machine.execFenceFull x1 s
  | .amoAdd x1 x2 x3 x4 => Sys2Proof.Machine.execAmoAdd x1 x2 x3 x4 s
  | .amoAnd x1 x2 x3 x4 => Sys2Proof.Machine.execAmoAnd x1 x2 x3 x4 s
  | .amoOr x1 x2 x3 x4 => Sys2Proof.Machine.execAmoOr x1 x2 x3 x4 s
  | .amoXor x1 x2 x3 x4 => Sys2Proof.Machine.execAmoXor x1 x2 x3 x4 s
  | .amoMinSigned x1 x2 x3 x4 => Sys2Proof.Machine.execAmoMinSigned x1 x2 x3 x4 s
  | .amoMaxSigned x1 x2 x3 x4 => Sys2Proof.Machine.execAmoMaxSigned x1 x2 x3 x4 s
  | .amoXchg x1 x2 x3 x4 => Sys2Proof.Machine.execAmoXchg x1 x2 x3 x4 s
  | .amoCas x1 x2 x3 x4 => Sys2Proof.Machine.execAmoCas x1 x2 x3 x4 s
  | .amoFadd x1 x2 x3 x4 => Sys2Proof.Machine.execAmoFadd x1 x2 x3 x4 s
  | .amoFmin x1 x2 x3 x4 => Sys2Proof.Machine.execAmoFmin x1 x2 x3 x4 s
  | .amoFmax x1 x2 x3 x4 => Sys2Proof.Machine.execAmoFmax x1 x2 x3 x4 s
  | .amoMinUnsigned x1 x2 x3 x4 => Sys2Proof.Machine.execAmoMinUnsigned x1 x2 x3 x4 s
  | .amoMaxUnsigned x1 x2 x3 x4 => Sys2Proof.Machine.execAmoMaxUnsigned x1 x2 x3 x4 s
  | .sig x1 x2 => Sys2Proof.Machine.execSig x1 x2 s
  | .barInit x1 x2 => Sys2Proof.Machine.execBarInit x1 x2 s
  | .barArrive x1 => Sys2Proof.Machine.execBarArrive x1 s
  | .barWait x1 => Sys2Proof.Machine.execBarWait x1 s
  | .waitw x1 x2 x3 => Sys2Proof.Machine.execWaitw x1 x2 x3 s
  | .roundWait x1 x2 => Sys2Proof.Machine.execRoundWait x1 x2 s
  | .roundPin x1 x2 => Sys2Proof.Machine.execRoundPin x1 x2 s
  | .ntile x1 x2 x3 => Sys2Proof.Machine.execNtile x1 x2 x3 s
  | .basinQ x1 x2 x3 => Sys2Proof.Machine.execBasinQ x1 x2 x3 s
  | .ringDef x1 x2 => Sys2Proof.Machine.execRingDef x1 x2 s
  | .ringPut x1 => Sys2Proof.Machine.execRingPut x1 s
  | .ringTake x1 => Sys2Proof.Machine.execRingTake x1 s
  | .ringPtr x1 x2 x3 => Sys2Proof.Machine.execRingPtr x1 x2 x3 s
  | .aguSet x1 x2 x3 => Sys2Proof.Machine.execAguSet x1 x2 x3 s
  | .ringLd x1 x2 x3 x4 x5 => Sys2Proof.Machine.execRingLd x1 x2 x3 x4 x5 s
  | .ringSt x1 x2 x3 x4 x5 => Sys2Proof.Machine.execRingSt x1 x2 x3 x4 x5 s
  | .ringVld x1 x2 x3 x4 => Sys2Proof.Machine.execRingVld x1 x2 x3 x4 s
  | .ringVst x1 x2 x3 x4 => Sys2Proof.Machine.execRingVst x1 x2 x3 x4 s
  | .accw x1 x2 x3 x4 x5 => Sys2Proof.Machine.execAccw x1 x2 x3 x4 x5 s
  | .rsscat x1 x2 x3 x4 x5 => Sys2Proof.Machine.execRsscat x1 x2 x3 x4 x5 s
  | .rsscatClose x1 x2 x3 x4 x5 => Sys2Proof.Machine.execRsscatClose x1 x2 x3 x4 x5 s
  | .rsld x1 x2 x3 x4 x5 x6 => Sys2Proof.Machine.execRsld x1 x2 x3 x4 x5 x6 s
  | .dadd x1 x2 => Sys2Proof.Machine.execDadd x1 x2 s
  | .dsub x1 x2 => Sys2Proof.Machine.execDsub x1 x2 s
  | .dmul x1 x2 => Sys2Proof.Machine.execDmul x1 x2 s
  | .dfma x1 x2 => Sys2Proof.Machine.execDfma x1 x2 s
  | .dmin x1 x2 => Sys2Proof.Machine.execDmin x1 x2 s
  | .dmax x1 x2 => Sys2Proof.Machine.execDmax x1 x2 s
  | .dabs x1 x2 => Sys2Proof.Machine.execDabs x1 x2 s
  | .dneg x1 x2 => Sys2Proof.Machine.execDneg x1 x2 s
  | .drcp x1 x2 => Sys2Proof.Machine.execDrcp x1 x2 s
  | .drsqrt x1 x2 => Sys2Proof.Machine.execDrsqrt x1 x2 s
  | .dsqrt x1 x2 => Sys2Proof.Machine.execDsqrt x1 x2 s
  | .dsel x1 x2 => Sys2Proof.Machine.execDsel x1 x2 s
  | .dcmp x1 x2 x3 x4 x5 x6 x7 => Sys2Proof.Machine.execDcmp x1 x2 x3 x4 x5 x6 x7 s
  | .dcvtTo x1 x2 x3 x4 x5 x6 x7 x8 => Sys2Proof.Machine.execDcvtTo x1 x2 x3 x4 x5 x6 x7 x8 s
  | .dcvtFrom x1 x2 x3 x4 x5 x6 x7 x8 => Sys2Proof.Machine.execDcvtFrom x1 x2 x3 x4 x5 x6 x7 x8 s
  | .drng x1 x2 => Sys2Proof.Machine.execDrng x1 x2 s
  | .dsum x1 x2 => Sys2Proof.Machine.execDsum x1 x2 s
  | .dsq x1 x2 => Sys2Proof.Machine.execDsq x1 x2 s
  | .dbcast x1 x2 => Sys2Proof.Machine.execDbcast x1 x2 s
  | .eadd x1 x2 x3 x4 x5 x6 => Sys2Proof.Machine.execEadd x1 x2 x3 x4 x5 x6 s
  | .emul x1 x2 x3 x4 x5 x6 => Sys2Proof.Machine.execEmul x1 x2 x3 x4 x5 x6 s
  | .eli x1 x2 x3 => Sys2Proof.Machine.execEli x1 x2 x3 s
  | .ebr x1 x2 x3 x4 x5 => Sys2Proof.Machine.execEbr x1 x2 x3 x4 x5 s
  | .ejmp x1 x2 => Sys2Proof.Machine.execEjmp x1 x2 s
  | .eloop x1 x2 x3 => Sys2Proof.Machine.execEloop x1 x2 x3 s
  | .eld x1 x2 x3 => Sys2Proof.Machine.execEld x1 x2 x3 s
  | .dld x1 x2 x3 x4 x5 => Sys2Proof.Machine.execDld x1 x2 x3 x4 x5 s
  | .dldb x1 x2 x3 x4 x5 => Sys2Proof.Machine.execDldb x1 x2 x3 x4 x5 s
  | .dst x1 x2 x3 x4 x5 => Sys2Proof.Machine.execDst x1 x2 x3 x4 x5 s
  | .dwait x1 => Sys2Proof.Machine.execDwait x1 s
  | .dwaitExt x1 x2 => Sys2Proof.Machine.execDwaitExt x1 x2 s
  | .dlock x1 x2 x3 x4 => Sys2Proof.Machine.execDlock x1 x2 x3 x4 s
  | .dunlock x1 x2 x3 x4 => Sys2Proof.Machine.execDunlock x1 x2 x3 x4 s
  | .dpub x1 x2 x3 => Sys2Proof.Machine.execDpub x1 x2 x3 s
  | .dpush x1 x2 x3 x4 x5 => Sys2Proof.Machine.execDpush x1 x2 x3 x4 x5 s
  | .dpushAcc x1 x2 x3 x4 x5 => Sys2Proof.Machine.execDpushAcc x1 x2 x3 x4 x5 s
  | .dsig x1 x2 x3 x4 => Sys2Proof.Machine.execDsig x1 x2 x3 x4 s
  | .dsigSt x1 x2 x3 x4 => Sys2Proof.Machine.execDsigSt x1 x2 x3 x4 s
  | .dhalt x1 => Sys2Proof.Machine.execDhalt x1 s
  | .nop => Sys2Proof.Machine.execNop s
  | .halt => Sys2Proof.Machine.execHalt s
  | .yield => Sys2Proof.Machine.execYield s
  | .ret => Sys2Proof.Machine.execRet s
  | .eret => Sys2Proof.Machine.execEret s
  | .ctxQuiesce => Sys2Proof.Machine.execCtxQuiesce s
  | .evlogClr => Sys2Proof.Machine.execEvlogClr s
  | .bankChangeDone => Sys2Proof.Machine.execBankChangeDone s
  | .asyncTrap => Sys2Proof.Machine.execAsyncTrap s
  | .switch => Sys2Proof.Machine.execSwitch s
  | .landing => Sys2Proof.Machine.execLanding s
  | .contextFree => Sys2Proof.Machine.execContextFree s
  | .tlbWalkDone => Sys2Proof.Machine.execTlbWalkDone s
  | .submit => Sys2Proof.Machine.execSubmit s
  | .errAck => Sys2Proof.Machine.execErrAck s
  | .graphValidation => Sys2Proof.Machine.execGraphValidation s
  | .nodeResolve => Sys2Proof.Machine.execNodeResolve s
  | .launchDispatch => Sys2Proof.Machine.execLaunchDispatch s
  | .launchComplete => Sys2Proof.Machine.execLaunchComplete s
  | .condNode => Sys2Proof.Machine.execCondNode s
  | .whileNode => Sys2Proof.Machine.execWhileNode s
  | .whileBackEdge => Sys2Proof.Machine.execWhileBackEdge s
  | .nodeTimeout => Sys2Proof.Machine.execNodeTimeout s
  | .ptRootWrite => Sys2Proof.Machine.execPtRootWrite s
  | .tlbInval => Sys2Proof.Machine.execTlbInval s
  | .tlbInvalDone => Sys2Proof.Machine.execTlbInvalDone s
  | .signalDelivery => Sys2Proof.Machine.execSignalDelivery s
  | .powerGate => Sys2Proof.Machine.execPowerGate s
  | .waitwPoll => Sys2Proof.Machine.execWaitwPoll s
  | .syncOvfBaseWrite => Sys2Proof.Machine.execSyncOvfBaseWrite s
  | .syncOvfSizeWrite => Sys2Proof.Machine.execSyncOvfSizeWrite s
  | .syncStaleCountClear => Sys2Proof.Machine.execSyncStaleCountClear s
  | .tokenGrant => Sys2Proof.Machine.execTokenGrant s
  | .transposeExpire => Sys2Proof.Machine.execTransposeExpire s
  | .copyTake => Sys2Proof.Machine.execCopyTake s
  | .chunkStart => Sys2Proof.Machine.execChunkStart s
  | .copyComplete => Sys2Proof.Machine.execCopyComplete s
  | .sideWaysWrite => Sys2Proof.Machine.execSideWaysWrite s
  | .sideConversionDone => Sys2Proof.Machine.execSideConversionDone s
  | .basinSelect => Sys2Proof.Machine.execBasinSelect s
  | .basinRetire => Sys2Proof.Machine.execBasinRetire s
  | .basinDeclare => Sys2Proof.Machine.execBasinDeclare s
  | .basinPacket => Sys2Proof.Machine.execBasinPacket s
  | .basinClose => Sys2Proof.Machine.execBasinClose s
  | .confluenceAck => Sys2Proof.Machine.execConfluenceAck s
  | .confluenceResend => Sys2Proof.Machine.execConfluenceResend s
  | .deltaRunSelect => Sys2Proof.Machine.execDeltaRunSelect s
  | .deltaEntryDone => Sys2Proof.Machine.execDeltaEntryDone s
  | .deltaExitDone => Sys2Proof.Machine.execDeltaExitDone s
  | .dldbComplete => Sys2Proof.Machine.execDldbComplete s
  | .dpushFinish => Sys2Proof.Machine.execDpushFinish s
  | .roundDoneMessage => Sys2Proof.Machine.execRoundDoneMessage s
  | .flitReceive => Sys2Proof.Machine.execFlitReceive s
  | .flitNak => Sys2Proof.Machine.execFlitNak s
  | .flitReplayTimeout => Sys2Proof.Machine.execFlitReplayTimeout s
  | .remoteTransaction => Sys2Proof.Machine.execRemoteTransaction s
  | .remoteRequestFail => Sys2Proof.Machine.execRemoteRequestFail s
  | .hostMemAccess => Sys2Proof.Machine.execHostMemAccess s
  | .preemptReq => Sys2Proof.Machine.execPreemptReq s
  | .parkComplete => Sys2Proof.Machine.execParkComplete s
  | .resumeReq => Sys2Proof.Machine.execResumeReq s
  | .resumePrologue => Sys2Proof.Machine.execResumePrologue s
  | .currentRampLimitWrite => Sys2Proof.Machine.execCurrentRampLimitWrite s
  | .bankLimitWrite => Sys2Proof.Machine.execBankLimitWrite s
  | .telemetrySample => Sys2Proof.Machine.execTelemetrySample s
  | .thermalThrottle => Sys2Proof.Machine.execThermalThrottle s
  | .throttleEnd => Sys2Proof.Machine.execThrottleEnd s
  | .thermalTrip => Sys2Proof.Machine.execThermalTrip s
  | .errCorrectedClear => Sys2Proof.Machine.execErrCorrectedClear s
  | .errUncorrectedClear => Sys2Proof.Machine.execErrUncorrectedClear s
  | .walkerReset => Sys2Proof.Machine.execWalkerReset s
  | .warmReset => Sys2Proof.Machine.execWarmReset s
  | .coldReset => Sys2Proof.Machine.execColdReset s
  | .powerGood => Sys2Proof.Machine.execPowerGood s
  | .stageAdvance => Sys2Proof.Machine.execStageAdvance s
  | .fwLoadGo => Sys2Proof.Machine.execFwLoadGo s
  | .fwLoadDone => Sys2Proof.Machine.execFwLoadDone s
  | .attestStart => Sys2Proof.Machine.execAttestStart s
  | .attestDone => Sys2Proof.Machine.execAttestDone s
  | .mgmtRegisterWrite => Sys2Proof.Machine.execMgmtRegisterWrite s
  | .engineReply => Sys2Proof.Machine.execEngineReply s
  | .instructionCacheFill => Sys2Proof.Machine.execInstructionCacheFill s
  | .softError => Sys2Proof.Machine.execSoftError s

end Sys2Proof.Machine
end

