-- ==== Sys2Proof/Machine/Registers.lean ====
section
/-!
DEFINITION. The registers an operation writes, as R51 counts them, and those it reads (R357's MACHINE_CHECK). A register is a
file code and an index: 0 s, 1 v, 2 k, 3 c, 4 f, 5 b, 6 h, 7 g (as TRAP_INFO of R357 has them), 8 cbt, 9 SB, 10 tiles. A
generator's fields are written as registers of their own (R193).
-/
namespace Sys2Proof.Machine

/-- The flags of a mask. -/
def flagList (m : BitVec 16) : List (Nat × Nat) := ((upTo 16).filter fun n => m.getLsbD n).map fun n => (4, n)

/-- Destinations as the fields name them (R51). -/
def destinations (i : Instr) : List (Nat × Nat) :=
  match i with
  | .prio _ => []
  | .jmpi _ => []
  | .calli _ => [(0, 63)]
  | .trap _ => []
  | .brk _ => []
  | .evlogRd d _ => [(0, d.toNat)]
  | .fset m => flagList m
  | .fclr m => flagList m
  | .fwait _ _ _ => []
  | .jmp _ => []
  | .call _ => [(0, 63)]
  | .brC _ _ _ => []
  | .brTree _ _ _ _ _ => []
  | .add d _ _ => [(0, d.toNat)]
  | .sub d _ _ => [(0, d.toNat)]
  | .mul d _ _ => [(0, d.toNat)]
  | .mulh d _ _ => [(0, d.toNat)]
  | .mulhn d _ _ => [(0, d.toNat)]
  | .div d _ _ => [(0, d.toNat)]
  | .divn d _ _ => [(0, d.toNat)]
  | .rem d _ _ => [(0, d.toNat)]
  | .remn d _ _ => [(0, d.toNat)]
  | .and d _ _ => [(0, d.toNat)]
  | .or d _ _ => [(0, d.toNat)]
  | .xor d _ _ => [(0, d.toNat)]
  | .andn d _ _ => [(0, d.toNat)]
  | .shl d _ _ => [(0, d.toNat)]
  | .shr d _ _ => [(0, d.toNat)]
  | .sra d _ _ => [(0, d.toNat)]
  | .rotl d _ _ => [(0, d.toNat)]
  | .min d _ _ => [(0, d.toNat)]
  | .max d _ _ => [(0, d.toNat)]
  | .minn d _ _ => [(0, d.toNat)]
  | .maxn d _ _ => [(0, d.toNat)]
  | .clz d _ => [(0, d.toNat)]
  | .ctz d _ => [(0, d.toNat)]
  | .popc d _ => [(0, d.toNat)]
  | .mov d _ => [(0, d.toNat)]
  | .cset d _ => [(0, d.toNat)]
  | .sel d _ _ _ => [(0, d.toNat)]
  | .addi d _ _ => [(0, d.toNat)]
  | .andi d _ _ => [(0, d.toNat)]
  | .ori d _ _ => [(0, d.toNat)]
  | .xori d _ _ => [(0, d.toNat)]
  | .cmp d x _ _ _ => [(3, d.toNat), (3, x.toNat)]
  | .cmpi d x _ _ _ => [(3, d.toNat), (3, x.toNat)]
  | .li d _ => [(0, d.toNat)]
  | .lih d _ _ => [(0, d.toNat)]
  | .extr d _ _ _ => [(0, d.toNat)]
  | .extrs d _ _ _ => [(0, d.toNat)]
  | .ins d _ _ _ => [(0, d.toNat)]
  | .fsh d _ _ _ => [(0, d.toNat)]
  | .csrRd s _ => [(0, s.toNat)]
  | .csrWr _ _ => []
  | .csrWrFpctl _ => []
  | .csrWrCtxPrio _ => []
  | .csrWrAccOwn _ => []
  | .csrWrBankRole _ => []
  | .setbLabel b _ => [(5, b.toNat)]
  | .setbReg b _ => [(5, b.toNat)]
  | .syncHeader m _ c => (if c = 1 then flagList m else [])
  | .lendHeader _ _ _ => []
  | .treeHeader _ _ _ _ _ _ => []
  | .vadd d _ _ _ _ => [(1, d.toNat)]
  | .vsub d _ _ _ _ => [(1, d.toNat)]
  | .vmul d _ _ _ _ => [(1, d.toNat)]
  | .vmin d _ _ _ _ => [(1, d.toNat)]
  | .vmax d _ _ _ _ => [(1, d.toNat)]
  | .vabs d _ _ _ => [(1, d.toNat)]
  | .vneg d _ _ _ => [(1, d.toNat)]
  | .vfma d _ _ _ _ => [(1, d.toNat)]
  | .vfms d _ _ _ _ => [(1, d.toNat)]
  | .vfnma d _ _ _ _ => [(1, d.toNat)]
  | .vrcp d _ _ _ => [(1, d.toNat)]
  | .vrsqrt d _ _ _ => [(1, d.toNat)]
  | .vsqrt d _ _ _ => [(1, d.toNat)]
  | .vexp2 d _ _ _ => [(1, d.toNat)]
  | .vlog2 d _ _ _ => [(1, d.toNat)]
  | .vand d _ _ _ _ => [(1, d.toNat)]
  | .vor d _ _ _ _ => [(1, d.toNat)]
  | .vxor d _ _ _ _ => [(1, d.toNat)]
  | .vandn d _ _ _ _ => [(1, d.toNat)]
  | .vshl d _ _ _ _ => [(1, d.toNat)]
  | .vshr d _ _ _ _ => [(1, d.toNat)]
  | .vsra d _ _ _ _ => [(1, d.toNat)]
  | .vpopc d _ _ _ => [(1, d.toNat)]
  | .vcmp d _ _ _ _ _ => [(2, d.toNat)]
  | .vsel d _ _ _ _ => [(1, d.toNat)]
  | .vmov d _ _ _ => [(1, d.toNat)]
  | .vbcast d _ _ _ => [(1, d.toNat)]
  | .vperm d _ _ _ _ => [(1, d.toNat)]
  | .vredAdd d _ _ _ => [(1, d.toNat)]
  | .vredMax d _ _ _ => [(1, d.toNat)]
  | .vscanAdd d _ _ _ => [(1, d.toNat)]
  | .kand d _ _ => [(2, d.toNat)]
  | .kor d _ _ => [(2, d.toNat)]
  | .kxor d _ _ => [(2, d.toNat)]
  | .knot d _ => [(2, d.toNat)]
  | .kmovKk d _ => [(2, d.toNat)]
  | .kmovKs d _ => [(2, d.toNat)]
  | .kmovSk _ s => [(0, s.toNat)]
  | .vcvt d _ _ _ _ => [(1, d.toNat)]
  | .vcvtSr d _ _ _ _ => [(1, d.toNat)]
  | .vclass d _ _ _ => [(1, d.toNat)]
  | .vbmax _ _ _ => [(9, 0)]
  | .vquant d _ b _ _ => [(1, d.toNat), (1, b.toNat)]
  | .vdeq d _ _ _ _ => [(1, d.toNat)]
  | .vpack d _ _ _ _ => [(1, d.toNat)]
  | .vunpack d _ _ _ => [(1, d.toNat)]
  | .vextr d _ _ _ _ => [(1, d.toNat)]
  | .vrng d _ _ => [(1, d.toNat)]
  | .mma a _ _ _ _ => [(10, a.toNat)]
  | .mmaZ a _ _ _ _ => [(10, a.toNat)]
  | .mmaSp a _ _ _ _ => [(10, a.toNat)]
  | .mpack _ _ _ => []
  | .mdrain a _ _ => [(10, a.toNat)]
  | .mdrainByp a _ => [(10, a.toNat)]
  | .mdrainAcc a _ _ => [(10, a.toNat)]
  | .mzero a => [(10, a.toNat)]
  | .mdrainA80 a _ => [(10, a.toNat)]
  | .mzeroA80 a _ => [(10, a.toNat)]
  | .mtrPut _ _ => []
  | .mtrGet _ _ => []
  | .ld s _ _ _ => [(0, s.toNat)]
  | .st _ _ _ _ => []
  | .vld v _ _ => [(1, v.toNat)]
  | .vst _ _ _ => []
  | .bankRole _ _ _ => []
  | .bankFlush _ _ => []
  | .ldg s _ _ _ => [(0, s.toNat)]
  | .stg _ _ _ _ => []
  | .vldg v _ _ => [(1, v.toNat)]
  | .vstg _ _ _ => []
  | .pref _ _ _ => []
  | .vldcb x _ _ => [(8, x.toNat)]
  | .vldFmt v _ _ _ _ => [(1, v.toNat)]
  | .vstFmt _ _ _ _ _ _ => []
  | .vgather v _ _ _ _ => [(1, v.toNat)]
  | .vscatter _ _ _ _ => []
  | .ldAcq s _ _ _ => [(0, s.toNat)]
  | .stRel _ _ _ => []
  | .fenceAcq _ => []
  | .fenceRel _ => []
  | .fenceFull _ => []
  | .amoAdd _ s _ _ => [(0, s.toNat)]
  | .amoAnd _ s _ _ => [(0, s.toNat)]
  | .amoOr _ s _ _ => [(0, s.toNat)]
  | .amoXor _ s _ _ => [(0, s.toNat)]
  | .amoMinSigned _ s _ _ => [(0, s.toNat)]
  | .amoMaxSigned _ s _ _ => [(0, s.toNat)]
  | .amoXchg _ s _ _ => [(0, s.toNat)]
  | .amoCas _ s _ _ => [(0, s.toNat)]
  | .amoFadd _ s _ _ => [(0, s.toNat)]
  | .amoFmin _ s _ _ => [(0, s.toNat)]
  | .amoFmax _ s _ _ => [(0, s.toNat)]
  | .amoMinUnsigned _ s _ _ => [(0, s.toNat)]
  | .amoMaxUnsigned _ s _ _ => [(0, s.toNat)]
  | .sig _ _ => []
  | .barInit _ _ => []
  | .barArrive _ => []
  | .barWait _ => []
  | .waitw _ _ _ => []
  | .roundWait _ _ => []
  | .roundPin _ _ => []
  | .ntile s _ _ => [(0, s.toNat)]
  | .basinQ s _ _ => [(0, s.toNat)]
  | .ringDef _ i => [(6, i.toNat)]
  | .ringPut _ => []
  | .ringTake _ => []
  | .ringPtr s _ _ => [(0, s.toNat)]
  | .aguSet s i e => (if 8 ≤ e.toNat then [(0, s.toNat)] else [(7, 8 * i.toNat + e.toNat)])
  | .ringLd s _ _ _ _ => [(0, s.toNat)]
  | .ringSt _ _ _ _ _ => []
  | .ringVld v _ _ _ => [(1, v.toNat)]
  | .ringVst _ _ _ _ => []
  | .accw _ _ _ _ _ => []
  | .rsscat _ _ _ _ _ => []
  | .rsscatClose _ _ _ _ _ => []
  | .rsld v _ _ _ _ _ => [(1, v.toNat)]
  | .nop => []
  | .halt => []
  | .yield => []
  | .ret => []
  | .eret => []
  | .ctxQuiesce => []
  | .evlogClr => []
  | .dadd _ _ => []
  | .dsub _ _ => []
  | .dmul _ _ => []
  | .dfma _ _ => []
  | .dmin _ _ => []
  | .dmax _ _ => []
  | .dabs _ _ => []
  | .dneg _ _ => []
  | .drcp _ _ => []
  | .drsqrt _ _ => []
  | .dsqrt _ _ => []
  | .dsel _ _ => []
  | .dcmp _ _ _ _ _ _ _ => []
  | .dcvtTo _ _ _ _ _ _ _ _ => []
  | .dcvtFrom _ _ _ _ _ _ _ _ => []
  | .drng _ _ => []
  | .dsum _ _ => []
  | .dsq _ _ => []
  | .dbcast _ _ => []
  | .eadd _ _ _ _ _ _ => []
  | .emul _ _ _ _ _ _ => []
  | .eli _ _ _ => []
  | .ebr _ _ _ _ _ => []
  | .ejmp _ _ => []
  | .eloop _ _ _ => []
  | .eld _ _ _ => []
  | .dld _ _ _ _ _ => []
  | .dldb _ _ _ _ _ => []
  | .dst _ _ _ _ _ => []
  | .dwait _ => []
  | .dwaitExt _ _ => []
  | .dlock _ _ _ _ => []
  | .dunlock _ _ _ _ => []
  | .dpub _ _ _ => []
  | .dpush _ _ _ _ _ => []
  | .dpushAcc _ _ _ _ _ => []
  | .dsig _ _ _ _ => []
  | .dsigSt _ _ _ _ => []
  | .dhalt _ => []
  | .bankChangeDone => []
  | .asyncTrap => []
  | .switch => []
  | .landing => []
  | .contextFree => []
  | .tlbWalkDone => []
  | .submit => []
  | .errAck => []
  | .graphValidation => []
  | .nodeResolve => []
  | .launchDispatch => []
  | .launchComplete => []
  | .condNode => []
  | .whileNode => []
  | .whileBackEdge => []
  | .nodeTimeout => []
  | .ptRootWrite => []
  | .tlbInval => []
  | .tlbInvalDone => []
  | .signalDelivery => []
  | .powerGate => []
  | .waitwPoll => []
  | .syncOvfBaseWrite => []
  | .syncOvfSizeWrite => []
  | .syncStaleCountClear => []
  | .tokenGrant => []
  | .transposeExpire => []
  | .copyTake => []
  | .chunkStart => []
  | .copyComplete => []
  | .sideWaysWrite => []
  | .sideConversionDone => []
  | .basinSelect => []
  | .basinRetire => []
  | .basinDeclare => []
  | .basinPacket => []
  | .basinClose => []
  | .confluenceAck => []
  | .confluenceResend => []
  | .deltaRunSelect => []
  | .deltaEntryDone => []
  | .deltaExitDone => []
  | .dldbComplete => []
  | .dpushFinish => []
  | .roundDoneMessage => []
  | .flitReceive => []
  | .flitNak => []
  | .flitReplayTimeout => []
  | .remoteTransaction => []
  | .remoteRequestFail => []
  | .hostMemAccess => []
  | .preemptReq => []
  | .parkComplete => []
  | .resumeReq => []
  | .resumePrologue => []
  | .currentRampLimitWrite => []
  | .bankLimitWrite => []
  | .telemetrySample => []
  | .thermalThrottle => []
  | .throttleEnd => []
  | .thermalTrip => []
  | .errCorrectedClear => []
  | .errUncorrectedClear => []
  | .walkerReset => []
  | .warmReset => []
  | .coldReset => []
  | .powerGood => []
  | .stageAdvance => []
  | .fwLoadGo => []
  | .fwLoadDone => []
  | .attestStart => []
  | .attestDone => []
  | .mgmtRegisterWrite => []
  | .engineReply => []
  | .instructionCacheFill => []
  | .softError => []

/-- Writes to s0, c0 and k0 are discarded and not counted (R51). -/
def writesOf (i : Instr) : List (Nat × Nat) :=
  (destinations i).filter fun r => !(r.2 == 0 && (r.1 == 0 || r.1 == 2 || r.1 == 3))

/-- The registers an operation reads. -/
def readsOf (i : Instr) : List (Nat × Nat) :=
  match i with
  | .prio _ => []
  | .jmpi a => [(0, a.toNat)]
  | .calli a => [(0, a.toNat)]
  | .trap _ => []
  | .brk _ => []
  | .evlogRd _ _ => []
  | .fset _ => []
  | .fclr _ => []
  | .fwait m _ _ => flagList m
  | .jmp _ => []
  | .call _ => []
  | .brC c _ _ => [(3, c.toNat)]
  | .brTree _ _ _ _ _ => []
  | .add _ a b => [(0, a.toNat), (0, b.toNat)]
  | .sub _ a b => [(0, a.toNat), (0, b.toNat)]
  | .mul _ a b => [(0, a.toNat), (0, b.toNat)]
  | .mulh _ a b => [(0, a.toNat), (0, b.toNat)]
  | .mulhn _ a b => [(0, a.toNat), (0, b.toNat)]
  | .div _ a b => [(0, a.toNat), (0, b.toNat)]
  | .divn _ a b => [(0, a.toNat), (0, b.toNat)]
  | .rem _ a b => [(0, a.toNat), (0, b.toNat)]
  | .remn _ a b => [(0, a.toNat), (0, b.toNat)]
  | .and _ a b => [(0, a.toNat), (0, b.toNat)]
  | .or _ a b => [(0, a.toNat), (0, b.toNat)]
  | .xor _ a b => [(0, a.toNat), (0, b.toNat)]
  | .andn _ a b => [(0, a.toNat), (0, b.toNat)]
  | .shl _ a b => [(0, a.toNat), (0, b.toNat)]
  | .shr _ a b => [(0, a.toNat), (0, b.toNat)]
  | .sra _ a b => [(0, a.toNat), (0, b.toNat)]
  | .rotl _ a b => [(0, a.toNat), (0, b.toNat)]
  | .min _ a b => [(0, a.toNat), (0, b.toNat)]
  | .max _ a b => [(0, a.toNat), (0, b.toNat)]
  | .minn _ a b => [(0, a.toNat), (0, b.toNat)]
  | .maxn _ a b => [(0, a.toNat), (0, b.toNat)]
  | .clz _ a => [(0, a.toNat)]
  | .ctz _ a => [(0, a.toNat)]
  | .popc _ a => [(0, a.toNat)]
  | .mov _ a => [(0, a.toNat)]
  | .cset _ n => [(3, n.toNat)]
  | .sel _ a b n => [(3, n.toNat), (0, a.toNat), (0, b.toNat)]
  | .addi _ a _ => [(0, a.toNat)]
  | .andi _ a _ => [(0, a.toNat)]
  | .ori _ a _ => [(0, a.toNat)]
  | .xori _ a _ => [(0, a.toNat)]
  | .cmp _ _ _ a b => [(0, a.toNat), (0, b.toNat)]
  | .cmpi _ _ _ a _ => [(0, a.toNat)]
  | .li _ _ => []
  | .lih d _ _ => [(0, d.toNat)]
  | .extr _ a _ _ => [(0, a.toNat)]
  | .extrs _ a _ _ => [(0, a.toNat)]
  | .ins d a _ _ => [(0, a.toNat), (0, d.toNat)]
  | .fsh _ a b c => [(0, a.toNat), (0, b.toNat), (0, c.toNat)]
  | .csrRd _ _ => []
  | .csrWr s _ => [(0, s.toNat)]
  | .csrWrFpctl s => [(0, s.toNat)]
  | .csrWrCtxPrio s => [(0, s.toNat)]
  | .csrWrAccOwn s => [(0, s.toNat)]
  | .csrWrBankRole s => [(0, s.toNat)]
  | .setbLabel _ _ => []
  | .setbReg _ a => [(0, a.toNat)]
  | .syncHeader m _ _ => flagList m
  | .lendHeader _ _ _ => []
  | .treeHeader a b c d _ _ => [(3, a.toNat), (3, b.toNat), (3, c.toNat), (3, d.toNat)]
  | .vadd d a b k _ => [(1, a.toNat), (1, b.toNat), (2, k.toNat)] ++ (if k = 0 then [] else [(1, d.toNat)])
  | .vsub d a b k _ => [(1, a.toNat), (1, b.toNat), (2, k.toNat)] ++ (if k = 0 then [] else [(1, d.toNat)])
  | .vmul d a b k _ => [(1, a.toNat), (1, b.toNat), (2, k.toNat)] ++ (if k = 0 then [] else [(1, d.toNat)])
  | .vmin d a b k _ => [(1, a.toNat), (1, b.toNat), (2, k.toNat)] ++ (if k = 0 then [] else [(1, d.toNat)])
  | .vmax d a b k _ => [(1, a.toNat), (1, b.toNat), (2, k.toNat)] ++ (if k = 0 then [] else [(1, d.toNat)])
  | .vabs d a k _ => [(1, a.toNat), (2, k.toNat)] ++ (if k = 0 then [] else [(1, d.toNat)])
  | .vneg d a k _ => [(1, a.toNat), (2, k.toNat)] ++ (if k = 0 then [] else [(1, d.toNat)])
  | .vfma d a b k _ => [(1, a.toNat), (1, b.toNat), (1, d.toNat), (2, k.toNat)]
  | .vfms d a b k _ => [(1, a.toNat), (1, b.toNat), (1, d.toNat), (2, k.toNat)]
  | .vfnma d a b k _ => [(1, a.toNat), (1, b.toNat), (1, d.toNat), (2, k.toNat)]
  | .vrcp d a k _ => [(1, a.toNat), (2, k.toNat)] ++ (if k = 0 then [] else [(1, d.toNat)])
  | .vrsqrt d a k _ => [(1, a.toNat), (2, k.toNat)] ++ (if k = 0 then [] else [(1, d.toNat)])
  | .vsqrt d a k _ => [(1, a.toNat), (2, k.toNat)] ++ (if k = 0 then [] else [(1, d.toNat)])
  | .vexp2 d a k _ => [(1, a.toNat), (2, k.toNat)] ++ (if k = 0 then [] else [(1, d.toNat)])
  | .vlog2 d a k _ => [(1, a.toNat), (2, k.toNat)] ++ (if k = 0 then [] else [(1, d.toNat)])
  | .vand d a b k _ => [(1, a.toNat), (1, b.toNat), (2, k.toNat)] ++ (if k = 0 then [] else [(1, d.toNat)])
  | .vor d a b k _ => [(1, a.toNat), (1, b.toNat), (2, k.toNat)] ++ (if k = 0 then [] else [(1, d.toNat)])
  | .vxor d a b k _ => [(1, a.toNat), (1, b.toNat), (2, k.toNat)] ++ (if k = 0 then [] else [(1, d.toNat)])
  | .vandn d a b k _ => [(1, a.toNat), (1, b.toNat), (2, k.toNat)] ++ (if k = 0 then [] else [(1, d.toNat)])
  | .vshl d a b k _ => [(1, a.toNat), (1, b.toNat), (2, k.toNat)] ++ (if k = 0 then [] else [(1, d.toNat)])
  | .vshr d a b k _ => [(1, a.toNat), (1, b.toNat), (2, k.toNat)] ++ (if k = 0 then [] else [(1, d.toNat)])
  | .vsra d a b k _ => [(1, a.toNat), (1, b.toNat), (2, k.toNat)] ++ (if k = 0 then [] else [(1, d.toNat)])
  | .vpopc d a k _ => [(1, a.toNat), (2, k.toNat)] ++ (if k = 0 then [] else [(1, d.toNat)])
  | .vcmp d _ a b k _ => [(1, a.toNat), (1, b.toNat), (2, k.toNat)] ++ (if k = 0 then [] else [(2, d.toNat)])
  | .vsel _ a b k _ => [(1, a.toNat), (1, b.toNat), (2, k.toNat)]
  | .vmov d a k _ => [(1, a.toNat), (2, k.toNat)] ++ (if k = 0 then [] else [(1, d.toNat)])
  | .vbcast d s k _ => [(0, s.toNat), (2, k.toNat)] ++ (if k = 0 then [] else [(1, d.toNat)])
  | .vperm d a b k _ => [(1, a.toNat), (1, b.toNat), (2, k.toNat)] ++ (if k = 0 then [] else [(1, d.toNat)])
  | .vredAdd _ a k _ => [(1, a.toNat), (2, k.toNat)]
  | .vredMax _ a k _ => [(1, a.toNat), (2, k.toNat)]
  | .vscanAdd _ a k _ => [(1, a.toNat), (2, k.toNat)]
  | .kand _ a b => [(2, a.toNat), (2, b.toNat)]
  | .kor _ a b => [(2, a.toNat), (2, b.toNat)]
  | .kxor _ a b => [(2, a.toNat), (2, b.toNat)]
  | .knot _ a => [(2, a.toNat)]
  | .kmovKk _ a => [(2, a.toNat)]
  | .kmovKs _ s => [(0, s.toNat)]
  | .kmovSk a _ => [(2, a.toNat)]
  | .vcvt d a _ k _ => [(1, a.toNat), (2, k.toNat)] ++ (if k = 0 then [] else [(1, d.toNat)])
  | .vcvtSr d a _ k _ => [(1, a.toNat), (2, k.toNat)] ++ (if k = 0 then [] else [(1, d.toNat)])
  | .vclass d a k _ => [(1, a.toNat), (2, k.toNat)] ++ (if k = 0 then [] else [(1, d.toNat)])
  | .vbmax a k _ => [(1, a.toNat), (2, k.toNat)]
  | .vquant d a b k _ => [(1, a.toNat), (1, b.toNat), (1, d.toNat), (2, k.toNat)]
  | .vdeq d a b k _ => [(1, a.toNat), (1, b.toNat), (2, k.toNat)] ++ (if k = 0 then [] else [(1, d.toNat)])
  | .vpack d a b k _ => [(1, a.toNat), (1, b.toNat), (2, k.toNat)] ++ (if k = 0 then [] else [(1, d.toNat)])
  | .vunpack d a k _ => [(1, a.toNat), (2, k.toNat)] ++ (if k = 0 then [] else [(1, d.toNat)])
  | .vextr d a _ k _ => [(1, a.toNat), (2, k.toNat)] ++ (if k = 0 then [] else [(1, d.toNat)])
  | .vrng d k _ => [(2, k.toNat)] ++ (if k = 0 then [] else [(1, d.toNat)])
  | .mma _ _ _ _ _ => []
  | .mmaZ _ _ _ _ _ => []
  | .mmaSp _ _ _ _ _ => []
  | .mpack _ a _ => [(0, a.toNat)]
  | .mdrain _ s _ => [(0, s.toNat)]
  | .mdrainByp _ _ => []
  | .mdrainAcc _ s _ => [(0, s.toNat)]
  | .mzero _ => []
  | .mdrainA80 _ s => [(0, s.toNat)]
  | .mzeroA80 _ s => [(0, s.toNat)]
  | .mtrPut s _ => [(0, s.toNat)]
  | .mtrGet s _ => [(0, s.toNat)]
  | .ld _ a _ _ => [(0, a.toNat)]
  | .st s a _ _ => [(0, s.toNat), (0, a.toNat)]
  | .vld _ a _ => [(0, a.toNat)]
  | .vst v a _ => [(1, v.toNat), (0, a.toNat)]
  | .bankRole _ _ _ => []
  | .bankFlush _ _ => []
  | .ldg _ a _ _ => [(0, a.toNat)]
  | .stg s a _ _ => [(0, s.toNat), (0, a.toNat)]
  | .vldg _ a _ => [(0, a.toNat)]
  | .vstg v a _ => [(1, v.toNat), (0, a.toNat)]
  | .pref _ a _ => [(0, a.toNat)]
  | .vldcb _ a _ => [(0, a.toNat)]
  | .vldFmt _ g r c _ => [(7, g.toNat), (0, r.toNat), (0, c.toNat)]
  | .vstFmt v g r c _ _ => [(1, v.toNat), (7, g.toNat), (0, r.toNat), (0, c.toNat)]
  | .vgather _ a i k _ => [(0, a.toNat), (1, i.toNat), (2, k.toNat)]
  | .vscatter v a i k => [(1, v.toNat), (0, a.toNat), (1, i.toNat), (2, k.toNat)]
  | .ldAcq _ a _ _ => [(0, a.toNat)]
  | .stRel s a _ => [(0, s.toNat), (0, a.toNat)]
  | .fenceAcq _ => []
  | .fenceRel _ => []
  | .fenceFull _ => []
  | .amoAdd _ s a _ => [(0, s.toNat), (0, a.toNat)]
  | .amoAnd _ s a _ => [(0, s.toNat), (0, a.toNat)]
  | .amoOr _ s a _ => [(0, s.toNat), (0, a.toNat)]
  | .amoXor _ s a _ => [(0, s.toNat), (0, a.toNat)]
  | .amoMinSigned _ s a _ => [(0, s.toNat), (0, a.toNat)]
  | .amoMaxSigned _ s a _ => [(0, s.toNat), (0, a.toNat)]
  | .amoXchg _ s a _ => [(0, s.toNat), (0, a.toNat)]
  | .amoCas _ s a _ => [(0, s.toNat), (0, s.toNat + 1), (0, a.toNat)]
  | .amoFadd _ s a _ => [(0, s.toNat), (0, a.toNat)]
  | .amoFmin _ s a _ => [(0, s.toNat), (0, a.toNat)]
  | .amoFmax _ s a _ => [(0, s.toNat), (0, a.toNat)]
  | .amoMinUnsigned _ s a _ => [(0, s.toNat), (0, a.toNat)]
  | .amoMaxUnsigned _ s a _ => [(0, s.toNat), (0, a.toNat)]
  | .sig a _ => [(0, a.toNat)]
  | .barInit s a => [(0, s.toNat), (0, a.toNat)]
  | .barArrive a => [(0, a.toNat)]
  | .barWait a => [(0, a.toNat)]
  | .waitw s a _ => [(0, s.toNat), (0, a.toNat)]
  | .roundWait s a => [(0, s.toNat), (0, a.toNat)]
  | .roundPin s a => [(0, s.toNat), (0, a.toNat)]
  | .ntile _ a _ => [(0, a.toNat)]
  | .basinQ _ a _ => [(0, a.toNat)]
  | .ringDef s _ => [(0, s.toNat)]
  | .ringPut i => [(6, i.toNat)]
  | .ringTake i => [(6, i.toNat)]
  | .ringPtr _ i _ => [(6, i.toNat)]
  | .aguSet s i e => (if 8 ≤ e.toNat then [(7, i.toNat)] else [(0, s.toNat)])
  | .ringLd _ h _ _ _ => [(6, h.toNat)]
  | .ringSt s h _ _ _ => [(0, s.toNat), (6, h.toNat)]
  | .ringVld _ h _ _ => [(6, h.toNat)]
  | .ringVst v h _ _ => [(1, v.toNat), (6, h.toNat)]
  | .accw v a _ _ _ => [(1, v.toNat), (0, a.toNat)]
  | .rsscat v a c k _ => [(1, v.toNat), (0, a.toNat), (1, c.toNat), (2, k.toNat)]
  | .rsscatClose _ a _ _ _ => [(0, a.toNat)]
  | .rsld _ a c k _ _ => [(0, a.toNat), (1, c.toNat), (2, k.toNat)]
  | .nop => []
  | .halt => []
  | .yield => []
  | .ret => [(0, 63)]
  | .eret => []
  | .ctxQuiesce => []
  | .evlogClr => []
  | .dadd _ _ => []
  | .dsub _ _ => []
  | .dmul _ _ => []
  | .dfma _ _ => []
  | .dmin _ _ => []
  | .dmax _ _ => []
  | .dabs _ _ => []
  | .dneg _ _ => []
  | .drcp _ _ => []
  | .drsqrt _ _ => []
  | .dsqrt _ _ => []
  | .dsel _ _ => []
  | .dcmp _ _ _ _ _ _ _ => []
  | .dcvtTo _ _ _ _ _ _ _ _ => []
  | .dcvtFrom _ _ _ _ _ _ _ _ => []
  | .drng _ _ => []
  | .dsum _ _ => []
  | .dsq _ _ => []
  | .dbcast _ _ => []
  | .eadd _ _ _ _ _ _ => []
  | .emul _ _ _ _ _ _ => []
  | .eli _ _ _ => []
  | .ebr _ _ _ _ _ => []
  | .ejmp _ _ => []
  | .eloop _ _ _ => []
  | .eld _ _ _ => []
  | .dld _ _ _ _ _ => []
  | .dldb _ _ _ _ _ => []
  | .dst _ _ _ _ _ => []
  | .dwait _ => []
  | .dwaitExt _ _ => []
  | .dlock _ _ _ _ => []
  | .dunlock _ _ _ _ => []
  | .dpub _ _ _ => []
  | .dpush _ _ _ _ _ => []
  | .dpushAcc _ _ _ _ _ => []
  | .dsig _ _ _ _ => []
  | .dsigSt _ _ _ _ => []
  | .dhalt _ => []
  | .bankChangeDone => []
  | .asyncTrap => []
  | .switch => []
  | .landing => []
  | .contextFree => []
  | .tlbWalkDone => []
  | .submit => []
  | .errAck => []
  | .graphValidation => []
  | .nodeResolve => []
  | .launchDispatch => []
  | .launchComplete => []
  | .condNode => []
  | .whileNode => []
  | .whileBackEdge => []
  | .nodeTimeout => []
  | .ptRootWrite => []
  | .tlbInval => []
  | .tlbInvalDone => []
  | .signalDelivery => []
  | .powerGate => []
  | .waitwPoll => []
  | .syncOvfBaseWrite => []
  | .syncOvfSizeWrite => []
  | .syncStaleCountClear => []
  | .tokenGrant => []
  | .transposeExpire => []
  | .copyTake => []
  | .chunkStart => []
  | .copyComplete => []
  | .sideWaysWrite => []
  | .sideConversionDone => []
  | .basinSelect => []
  | .basinRetire => []
  | .basinDeclare => []
  | .basinPacket => []
  | .basinClose => []
  | .confluenceAck => []
  | .confluenceResend => []
  | .deltaRunSelect => []
  | .deltaEntryDone => []
  | .deltaExitDone => []
  | .dldbComplete => []
  | .dpushFinish => []
  | .roundDoneMessage => []
  | .flitReceive => []
  | .flitNak => []
  | .flitReplayTimeout => []
  | .remoteTransaction => []
  | .remoteRequestFail => []
  | .hostMemAccess => []
  | .preemptReq => []
  | .parkComplete => []
  | .resumeReq => []
  | .resumePrologue => []
  | .currentRampLimitWrite => []
  | .bankLimitWrite => []
  | .telemetrySample => []
  | .thermalThrottle => []
  | .throttleEnd => []
  | .thermalTrip => []
  | .errCorrectedClear => []
  | .errUncorrectedClear => []
  | .walkerReset => []
  | .warmReset => []
  | .coldReset => []
  | .powerGood => []
  | .stageAdvance => []
  | .fwLoadGo => []
  | .fwLoadDone => []
  | .attestStart => []
  | .attestDone => []
  | .mgmtRegisterWrite => []
  | .engineReply => []
  | .instructionCacheFill => []
  | .softError => []

end Sys2Proof.Machine
end

