-- ==== Sys2Proof/Machine/Bundle.lean ====
section
/-!
DEFINITION. A core's cycle: fetching the bundle at a context's PC (R45, R83, R90), the illegal-bundle check (R50, R51), trying
the slots (R46, R52, R60), issue, holds, traps (R357 to R360), the selector (R80), and the writes at the end of the cycle
(R84, R85).
-/
namespace Sys2Proof.Machine

/-! ### The illegal-bundle check (R49 to R51) -/

def majorOf (w : Nat) : Nat := w / 2 ^ 26 % 64

/-- The class of a slot word: 0 S, 1 V, 2 M, 3 X, 4 header; `nop` and `br.tree` have none (R49, R50). -/
def portClass (w : Nat) : Option Nat :=
  let m := majorOf w
  if w = 0 ∨ m = 4 then none
  else some (if m < 16 then 0 else if m < 32 then 1 else if m < 40 then 2 else if m < 56 then 3 else 4)

/-- Ports of a class per bundle (R49). -/
def portsOf (c : Nat) : Nat := if c = 1 ∨ c = 3 then 2 else 1

/-- Slot `i` of a bundle's words. -/
def slotOf (ws : List Nat) (i : Nat) : Nat := ws.getD i 0

def isHeader (w : Nat) : Bool := 56 ≤ majorOf w
def isTree (ws : List Nat) : Bool := majorOf (slotOf ws 0) == 58

/-- The operations that a TREE bundle's slots 1 and 2 may not hold (R50). -/
def treeBarred (w : Nat) : Bool :=
  match operationOf w with
  | some (.jmp _) | some (.jmpi _) | some (.brC _ _ _) | some (.call _) | some (.calli _) | some .ret | some .halt | some .yield
  | some .eret => true
  | _ => false

/-- The registers a slot writes (R51). -/
def slotWrites (w : Nat) : List (Nat × Nat) :=
  match operationOf w with
  | some i => writesOf i
  | none => []

/-- Two slots that write a register in common, unless both stand under leaf masks that share no bit (R50, R51). -/
def writesClash (ws : List Nat) (i j : Nat) : Bool :=
  ((slotWrites (slotOf ws i)).any fun r => (slotWrites (slotOf ws j)).contains r) &&
    !(isTree ws && i == 1 && j == 2 && (bits (slotOf ws 0) 9 5 &&& bits (slotOf ws 0) 4 0) == 0)

/-- The broken condition of R50, numbered in its order, and the lowest slot involved (R52, R357). Where several are broken the first in
that order is reported, and a header fault is one of a slot 0 header's own: a reserved major, a bad SYNC field, a TREE header without
`br.tree`. DESIGN CHOICE, log entry 85. -/
def illegalBundle (ws : List Nat) : Option (Nat × Nat) :=
  let h := slotOf ws 0
  let excess := (upTo 4).find? fun i => match portClass (slotOf ws i) with
    | some c => decide (c < 4) && decide (portsOf c < ((upTo 4).filter fun j => portClass (slotOf ws j) == some c).length)
    | none => false
  match [1, 2, 3].find? fun i => isHeader (slotOf ws i) with
  | some i => some (1, i)
  | none =>
    if 59 ≤ majorOf h then some (2, 0)
    else if majorOf h = 56 ∧ (bits h 7 0 ≠ 0 ∨ bits h 25 10 = 0) then some (3, 0)
    else match excess with
      | some i => some (4, i)
      | none => match (upTo 4).find? fun i => majorOf (slotOf ws i) == 4 && !(i == 3 && isTree ws) with
        | some i => some (5, i)
        | none =>
          if isTree ws ∧ majorOf (slotOf ws 3) ≠ 4 then some (6, 0)
          else match [1, 2].find? fun i => isTree ws && treeBarred (slotOf ws i) with
            | some i => some (7, i)
            | none =>
              match [(0, 1), (0, 2), (0, 3), (1, 2), (1, 3), (2, 3)].find? fun p => writesClash ws p.1 p.2 with
              | some p => some (8, p.1)
              | none => none

/-! ### Fetch -/

/-- What a fetch comes to: the bundle's four words, a wait with its request, or a trap. -/
inductive Fetched where
  | words (ws : List Nat)
  | wait (request : Option Event)
  | trap (cause : Nat) (info : Word)
deriving DecidableEq, Repr

/-- The four slot words of 16 bytes (R45). -/
def bundleWords (x : Nat) : List Nat := [x % 2 ^ 32, x / 2 ^ 32 % 2 ^ 32, x / 2 ^ 64 % 2 ^ 32, x / 2 ^ 96 % 2 ^ 32]

/-- Fetch the bundle at a context's PC: CODE_LIMIT in user mode, translation with execute permission, the instruction cache
(R83, R90, R183, R359), of the address as a version window rewrites it (R186, R343). Of a target beyond CODE_LIMIT that has no
translation either, CODE_LIMIT is reported. DESIGN CHOICE, log entry 86. -/
def State.fetch (s : State) (x : Nat) : Fetched :=
  let c := s.ctxAt x
  if !c.priv && decide (c.csr.codeLimit.toNat ≤ c.pc.toNat) then .trap causeCodeLimit c.csr.codeLimit
  else match s.translate x (s.versionRewrite x c.pc.toNat) c.pc.toNat { kind := .fetch } c.priv with
    | .fault cause reason va => .trap cause (faultInfo reason va)
    | .wait va =>
      .wait (if s.walkPending x va then none else some { i := .tlbWalkDone, a := x, b := va })
    | .ok pa _ =>
      match Store.get none (s.core (coreOf x)).icache (pa / 128) with
      | some l => .words (bundleWords (lineBytes l (pa % 128) 16))
      | none => .wait (if c.flow.fetching = some (pa / 128) then none
          else some { i := .instructionCacheFill, a := x, b := pa / 128 })

/-! ### Trying the slots -/

/-- `rsscat` whose `s[sa]` has CLOSE set is the other row of the table (R305). -/
def State.refine (s : State) (i : Instr) : Instr :=
  match i with
  | .rsscat v a c k l => if (s.rS a).getLsbD 12 then .rsscatClose v a c k l else i
  | _ => i

/-- A due cycle of zero in the formats whose due field lent bits may widen (R53, R59). -/
def dueMissing (i : Instr) : Bool :=
  match i with
  | .vldFmt _ _ _ _ u => u == 0
  | .vgather _ _ _ _ u => u == 0
  | .ldAcq _ _ u _ => u == 0
  | .rsld _ _ _ _ _ u => u == 0
  | _ => false

/-- The encodings of type code 18, which are legal in privileged mode alone (R372). -/
def privilegedForm (i : Instr) : Bool :=
  match i with
  | .mdrainA80 _ _ | .mzeroA80 _ _ => true
  | _ => false

/-- Whether the operation in a slot commits, by the leaf the header chose (R60). -/
def Cur.commits (c : Cur) : Bool :=
  match c.leaf with
  | some (l, x, y) => if c.slot = 1 then bit x l else if c.slot = 2 then bit y l else true
  | none => true

/-- An instruction of the slot being tried: its meaning; a register it reads whose parity is in error is a machine check,
after the illegal-instruction checks (R52, R357). -/
def execChecked (i : Instr) (s : State) : Out :=
  match s.ctx.flow.parity.find? fun r => (readsOf i).contains r with
  | none => exec i s
  | some r =>
    match exec i s with
    | .next s' =>
      .next (if s'.cur.trap.any fun t => t.cause == causeIllegal then s' else s.takeTrap causeMachineCheck (parityInfo r))
    | o => o

/-- Try one slot: decode it, and give it its meaning if it commits (R52, R53, R60, R369). -/
def runSlot (s : State) (slot w : Nat) : Out :=
  let s := s.modCur fun c => { c with slot := slot, word := w, poison := none, far := false }
  if s.ctx.flow.skip.getLsbD slot then .next s
  else match decodeSlot w with
    | .error _ => .next s.illegal
    | .ok i =>
      if s.cur.commits then execChecked (s.refine i) s
      else if dueMissing i || (privilegedForm i && !s.ctx.priv) then .next s.illegal else .next s

/-- Try the slots in ascending order: the first precise cause ends it, unless a lower slot waits for a walk or an engine's
reply (R52). -/
def runSlots : State → Nat → List Nat → Out
  | s, _, [] => .next s
  | s, n, w :: ws =>
    match runSlot s n w with
    | .next s' =>
      if s'.cur.trap.isSome then (if s.cur.waiting then runSlots s (n + 1) ws else .next s') else runSlots s' (n + 1) ws
    | o => o

/-- What a context's bundle comes to in a cycle. -/
inductive Trial where
  /-- No bundle of the context may issue yet (R89, R358), or it is not ACTIVE. -/
  | none
  | held (c : Cur)
  | trapped (t : TrapRec)
  | ready (s : State)
  | stop (o : Out)

/-- Whether the SYNC header of a bundle is not met (R55). -/
def headerUnmet (c : Ctx) (ws : List Nat) : Bool :=
  majorOf (slotOf ws 0) == 56 && !flagsMet c.r.f (BitVec.ofNat 16 (bits (slotOf ws 0) 25 10)) (bit (slotOf ws 0) 9)

/-- The record of a held bundle: under an unmet SYNC header nothing but translations is begun. -/
def heldAs (c : Ctx) (ws : List Nat) (k : Cur) : Cur :=
  if headerUnmet c ws then { k with requests := k.requests.filter fun e => e.i == .tlbWalkDone } else k

/-- What trying a bundle's slots comes to. -/
def trialOf (c : Ctx) (ws : List Nat) (o : Out) : Trial :=
  match o with
  | .next s =>
    match s.cur.trap with
    | some t => .trapped t
    | none => if s.cur.held then .held (heldAs c ws s.cur) else .ready s
  | o => .stop o

/-- A state in which a context's bundle is about to be tried. -/
def State.trying (s : State) (x : Nat) : State := { s with cur := { ctx := x, pc := (s.ctxAt x).pc, drained := s.settled x, began := s.fresh } }

/-- Try the bundle with these words. Where it passes flags that carry a signature, the acquire comes before every access of the bundle, in
whatever slot (R212, R218, R230): the slots are tried again after it. -/
def State.trySlots (s : State) (x : Nat) (ws : List Nat) : Trial :=
  let c := s.ctxAt x
  match trialOf c ws (runSlots (s.trying x) 0 ws) with
  | .ready s' =>
    let g := c.flagSigs s'.cur.passed
    if g = 0 then .ready s'
    else trialOf c ws (runSlots (((s.trying x).acquire (coreOf x) 4 g).modCur fun k => { k with acquired := true }) 0 ws)
  | t => t

/-- A bundle held as a whole, for its fetch or a late landing, with what it asks for. -/
def heldWhole (x : Nat) (requests : List Event) : Cur :=
  { ctx := x, held := true, heldOther := true, heldMore := true, heldAwake := true, requests := requests }

/-- Try one slot of a bundle by itself, but for what a header in slot 0 gives it. -/
def runAlone (s : State) (ws : List Nat) (j : Nat) : Out :=
  if j ≠ 0 ∧ isHeader (slotOf ws 0) then
    match runSlot s 0 (slotOf ws 0) with
    | .next s => runSlot s j (slotOf ws j)
    | o => o
  else runSlot s j (slotOf ws j)

/-- The registers that late landings of a context have yet to write (R87). -/
def State.lateRegs (s : State) (x : Nat) : List (Nat × Nat) :=
  ((s.ctxAt x).flow.landings.filter fun l => decide (l.due ≤ s.now)).flatMap Landing.targets

/-- The registers that a slot's word reads. -/
def slotReads (w : Nat) : List (Nat × Nat) :=
  match operationOf w with
  | some i => readsOf i
  | none => []

/-- Whether slot `j` has yet to read what a late landing brings: its own operands, or, below a TREE header, the tests that choose the
leaf (R60). -/
def readsLate (rs : List (Nat × Nat)) (ws : List Nat) (j : Nat) : Bool :=
  ((slotReads (slotOf ws j)).any fun r => rs.contains r) ||
    (isTree ws && j != 0 && (slotReads (slotOf ws 0)).any fun r => rs.contains r)

/-- The slots that wait for a late landing, but for those whose trap no register decides: their encoding's (R52, R53). -/
def State.lateSlots (s : State) (x : Nat) (ws : List Nat) : List Nat :=
  let rs := s.lateRegs x
  (upTo 4).filter fun j => readsLate rs ws j &&
    (match runAlone (s.trying x) ws j with
     | .next t => !(t.cur.trap.any fun r => r.cause == causeIllegal)
     | _ => true)

/-- Under a late landing the bundle holds (R87), which delays no precise trap of its slots (R52); a slot that has yet to read what the
landing brings has no cause yet, and no slot from the first such one on asks an engine for anything but a walk. DEDUCED, log entry 87. -/
def Trial.late (x first : Nat) (t : Trial) : Trial :=
  match t with
  | .held k => .held { k with
      held := true, heldOther := true, heldMore := true, heldAwake := true, heldElse := true, heldApart := true
      requests := k.requests.filter fun e => e.i == .tlbWalkDone || (e.i == .engineReply && decide (e.b < first)) }
  | .ready _ => .held (heldWhole x [])
  | t => t

/-- Try the bundle with these words while a landing is late, but for the slots that wait for it. -/
def State.tryLate (s : State) (x : Nat) (ws : List Nat) : Trial :=
  let late := s.lateSlots x ws
  let s := s.modCtxAt x fun c => { c with flow := { c.flow with skip := late.foldl (fun m j => m ||| (1#4 <<< j)) c.flow.skip } }
  (s.trySlots x ws).late x (late.headD 4)

/-- Try the bundle at a context's PC (R83, R87). -/
def State.trial (s : State) (x : Nat) : Trial :=
  let c := s.ctxAt x
  if c.phase ≠ .active ∨ s.now < c.flow.earliest then .none
  else if let some k := c.flow.poisoned then .trapped ⟨causeMachineCheck, BitVec.ofNat 64 (2 ^ 63 + 32 * k), 0⟩
  else match s.fetch x with
    | .trap cause info => .trapped ⟨cause, info, 0⟩
    | .wait r => .held (heldWhole x r.toList)
    | .words ws =>
      match illegalBundle ws with
      | some (n, i) => .trapped ⟨causeBundle, BitVec.ofNat 64 n, i⟩
      | none =>
        if c.flow.landings.any fun l => decide (l.due ≤ s.now) then s.tryLate x ws else s.trySlots x ws

/-! ### Holding -/

/-- A slot's request is asked, under a number of its own. -/
def State.noteRequest (s : State) (e : Event) (id : Nat) : State :=
  s.modCtxAt e.a fun c =>
    { c with flow := { c.flow with
        waits := Store.set (.requested 0) c.flow.waits e.b (.requested (id + 1))
        waitOps := Store.set 0 c.flow.waitOps e.b (if e.i = Instr.engineReply then e.c % 16 else 15) } }

/-- An operation enters the réseau unit while its bundle holds; the unit answers with its last corner cycle, once that is past (R307). -/
def State.enterUnit (s : State) (core : Nat) (e : Event) (id : Nat) : State :=
  let s := s.modCore core fun c => c.reseauEnter s.now (e.c / 16)
  let last := (s.core core).reseauEnd
  { s with
    timers := s.timers ++ [(last + 1 + Config.engineDelay s.fresh, { e with d := id, v := BitVec.ofNat 64 last })]
    fresh := s.fresh + 1 }

/-- Hand an engine a request of a held bundle. An access joins the DRAM sequencer's queue once nothing else holds the bundle (R315). -/
def State.applyRequest (s : State) (core : Nat) (k : Cur) (e : Event) : State :=
  match e.i with
  | .tlbWalkDone =>
    (s.modCtxAt e.a fun c => { c with flow := { c.flow with walked := ⟨pageOf e.b, .pending⟩ :: c.flow.walked } }).laterOpen { e with c := s.now }
  | .tokenGrant => if k.heldOther then s else s.wantToken core
  | .instructionCacheFill =>
    (s.modCtxAt e.a fun c => { c with flow := { c.flow with fetching := some e.b } }).laterOpen e
  | _ =>
   if e.i = .engineReply ∧ e.c % 16 = opDram then
    if k.heldElse then s else s.dramJoin (.ctx e.a) (e.c / 16) e.d
   else if e.i = .engineReply ∧ e.c = opFlush then (s.dramLeave (.ctx e.a)).flushLate core (e.v == 1) e.sig
   else
    let id := s.fresh
    let s := { s with fresh := id + 1 }.noteRequest e id
    if e.i = .engineReply ∧ e.c % 16 = opUnit then s.enterUnit core e id else s.laterOpen { e with d := id }

/-- The hold counts of a cycle in which a context's bundle held (R124). -/
def Ctx.countHold (c : Ctx) (k : Cur) : Ctx :=
  { c with csr := { c.csr with
      holdCount := c.csr.holdCount + 1
      rampHoldCount := if k.heldOther then c.csr.rampHoldCount else c.csr.rampHoldCount + 1 } }

/-- Perform slot `j` of a held bundle ahead of the rest: a packet or copy that a higher slot's ordering operation waits for (R211). The slot
is then skipped, as a trap's SKIP bit would have it (R360). DEDUCED, log entry 90. -/
def State.performSlot (s : State) (x : Nat) (ws : List Nat) (j : Nat) : State :=
  match runAlone (s.trying x) ws j with
  | .next s' =>
    if s'.cur.trap.isSome || s'.cur.held then s
    else s'.modCtxAt x fun c => { c with
      log := c.log.record c.flow.stamp s'.cur.pc s'.cur.evs
      flow := { c.flow with
        skip := c.flow.skip ||| (1#4 <<< j), waits := c.flow.waits.filter fun e => e.1 != j
        waitOps := c.flow.waitOps.filter fun e => e.1 != j } }
  | _ => s

/-- Perform the slots that must act before the bundle may go on (R211), after the acquires of the flags that the bundle passes, which come
before any access of it (R212). -/
def State.performFirst (s : State) (x : Nat) (k : Cur) : State :=
  if k.first.isEmpty || k.heldApart then s
  else match s.fetch x with
    | .words ws =>
      let g := (s.ctxAt x).flagSigs k.passed
      k.first.reverse.foldl (fun s j => s.performSlot x ws j) (if g = 0 then s else s.acquire (coreOf x) 4 g)
    | _ => s

/-- A context's bundle held in this cycle: counts, requests; a lost bank arbitration counts only for the running context, whose
wait it lengthens (R80, R175). The bundle of a context chosen in a switch cycle presents its requests in that cycle already (DESIGN
CHOICE, log entry 105); at a bank that it does not lose its wait ends, whether or not it issues. DESIGN CHOICE, log entry 106. -/
def State.noteHeld (s : State) (x : Nat) (running : Bool) (k : Cur) : State :=
  if k.heldMore then
    ((k.requests.foldl (fun s e => s.applyRequest (coreOf x) k e) s).performFirst x k).modCtxAt x fun c =>
      let c := c.countHold k
      { c with flow := { c.flow with bankWaits := [], quiet := !k.heldAwake } }
  else if running then
    s.modCtxAt x fun c =>
      let c := c.countHold k
      { c with flow := { c.flow with
          bankWaits := k.lost.eraseDups.foldl (fun m j => Store.set 0 m j (Store.get 0 c.flow.bankWaits j + 1)) [], quiet := false } }
  else s

/-! ### Issue -/

/-- The address of the bundle that follows (R45, R89). -/
def Cur.nextPc (c : Cur) : Word := match c.transfer with
  | some (t, _) => t
  | none => c.pc + 16

/-- Cycles to the context's next bundle (R89). -/
def Cur.gap (c : Cur) : Nat := match c.transfer with
  | some (_, g) => g
  | none => 1

/-- What issuing the bundle does to its context, but for the slots' own effects (R39 to R41, R88, R124, R155, R217, R369). -/
def Ctx.issued (c : Ctx) (now : Nat) (k : Cur) : Ctx :=
  let f := updateFlags c.r.f k.flagSet k.flagClr
  let log := c.log.record c.flow.stamp k.pc k.evs
  { c with
    pc := k.nextPc
    r := { c.r with f := f }
    log := if k.clearLog then log.cleared c.flow.stamp else log
    csr := { c.csr with
      issueCount := c.csr.issueCount + 1
      streamBase := c.csr.streamBase + BitVec.ofNat 64 k.draws }
    flow := { c.flow with
      stamp := c.flow.stamp + 1
      earliest := now + k.gap
      skip := 0
      flagSig := c.flow.flagSig.filter fun e => !(k.flagClr.getLsbD e.1 && !k.flagSet.getLsbD e.1) } }

/-- Issue a bundle whose slots have been tried: `s` is the state they leave. -/
def State.issue (s : State) (x : Nat) : State :=
  let k := s.cur
  let s := (s.modCtxAt x fun c => c.issued s.now k).dropWaits x
  let s := s.modCore (coreOf x) fun c =>
    { c with gated := false, yielded := k.yielded, served := k.banks, gapUntil := if k.gap = 1 then c.gapUntil else s.now + k.gap }
  match k.after with
  | none => s
  | some (code, slot) =>
    (s.modCtxAt x fun c => c.trapped s.now c.pc slot causeTrap (BitVec.ofNat 64 code)).modCore (coreOf x) fun c =>
      { c with gapUntil := s.now + 2 }

/-- The detail of a DOUBLE_FAULT entry (R362). -/
def doubleFaultDetail (cause : Nat) (pc : Word) : Nat := cause % 256 + bits pc.toNat 56 4 * 2 ^ 8

/-- A parity error is a machine check at the first bundle that reads the register; what the register holds from then on is the
free value that it took with the error (R357). -/
def Ctx.reported (c : Ctx) (t : TrapRec) : Ctx :=
  if t.cause = causeMachineCheck then
    { c with flow := { c.flow with parity := c.flow.parity.filter fun r => parityInfo r != t.info } }
  else c

/-- A precise trap of the bundle at a context's PC (R52, R358), or a double fault in privileged mode (R359). -/
def State.trapBundle (s : State) (x : Nat) (t : TrapRec) : State :=
  let c := s.ctxAt x
  let s := s.abandon x
  if c.priv then
    (s.modCtxAt x fun c => { c with phase := .retiring, failCause := some 0x05 }).errorLog x 8 c.csr.gen.toNat
      (doubleFaultDetail t.cause c.pc)
  else
    (s.modCtxAt x fun c => (c.reported t).trapped s.now c.pc t.slot t.cause t.info).modCore (coreOf x) fun c =>
      { c with gapUntil := s.now + 2, yielded := false }

/-! ### The end of the cycle (R84, R85) -/

/-- Apply one result; `start` are the context's registers at the start of the cycle. -/
def State.applyWrite (s : State) (x : Nat) (start : Regs) (p : Pending) : State :=
  let regs (f : Regs → Regs) : State := s.modCtxAt x fun c => { c with r := f c.r }
  match p.w with
  | .s n v => regs fun r => r.setS n v
  | .v n m v => regs fun r => r.setV n (mergeV m (r.getV n) v)
  | .k n v => regs fun r => r.setK n v
  | .c n v => regs fun r => r.setC n v
  | .b n v => regs fun r => r.setB n v
  | .g n e v => regs fun r => r.setG n ((r.getG n).setField e.toNat v)
  | .h n v => regs fun r => r.setH n v
  | .cbt n v => regs fun r => if n = 0 then { r with cbt0 := v } else { r with cbt1 := v }
  | .sb v => regs fun r => { r with sb := v }
  | .csr n v => s.writeCsr x p.stamp n.toNat v
  | .role f n v => s.takeRoles (coreOf x) f n v
  | .img a xs => (s.modCore (coreOf x) fun c => c.locWriteBytes a xs).cureLoc (coreOf x) a xs.length
  | .leave k => (s.modCtxAt x fun c => { c with priv := false, flow := { c.flow with skip := k } }).leaveResume x
  | .quant t d b v m mode sat key ctr slot pc logs =>
    let (vd, vb, evs) := quantBlock t v m mode sat key ctr start.sb (start.getV d) (start.getV b)
    s.modCtxAt x fun c =>
      { c with
        r := (c.r.setV d vd).setV b vb
        log := if logs then c.log.record p.stamp pc (evs.map fun e => ⟨slot, e.1.code, e.2⟩) else c.log }

/-- What a result has written, as writes that a landing of the same cycle is followed by (R85): a `vquant`'s two registers as they
stand. -/
def RegWrite.settled (r : Regs) (w : RegWrite) : List RegWrite :=
  match w with
  | .quant _ vd vb _ _ _ _ _ _ _ _ _ => [.v vd (BitVec.allOnes 32) (r.getV vd), .v vb (BitVec.allOnes 32) (r.getV vb)]
  | w => [w]

/-- Apply the results of a context that are due, in the order of issue, those of one bundle in the order of its slots: where a `csr.wr` and a
`round.pin` or `bank.role` of one bundle write PIN_ROUND or BANK_ROLE, the higher slot's write stands. DESIGN CHOICE, log entries 84
and 104. -/
def State.applyDue (s : State) (start : State) (x : Nat) : State :=
  let f := (s.ctxAt x).flow
  let due := f.pending.filter fun p => decide (p.due ≤ s.now)
  let s := due.foldl (fun s p => s.applyWrite x (start.ctxAt x).r p) s
  if due.isEmpty ∧ f.recent.isEmpty then s
  else s.modCtxAt x fun c =>
    { c with flow := { c.flow.mended (due.map (·.w)) with
        pending := c.flow.pending.filter fun p => !decide (p.due ≤ s.now)
        recent := due.flatMap fun p => (p.w.settled c.r).map fun w => { p with w := w } } }

/-- The contexts of a core. -/
def ctxsOf (core : Nat) : List Nat := (upTo 4).map (4 * core + ·)

/-- The landings of a slot performed ahead of its bundle count from the bundle's issue (R86): they are due a cycle later with each cycle
that it still holds. -/
def State.shiftAhead (s : State) (x : Nat) : State :=
  let f := (s.ctxAt x).flow
  if f.landings.any fun l => l.stamp == f.stamp then
    s.modCtxAt x fun c => { c with flow := { c.flow with
      landings := c.flow.landings.map fun l => if l.stamp = f.stamp then { l with due := l.due + 1 } else l } }
  else s

/-- The end of a core's cycle: results, then the steps that follow for retiring and parking contexts (R92, R364). -/
def State.endCycle (s : State) (start : State) (core : Nat) : State :=
  (ctxsOf core).foldl (fun s x =>
    let s := (s.applyDue start x).shiftAhead x
    match (s.ctxAt x).phase with
    | .retiring => s.soon { i := .contextFree, a := x }
    | .parking => s.soon { i := .parkComplete, a := x }
    | _ => s) s

/-! ### A delta processor's turn (R313, R318) -/

/-- The data, scalar and mask registers that a delta instruction reads, numbered as `Run.parity` numbers them. -/
def deltaReads (i : Instr) : List Nat :=
  let d (x : BitVec 5) : Nat := x.toNat
  let e (x : BitVec 4) : Nat := 32 + x.toNat
  let q (x : BitVec 2) : Nat := 48 + x.toNat
  let dr (f : DrFields) : List Nat := [d f.da, d f.db, d f.dc, q f.q, e f.ei]
  match i with
  | .dadd _ f | .dsub _ f | .dmul _ f | .dfma _ f | .dmin _ f | .dmax _ f | .dabs _ f | .dneg _ f | .drcp _ f | .drsqrt _ f
  | .dsqrt _ f | .dsel _ f | .dsum _ f | .dsq _ f => dr f
  | .drng _ f | .dbcast _ f => [q f.q, e f.ei]
  | .dcmp _ _ a b _ m _ => [d a, d b, q m]
  | .dcvtTo _ _ a _ _ _ _ ei | .dcvtFrom _ _ a _ _ _ _ ei => [d a, e ei]
  | .eadd _ _ a b _ _ | .emul _ _ a b _ _ | .ebr _ a b _ _ => [e a, e b]
  | .eloop _ a _ | .eld _ _ a => [e a]
  | .dld _ _ a b _ | .dldb _ _ a b _ | .dlock _ a b _ | .dunlock _ a b _ | .dpub _ a b | .dsig _ a b _ | .dsigSt _ a b _ =>
    [e a, e b]
  | .dst _ x a b _ | .dpush _ x a b _ | .dpushAcc _ x a b _ => [d x, e a, e b]
  | _ => []

/-- The wait count of the word at a run's PC (R316). -/
def Run.wait (r : Run) : Nat := (Store.get 0 r.program r.pc).toNat / 2 ^ 50 % 64

/-- The lowest-numbered stack whose run has an instruction to issue now: no `dsig` of its own waits, and its cycle has come. -/
def State.deltaDue (s : State) : Option Nat :=
  (upTo 16).find? fun k => match s.runOf k with
    | some r => r.phase == .running && !r.signalling && decide (r.origin + r.issueAt r.wait ≤ deltaNow s.now)
    | none => false

/-- Issue the next instruction of a stack's run, or stop the run (R313): a lost push, a word index past the program, an illegal
word, a register-file parity error. -/
def State.deltaTurn (s : State) (k : Nat) : Out :=
  match s.runOf k with
  | none => .next s
  | some r =>
    if r.pushLost then .next (s.stopRun k runPush r.last)
    else if r.words ≤ r.pc then .next (s.stopRun k runCode r.pc)
    else match decodeDelta (Store.get 0 r.program r.pc).toNat with
      | .error _ => .next (s.stopRun k runIllegal r.pc)
      | .ok i =>
        if (deltaReads i).any fun x => r.parity.contains x then .next (s.stopRun k runData r.pc)
        else exec i { s with cur := { stack := k } }

/-! ### The core's turn (R80, R360) -/

/-- Whether an asynchronous cause is pending (R360). -/
def Ctx.asyncPending (c : Ctx) : Bool := c.flow.copyError.isSome || c.flow.remoteError.isSome || c.flow.preempt.isSome

/-- Whether a context counts as ready (R80, R52). -/
def Trial.isReady : Trial → Bool
  | .ready _ => true
  | .trapped _ => true
  | .stop _ => true
  | .held k => !k.heldMore
  | .none => false

/-- Contexts of the core that take an asynchronous cause at this boundary (R360). -/
def State.asyncTakers (s : State) (ts : List (Nat × Trial)) : List Nat :=
  (ts.filter fun t =>
    let c := s.ctxAt t.1
    c.asyncPending && c.phase == .active && !c.priv && decide (c.flow.earliest ≤ s.now) &&
      (match t.2 with
       | .trapped _ => false
       | _ => true)).map (·.1)

/-- The highest LEVEL among the ready contexts (R80). -/
def State.topLevel (s : State) (ready : List Nat) : Nat := ready.foldl (fun m x => max m (s.ctxAt x).csr.level.toNat) 0

/-- Whether the running context may issue in this cycle (R80). -/
def State.keepsSlot (s : State) (core : Nat) (ready : List Nat) : Bool :=
  let c := s.core core
  let x := 4 * core + c.running
  c.granted && ready.contains x && decide ((s.ctxAt x).csr.level.toNat = s.topLevel ready) && !c.yielded

/-- Take the asynchronous causes, one context after the other. -/
def takeAsyncs : State → List Nat → Out
  | s, [] => .next s
  | s, x :: xs =>
    match exec .asyncTrap { s with arg := { i := .asyncTrap, a := x } } with
    | .next s => takeAsyncs s xs
    | o => o

def State.trials (s : State) (core : Nat) : List (Nat × Trial) := (ctxsOf core).map fun x => (x, s.trial x)

/-- A bundle that does not hold is none that lets its core be gated (R226). -/
def State.awaken (s : State) (x : Nat) : State :=
  if (s.ctxAt x).flow.quiet then s.modCtxAt x fun c => { c with flow := { c.flow with quiet := false } } else s

/-- Count the holds of the cycle and hand over the requests of the held bundles; a bundle that no longer waits for DRAM alone gives up its
place there. -/
def State.noteAll (s : State) (core : Nat) (ts : List (Nat × Trial)) : State :=
  ts.foldl (fun s t => match t.2 with
    | .none => s
    | .held k => (if k.heldElse then s.dramLeave (.ctx t.1) else s).noteHeld t.1 (t.1 == 4 * core + (s.core core).running) k
    | _ => (s.dramLeave (.ctx t.1)).awaken t.1) s

/-- The issue slot of a cycle: the running context issues, or traps, or the cycle is a switch (R80). -/
def State.choose (s : State) (core : Nat) (ts : List (Nat × Trial)) : Out :=
  let ready := (ts.filter (·.2.isReady)).map (·.1)
  if s.keepsSlot core ready then
    let x := 4 * core + (s.core core).running
    match ts.find? fun t => t.1 == x with
    | some (_, .ready s') => .next (s'.issue x)
    | some (_, .trapped t) => .next (s.trapBundle x t)
    | some (_, .stop o) => o
    | _ => .next s
  else
    exec .switch { s with
      arg := { i := .switch, a := core, c := (ready.map fun x => 2 ^ (x % 4)).sum } }

/-- Prologues that have ended: their contexts are ACTIVE, their flags zero (R79, R217). -/
def State.endPrologues (s : State) (core : Nat) : State :=
  (ctxsOf core).foldl (fun s x =>
    let c := s.ctxAt x
    if c.phase = .prologue ∧ c.flow.earliest ≤ s.now ∧ (s.core core).changing.all (fun y => decide (y.stable < s.now)) then 
      s.setCtxAt x { c with phase := .active, r := { c.r with f := 0 }, flow := { c.flow with flagSig := [] } }
    else s) s

/-- One cycle of a core. -/
def State.turn (s : State) (core : Nat) : Out :=
  let s := s.endPrologues core
  let ts := s.trials core
  let takers := s.asyncTakers ts
  match takeAsyncs s takers with
  | .next s1 =>
    let ts := if takers.isEmpty then ts else s1.trials core
    if s.now < (s.core core).gapUntil ∨ ((s.core core).granted ∧ takers.contains (4 * core + (s.core core).running)) then
      .next ((s1.noteAll core ts).endCycle s core)
    else
      match s1.choose core ts with
      | .next s2 => .next ((s2.noteAll core ts).endCycle s core)
      | o => o
  | o => o

end Sys2Proof.Machine
end

