-- ==== Sys2Proof/Machine/Step.lean ====
section
/-!
DEFINITION. One step of the module: a core's turn, a step of another agent, a delta instruction, or the clock.
-/
namespace Sys2Proof.Machine

/-- Cores that run something: some context is not FREE. -/
def State.liveCores (s : State) : List Nat :=
  ((s.ctxs.filter fun e => e.2.phase != .free).map fun e => coreOf e.1).eraseDups

/-- The end of a cycle: ring positions, the banks' requests, the walker's marks and queued writes settle. -/
def State.settle (s : State) : State := s.settleRings.settleBanks.settleWalker.settleDram

/-- The next cycle: what the last one leaves settles, the cycle count advances, and the steps that this opens and
those that fall due are taken first. -/
def State.tick (s : State) : State :=
  let s := s.settle
  let now := s.now + 1
  { s with
    now := now
    ran := false
    agenda := s.agenda ++ (s.timers.filter fun t => decide (t.1 ≤ now)).map (·.2)
    timers := s.timers.filter fun t => !decide (t.1 ≤ now) }

/-- The turn of the next core, else the next step that waits, else a delta instruction that is due, else the cycle's turns, else
the clock. DESIGN CHOICE: the order, log entry 9. -/
def State.act (s : State) : Out :=
  match s.order with
  | core :: rest => { s with order := rest }.turn core
  | [] =>
    match s.agenda with
    | e :: rest => exec e.i { s with agenda := rest, arg := e }
    | [] =>
      match s.deltaDue with
      | some k => s.deltaTurn k
      | none => if s.ran then .next s.tick else .next { s with order := s.liveCores, ran := true }

/-- An outcome whose state records a write where nothing is (R177) is a fault. -/
def stopOnBad (o : Out) : Out :=
  match o with
  | .next s => if s.badAccess then .fault .reservedAddress else .next s
  | o => o

/-- One step of the machine. -/
def step (s : State) : Host.Outcome State Fault Refusal := stopOnBad s.act

/-! ### Placing one instruction (the form the host asks for) -/

/-- The four slot words around one slot word: a `br.tree` stands in slot 3 of a TREE bundle and a TREE header has one, as R50
and R61 require; every other slot is `nop`. -/
def bundleFor (w : Nat) : List Nat :=
  if majorOf w = 4 then [58 * 2 ^ 26, 0, 0, w]
  else if majorOf w = 58 then [w, 0, 0, 4 * 2 ^ 26]
  else [w, 0, 0, 0]

/-- The line of 128 bytes whose first 16 are the bundle. -/
def bundleLine (ws : List Nat) : VWord :=
  BitVec.ofNat 1024 (slotOf ws 0 + slotOf ws 1 * 2 ^ 32 + slotOf ws 2 * 2 ^ 64 + slotOf ws 3 * 2 ^ 96)

/-- A context that a launch has started in user mode, with its PC at 0. -/
def placedCtx : Ctx := { phase := .active, csr := { codeLimit := 0x01FFFFFFFFFFFFFF#64 } }

/-- Core 0 with its issue slot given to context 0, page 0 in its TLB (readable, writable, executable, user) and the bundle's
line in its instruction cache. -/
def placedCore (w : Nat) : CoreSt :=
  { running := 0, granted := true, tlb := [⟨0, 1, 0x1F⟩], icache := [(0, some (bundleLine (bundleFor w)))] }

/-- A run of a node's program whose next word is `w`. -/
def placedRun (w : Nat) : Run :=
  { req := { header := 0, node := none }, phase := .running, words := 512, program := Store.set 0 [] 0 (BitVec.ofNat 64 w) }

/-- `s` with one instruction placed where the next step fetches: a slot word in a bundle of context 0 of core 0, whose turn
comes next; a 64-bit word in the program store of a run of stack 0, late enough for its WAIT field. -/
def State.withFetchWord (s : State) (nbits w : Nat) : State :=
  if nbits ≤ 32 then
    { (s.setCtxAt 0 placedCtx).modCore 0 (fun _ => placedCore (w % 2 ^ 32)) with order := [0], ran := true }
  else
    { s.modStack 0 (fun x => { x with delta := { run := some (placedRun (w % 2 ^ 64)) } }) with
      order := [], agenda := [], now := s.now + 100 }

end Sys2Proof.Machine
end

