-- ==== Sys2Proof/Safety.lean ====
section
/-!
DEFINITION. What counts as a safe state and a safe run, in the terms the statements use.
-/
namespace Sys2Proof

open Sys2Proof.Machine

/-- The memory of a state stands in its canonical form: the module's cells, and what it has written outside (R177). -/
def MemoryOk (s : State) : Prop := Memory.wf s.mem = true ∧ Store.wf none s.outside = true

/-- No engine has written where the memory map places nothing for it. -/
def AccessOk (s : State) : Prop := s.badAccess = false

/-- A state that a claim about runs may start from. -/
def Safe (s : State) : Prop := MemoryOk s ∧ AccessOk s

/-- A run of `n` steps from `s` that neither faults nor is refused, every state of which is safe. -/
def SafeRun : Nat → State → Prop
  | 0, s => Safe s
  | n + 1, s => Safe s ∧ ∃ t, step s = .next t ∧ SafeRun n t

end Sys2Proof
end

