-- ==== Sys2Proof/Certificates/Slice0/Obligations.lean ====
section
/-!
DEFINITION. The statements about the model. Each says in its docstring which rules of spec/ it formalises. The names under
`Sys2Proof.Claims` are the vocabulary the statements share.
-/

namespace Sys2Proof.Claims

open Sys2Proof.Machine

/-- The answers of a meaning. -/
abbrev Out := Host.Outcome State Fault Refusal

/-- An instruction as the decoder can answer it: `rsscat` and `rsscat.close` share one word (R305), read as `rsscat`. -/
def asDecoded : Instr → Instr
  | .rsscatClose v a c k l => .rsscat v a c k l
  | i => i

/-- The state in which slot `n`, holding word `w`, is tried. -/
def atSlot (s : State) (n w : Nat) : State := s.modCur fun c => { c with slot := n, word := w, poison := none, far := false }

/-- Operation `i` in slot `n` with word `w` is one that is to be run: decoded, not skipped (R369), committed (R60), and reading
no register whose parity is in error (R357). -/
def RunsIn (s : State) (n w : Nat) (i : Instr) : Prop :=
  s.ctx.flow.skip.getLsbD n = false ∧ decodeSlot w = .ok i ∧ (atSlot s n w).cur.commits = true ∧
    ∀ r ∈ s.ctx.flow.parity, (readsOf ((atSlot s n w).refine i)).contains r = false

/-- The slots from `n` on with words `ws` each run their own decoded operation, one after the other, without a trap, and lead
from `s` to `t`. -/
def SlotsRun : State → Nat → List Nat → State → Prop
  | s, _, [], t => t = s
  | s, n, w :: ws, t => ∃ i u, RunsIn s n w i ∧ exec ((atSlot s n w).refine i) (atSlot s n w) = .next u ∧
      u.cur.trap = none ∧ SlotsRun u (n + 1) ws t

/-- The state of a core's cycle in which the bundle of context `x` is tried. -/
def trying (s : State) (x : Nat) : State := s.trying x

/-- That state after the acquire of the signatures `g` that the flags which the bundle passes carry, which comes before every access of
the bundle (R212, R218). -/
def acquired (s : State) (x : Nat) (g : Sig) : State :=
  ((s.trying x).acquire (coreOf x) 4 g).modCur fun k => { k with acquired := true }

/-- No part of an access at levels `level` waits: an SO access has no earlier one before it that is not performed (R199), no line of it is
leaving the cache (R172), nothing that it reads or writes at memory has a dirty copy whose write-back queues there, and no piece queues
at DRAM that a run claims (R315). -/
structure NoWaitAt (s : State) (level : Piece → Nat) (l : List Piece) : Prop where
  so : (l.any fun p => leafOrd p.leaf == 0) = true → s.owesSo s.cur.ctx = false
  leaving : (l.any fun p => s.lineLeaving s.coreId p.pa p.n) = false
  copies : s.copiesLate (piecesSig (l.filter fun p => level p == 2)) = false
  queues : l.find? (s.pieceQueues level) = none

/-- The same at the levels that the pieces' pages have. -/
abbrev NoWait (s : State) (l : List Piece) : Prop := NoWaitAt s Piece.level l

/-- The state once the DRAM sequencers have served an access: its segments occupy claimed pseudo-channels (R333). -/
def servedAt (s : State) (level : Piece → Nat) (l : List Piece) : State :=
  (l.filter fun p => !s.cachedAt (level p) p).foldl (fun s p => s.dramTake p.pa p.n) s

abbrev served (s : State) (l : List Piece) : State := servedAt s Piece.level l

/-- The engine or the memory side has answered the slot's request with `x` (R52). -/
def Replied (s : State) (x : Nat) : Prop := Store.get (.requested 0) s.ctx.flow.waits s.cur.slot = .replied x

/-- Core `core` is the next to take its turn, its context `x` holds the issue slot and is the only one that runs, and the
bundle `ws` stands at its PC. -/
structure OneBundle (s : State) (core x : Nat) (ws : List Nat) : Prop where
  slot : x = 4 * core + (s.core core).running
  small : (s.core core).running < 4
  others : ∀ y ∈ ctxsOf core, (s.ctxAt y).phase ≠ .prologue ∧ (y ≠ x → (s.ctxAt y).phase ≠ .active)
  active : (s.ctxAt x).phase = .active
  inTime : (s.ctxAt x).flow.earliest ≤ s.now ∧ (s.core core).gapUntil ≤ s.now
  landed : ∀ l ∈ (s.ctxAt x).flow.landings, s.now < l.due
  clean : (s.ctxAt x).flow.poisoned = none
  quiet : (s.ctxAt x).asyncPending = false
  granted : (s.core core).granted = true ∧ (s.core core).yielded = false
  fetched : s.fetch x = .words ws
  legal : illegalBundle ws = none

/-- The order of the sub-steps of one cycle has come to core `core`. -/
def turnOf (s : State) (rest : List Nat) : State := { s with order := rest }

end Sys2Proof.Claims


open Sys2Proof Sys2Proof.Machine Sys2Proof.Claims

/-! ### Encodings -/

/-- R45, R63 to R67, R115, R118, R119, R121, R122, R123, R131, R146: words that the spec writes out stand for the instructions
it writes beside them. -/
def Obligations.SpecWordsDecode : Prop :=
  decodeSlot 0x14108300 = .ok (.add 1 2 3) ∧ decodeSlot 0x141083F3 = .ok (.sel 1 2 3 3) ∧
  decodeSlot 0x14100319 = .ok (.cset 1 3) ∧ decodeSlot 0x14414605 = .ok (.div 4 5 6) ∧
  decodeSlot 0x18927FFF = .ok (.addi 9 9 0x3FFF) ∧ decodeSlot 0x1C515ABC = .ok (.ori 5 5 0xABC) ∧
  decodeSlot 0x2C5C0123 = .ok (.lih 5 3 0x0123) ∧ decodeSlot 0x30108313 = .ok (.fsh 1 2 3 4) ∧
  decodeSlot 0x20498310 = .ok (.cmp 1 2 6 3 4) ∧ decodeSlot 0x34501000 = .ok (.csrRd 5 0x010) ∧
  decodeSlot 0x34501001 = .ok (.csrWrFpctl 5) ∧ decodeSlot 0 = .ok .nop

/-- R45, R50, R63 to R67, R316: every operand of every well-formed instruction with an encoding comes back from its own words. -/
def Obligations.DecodeOfEncode : Prop :=
  ∀ (i : Instr) (n w : Nat), i.wf = true → encode i = some (n, w) → decodeTableWord n w = some (asDecoded i)

/-- R45, R53, R63 to R67, R316: a word has one meaning only, and no bit of it is left unread: what it decodes to encodes to it. -/
def Obligations.EncodeOfDecode : Prop :=
  (∀ (w : Nat) (i : Instr), w < 2 ^ 32 → decodeSlot w = .ok i → encode i = some (32, w)) ∧
  (∀ (w : Nat) (i : Instr), w < 2 ^ 64 → decodeDelta w = .ok i → encode i = some (64, w))

/-! ### A step runs the decoded instruction -/

/-- R45, R46, R80, R83, R89, R90, R186, R212: the bundle that a step of a core issues is the 16 bytes at the PC, as a version window
rewrites it, and its four operations run in slot order with their own meanings, after the acquire of the flags that the bundle passes; the
step adds what issuing does and the writes at the end of the cycle.

R52, R357, R358: the operations below the trapping slot run, the slot's own meaning finds a precise cause and no lower slot waits:
the step is the trap entry on the state before the bundle, of which nothing else takes effect. -/
def Obligations.StepTakesABundle : Prop :=
  ((∀ (s : State) (x pa leaf : Nat) (l : VWord),
    (s.ctxAt x).priv = false → (s.ctxAt x).pc.toNat < (s.ctxAt x).csr.codeLimit.toNat →
    s.translate x (s.versionRewrite x (s.ctxAt x).pc.toNat) (s.ctxAt x).pc.toNat { kind := .fetch } false = .ok pa leaf →
    Store.get none (s.core (coreOf x)).icache (pa / 128) = some l →
    s.fetch x = .words ((upTo 4).map fun n => (l >>> (8 * (pa % 128) + 32 * n)).toNat % 2 ^ 32)) ∧
  (∀ (s t : State) (core x : Nat) (rest ws : List Nat),
    OneBundle (turnOf s rest) core x ws → s.order = core :: rest →
    SlotsRun (trying (turnOf s rest) x) 0 ws t → t.cur.held = false → ((turnOf s rest).ctxAt x).flagSigs t.cur.passed = 0 →
    step s = stopOnBad (.next ((t.issue x).endCycle (turnOf s rest) core))) ∧
  (∀ (s t u : State) (core x : Nat) (rest ws : List Nat) (g : Sig),
    OneBundle (turnOf s rest) core x ws → s.order = core :: rest →
    SlotsRun (trying (turnOf s rest) x) 0 ws t → t.cur.held = false → ((turnOf s rest).ctxAt x).flagSigs t.cur.passed = g → g ≠ 0 →
    SlotsRun (acquired (turnOf s rest) x g) 0 ws u → u.cur.held = false →
    step s = stopOnBad (.next ((u.issue x).endCycle (turnOf s rest) core)))) ∧
  (∀ (s t u : State) (core x n : Nat) (rest done ws : List Nat) (w : Nat) (i : Instr) (r : TrapRec),
    OneBundle (turnOf s rest) core x (done ++ w :: ws) → s.order = core :: rest →
    SlotsRun (trying (turnOf s rest) x) 0 done t → n = done.length → RunsIn t n w i → t.cur.waiting = false →
    exec ((atSlot t n w).refine i) (atSlot t n w) = .next u → u.cur.trap = some r →
    step s = stopOnBad (.next (((turnOf s rest).trapBundle x r).endCycle (turnOf s rest) core)))

/-- R313, R316: when no core's turn and no other step is waiting, the next instruction of a stack's run that is due is the word at the
run's PC, and the step is its meaning on that stack.

The steps of the other agents (engines, walker, host, peers): the next one in the agenda is taken with its own meaning; with
nothing left to do in a cycle the clock advances by one cycle, after what settles at its end (R84, R100, R237, R315); where no mark has been
sent, no access queues at DRAM and no request waits at a bank, that leaves contexts and memory as they are. A write where the memory map places nothing (R177) stops
the machine: that stop is the model's own (log entry 10). -/
def Obligations.StepTakesOtherSteps : Prop :=
  (∀ (s : State) (k : Nat) (r : Run) (i : Instr),
    s.order = [] → s.agenda = [] → s.deltaDue = some k → s.runOf k = some r → r.pushLost = false → r.pc < r.words →
    decodeDelta (Store.get 0 r.program r.pc).toNat = .ok i →
    (∀ x ∈ deltaReads i, x ∉ r.parity) →
    step s = stopOnBad (exec i { s with cur := { stack := k } })) ∧
  ((∀ (s : State) (e : Event) (rest : List Event), s.order = [] → s.agenda = e :: rest →
    step s = stopOnBad (exec e.i { s with agenda := rest, arg := e })) ∧
  (∀ s : State, s.order = [] → s.agenda = [] → s.deltaDue = none → s.ran = true → s.settle.badAccess = false →
    ∃ t, step s = .next t ∧ t.now = s.settle.now + 1 ∧ t.ctxs = s.settle.ctxs ∧ t.cores = s.settle.cores ∧ t.mem = s.settle.mem ∧
      t.agenda = (s.settle.timers.filter fun x => decide (x.1 ≤ s.settle.now + 1)).map (·.2)) ∧
  (∀ s : State, s.order = [] → s.agenda = [] → s.deltaDue = none → s.ran = true → s.badAccess = false → s.walker.sent = [] →
    s.dramQueue = [] → (∀ e ∈ s.cores, e.2.bankReqs = []) →
    ∃ t, step s = .next t ∧ t.now = s.now + 1 ∧ t.ctxs = s.ctxs ∧ t.mem = s.mem ∧ t.wild = s.wild ∧ t.outside = s.outside ∧
      t.agenda = (s.timers.filter fun x => decide (x.1 ≤ s.now + 1)).map (·.2)) ∧
  (∀ s t : State, s.act = .next t → (step s = .next t ↔ t.badAccess = false)))

/-! ### Scalar operations -/

/-- R111, R113, R114, R115: sums, differences and the halves of products, modulo 2^64, with their latencies; an operation of these
forms takes no lent bits (R58). Nothing but the queued result changes.

R113, R114, R117: quotients truncate toward zero, remainders take the dividend's sign; division by zero gives all ones and
the dividend and records DIVZERO at lane 0 of the slot, unless the context is privileged (R359). -/
def Obligations.ScalarArithmetic : Prop :=
  (∀ (s : State) (d a b : BitVec 6), s.lent = 0 →
    exec (.add d a b) s = .next (s.wS 1 d (s.rS a + s.rS b)) ∧
    exec (.sub d a b) s = .next (s.wS 1 d (s.rS a - s.rS b)) ∧
    exec (.mul d a b) s = .next (s.wS 4 d (s.rS a * s.rS b)) ∧
    (∃ x : Word, exec (.mulh d a b) s = .next (s.wS 4 d x) ∧
      (s.rS a).toInt * (s.rS b).toInt = x.toInt * 2 ^ 64 + (s.rS a * s.rS b).toNat) ∧
    (∃ x : Word, exec (.mulhn d a b) s = .next (s.wS 4 d x) ∧
      (s.rS a).toNat * (s.rS b).toNat = x.toNat * 2 ^ 64 + (s.rS a * s.rS b).toNat)) ∧
  (∀ (s : State) (d a b : BitVec 6), s.lent = 0 →
    (s.rS b ≠ 0 →
      exec (.div d a b) s = .next (s.wS 18 d ((s.rS a).sdiv (s.rS b))) ∧
      exec (.divn d a b) s = .next (s.wS 18 d (s.rS a / s.rS b)) ∧
      exec (.rem d a b) s = .next (s.wS 18 d ((s.rS a).srem (s.rS b))) ∧
      exec (.remn d a b) s = .next (s.wS 18 d (s.rS a % s.rS b))) ∧
    (s.rS b = 0 → ∃ u : State,
      u = (if s.ctx.priv then s else { s with cur := { s.cur with evs := s.cur.evs ++ [⟨s.cur.slot, 2, 0⟩] } }) ∧
      exec (.div d a b) s = .next (u.wS 18 d (BitVec.allOnes 64)) ∧
      exec (.divn d a b) s = .next (u.wS 18 d (BitVec.allOnes 64)) ∧
      exec (.rem d a b) s = .next (u.wS 18 d (s.rS a)) ∧ exec (.remn d a b) s = .next (u.wS 18 d (s.rS a))))

/-- R113, R115: bitwise operations, minima and maxima in both readings, and the selections by a condition bit.

R113, R115, R116: shifts by the whole 64-bit amount, rotation modulo 64, and the counts of leading zeros, trailing zeros and
ones, said bit by bit. -/
def Obligations.ScalarLogicAndShifts : Prop :=
  (∀ (s : State) (d a b : BitVec 6) (n : BitVec 4), s.lent = 0 →
    exec (.and d a b) s = .next (s.wS 1 d (s.rS a &&& s.rS b)) ∧
    exec (.or d a b) s = .next (s.wS 1 d (s.rS a ||| s.rS b)) ∧
    exec (.xor d a b) s = .next (s.wS 1 d (s.rS a ^^^ s.rS b)) ∧
    exec (.andn d a b) s = .next (s.wS 1 d (s.rS a &&& ~~~s.rS b)) ∧
    exec (.min d a b) s = .next (s.wS 1 d (if (s.rS a).slt (s.rS b) then s.rS a else s.rS b)) ∧
    exec (.max d a b) s = .next (s.wS 1 d (if (s.rS a).slt (s.rS b) then s.rS b else s.rS a)) ∧
    exec (.minn d a b) s = .next (s.wS 1 d (if s.rS a < s.rS b then s.rS a else s.rS b)) ∧
    exec (.maxn d a b) s = .next (s.wS 1 d (if s.rS a < s.rS b then s.rS b else s.rS a)) ∧
    exec (.mov d a) s = .next (s.wS 1 d (s.rS a)) ∧
    exec (.cset d n) s = .next (s.wS 1 d ((BitVec.ofBool (s.rC n)).setWidth 64)) ∧
    exec (.sel d a b n) s = .next (s.wS 1 d (if s.rC n then s.rS a else s.rS b))) ∧
  (∀ (s : State) (d a b : BitVec 6), s.lent = 0 →
    (∃ x : Word, exec (.shl d a b) s = .next (s.wS 1 d x) ∧
      ∀ i < 64, x.getLsbD i = (decide ((s.rS b).toNat ≤ i) && (s.rS a).getLsbD (i - (s.rS b).toNat))) ∧
    (∃ x : Word, exec (.shr d a b) s = .next (s.wS 1 d x) ∧ ∀ i < 64, x.getLsbD i = (s.rS a).getLsbD (i + (s.rS b).toNat)) ∧
    (∃ x : Word, exec (.sra d a b) s = .next (s.wS 1 d x) ∧
      ∀ i < 64, x.getLsbD i = (s.rS a).getLsbD (min (i + (s.rS b).toNat) 63)) ∧
    (∃ x : Word, exec (.rotl d a b) s = .next (s.wS 1 d x) ∧
      ∀ i < 64, x.getLsbD ((i + (s.rS b).toNat) % 64) = (s.rS a).getLsbD i) ∧
    (∃ n : Nat, exec (.clz d a) s = .next (s.wS 1 d (BitVec.ofNat 64 n)) ∧ n ≤ 64 ∧
      (∀ i < n, (s.rS a).getLsbD (63 - i) = false) ∧ (n < 64 → (s.rS a).getLsbD (63 - n) = true)) ∧
    (∃ n : Nat, exec (.ctz d a) s = .next (s.wS 1 d (BitVec.ofNat 64 n)) ∧ n ≤ 64 ∧
      (∀ i < n, (s.rS a).getLsbD i = false) ∧ (n < 64 → (s.rS a).getLsbD n = true)) ∧
    exec (.popc d a) s =
      .next (s.wS 1 d (BitVec.ofNat 64 ((List.range 64).countP fun i => (s.rS a).getLsbD i))))

/-- R57, R58, R118, R119: immediates under the lent bits. Signed immediates of the addition forms extend the field by the lent bits
above it, logical ones are zero-extended; `lih` replaces one quarter of the register and takes no lent bits.

R120, R121: bit fields of length `l + 1` from position `p`, and the 64-bit window of a register pair, said bit by bit. -/
def Obligations.ImmediatesAndBitFields : Prop :=
  (∀ (s : State) (d a : BitVec 6) (i14 : BitVec 14) (i12 : BitVec 12) (i20 : BitVec 20) (q : BitVec 2) (i16 : BitVec 16)
    (w : Nat), w = s.lentWidth → s.lent < 2 ^ w →
    exec (.addi d a i14) s = .next (s.wS 1 d (s.rS a + (BitVec.ofNat (14 + w) (s.lent * 2 ^ 14 + i14.toNat)).signExtend 64)) ∧
    exec (.andi d a i12) s = .next (s.wS 1 d (s.rS a &&& BitVec.ofNat 64 (s.lent * 2 ^ 12 + i12.toNat))) ∧
    exec (.ori d a i12) s = .next (s.wS 1 d (s.rS a ||| BitVec.ofNat 64 (s.lent * 2 ^ 12 + i12.toNat))) ∧
    exec (.xori d a i12) s = .next (s.wS 1 d (s.rS a ^^^ BitVec.ofNat 64 (s.lent * 2 ^ 12 + i12.toNat))) ∧
    exec (.li d i20) s = .next (s.wS 1 d ((BitVec.ofNat (20 + w) (s.lent * 2 ^ 20 + i20.toNat)).signExtend 64)) ∧
    (s.lent = 0 → ∃ x : Word, exec (.lih d q i16) s = .next (s.wS 1 d x) ∧
      ∀ i < 64, x.getLsbD i = if i / 16 = q.toNat then i16.getLsbD (i % 16) else (s.rS d).getLsbD i)) ∧
  (∀ (s : State) (d a b c p l : BitVec 6), s.lent = 0 → p.toNat + l.toNat < 64 →
    (∃ x : Word, exec (.extr d a p l) s = .next (s.wS 1 d x) ∧
      ∀ i < 64, x.getLsbD i = (decide (i ≤ l.toNat) && (s.rS a).getLsbD (p.toNat + i))) ∧
    (∃ x : Word, exec (.extrs d a p l) s = .next (s.wS 1 d x) ∧
      ∀ i < 64, x.getLsbD i = (s.rS a).getLsbD (p.toNat + min i l.toNat)) ∧
    (∃ x : Word, exec (.ins d a p l) s = .next (s.wS 1 d x) ∧
      ∀ i < 64, x.getLsbD i = if p.toNat ≤ i ∧ i ≤ p.toNat + l.toNat then (s.rS a).getLsbD (i - p.toNat)
        else (s.rS d).getLsbD i) ∧
    (∃ x : Word, exec (.fsh d a b c) s = .next (s.wS 1 d x) ∧
      ∀ i < 64, x.getLsbD i =
        if i + (s.rS c).toNat % 64 < 64 then (s.rS b).getLsbD (i + (s.rS c).toNat % 64)
        else (s.rS a).getLsbD (i + (s.rS c).toNat % 64 - 64)))

namespace Sys2Proof.Claims

/-- The integer condition codes of R68 on two 64-bit values (R122). -/
def scalarCond (c : Nat) (a b : Word) : Bool :=
  match c with
  | 0 => a == b | 1 => a != b
  | 2 => a.slt b | 3 => !a.slt b | 4 => !b.slt a | 5 => b.slt a
  | 6 => a.ult b | 7 => !a.ult b | 8 => !b.ult a | 9 => b.ult a
  | 10 => a &&& b != 0 | _ => a &&& b == 0

end Sys2Proof.Claims

/-- R68, R112, R113, R122: a compare queues its condition for one condition bit and the complement for the other; the immediate is
sign-extended under the lent bits. -/
def Obligations.ScalarCompares : Prop :=
  ∀ (s : State) (d x c : BitVec 4) (a b : BitVec 6) (i : BitVec 8), c.toNat ≤ 11 →
    (s.lent = 0 → exec (.cmp d x c a b) s =
      .next ((s.wC 1 d (scalarCond c.toNat (s.rS a) (s.rS b))).wC 1 x (!scalarCond c.toNat (s.rS a) (s.rS b)))) ∧
    (∀ w : Nat, w = s.lentWidth → s.lent < 2 ^ w → ∃ y : Word,
      y = (BitVec.ofNat (8 + w) (s.lent * 2 ^ 8 + i.toNat)).signExtend 64 ∧
      exec (.cmpi d x c a i) s =
        .next ((s.wC 1 d (scalarCond c.toNat (s.rS a) y)).wC 1 x (!scalarCond c.toNat (s.rS a) y)))

/-- R84, R111, R112, R128: what a queued result changes at issue, and what it does when it falls due: the named register takes the value
at the end of its cycle, `s0`, `k0` and `c0` take nothing, every other register keeps its value, and so does every other context. -/
def Obligations.QueuedResultsLand : Prop :=
  (∀ (s : State) (lat : Nat) (w : RegWrite),
    { s.queue lat w with ctxs := s.ctxs } = s ∧ (∀ y, y ≠ s.cur.ctx → (s.queue lat w).ctxAt y = s.ctxAt y) ∧
    (s.queue lat w).ctx = { s.ctx with flow := { s.ctx.flow with
      pending := s.ctx.flow.pending ++ [⟨s.now + lat - 1, s.ctx.flow.stamp, w⟩] } }) ∧
  (∀ (s : State) (x : Nat) (r : Regs) (due stamp : Nat) (d e : BitVec 6) (v : Word),
    ((s.applyWrite x r ⟨due, stamp, .s d v⟩).ctxAt x).r.getS e = if e = 0 then 0 else if e = d then v else (s.ctxAt x).r.getS e) ∧
  (∀ (s : State) (x : Nat) (r : Regs) (due stamp : Nat) (d e : BitVec 3) (v : Mask),
    ((s.applyWrite x r ⟨due, stamp, .k d v⟩).ctxAt x).r.getK e =
      if e = 0 then BitVec.allOnes 32 else if e = d then v else (s.ctxAt x).r.getK e) ∧
  (∀ (s : State) (x : Nat) (r : Regs) (due stamp : Nat) (d e : BitVec 4) (v : Bool),
    ((s.applyWrite x r ⟨due, stamp, .c d v⟩).ctxAt x).r.getC e = if e = 0 then false else if e = d then v else (s.ctxAt x).r.getC e) ∧
  (∀ (s : State) (x : Nat) (r : Regs) (due stamp : Nat) (d e : BitVec 5) (m : Mask) (v : VWord) (i : Nat), i < 1024 →
    (((s.applyWrite x r ⟨due, stamp, .v d m v⟩).ctxAt x).r.getV e).getLsbD i =
      if e = d ∧ m.getLsbD (i / 32) then v.getLsbD i else ((s.ctxAt x).r.getV e).getLsbD i) ∧
  (∀ (s : State) (x y : Nat) (r : Regs) (due stamp : Nat) (d : BitVec 6) (v : Word), y ≠ x →
    (s.applyWrite x r ⟨due, stamp, .s d v⟩).ctxAt y = s.ctxAt y)

/-! ### Flags and control flow -/

namespace Sys2Proof.Claims

/-- The test of R55: with mode 0 every named flag is set, with mode 1 at least one. -/
def WaitMet (f m : BitVec 16) (mode : BitVec 1) : Prop :=
  if mode = 0 then ∀ n < 16, m.getLsbD n = true → f.getLsbD n = true else ∃ n < 16, m.getLsbD n = true ∧ f.getLsbD n = true

/-- The address `off` bundles away, with its low four bits ignored (R47). -/
def bundlesFrom (pc off : Word) : Word := (pc + off <<< 4) &&& ~~~0xF#64

/-- The bundle being tried transfers control to `t`, the next one issuing `gap` cycles later at the earliest. -/
def goes (s : State) (t : Word) (gap : Nat) : State := { s with cur := { s.cur with transfer := some (t, gap) } }

/-- The bundle being tried has met a precise cause. -/
def Traps (o : Out) (cause : Nat) (info : Word) (slot : Nat) : Prop := ∃ t, o = .next t ∧ t.cur.trap = some ⟨cause, info, slot⟩

/-- The bundle being tried holds, and nothing but the record of its try changes. -/
def Holds (s : State) (o : Out) : Prop := ∃ t, o = .next t ∧ t.cur.held = true ∧ { t with cur := s.cur } = s

end Sys2Proof.Claims

/-- R55, R56, R217, R218: `fset` and `fclr` name flags for the end of the cycle; `fwait` and the SYNC header hold until their condition
is met on the flags at the start of the cycle, then pass, consuming the named flags when told to; at the end of the cycle a
set prevails over a clear. Passing applies the acquire of the flags' carried signatures (R218), which is nothing where they carry none. -/
def Obligations.FlagOperations : Prop :=
  (∀ (s : State) (m : BitVec 16), s.lent = 0 →
    exec (.fset m) s = .next { s with cur := { s.cur with flagSet := s.cur.flagSet ||| m } } ∧
    exec (.fclr m) s = .next { s with cur := { s.cur with flagClr := s.cur.flagClr ||| m } }) ∧
  (∀ (s : State) (m : BitVec 16) (y c : BitVec 1), s.lent = 0 →
    (WaitMet s.ctx.r.f m y → s.ctx.flagSigs m = 0 →
      exec (.fwait m y c) s = .next { s with cur := { s.cur with
        passed := s.cur.passed ||| m, flagClr := if c = 1 then s.cur.flagClr ||| m else s.cur.flagClr } }) ∧
    (WaitMet s.ctx.r.f m y →
      exec (.fwait m y c) s = .next (if c = 1 then (s.passFlags m).clearFlags m else s.passFlags m)) ∧
    (¬ WaitMet s.ctx.r.f m y → Holds s (exec (.fwait m y c) s)) ∧
    exec (.syncHeader m y c) s = exec (.fwait m y c) s) ∧
  (∀ (c : Ctx) (now : Nat) (k : Cur) (n : Nat), n < 16 → (c.issued now k).r.f.getLsbD n =
    ((c.r.f.getLsbD n && !k.flagClr.getLsbD n) || k.flagSet.getLsbD n))

/-- R47, R57, R60, R61, R89: transfers and their gaps, the leaf of a TREE header and the transfer of that leaf, and what a LEND header
lends.

R41, R47, R78, R80, R371: branch-target registers, `yield`, `prio`, and the first-event log as `evlog.rd` reads it and
`evlog.clr` empties it at issue. -/
def Obligations.TransfersAndControl : Prop :=
  (∀ s : State,
    (s.lent = 0 → exec .nop s = .next s) ∧ (s.lent ≠ 0 → Traps (exec .nop s) 0x01 (BitVec.ofNat 64 s.cur.word) s.cur.slot) ∧
    (∀ (a b : BitVec 9) (c : BitVec 8), exec (.lendHeader a b c) s =
      .next { s with cur := { s.cur with lend := some (a.toNat, b.toNat, c.toNat) } }) ∧
    (∀ (a b c d : BitVec 4) (x y : BitVec 5), ∃ l : Nat, exec (.treeHeader a b c d x y) s =
        .next { s with cur := { s.cur with leaf := some (l, x.toNat, y.toNat) } } ∧
      (l = 1 ↔ s.rC a = true) ∧ (l = 2 ↔ s.rC a = false ∧ s.rC b = true) ∧
      (l = 3 ↔ s.rC a = false ∧ s.rC b = false ∧ s.rC c = true) ∧
      (l = 4 ↔ s.rC a = false ∧ s.rC b = false ∧ s.rC c = false ∧ s.rC d = true) ∧ l ≤ 4) ∧
    (s.lent = 0 →
      (∀ o : BitVec 26, exec (.jmp o) s = .next (goes s (bundlesFrom s.cur.pc (o.signExtend 64)) 1)) ∧
      (∀ a : BitVec 6, exec (.jmpi a) s = .next (goes s (s.rS a &&& ~~~0xF#64) 2)) ∧
      (∀ (c : BitVec 4) (n : BitVec 1) (o : BitVec 21), exec (.brC c n o) s =
        .next (if s.rC c = decide (n = 0) then goes s (bundlesFrom s.cur.pc (o.signExtend 64)) 1 else s)) ∧
      (∀ (a b c d : BitVec 6) (n : BitVec 2) (l x y : Nat), s.cur.leaf = some (l, x, y) → l ≤ 4 →
        (l = 0 → exec (.brTree a b c d n) s = .next s) ∧
        (∀ o : BitVec 6, (l = 1 ∧ o = a) ∨ (l = 2 ∧ o = b) ∨ (l = 3 ∧ o = c) ∨ (l = 4 ∧ o = d) →
          (o.toInt = -32 → (5, n.toNat) ∉ s.ctx.flow.parity) →
          exec (.brTree a b c d n) s = .next (if o.toInt = -32 then goes s (s.rB n &&& ~~~0xF#64) 2
            else goes s (bundlesFrom s.cur.pc (o.signExtend 64)) 1))))) ∧
  ((∀ s : State, s.lent = 0 →
    (∀ (b : BitVec 2) (o : BitVec 23), exec (.setbLabel b o) s = .next (s.queue 1 (.b b (s.cur.pc + o.signExtend 64 <<< 4)))) ∧
    (∀ (b : BitVec 2) (a : BitVec 6), exec (.setbReg b a) s = .next (s.queue 1 (.b b (s.rS a)))) ∧
    exec .yield s = .next { s with cur := { s.cur with yielded := true } } ∧
    (∀ l : BitVec 2, ∃ t, exec (.prio l) s = .next t ∧
      t = s.setCtxAt s.cur.ctx { s.ctx with csr := { s.ctx.csr with level := BitVec.ofNat 2 (min l.toNat s.ctx.csr.ceil.toNat) } }) ∧
    (∀ d : BitVec 6,
      exec (.evlogRd d 0) s = .next (s.wS 2 d s.ctx.log.pc) ∧ exec (.evlogRd d 1) s = .next (s.wS 2 d (s.ctx.log.slot.setWidth 64)) ∧
      exec (.evlogRd d 2) s = .next (s.wS 2 d (s.ctx.log.kind.setWidth 64)) ∧
      exec (.evlogRd d 3) s = .next (s.wS 2 d (s.ctx.log.sum.setWidth 64))) ∧
    exec .evlogClr s = .next { s with cur := { s.cur with clearLog := true } }) ∧
  (∀ (c : Ctx) (now : Nat) (k : Cur), k.clearLog = true →
    (c.issued now k).log.pc = 0 ∧ (c.issued now k).log.slot = 0 ∧ (c.issued now k).log.kind = 0 ∧ (c.issued now k).log.sum = 0))

/-- R45, R88, R89, R124: issuing a bundle moves its context to the next bundle or to the transfer's target, no earlier than the gap of
R89, and counts it; the registers but the flags, the mode, the trap registers and the other contexts keep their values. -/
def Obligations.IssueAdvancesTheContext : Prop :=
  ∀ (s : State) (x : Nat), s.cur.after = none →
    ((s.issue x).ctxAt x).pc = (s.cur.transfer.map (·.1)).getD (s.cur.pc + 16) ∧
    ((s.issue x).ctxAt x).flow.earliest = s.now + (s.cur.transfer.map (·.2)).getD 1 ∧
    ((s.issue x).ctxAt x).csr = { (s.ctxAt x).csr with
      issueCount := (s.ctxAt x).csr.issueCount + 1
      streamBase := (s.ctxAt x).csr.streamBase + BitVec.ofNat 64 s.cur.draws } ∧
    { ((s.issue x).ctxAt x).r with f := (s.ctxAt x).r.f } = (s.ctxAt x).r ∧
    ((s.issue x).ctxAt x).priv = (s.ctxAt x).priv ∧ ((s.issue x).ctxAt x).trap = (s.ctxAt x).trap ∧
    ((s.issue x).ctxAt x).phase = (s.ctxAt x).phase ∧ (∀ y, y ≠ x → (s.issue x).ctxAt y = s.ctxAt y) ∧
    (s.issue x).mem = s.mem

/-- R91: a call pushes the return address with privileged rights, moves SHADOW_TOP, writes `s63` and transfers; it traps on overflow
with no effect. A return holds until the entry has been read (R83), and traps unless all 64 bits equal `s63`. The translation, its holds and its faults
are those of any access (R188). -/
def Obligations.ShadowStack : Prop :=
  ∀ s : State, s.lent = 0 →
    (∀ l : List Piece, s.ctx.csr.shadowTop.toNat + 8 ≤ s.ctx.csr.shadowLimit.toNat →
      s.translateAll s.cur.ctx s.ctx.csr.shadowTop.toNat { kind := .shadow } true (s.accessPieces s.ctx.csr.shadowTop.toNat 8) = .ok l →
      NoWait s l →
      ∃ u : State, u = ((served s l).writePieces s.ctx.csr.shadowTop.toNat l (s.cur.pc + 16).toNat).modCtx
          (fun c => { c with csr := { c.csr with shadowTop := s.ctx.csr.shadowTop + 8 } }) ∧
        (∀ o : BitVec 26, exec (.call o) s = .next (goes (u.wS 1 63 (s.cur.pc + 16)) (bundlesFrom s.cur.pc (o.signExtend 64)) 1)) ∧
        (∀ a : BitVec 6, exec (.calli a) s = .next (goes (u.wS 1 63 (s.cur.pc + 16)) (s.rS a &&& ~~~0xF#64) 2))) ∧
    (s.ctx.csr.shadowLimit.toNat < s.ctx.csr.shadowTop.toNat + 8 →
      (∀ o : BitVec 26, Traps (exec (.call o) s) 0x07 s.ctx.csr.shadowTop s.cur.slot) ∧
      (∀ a : BitVec 6, Traps (exec (.calli a) s) 0x07 s.ctx.csr.shadowTop s.cur.slot)) ∧
    (s.ctx.csr.shadowTop.toNat < s.ctx.csr.shadowBase.toNat + 8 → Traps (exec .ret s) 0x06 (s.rS 63) s.cur.slot) ∧
    (∀ (l : List Piece) (ea : Nat), ea = s.ctx.csr.shadowTop.toNat - 8 → s.ctx.csr.shadowBase.toNat + 8 ≤ s.ctx.csr.shadowTop.toNat →
      s.translateAll s.cur.ctx ea { kind := .shadow } true (s.accessPieces ea 8) = .ok l → NoWait s l →
      ((∀ x, ¬ Replied (served s l) x) → Holds (served s l) (exec .ret s)) ∧
      (∀ x, Replied (served s l) x → ((served s l).readPieces l).1 = (s.rS 63).toNat →
        exec .ret s = .next (goes (((served s l).readPieces l).2.modCtx
          fun c => { c with csr := { c.csr with shadowTop := s.ctx.csr.shadowTop - 8 } }) (s.rS 63 &&& ~~~0xF#64) 2)) ∧
      (∀ x, Replied (served s l) x → ((served s l).readPieces l).1 ≠ (s.rS 63).toNat →
        Traps (exec .ret s) 0x06 (s.rS 63) s.cur.slot))

/-! ### Traps, modes and control registers -/

namespace Sys2Proof.Claims

/-- R124's access columns: the numbers a user may read, and those that only privileged code may. -/
def userReads (n : Nat) : Prop :=
  n ≤ 0x007 ∨ (0x010 ≤ n ∧ n ≤ 0x016) ∨ (0x018 ≤ n ∧ n ≤ 0x01B) ∨ (0x020 ≤ n ∧ n ≤ 0x023)
def privReads (n : Nat) : Prop := userReads n ∨ (0x030 ≤ n ∧ n ≤ 0x037)
/-- The numbers a user may write, and those that privileged code may. -/
def userWrites (n : Nat) : Prop := 0x010 ≤ n ∧ n ≤ 0x012
def privWrites (n : Nat) : Prop := privReads n ∧ n ≠ 0x000 ∧ n ≠ 0x001 ∧ n ≠ 0x002 ∧ n ≠ 0x004

/-- The bits that a control register of R124 has, where writing it stores them and nothing else. -/
def storedBits (n : Nat) : Option Word :=
  match n with
  | 0x005 | 0x006 | 0x007 | 0x011 | 0x012 | 0x014 | 0x033 | 0x036 | 0x037 => some (BitVec.allOnes 64)
  | 0x013 => some 0xFFFFFFFF | 0x018 => some 0x01FFFFFFFFFFFFF0 | 0x019 | 0x031 => some 3 | 0x01A => some 0x1F07 | 0x01B => some 0x3F
  | 0x020 | 0x030 | 0x035 => some (~~~0xF) | 0x021 | 0x022 | 0x023 => some (~~~0x7) | 0x032 => some 0xFF | 0x034 | 0x015 => some 0xFFFF
  | _ => none

end Sys2Proof.Claims

/-- R113, R123, R124, R125, R126: a readable register is read with latency 2, a writable one takes the value at the end of the cycle
(ACC_OWN once no tile that changes owner is busy, BANK_ROLE where the value is well formed and no bank that changes is CHANGING); every
other access is an illegal instruction, whose information is the slot's word.

R5, R27, R78, R123, R124, R126: what a control register reads after a write has taken effect: the bits it has, reserved bits zero.
FPCTL keeps its field under codes 6 and 7, LEVEL is held to CEIL. A register of context scope of another context is not touched. -/
def Obligations.ControlRegisters : Prop :=
  (∀ s : State, s.lent = 0 →
    (∀ (d : BitVec 6) (n : BitVec 12),
      (if s.ctx.priv then privReads n.toNat else userReads n.toNat) → exec (.csrRd d n) s = .next (s.wS 2 d (s.readCsr s.cur.ctx n.toNat))) ∧
    (∀ (d : BitVec 6) (n : BitVec 12), ¬ (if s.ctx.priv then privReads n.toNat else userReads n.toNat) →
      Traps (exec (.csrRd d n) s) 0x01 (BitVec.ofNat 64 s.cur.word) s.cur.slot) ∧
    (∀ (r : BitVec 6) (n : BitVec 12),
      (if s.ctx.priv then privWrites n.toNat else userWrites n.toNat) → exec (.csrWr r n) s = .next (s.queue 1 (.csr n (s.rS r)))) ∧
    (∀ (r : BitVec 6) (n : BitVec 12), ¬ (if s.ctx.priv then privWrites n.toNat else userWrites n.toNat) →
      Traps (exec (.csrWr r n) s) 0x01 (BitVec.ofNat 64 s.cur.word) s.cur.slot) ∧
    (∀ r : BitVec 6, exec (.csrWrFpctl r) s = .next (s.queue 1 (.csr 0x010 (s.rS r)))) ∧
    (∀ r : BitVec 6, s.ctx.priv = true → exec (.csrWrCtxPrio r) s = .next (s.queue 1 (.csr 0x003 (s.rS r)))) ∧
    (∀ r : BitVec 6, s.ctx.priv = true →
      (∀ t < 4, ∀ c < 4, (s.core s.coreId).accOwn.getLsbD (4 * c + t) ≠ (s.rS r).getLsbD (4 * c + t) →
        (s.core s.coreId).isBusy s.now (.tile t) = false) →
      exec (.csrWrAccOwn r) s = .next (s.queue 1 (.csr 0x015 (s.rS r)))) ∧
    (∀ r : BitVec 6, s.ctx.priv = true → wellFormedRoles (s.rS r) = true →
      (∀ j < 32, roleOf (s.core s.coreId).bankRole j ≠ roleOf (s.rS r) j → (s.core s.coreId).isChanging s.now j = false) →
      exec (.csrWrBankRole r) s = .next (s.queue 1 (.csr 0x016 (s.rS r)))) ∧
    (∀ r : BitVec 6, s.ctx.priv = true → wellFormedRoles (s.rS r) = false → exec (.csrWrBankRole r) s = .next s) ∧
    (∀ r : BitVec 6, s.ctx.priv = false →
      Traps (exec (.csrWrCtxPrio r) s) 0x01 (BitVec.ofNat 64 s.cur.word) s.cur.slot ∧
      Traps (exec (.csrWrAccOwn r) s) 0x01 (BitVec.ofNat 64 s.cur.word) s.cur.slot ∧
      Traps (exec (.csrWrBankRole r) s) 0x01 (BitVec.ofNat 64 s.cur.word) s.cur.slot)) ∧
  ((∀ (s : State) (x stamp n : Nat) (v m : Word), storedBits n = some m → (s.writeCsr x stamp n v).readCsr x n = v &&& m) ∧
  (∀ (s : State) (x stamp : Nat) (v : Word), (s.writeCsr x stamp 0x010 v).readCsr x 0x010 =
    if v.toNat % 8 ≤ 5 then v &&& 7 else s.readCsr x 0x010) ∧
  (∀ (s : State) (x stamp : Nat) (v : Word), (s.writeCsr x stamp 0x003 v).readCsr x 0x003 =
    (v &&& 0x30) ||| (if (v >>> 4) &&& 3 < v &&& 3 then (v >>> 4) &&& 3 else v &&& 3)) ∧
  (∀ (s : State) (x y stamp n : Nat) (v : Word), n ≠ 0x015 → n ≠ 0x016 → y ≠ x → (s.writeCsr x stamp n v).ctxAt y = s.ctxAt y))

/-- R92, R363, R367, R368, R369, R370: `trap` leaves its cause for the end of its bundle in user mode; `brk` is a precise cause; `halt`
retires the context, or acts by the cause in a routine; `eret` goes back to TRAP_PC in user mode with the saved flags and the skip bits
of an asynchronous cause; `ctx.quiesce` goes on once everything has settled.

R52, R357, R358, R359, R369: taking a precise trap in user mode saves the bundle's address, the slot, the cause, its information and
the flags, goes to TRAP_VEC in privileged mode two cycles later, and touches no register, flag, control register or log. In privileged
mode the context retires with the failure cause of a double fault. Leaving at the end of `eret` is user mode with the skip bits.

R54, R125, R369, R370: `eret` and `ctx.quiesce` in user mode are illegal instructions. -/
def Obligations.TrapsAndReturns : Prop :=
  (∀ s : State, s.lent = 0 →
    (∀ c : BitVec 6, s.ctx.priv = false → exec (.trap c) s = .next { s with cur := { s.cur with after := some (c.toNat, s.cur.slot) } }) ∧
    (∀ c : BitVec 6, s.ctx.priv = true → Traps (exec (.trap c) s) 0x09 (c.setWidth 64) s.cur.slot) ∧
    (∀ c : BitVec 6, Traps (exec (.brk c) s) 0x0A (c.setWidth 64) s.cur.slot) ∧
    (s.ctx.priv = false → exec .halt s = .next (s.setCtxAt s.cur.ctx { s.ctx with phase := .retiring })) ∧
    (s.ctx.priv = true → s.ctx.trap.cause = 0x20 → s.ctx.trap.info.getLsbD 8 = true →
      exec .halt s = .next (s.setCtxAt s.cur.ctx { s.ctx with phase := .parking })) ∧
    (s.ctx.priv = true → (s.ctx.trap.cause = 0x20 → s.ctx.trap.info.getLsbD 8 = false) →
      exec .halt s = .next (s.setCtxAt s.cur.ctx { s.ctx with
        phase := .retiring
        failCause := some (if s.ctx.trap.cause = 0x21 then 0x06 else if s.ctx.trap.cause = 0x22 then 0x0B else 0x05) })) ∧
    (s.ctx.priv = true → ∃ skip : BitVec 4,
      skip = (if 0x20 ≤ s.ctx.trap.cause.toNat then s.ctx.trap.info.setWidth 4 else 0) ∧
      exec .eret s = .next (goes ((s.queue 1 (.leave skip)).modCur fun k => { k with flagSet := k.flagSet ||| s.ctx.trap.status })
        (s.ctx.trap.pc &&& ~~~0xF#64) 2)) ∧
    (s.ctx.priv = true → s.cur.drained = true → exec .ctxQuiesce s = .next s) ∧
    (s.ctx.priv = true → s.cur.drained = false → Holds s (exec .ctxQuiesce s)) ∧
    ∀ x, (s.trying x).cur.drained = s.settled x) ∧
  ((∀ (s : State) (x : Nat) (t : TrapRec), (s.ctxAt x).priv = false →
    ∃ c : Ctx, (s.trapBundle x t).ctxAt x = c ∧ c.priv = true ∧ c.pc = (s.ctxAt x).trap.vec ∧
      c.trap = { (s.ctxAt x).trap with
        pc := (s.ctxAt x).pc &&& ~~~0xF#64, slot := BitVec.ofNat 2 t.slot, cause := BitVec.ofNat 8 t.cause, info := t.info
        status := (s.ctxAt x).r.f } ∧
      c.r = (s.ctxAt x).r ∧ c.csr = (s.ctxAt x).csr ∧ c.log = (s.ctxAt x).log ∧ c.phase = (s.ctxAt x).phase ∧
      c.flow.pending = (s.ctxAt x).flow.pending ∧ c.flow.landings = (s.ctxAt x).flow.landings ∧ c.flow.earliest = s.now + 2 ∧
      (∀ y, y ≠ x → (s.trapBundle x t).ctxAt y = s.ctxAt y) ∧ (s.trapBundle x t).mem = s.mem) ∧
  (∀ (s : State) (x : Nat) (t : TrapRec), (s.ctxAt x).priv = true →
    ((s.trapBundle x t).ctxAt x).phase = .retiring ∧ ((s.trapBundle x t).ctxAt x).failCause = some 0x05 ∧
      ((s.trapBundle x t).ctxAt x).r = (s.ctxAt x).r) ∧
  (∀ (s : State) (x due stamp : Nat) (r : Regs) (k : BitVec 4),
    ((s.applyWrite x r ⟨due, stamp, .leave k⟩).ctxAt x).priv = false ∧
      ((s.applyWrite x r ⟨due, stamp, .leave k⟩).ctxAt x).flow.skip = k)) ∧
  (∀ s : State, s.ctx.priv = false → s.lent = 0 →
    Traps (exec .eret s) 0x01 (BitVec.ofNat 64 s.cur.word) s.cur.slot ∧
    Traps (exec .ctxQuiesce s) 0x01 (BitVec.ofNat 64 s.cur.word) s.cur.slot)

/-! ### Vector operations -/

namespace Sys2Proof.Claims

/-- Element `n` of width `w` of a vector register (R127). -/
def lane (w : Nat) (x : VWord) (n : Nat) : Nat := x.toNat / 2 ^ (w * n) % 2 ^ w

/-- Whether a mask enables element `n` of width `w`: the bit of its position, `2n` for a 64-bit element (R127, R128). -/
def on (m : Mask) (w n : Nat) : Bool := m.getLsbD (w * n / 32)

/-- The lent value is a legal rounding selection (R58, R133). -/
def RoundingLegal (s : State) : Prop := ∀ l, s.lentOpt = some l → l < 16 ∧ l % 8 ≠ 6

/-- The instruction issues without event, queueing for `vd` the elements `f` where the mask enables them and the old ones
elsewhere (R129). -/
def CopiesElems (i : Instr) (s : State) (lat w : Nat) (d : BitVec 5) (k : BitVec 3) (f : Nat → Nat) : Prop :=
  ∃ x : VWord, exec i s = .next (s.wV lat d x) ∧
    ∀ n < 1024 / w, lane w x n = if on (s.rK k) w n then f n else lane w (s.rV d) n

/-- The events of enabled elements, each at its position, in element order (R129, R130). -/
def elemEvents (m : Mask) (w : Nat) (f : Nat → Nat × List EvKind) : List (EvKind × Nat) :=
  (List.range (1024 / w)).flatMap fun n => if on m w n then (f n).2.map fun e => (e, w * n / 32) else []

/-- The instruction issues, records the events of the enabled elements, counts as a drawing one or not (R155), and queues the
elements for `vd` (R129). -/
def WritesElems (i : Instr) (s : State) (lat w : Nat) (d : BitVec 5) (k : BitVec 3) (draws : Bool) (f : Nat → Nat × List EvKind) : Prop :=
  ∃ x : VWord, exec i s = .next (((s.logEvs (elemEvents (s.rK k) w f)).wV lat d x).drew draws) ∧
    ∀ n < 1024 / w, lane w x n = if on (s.rK k) w n then (f n).1 % 2 ^ w else lane w (s.rV d) n

/-- An exact integer finished by R135: clamped with SATURATE, or wrapped. -/
def finished (t : Nat) (sat : Bool) (z : Int) : Nat × List EvKind :=
  let w := typeWidth t
  let lo : Int := if t ≤ 3 then -2 ^ (w - 1) else 0
  let hi : Int := if t ≤ 3 then 2 ^ (w - 1) - 1 else 2 ^ w - 1
  let c := if sat then max lo (min hi z) else z
  ((c % 2 ^ w).toNat, if c = z then [] else [.saturate])

/-- An element of an integer type: signed for codes 0 to 3 (R23, R135). -/
def intOf (t x : Nat) : Int := if t ≤ 3 then (BitVec.ofNat (typeWidth t) x).toInt else x

/-- An element result of R134 to R136: `onInt` on integers, `onVal` exactly on values, then rounded once. -/
def arith (onInt : Int → Int → Int → Int) (onVal : Val → Val → Val → Val) (t : Nat) (mode : Rnd) (sat : Bool) (rnd a b d : Nat) :
    Nat × List EvKind :=
  if t ≤ 7 then finished t sat (onInt (intOf t a) (intOf t b) (intOf t d))
  else (fmtOf t).round (onVal ((fmtOf t).decode a) ((fmtOf t).decode b) ((fmtOf t).decode d)) mode sat rnd

/-- Whether a mode on a type draws (R133, R155). -/
def drawsFor (t : Nat) (mode : Rnd) : Bool := decide (8 ≤ t) && mode == .sr

/-- Latency by type: integer, 32-bit and narrower float, `f64` (R131). -/
def latOf (t li lf lw : Nat) : Nat := if t ≤ 7 then li else if t = 8 then lw else lf

end Sys2Proof.Claims

/-- R129, R131, R141, R142, R145, R151, R152: moves, broadcast, permutation, lane bit fields, halves and classification copy or make element
bits under the mask, silently; `vsel`'s mask selects and every element is written. The lent bits only have to be a legal selection (R133).

R129, R131, R139: bitwise operations, shifts with the whole element as amount, and population counts of enabled elements. -/
def Obligations.VectorCopiesAndLogic : Prop :=
  (∀ (s : State) (d a b : BitVec 5) (k : BitVec 3) (t : BitVec 5) (w : Nat), RoundingLegal s → t.toNat ≤ 13 → w = typeWidth t.toNat →
    CopiesElems (.vmov d a k t) s 1 w d k (fun n => lane w (s.rV a) n) ∧
    (∀ r : BitVec 6, CopiesElems (.vbcast d r k t) s 1 w d k fun _ => (s.rS r).toNat % 2 ^ w) ∧
    CopiesElems (.vperm d a b k t) s 3 w d k (fun n => lane w (s.rV a) (lane w (s.rV b) n % (1024 / w))) ∧
    CopiesElems (.vpack d a b k t) s 1 w d k
      (fun n => if n < 512 / w then lane w (s.rV a) n else lane w (s.rV b) (n - 512 / w)) ∧
    CopiesElems (.vunpack d a k t) s 1 w d k (fun n => lane w (s.rV a) ((n + 512 / w) % (1024 / w))) ∧
    (∀ p l : BitVec 5, p.toNat + l.toNat < 32 →
      CopiesElems (.vextr d a p k l) s 1 32 d k fun n => lane 32 (s.rV a) n / 2 ^ p.toNat % 2 ^ (l.toNat + 1)) ∧
    (8 ≤ t.toNat → CopiesElems (.vclass d a k t) s 2 w d k fun n =>
      match (fmtOf t.toNat).decode (lane w (s.rV a) n) with
      | .nan signalling => if signalling then 0 else 1
      | .inf neg => if neg then 2 else 9
      | .zero neg => if neg then 5 else 6
      | .num x => if lane w (s.rV a) n / 2 ^ (fmtOf t.toNat).fbits % 2 ^ (fmtOf t.toNat).ebits = 0 then (if x.neg then 4 else 7)
        else (if x.neg then 3 else 8)) ∧
    (∃ x : VWord, exec (.vsel d a b k t) s = .next (s.wV 1 d x) ∧
      ∀ n < 1024 / w, lane w x n = if on (s.rK k) w n then lane w (s.rV a) n else lane w (s.rV b) n)) ∧
  (∀ (s : State) (d a b : BitVec 5) (k : BitVec 3) (t : BitVec 5) (w : Nat), RoundingLegal s → t.toNat ≤ 7 → w = typeWidth t.toNat →
    CopiesElems (.vand d a b k t) s 1 w d k (fun n => lane w (s.rV a) n &&& lane w (s.rV b) n) ∧
    CopiesElems (.vor d a b k t) s 1 w d k (fun n => lane w (s.rV a) n ||| lane w (s.rV b) n) ∧
    CopiesElems (.vxor d a b k t) s 1 w d k (fun n => lane w (s.rV a) n ^^^ lane w (s.rV b) n) ∧
    CopiesElems (.vandn d a b k t) s 1 w d k
      (fun n => (BitVec.ofNat w (lane w (s.rV a) n) &&& ~~~BitVec.ofNat w (lane w (s.rV b) n)).toNat) ∧
    CopiesElems (.vshl d a b k t) s 1 w d k (fun n => (BitVec.ofNat w (lane w (s.rV a) n) <<< lane w (s.rV b) n).toNat) ∧
    CopiesElems (.vshr d a b k t) s 1 w d k (fun n => (BitVec.ofNat w (lane w (s.rV a) n) >>> lane w (s.rV b) n).toNat) ∧
    CopiesElems (.vsra d a b k t) s 1 w d k
      (fun n => ((BitVec.ofNat w (lane w (s.rV a) n)).sshiftRight (lane w (s.rV b) n)).toNat) ∧
    CopiesElems (.vpopc d a k t) s 2 w d k (fun n => (List.range w).countP fun i => (lane w (s.rV a) n).testBit i))

/-- R129 to R136, R154, R155: arithmetic on enabled elements: exact on integers and wrapped or clamped with SATURATE, exact on values and
rounded once in the instruction's mode; the old `vd` is the addend of the fused forms. Sign operations of a float change only the sign
of a non-NaN. The mode and saturation come from the lent bits, or from FPCTL without saturation. -/
def Obligations.VectorArithmetic : Prop :=
  ∀ (s : State) (d a b : BitVec 5) (k : BitVec 3) (ty : BitVec 5) (t w code : Nat) (mode : Rnd) (sat : Bool),
    ty.toNat = t → t ≤ 11 → w = typeWidth t → (s.lentOpt = none ∧ code = 7 ∧ sat = false ∨
      (∃ l, s.lentOpt = some l ∧ l < 16 ∧ l % 8 ≠ 6 ∧ code = l % 8 ∧ sat = decide (8 ≤ l))) →
    mode = Rnd.ofCode (if code = 7 then s.ctx.csr.fpctl.toNat else code) →
    ∀ el : (Int → Int → Int → Int) → (Val → Val → Val → Val) → Nat → Nat × List EvKind,
    el = (fun f g n => arith f g t mode sat (s.rnd mode w n) (lane w (s.rV a) n) (lane w (s.rV b) n) (lane w (s.rV d) n)) →
    WritesElems (.vadd d a b k ty) s (latOf t 2 4 6) w d k (drawsFor t mode) (el (fun x y _ => x + y) fun x y _ => x.add mode y) ∧
    WritesElems (.vsub d a b k ty) s (latOf t 2 4 6) w d k (drawsFor t mode) (el (fun x y _ => x - y) fun x y _ => x.add mode y.neg) ∧
    WritesElems (.vmul d a b k ty) s (latOf t 4 4 6) w d k (drawsFor t mode) (el (fun x y _ => x * y) fun x y _ => x.mul y) ∧
    WritesElems (.vfma d a b k ty) s (latOf t 4 5 8) w d k (drawsFor t mode) (el (fun x y z => x * y + z) fun x y z => x.fma mode y z) ∧
    WritesElems (.vfms d a b k ty) s (latOf t 4 5 8) w d k (drawsFor t mode) (el (fun x y z => x * y - z) fun x y z => x.fma mode y z.neg) ∧
    WritesElems (.vfnma d a b k ty) s (latOf t 4 5 8) w d k (drawsFor t mode) (el (fun x y z => -(x * y) + z) fun x y z => x.neg.fma mode y z) ∧
    (∀ (neg : Bool) (i : Instr), (neg = true ∧ i = .vneg d a k ty) ∨ (neg = false ∧ i = .vabs d a k ty) →
      WritesElems i s (latOf t 2 4 6) w d k false fun n =>
        let x := lane w (s.rV a) n
        let fm := fmtOf t
        if t ≤ 7 then finished t sat (if neg then -intOf t x else (intOf t x).natAbs)
        else if (fm.decode x).isNan then (fm.nan, if (fm.decode x).isSnan then [.invalid, .nangen] else [.nangen])
        else (x % 2 ^ (w - 1) + (if neg && !x.testBit (w - 1) then 2 ^ (w - 1) else 0), []))

/-- R129, R131, R137: minima and maxima of enabled elements: by the type's signedness on integers; on floats with −0 below +0, numbers
before NaNs, INVALID for a signalling NaN and NANGEN for two NaNs. They never round, so the lent bits only have to be legal.

R129, R131, R133, R138: the functions of one operand round one value and record what the operand alone raises; the special operands give
the results of R138's table. The value of `vrcp`, `vrsqrt` and `vsqrt` is the exact one, cut below the last of at least 126 places with a sticky
bit for the rest; that of `vexp2` and `vlog2` is exact for an integer and for a power of two, and else the model's fixed-point one (log
entry 24). -/
def Obligations.VectorMinMaxAndFunctions : Prop :=
  (∀ (s : State) (d a b : BitVec 5) (k : BitVec 3) (ty : BitVec 5) (t w : Nat), RoundingLegal s → ty.toNat = t → t ≤ 11 → w = typeWidth t →
    ∀ (isMin : Bool) (i : Instr), (isMin = true ∧ i = .vmin d a b k ty) ∨ (isMin = false ∧ i = .vmax d a b k ty) →
      WritesElems i s (latOf t 2 4 6) w d k false fun n =>
        let x := lane w (s.rV a) n
        let y := lane w (s.rV b) n
        let u := (fmtOf t).decode x
        let v := (fmtOf t).decode y
        let inv := if u.isSnan || v.isSnan then [EvKind.invalid] else []
        let below (p q : Val) : Bool := match p, q with
          | .zero f, .zero g => f && !g
          | p, q => p.cmp q == some .lt
        if t ≤ 7 then (if intOf t y < intOf t x then (if isMin then y else x) else (if isMin then x else y), [])
        else if u.isNan && v.isNan then ((fmtOf t).nan, inv ++ [.nangen])
        else if u.isNan then (y, inv) else if v.isNan then (x, inv)
        else (if below v u then (if isMin then y else x) else (if isMin then x else y), inv)) ∧
  ((∀ (s : State) (d a : BitVec 5) (k : BitVec 3) (ty : BitVec 5) (t w code : Nat) (mode : Rnd) (sat : Bool),
    ty.toNat = t → 8 ≤ t → t ≤ 11 → w = typeWidth t → s.rounding = some (code, sat) → mode = s.modeOf code →
    ∀ el : Nat → Nat → Nat × List EvKind,
    el = (fun fn n => let r := (fmtOf t).round (unaryVal fn ((fmtOf t).decode (lane w (s.rV a) n))).1 mode sat (s.rnd mode w n)
      (r.1, (unaryVal fn ((fmtOf t).decode (lane w (s.rV a) n))).2 ++ r.2)) →
    WritesElems (.vrcp d a k ty) s (if t = 8 then 24 else 12) w d k (mode == .sr) (el 0) ∧
    WritesElems (.vrsqrt d a k ty) s (if t = 8 then 24 else 12) w d k (mode == .sr) (el 1) ∧
    WritesElems (.vsqrt d a k ty) s (if t = 8 then 24 else 12) w d k (mode == .sr) (el 2) ∧
    WritesElems (.vexp2 d a k ty) s (if t = 8 then 24 else 12) w d k (mode == .sr) (el 3) ∧
    WritesElems (.vlog2 d a k ty) s (if t = 8 then 24 else 12) w d k (mode == .sr) (el 4)) ∧
  (∀ neg : Bool, unaryVal 0 (.zero neg) = (.inf neg, [.divzero]) ∧ unaryVal 1 (.zero neg) = (.inf neg, [.divzero]) ∧
    unaryVal 2 (.zero neg) = (.zero neg, []) ∧ unaryVal 3 (.zero neg) = (.num ⟨false, 1, 0, false⟩, []) ∧
    unaryVal 4 (.zero neg) = (.inf true, [.divzero]) ∧ unaryVal 0 (.inf neg) = (.zero neg, []) ∧
    unaryVal 3 (.inf neg) = (if neg then .zero false else .inf false, [])) ∧
  (unaryVal 1 (.inf false) = (.zero false, []) ∧ unaryVal 2 (.inf false) = (.inf false, []) ∧ unaryVal 4 (.inf false) = (.inf false, [])) ∧
  (∀ fn : Nat, fn = 1 ∨ fn = 2 ∨ fn = 4 → unaryVal fn (.inf true) = (.nan true, []) ∧
    ∀ (m : Nat) (e : Int), unaryVal fn (.num ⟨true, m, e, false⟩) = (.nan true, [])) ∧
  (∀ e : Int, unaryVal 4 (.num ⟨false, 1, e, false⟩) = (Val.ofInt e, [])) ∧
  (∀ i : Int, i ≠ 0 → -20000 < i → i < 20000 → unaryVal 3 (Val.ofInt i) = (.num ⟨false, 1, i, false⟩, [])) ∧
  (∀ d : Dy, 0 < d.mant →
    (∃ k m : Nat, unaryVal 0 (.num d) = (.num ⟨d.neg, m, -d.exp - k, m * d.mant != 2 ^ k⟩, []) ∧ 2 ^ 126 ≤ m ∧
      m * d.mant ≤ 2 ^ k ∧ 2 ^ k < (m + 1) * d.mant) ∧
    (d.neg = false → ∃ (k m r : Nat) (e : Int), ((m = d.mant ∧ e = d.exp) ∨ (m = 2 * d.mant ∧ e = d.exp - 1)) ∧ e % 2 = 0 ∧
      unaryVal 1 (.num d) = (.num ⟨false, r, -(k : Int) - e / 2, r * r * m != 2 ^ (2 * k)⟩, []) ∧ 2 ^ 126 ≤ r ∧
      r * r * m ≤ 2 ^ (2 * k) ∧ 2 ^ (2 * k) < (r + 1) * (r + 1) * m) ∧
    (d.neg = false → ∃ k r : Nat, (d.exp - k) % 2 = 0 ∧
      unaryVal 2 (.num d) = (.num ⟨false, r, (d.exp - k) / 2, r * r != d.mant * 2 ^ k⟩, []) ∧ 2 ^ 126 ≤ r ∧
      r * r ≤ d.mant * 2 ^ k ∧ d.mant * 2 ^ k < (r + 1) * (r + 1))))

namespace Sys2Proof.Claims

/-- An integer condition of R68 on two elements of width `w` (R122, R140). -/
def intCondition (w c x y : Nat) : Bool :=
  let a := BitVec.ofNat w x
  let b := BitVec.ofNat w y
  match c with
  | 0 => a == b | 1 => a != b | 2 => a.slt b | 3 => !a.slt b | 4 => !b.slt a | 5 => b.slt a
  | 6 => a.ult b | 7 => !a.ult b | 8 => !b.ult a | 9 => b.ult a | 10 => a &&& b != 0 | _ => a &&& b == 0

/-- A floating-point condition of R68 and whether it records INVALID (R140). -/
def floatCondition (c : Nat) (a b : Val) : Bool × Bool :=
  let nan := a.isNan || b.isNan
  let snan := a.isSnan || b.isSnan
  match c with
  | 0 => (a.cmp b == some .eq, snan) | 1 => (a.cmp b != some .eq, snan)
  | 2 => (a.cmp b == some .lt, nan) | 3 => (a.cmp b == some .gt || a.cmp b == some .eq, nan)
  | 4 => (a.cmp b == some .lt || a.cmp b == some .eq, nan) | 5 => (a.cmp b == some .gt, nan)
  | 12 => (nan, snan) | _ => (!nan, snan)

/-- The outcome of one element of `vcmp`. -/
def condition (t c x y : Nat) : Bool × List EvKind :=
  if t ≤ 7 then (intCondition (typeWidth t) c x y, [])
  else ((floatCondition c ((fmtOf t).decode x) ((fmtOf t).decode y)).1,
    if (floatCondition c ((fmtOf t).decode x) ((fmtOf t).decode y)).2 then [.invalid] else [])

end Sys2Proof.Claims

/-- R68, R128, R131, R140, R146: a compare writes a mask bit per position: 1 where the position is enabled and every element in it meets
the condition, both bits of a 64-bit element; only enabled elements record events. The mask operations act bit by bit. -/
def Obligations.VectorComparesAndMasks : Prop :=
  (∀ (s : State) (d k : BitVec 3) (c : BitVec 4) (a b ty : BitVec 5) (t w : Nat), RoundingLegal s → ty.toNat = t → t ≤ 11 →
    (if t ≤ 7 then c.toNat ≤ 11 else c.toNat ≤ 5 ∨ c.toNat = 12 ∨ c.toNat = 13) → w = typeWidth t →
    ∃ m : Mask,
      exec (.vcmp d c a b k ty) s = .next ((s.logEvs (elemEvents (s.rK k) w fun n =>
        (0, (condition t c.toNat (lane w (s.rV a) n) (lane w (s.rV b) n)).2))).wK 2 d m) ∧
      ∀ j < 32, (m.getLsbD j = true ↔ on (s.rK k) w (32 * j / w) = true ∧
        ∀ n < 1024 / w, n = 32 * j / w ∨ w * n / 32 = j →
          (condition t c.toNat (lane w (s.rV a) n) (lane w (s.rV b) n)).1 = true)) ∧
  (∀ (s : State) (d a b : BitVec 3) (r : BitVec 6), s.lent = 0 →
    exec (.kand d a b) s = .next (s.wK 1 d (s.rK a &&& s.rK b)) ∧ exec (.kor d a b) s = .next (s.wK 1 d (s.rK a ||| s.rK b)) ∧
    exec (.kxor d a b) s = .next (s.wK 1 d (s.rK a ^^^ s.rK b)) ∧ exec (.knot d a) s = .next (s.wK 1 d (~~~s.rK a)) ∧
    exec (.kmovKk d a) s = .next (s.wK 1 d (s.rK a)) ∧ exec (.kmovKs d r) s = .next (s.wK 1 d ((s.rS r).setWidth 32)) ∧
    exec (.kmovSk a r) s = .next (s.wS 1 r ((s.rK a).setWidth 64)))

namespace Sys2Proof.Claims

/-- The present elements below `i` of a reduction (R43, R143, R144). -/
def present (s : State) (a : BitVec 5) (k : BitVec 3) (w i : Nat) : List Nat :=
  ((List.range i).filter fun n => on (s.rK k) w n).map fun n => lane w (s.rV a) n

/-- The lent bits select no stochastic rounding, which sums do not take (R133). -/
def SumRoundingLegal (s : State) : Prop := ∀ l, s.lentOpt = some l → l < 16 ∧ l % 8 ≠ 6 ∧ l % 8 ≠ 5

end Sys2Proof.Claims

/-- R42, R43, R131, R133, R143, R144: reductions write their value to element 0 and zeros elsewhere, scans every prefix. On integers that
wrap, the value is the sum of the present elements; the integer maximum is the largest present one or the type's least value. For
every accepted type the operations complete with their latencies, and the last element of the scan is the reduction's, bit for bit. -/
def Obligations.ReductionsAndScans : Prop :=
  ∀ (s : State) (d a : BitVec 5) (k : BitVec 3) (ty : BitVec 5) (t w l : Nat), ty.toNat = t → t ≤ 11 → w = typeWidth t → 2 ^ l * w = 1024 →
    (SumRoundingLegal s → ∃ (x y : VWord) (ex ey : List (EvKind × Nat)),
      exec (.vredAdd d a k ty) s = .next ((s.logEvs ex).wV (latOf t (2 * l + 2) (4 * l + 2) (6 * l + 2)) d x) ∧
      exec (.vscanAdd d a k ty) s = .next ((s.logEvs ey).wV (latOf t (2 * l + 4) (4 * l + 6) (6 * l + 6)) d y) ∧
      (∀ n, 0 < n → n < 1024 / w → lane w x n = 0) ∧ lane w y (1024 / w - 1) = lane w x 0 ∧
      (t ≤ 7 → (∀ n, s.lentOpt = some n → n < 8) → ex = [] ∧ ey = [] ∧ lane w x 0 = (present s a k w (1024 / w)).sum % 2 ^ w ∧
        ∀ n < 1024 / w, lane w y n = (present s a k w (n + 1)).sum % 2 ^ w)) ∧
    (RoundingLegal s → ∃ (x : VWord) (ex : List (EvKind × Nat)),
      exec (.vredMax d a k ty) s = .next ((s.logEvs ex).wV (2 * l + 2) d x) ∧ (∀ n, 0 < n → n < 1024 / w → lane w x n = 0) ∧
      (t ≤ 7 → ex = [] ∧
        (present s a k w (1024 / w) = [] → intOf t (lane w x 0) = if t ≤ 3 then -2 ^ (w - 1) else 0) ∧
        (present s a k w (1024 / w) ≠ [] → lane w x 0 ∈ present s a k w (1024 / w) ∧
          ∀ y ∈ present s a k w (1024 / w), intOf t y ≤ intOf t (lane w x 0))))

namespace Sys2Proof.Claims

/-- What R35 finds for the magnitude of a nonzero value under exponent `e`, all in units of 2^-1400: the magnitude of `w` bits nearest to it,
ties to even, and the error. -/
def duplexTry (w e : Nat) (d : Dy) : Nat × Nat :=
  let y := d.mant * 2 ^ (d.exp + 1400).toNat
  let step := 2 ^ ((e : Int) - 126 - w + 1400).toNat
  let h := (2 * y + step) / (2 * step)
  let m := min (if (2 * y + step) % (2 * step) = 0 ∧ h % 2 = 1 then h - 1 else h) (2 ^ w - 1)
  (m, (m * step - y) + (y - m * step))

/-- The element of a duplex block that stands for `v` under exponents `e0` and `e1`: sign, selector, magnitude; a tie goes to E1, a NaN gives
(0, 1, 0) and an infinity its sign with the largest magnitude (R35, R159). -/
def duplexElement (w e0 e1 : Nat) (v : Val) : Nat :=
  match v with
  | .nan _ => 2 ^ w
  | .inf neg => (if neg then 2 ^ (w + 1) else 0) + 2 ^ w + (2 ^ w - 1)
  | .zero neg => (if neg then 2 ^ (w + 1) else 0) + 2 ^ w
  | .num d => (if d.neg then 2 ^ (w + 1) else 0) +
      if (duplexTry w e0 d).2 < (duplexTry w e1 d).2 then (duplexTry w e0 d).1 else 2 ^ w + (duplexTry w e1 d).1

/-- Element `n` of the block that a `vquant` makes of `v` under the scales in SB (R33, R159). -/
def quantised (t : Nat) (sb : Nat) (mode : Rnd) (sat : Bool) (rnd : Nat) (v : Val) : Nat :=
  if t ≤ 15 then (if sb % 256 = 0xFF then 0 else ((fmtOf t).round (v.scale (127 - ((sb % 256 : Nat) : Int))) mode sat rnd).1)
  else if sb % 256 = 0xFF ∨ sb / 256 = 0xFF then 0
  else duplexElement (if t = 16 then 6 else 2) (sb % 256) (sb / 256) v

end Sys2Proof.Claims

/-- R129, R133, R147 to R150, R153 to R156, R160: conversions, random elements and block decoding of the enabled elements. The wider type
governs a conversion's view; the elements of a narrower destination above it keep the values that they have at issue, and an event's lane is
its element's position in the wider view (both the model's choice, log entry 81). `vcvt.sr` rounds stochastically and takes only the
saturation selection.

R131, R147, R157, R158, R159: `vbmax` queues a block's scales for SB two cycles on; `vquant` reads `va` and its mask at issue, and at
its second cycle shifts the encoded block into the top of `vd` and the scale's bytes into the top of `vb`: each element is the value
divided by the scale and rounded, or the duplex element nearest to it. Where `vd` is `vb`, the scale's write is the one that stands. -/
def Obligations.VectorConversionsAndScales : Prop :=
  ((∀ (s : State) (d a x y : BitVec 5) (k : BitVec 3) (dt st w : Nat), x.toNat = dt → y.toNat = st → dt ≤ 13 → st ≤ 13 →
    w = max (typeWidth dt) (typeWidth st) →
    ∀ (i : Instr) (mode : Rnd) (sat : Bool),
      (i = .vcvt d a x k y ∧ ∃ code, s.rounding = some (code, sat) ∧ mode = s.modeOf code) ∨
      (i = .vcvtSr d a x k y ∧ mode = .sr ∧ ((s.lentOpt = none ∧ sat = false) ∨ s.lentOpt = some (if sat then 8 else 0))) →
    ∀ el : Nat → Nat × List EvKind, el = (fun n => convertElem dt st mode sat (s.rnd mode w n) (lane (typeWidth st) (s.rV a) n)) →
    ∃ v : VWord,
      exec i s = .next (((s.logEvs (elemEvents (s.rK k) w el)).wV (if dt = 8 ∨ st = 8 then 6 else 4) d v).drew
        (mode == .sr && (decide (8 ≤ dt) || decide (8 ≤ st)))) ∧
      ∀ n < 1024 / typeWidth dt, lane (typeWidth dt) v n =
        if n < 1024 / w ∧ on (s.rK k) w n = true then (el n).1 % 2 ^ typeWidth dt else lane (typeWidth dt) (s.rV d) n) ∧
  (∀ (s : State) (d : BitVec 5) (k : BitVec 3) (t : BitVec 5), RoundingLegal s → 4 ≤ t.toNat → t.toNat ≤ 11 →
    WritesElems (.vrng d k t) s 8 (typeWidth t.toNat) d k true fun n =>
      (randomElem t.toNat s.ctx.csr.seed.toNat (s.ctx.csr.streamBase.toNat + s.cur.draws) n, [])) ∧
  (∀ (s : State) (d a b t : BitVec 5) (k : BitVec 3) (code : Nat) (sat : Bool) (mode : Rnd), 14 ≤ t.toNat → t.toNat ≤ 17 →
    s.rounding = some (code, sat) → mode = s.modeOf code →
    WritesElems (.vdeq d a b k t) s 4 32 d k (mode == .sr) fun n =>
      let x := (s.rV a).toNat / 2 ^ ((if t.toNat = 17 then 4 else 8) * n) % 2 ^ (if t.toNat = 17 then 4 else 8)
      fp32.round (if t.toNat ≤ 15 then mxDecode t.toNat ((s.rV b).toNat % 256) x
        else dbDecode (if t.toNat = 16 then 6 else 2) ((s.rV b).toNat % 256) ((s.rV b).toNat / 256 % 256) x)
        mode sat (s.rnd mode 32 n))) ∧
  ((∀ (s : State) (a t : BitVec 5) (k : BitVec 3), RoundingLegal s →
    exec (.vbmax a k t) s = .next (s.queue 2 (.sb (if t = 6 then (s.rV a).setWidth 16
      else blockScale t.toNat ((List.range 32).map fun n =>
        if (s.rK k).getLsbD n then fp32.decode (lane 32 (s.rV a) n) else .zero false))))) ∧
  (∀ (s : State) (d a b t : BitVec 5) (k : BitVec 3) (code : Nat) (sat : Bool), s.rounding = some (code, sat) →
    exec (.vquant d a b k t) s = .next ((s.queue 2 (.quant t.toNat d b (s.rV a) (s.rK k) (s.modeOf code) sat s.ctx.csr.seed.toNat
      (s.ctx.csr.streamBase.toNat + s.cur.draws) s.cur.slot s.cur.pc (!s.ctx.priv))).drew
        (decide (t.toNat ≤ 15) && s.modeOf code == .sr))) ∧
  (∀ (s : State) (x due stamp t : Nat) (r : Regs) (d b : BitVec 5) (v : VWord) (m : Mask) (mode : Rnd) (sat logs : Bool)
    (key ctr slot : Nat) (pc : Word) (w g : Nat), 14 ≤ t → t ≤ 17 → w = (if t = 17 then 4 else 8) → g = (if t ≤ 15 then 1 else 2) →
    ∃ c : Ctx, (s.applyWrite x r ⟨due, stamp, .quant t d b v m mode sat key ctr slot pc logs⟩).ctxAt x = c ∧
      (d ≠ b → (∀ n < 1024 - 32 * w, (c.r.getV d).getLsbD n = (r.getV d).getLsbD (n + 32 * w)) ∧
        ∀ n < 32, (c.r.getV d).toNat / 2 ^ (1024 - 32 * w + w * n) % 2 ^ w =
          quantised t r.sb.toNat mode sat (if mode = .sr then drawWord key ctr 32 n else 0)
            (if m.getLsbD n then fp32.decode (lane 32 v n) else .zero false) % 2 ^ w) ∧
      (∀ n < 1024 - 8 * g, (c.r.getV b).getLsbD n = (r.getV b).getLsbD (n + 8 * g)) ∧
      (∀ n < 8 * g, (c.r.getV b).getLsbD (1024 - 8 * g + n) = r.sb.getLsbD n) ∧
      (∀ e : BitVec 5, e ≠ d → e ≠ b → c.r.getV e = (s.ctxAt x).r.getV e)))

/-! ### The local store -/

namespace Sys2Proof.Claims

/-- Byte `a` of a core's local store. -/
def locByte (s : State) (core a : Nat) : Byte := Store.get 0 (s.core core).loc a

/-- The `n` bytes from `a` as a little-endian number (R3). -/
def locNumber (s : State) (core a n : Nat) : Nat := (List.range n).foldr (fun i acc => (locByte s core (a + i)).toNat + 256 * acc) 0

/-- Everything of core `core` but its local bytes, its tiles and what the engines keep about their operations, and everything of
the module but that core, poison that its writes cover whole (R385) and the banks noted for this try (R175), stays as it was. -/
def OnlyCore (s t : State) (core : Nat) : Prop :=
  { t with cores := s.cores, cur := s.cur, poison := s.poison } = s ∧ { t.cur with banks := s.cur.banks } = s.cur ∧ (∀ p ∈ t.poison, p ∈ s.poison) ∧
    ∀ i, i ≠ core → t.core i = s.core i

/-- A local access of `n` bytes at `ea` is served: the address is in the 512 KiB, its bank is scratchpad or a free operand bank and
not CHANGING, no engine holds its line, and it wins its bank (R165, R166, R175, R252, R253). -/
def LocalServed (s : State) (ea n : Nat) (write : Bool) : Prop :=
  let a := ea - ea % n
  let j := a / 2 ^ 14
  ea < 2 ^ 19 ∧ roleOf (s.core s.coreId).bankRole j ≠ 0 ∧ (s.core s.coreId).isChanging s.now j = false ∧
    (roleOf (s.core s.coreId).bankRole j = 2 → (s.core s.coreId).operandBusy s.now j = false) ∧
    (s.core s.coreId).lineHeld s.now (a / 128) write true = false ∧ s.losesBank j = false

end Sys2Proof.Claims

/-- R58, R68, R113, R165 to R168, R189: a local load reads the aligned bytes and extends them by its size code; a local store writes exactly
them. The effective address adds the offset, scaled by the size, under the lent bits. A cache bank or an address past the local store
is the protection fault LOCAL. Registers, other cores and memory keep what they hold.

R163, R164, R170 to R173: `bank.role` queues its fields of BANK_ROLE where the value with them replaced is well formed and within the
launch's grant, and traps with that value otherwise; at the end of the cycle BANK_ROLE takes that value, and every bank whose field
changes reads as zeros and is CHANGING; a second `bank.role` of a bundle goes by the value that the first leaves; `bank.flush` of banks none
of which is CHANGING, into an L2 with room, writes every dirty byte of their lines to the L2 and leaves the lines valid and clean, every
bank STABLE and memory as it is; a bank is STABLE once the cycles of its change have passed, and no sooner. -/
def Obligations.LocalStoreAndBankRoles : Prop :=
  (∀ (s : State) (d a : BitVec 6) (v : BitVec 5) (o : BitVec 10) (z : BitVec 3) (off : Int) (n ea va : Nat),
    s.lent < 2 ^ s.lentWidth → off = (BitVec.ofNat (10 + s.lentWidth) (s.lent * 2 ^ 10 + o.toNat)).toInt → n = 2 ^ (z.toNat % 4) →
    ea = (s.rS a + BitVec.ofInt 64 (off * n)).toNat → va = (s.rS a + BitVec.ofInt 64 (off * 128)).toNat →
    (LocalServed s ea n false → ∃ u, OnlyCore s u s.coreId ∧ (∀ b, locByte u s.coreId b = locByte s s.coreId b) ∧
      exec (.ld d a o z) s = .next (u.wS 3 d (if 4 ≤ z.toNat then
        (BitVec.ofNat (8 * n) (locNumber s s.coreId (ea - ea % n) n)).signExtend 64
        else BitVec.ofNat 64 (locNumber s s.coreId (ea - ea % n) n)))) ∧
    (LocalServed s ea n true → ∃ u, OnlyCore s u s.coreId ∧ exec (.st d a o z) s = .next u ∧
      ∀ b, locByte u s.coreId b = if ea - ea % n ≤ b ∧ b < ea - ea % n + n then BitVec.ofNat 8 ((s.rS d).toNat / 256 ^ (b - (ea - ea % n)))
        else locByte s s.coreId b) ∧
    (LocalServed s va 128 false → ∃ u, OnlyCore s u s.coreId ∧ (∀ b, locByte u s.coreId b = locByte s s.coreId b) ∧
      exec (.vld v a o) s = .next (u.wV 4 v (BitVec.ofNat 1024 (locNumber s s.coreId (va - va % 128) 128)))) ∧
    (LocalServed s va 128 true → ∃ u, OnlyCore s u s.coreId ∧ exec (.vst v a o) s = .next u ∧
      ∀ b, locByte u s.coreId b = if va - va % 128 ≤ b ∧ b < va - va % 128 + 128 then
        BitVec.ofNat 8 ((s.rV v).toNat / 256 ^ (b - (va - va % 128))) else locByte s s.coreId b) ∧
    (2 ^ 19 ≤ ea → Traps (exec (.ld d a o z) s) 0x05 (BitVec.ofNat 64 (2 ^ 60 + 2 ^ 57 + ea % 2 ^ 57)) s.cur.slot ∧
      Traps (exec (.st d a o z) s) 0x05 (BitVec.ofNat 64 (2 ^ 60 + 2 ^ 57 + ea % 2 ^ 57)) s.cur.slot) ∧
    (ea < 2 ^ 19 → roleOf (s.core s.coreId).bankRole ((ea - ea % n) / 2 ^ 14) = 0 →
      Traps (exec (.ld d a o z) s) 0x05 (BitVec.ofNat 64 (2 ^ 60 + 2 * 2 ^ 57 + ea)) s.cur.slot ∧
      Traps (exec (.st d a o z) s) 0x05 (BitVec.ofNat 64 (2 ^ 60 + 2 * 2 ^ 57 + ea)) s.cur.slot) ∧
    (2 ^ 19 ≤ va → Traps (exec (.vld v a o) s) 0x05 (BitVec.ofNat 64 (2 ^ 60 + 2 ^ 57 + va % 2 ^ 57)) s.cur.slot ∧
      Traps (exec (.vst v a o) s) 0x05 (BitVec.ofNat 64 (2 ^ 60 + 2 ^ 57 + va % 2 ^ 57)) s.cur.slot) ∧
    (va < 2 ^ 19 → roleOf (s.core s.coreId).bankRole ((va - va % 128) / 2 ^ 14) = 0 →
      Traps (exec (.vld v a o) s) 0x05 (BitVec.ofNat 64 (2 ^ 60 + 2 * 2 ^ 57 + va)) s.cur.slot ∧
      Traps (exec (.vst v a o) s) 0x05 (BitVec.ofNat 64 (2 ^ 60 + 2 * 2 ^ 57 + va)) s.cur.slot)) ∧
  ((∀ (s : State) (f n : BitVec 5) (r : BitVec 2) (new : Word), s.lent = 0 → f.toNat + n.toNat < 32 →
    (∀ p ∈ s.ctx.flow.pending, p.stamp ≠ s.ctx.flow.stamp) →
    (∀ j < 32, roleOf new j = if f.toNat ≤ j ∧ j ≤ f.toNat + n.toNat then r.toNat else roleOf (s.core s.coreId).bankRole j) →
    (∀ j, f.toNat ≤ j → j ≤ f.toNat + n.toNat → (s.core s.coreId).isChanging s.now j = false) →
    (wellFormedRoles new = true → (s.ctx.priv = true ∨ (s.core s.coreId).exceedsGrant new = false) →
      exec (.bankRole f n r) s = .next (s.queue 1 (.role f.toNat n.toNat r)) ∧
      ∀ (core due stamp : Nat) (g : Regs), core = s.coreId →
        s.applyWrite s.cur.ctx g ⟨due, stamp, .role f.toNat n.toNat r⟩ = s.changeRoles core new) ∧
    ((wellFormedRoles new = false ∨ (s.ctx.priv = false ∧ (s.core s.coreId).exceedsGrant new = true)) →
      Traps (exec (.bankRole f n r) s) 0x05 new s.cur.slot) ∧
    (∀ (u : State) (f' n' : BitVec 5) (r' : BitVec 2) (new' : Word), u = s.queue 1 (.role f.toNat n.toNat r) → f'.toNat + n'.toNat < 32 →
      (∀ j < 32, roleOf new' j = if f'.toNat ≤ j ∧ j ≤ f'.toNat + n'.toNat then r'.toNat else roleOf new j) →
      (∀ j, f'.toNat ≤ j → j ≤ f'.toNat + n'.toNat → (s.core s.coreId).isChanging s.now j = false) → wellFormedRoles new' = true →
      (s.ctx.priv = true ∨ (s.core s.coreId).exceedsGrant new' = false) →
      exec (.bankRole f' n' r') u = .next (u.queue 1 (.role f'.toNat n'.toNat r')))) ∧
  (∀ (s : State) (f n : BitVec 5), s.lent = 0 → f.toNat + n.toNat < 32 → (∀ p ∈ s.ctx.flow.pending, p.stamp ≠ s.ctx.flow.stamp) →
    ((∃ j, f.toNat ≤ j ∧ j ≤ f.toNat + n.toNat ∧ (s.core s.coreId).isChanging s.now j = true) → Holds s (exec (.bankFlush f n) s)) ∧
    ((∀ j, f.toNat ≤ j → j ≤ f.toNat + n.toNat → (s.core s.coreId).isChanging s.now j = false) →
      (s.die (dieOf s.coreId)).l2.length + (s.core s.coreId).lines.length ≤ l2Lines →
      ∃ t, exec (.bankFlush f n) s = .next t ∧ t.cur = s.cur ∧ t.ctxs = s.ctxs ∧ t.mem = s.mem ∧
        (t.core s.coreId).bankRole = (s.core s.coreId).bankRole ∧ (t.core s.coreId).changing = (s.core s.coreId).changing ∧
        (∀ b, locByte t s.coreId b = locByte s s.coreId b) ∧
        ∀ (j k line : Nat) (x : CacheLine), x = (s.core s.coreId).line j k → k < 128 → x.line = some line → f.toNat ≤ j →
          j ≤ f.toNat + n.toNat → roleOf (s.core s.coreId).bankRole j = 0 →
          ((t.core s.coreId).line j k).line = some line ∧ ((t.core s.coreId).line j k).dirty = 0 ∧
          ((t.core s.coreId).line j k).have_ = x.have_ ∧ ((t.core s.coreId).line j k).data = x.data ∧
          ((∀ j' k', ((s.core s.coreId).line j' k').line = some line → j' = j ∧ k' = k) →
            ∀ o < 128, x.dirty.getLsbD (o / 32) = true → x.bytes.getLsbD o = true →
              lineBytes (t.l2Line (dieOf s.coreId) line).data o 1 = lineBytes x.data o 1 ∧
              (t.l2Line (dieOf s.coreId) line).dirty.getLsbD (o / 32) = true))) ∧
  (∀ (s : State) (core j : Nat) (new : Word), j < 32 → roleOf (s.core core).bankRole j ≠ roleOf new j →
    ((s.changeRoles core new).core core).bankRole = new ∧ ((s.changeRoles core new).core core).isChanging s.now j = true ∧
      ∀ b, b / 2 ^ 14 = j → locByte (s.changeRoles core new) core b = 0) ∧
  (∀ s : State, ∃ t, exec .bankChangeDone s = .next t ∧
    (∀ c, c ∈ (t.core s.arg.a).changing ↔ c ∈ (s.core s.arg.a).changing ∧ (c.bank = s.arg.b → s.now ≤ c.stable)) ∧
    (t.core s.arg.a).bankRole = (s.core s.arg.a).bankRole ∧ t.ctxs = s.ctxs))

/-! ### The matrix and transpose engines -/

namespace Sys2Proof.Claims

/-- The tile's owner is the issuing context, or the mode is privileged (R247). -/
def Owns (s : State) (a : BitVec 2) : Prop := s.ctx.priv = true ∨ (s.core s.coreId).accOwn.getLsbD (4 * (s.cur.ctx % 4) + a.toNat) = true

/-- Every bank of an operand is in the operand role, free of writers and STABLE; A bank 0 is the bypass, tagged with the type and the
context and written (R252, R254, R257). -/
def OperandsReady (s : State) (x : BitVec 5) (t : Nat) (ys : List Nat) : Prop :=
  (∀ j ∈ (if x = 0 then [] else [x.toNat]) ++ ys, roleOf (s.core s.coreId).bankRole j = 2 ∧
    (s.core s.coreId).isBusy s.now (.bankWrite j) = false ∧ (s.core s.coreId).isChanging s.now j = false) ∧
  (x = 0 → (s.core s.coreId).bypassTag = some (t, s.cur.ctx) ∧ (s.core s.coreId).isBusy s.now .bypass = false)

/-- The engine takes one more operation on the tile: no operation outside the `mma` family keeps the tile busy, fewer than four
wait, and it is warm or holds a start token (R251, R252, R255). -/
def EngineReady (s : State) (a : BitVec 2) : Prop :=
  (∀ b ∈ (s.core s.coreId).busy, b.kind = .tile a.toNat → s.now ≤ b.last → b.mma = true) ∧
    ((s.core s.coreId).planes.filter fun b => decide (s.now < b)).length < 4 ∧
    ((s.core s.coreId).cold s.now = false ∨ (s.core s.coreId).token = true)

/-- An `mma` form issues and writes its tile: element (i, j) is the exact sum of `terms i j` and, with `add`, the old element, rounded once
to A80; no other tile, byte or register changes. -/
def Multiplies (i : Instr) (s : State) (a : BitVec 2) (add : Bool) (terms : Nat → Nat → List (Val × Val)) : Prop :=
  ∃ t, exec i s = .next t ∧ t.ctxs = s.ctxs ∧ t.mem = s.mem ∧ (t.core s.coreId).loc = (s.core s.coreId).loc ∧
    (∀ r < 32, ∀ c < 32, (t.core s.coreId).tileAt a.toNat r c =
      (accumulate (if add then a80.decode ((s.core s.coreId).tileAt a.toNat r c).toNat else .zero false) (terms r c)).1) ∧
    ∀ n < 4, n ≠ a.toNat → ∀ r < 32, ∀ c < 32, (t.core s.coreId).tileAt n r c = (s.core s.coreId).tileAt n r c

/-- The instruction issues and queues the bytes `xs` for the local store from `base` on, which it takes at the end of the cycle; the rest of
its effect leads to `u`, in which no context and no local byte has changed. -/
def QueuesImage (i : Instr) (s u : State) (base : Nat) (xs : List Nat) : Prop :=
  exec i s = .next (u.queue 1 (.img base xs)) ∧ u.ctxs = s.ctxs ∧ u.mem = s.mem ∧ (u.core s.coreId).loc = (s.core s.coreId).loc

/-- The `n` bytes of a list from place `a` on as a little-endian number (R3). -/
def numberIn (xs : List Nat) (a n : Nat) : Nat := (List.range n).foldr (fun i acc => xs.getD (a + i) 0 + 256 * acc) 0

/-- An image of `bytes` bytes at the address in `r`, aligned to its line, lies in scratchpad banks, and no line of it waits
(R250, R253, R254). -/
def ImageReady (s : State) (r : BitVec 6) (base bytes : Nat) (write : Bool) : Prop :=
  base = (s.rS r).toNat / 128 * 128 ∧ base + bytes ≤ 2 ^ 19 ∧
    (∀ i, 128 * i < bytes → roleOf (s.core s.coreId).bankRole ((base + 128 * i) / 2 ^ 14) = 1 ∧
      (s.core s.coreId).lineHeld s.now (base / 128 + i) write true = false ∧
      (s.core s.coreId).isChanging s.now ((base + 128 * i) / 2 ^ 14) = false)

end Sys2Proof.Claims

/-- R246, R249, R250, R253, R257, R258, R372: packing writes the layout of R249 below 0x3400 of its bank and nothing else; draining a scalar
type writes each element, converted in the drain's mode, at its place in the image and leaves the tile; `mzero` clears one tile; the raw
forms move all 80 bits of every element. Tiles are read and written in the issue cycle and images at its end (the model's choice: the busy
bits keep every other access away until the cycles of R253 and R258, log entry 14), and no other local byte changes.

R253, R254, R260, R261: `mtr.put` appends the transposed image, ready 48 cycles later; `mtr.get` removes the context's oldest entry and
writes it as an image at the end of the cycle; a full queue takes TRANSPOSE_QUEUE with 1, no entry or one that is not ready with 2, one of another width with 3; an entry left for 4096
cycles is discarded with an entry in the error log of its context. -/
def Obligations.PackDrainZeroAndTranspose : Prop :=
  ((∀ (s : State) (b : BitVec 5) (r : BitVec 6) (ty : BitVec 5) (base : Nat), s.lent = 0 → 8 ≤ ty.toNat → ty.toNat ≤ 17 → b ≠ 0 →
    roleOf (s.core s.coreId).bankRole b.toNat = 2 → (s.core s.coreId).operandBusy s.now b.toNat = false →
    (s.core s.coreId).isChanging s.now b.toNat = false → ImageReady s r base (imageBytes ty.toNat) false →
    ∃ (u : State) (xs : List Nat), QueuesImage (.mpack b r ty) s u (b.toNat * 2 ^ 14) xs ∧ OnlyCore s u s.coreId ∧ xs.length = 0x3400 ∧
      ∀ o < 0x3400, xs.getD o 0 = packByte ty.toNat (fun k => (locByte s s.coreId (base + k)).toNat) o) ∧
  (∀ (s : State) (a : BitVec 2) (r : BitVec 6) (ty : BitVec 5) (t w base code : Nat) (mode : Rnd) (sat : Bool), ty.toNat = t → t ≤ 17 →
    Owns s a → s.rounding = some (code, sat) → code ≠ 5 → mode = (if s.modeOf code = .sr then .rne else s.modeOf code) →
    (s.core s.coreId).isBusy s.now (.tile a.toNat) = false → w = typeWidth t →
    (ImageReady s r base (imageBytes t) true →
      ∃ (u : State) (xs : List Nat), QueuesImage (.mdrain a r ty) s u base xs ∧ (u.core s.coreId).tiles = (s.core s.coreId).tiles ∧
        xs.length = imageBytes t ∧
        (t ≤ 13 → ∀ i < 32, ∀ j < 32, numberIn xs ((32 * i + j) * (w / 8)) (w / 8) =
          (roundType t (a80.decode ((s.core s.coreId).tileAt a.toNat i j).toNat) mode sat 0).1 % 2 ^ w)) ∧
    (8 ≤ t → ∃ u, exec (.mdrainByp a ty) s = .next u ∧ u.ctxs = s.ctxs ∧ (u.core s.coreId).tiles = (s.core s.coreId).tiles ∧
      (u.core s.coreId).loc = (s.core s.coreId).loc ∧ (u.core s.coreId).bypassTag = some (t, s.cur.ctx)) ∧
    (∃ u, exec (.mzero a) s = .next u ∧ OnlyCore s u s.coreId ∧ (u.core s.coreId).loc = (s.core s.coreId).loc ∧
      ∀ n < 4, ∀ i < 32, ∀ j < 32, (u.core s.coreId).tileAt n i j = if n = a.toNat then 0 else (s.core s.coreId).tileAt n i j)) ∧
  (∀ (s : State) (a : BitVec 2) (r : BitVec 6) (base code : Nat) (sat : Bool), s.ctx.priv = true → s.rounding = some (code, sat) → code ≠ 5 →
    (s.core s.coreId).isBusy s.now (.tile a.toNat) = false →
    (ImageReady s r base 16384 true → ∃ (u : State) (xs : List Nat), QueuesImage (.mdrainA80 a r) s u base xs ∧ OnlyCore s u s.coreId ∧
      (u.core s.coreId).tiles = (s.core s.coreId).tiles ∧ xs.length = 16384 ∧
      ∀ i < 32, ∀ j < 32, numberIn xs (16 * (32 * i + j)) 16 = ((s.core s.coreId).tileAt a.toNat i j).toNat) ∧
    (ImageReady s r base 16384 false → ∃ u, exec (.mzeroA80 a r) s = .next u ∧ OnlyCore s u s.coreId ∧
      (u.core s.coreId).loc = (s.core s.coreId).loc ∧
      ∀ i < 32, ∀ j < 32, (u.core s.coreId).tileAt a.toNat i j =
        BitVec.ofNat 80 (locNumber s s.coreId (base + 16 * (32 * i + j)) 10))) ∧
  (∀ (s : State) (x due stamp base : Nat) (g : Regs) (xs : List Nat), ∃ t, s.applyWrite x g ⟨due, stamp, .img base xs⟩ = t ∧
    OnlyCore s t (coreOf x) ∧ ∀ o, locByte t (coreOf x) o =
      if base ≤ o ∧ o < base + xs.length then BitVec.ofNat 8 (xs.getD (o - base) 0) else locByte s (coreOf x) o)) ∧
  ((∀ (s : State) (r : BitVec 6) (ty : BitVec 5) (w base : Nat), s.lent = 0 → w = (if ty.toNat = 1 ∨ ty.toNat = 5 ∨ ty.toNat = 10 ∨ ty.toNat = 11 then 16 else 32) →
    base = (s.rS r).toNat / 128 * 128 →
    (ImageReady s r base (128 * w) false → (s.core s.coreId).transposes.length < 4 →
      ∃ (t : State) (e : Transpose), exec (.mtrPut r ty) s = .next t ∧ (t.core s.coreId).transposes = (s.core s.coreId).transposes ++ [e] ∧
        e.ctx = s.cur.ctx ∧ e.width = w ∧ e.ready = s.now + 48 ∧ t.ctxs = s.ctxs ∧ (t.core s.coreId).loc = (s.core s.coreId).loc ∧
        ∀ i < 32, ∀ j < 32, e.tile.getD (32 * i + j) 0 = locNumber s s.coreId (base + (32 * j + i) * (w / 8)) (w / 8)) ∧
    (∀ e : Transpose, ImageReady s r base (128 * w) true → (s.core s.coreId).transposes.find? (fun x => x.ctx == s.cur.ctx) = some e →
      e.ready ≤ s.now → e.width = w → e.tile.length = 1024 →
      ∃ (u : State) (xs : List Nat), QueuesImage (.mtrGet r ty) s u base xs ∧ OnlyCore s u s.coreId ∧
        (u.core s.coreId).transposes = (s.core s.coreId).transposes.erase e ∧ xs.length = 128 * w ∧
        ∀ i < 1024, numberIn xs (i * (w / 8)) (w / 8) = e.tile.getD i 0 % 2 ^ w) ∧
    (base + 128 * w ≤ 2 ^ 19 → (∀ i < w, roleOf (s.core s.coreId).bankRole ((base + 128 * i) / 2 ^ 14) = 1) →
      (4 ≤ (s.core s.coreId).transposes.length → Traps (exec (.mtrPut r ty) s) 0x08 1 s.cur.slot) ∧
      ((s.core s.coreId).transposes.find? (fun x => x.ctx == s.cur.ctx) = none → Traps (exec (.mtrGet r ty) s) 0x08 2 s.cur.slot) ∧
      ∀ e : Transpose, (s.core s.coreId).transposes.find? (fun x => x.ctx == s.cur.ctx) = some e →
        (s.now < e.ready → Traps (exec (.mtrGet r ty) s) 0x08 2 s.cur.slot) ∧
        (e.ready ≤ s.now → e.width ≠ w → Traps (exec (.mtrGet r ty) s) 0x08 3 s.cur.slot))) ∧
  (∀ (s : State) (x : Transpose), (s.core s.arg.a).transposes.find? (fun x => x.op == s.arg.b) = some x →
    (s.now ≤ x.ready + 4096 → exec .transposeExpire s = .next { s with timers := s.timers ++ [(x.ready + 4097, s.arg)] }) ∧
    (x.ready + 4096 < s.now → ∃ t, exec .transposeExpire s = .next t ∧
      t = (s.modCore s.arg.a fun c => { c with transposes := c.transposes.erase x }).errorLog x.ctx 5 (s.ctxAt x.ctx).csr.gen.toNat 0)))

/-- R44, R246 to R249, R251, R252, R256: the three forms of `mma`: each tile element becomes the old element (or +0) plus the exact sum of the
products, rounded once; B elements keep their top `p` planes; the sparse form takes the positions of each A line's mask. The tile is written
in the issue cycle, and stays busy until the end of the finish phase (the model's choice, log entry 14).

R247, R250, R254: the protection fault MATRIX with its sub-reasons: a bank that is not an operand bank, a tile of another owner, a
bypass tagged otherwise, an image that leaves the local store, whose bank field is 0 (log entry 36). -/
def Obligations.MatrixProducts : Prop :=
  (∀ (s : State) (a : BitVec 2) (x y : BitVec 5) (p : BitVec 6) (ty : BitVec 5) (t q : Nat), s.lent = 0 → Owns s a → EngineReady s a →
    ty.toNat = t → 8 ≤ t → t ≤ 17 → q = (if p = 0 then planeCount t else p.toNat) →
    ∀ A B : Nat → Nat → Nat → Val, A = (fun _ => packedValue ((s.core s.coreId).bankBytes x.toNat) t (planeCount t)) →
      B = (fun m => packedValue ((s.core s.coreId).bankBytes (y.toNat + m)) t q) →
    (OperandsReady s x t [y.toNat] →
      Multiplies (.mma a x y p ty) s a true (fun i j => (List.range 32).map fun k => (A 0 i k, B 0 j k)) ∧
      Multiplies (.mmaZ a x y p ty) s a false (fun i j => (List.range 32).map fun k => (A 0 i k, B 0 j k))) ∧
    (x ≠ 0 → OperandsReady s x t [y.toNat, y.toNat + 1, y.toNat + 2, y.toNat + 3] →
      Multiplies (.mmaSp a x y p ty) s a true fun i j =>
        (indexed (((List.range 128).filter fun b =>
          ((s.core s.coreId).bankBytes x.toNat (0x3400 + 16 * i + b / 8)).testBit (b % 8)).take 32)).map
          fun e => (A 0 i e.1, B (e.2 / 32) j (e.2 % 32)))) ∧
  (∀ (s : State) (a : BitVec 2) (x y : BitVec 5) (p : BitVec 6) (ty : BitVec 5) (r : BitVec 6), s.lent = 0 →
    (¬ Owns s a → Traps (exec (.mma a x y p ty) s) 0x05 (BitVec.ofNat 64 (7 * 2 ^ 60 + 2 * 2 ^ 16 + a.toNat)) s.cur.slot ∧
      Traps (exec (.mmaZ a x y p ty) s) 0x05 (BitVec.ofNat 64 (7 * 2 ^ 60 + 2 * 2 ^ 16 + a.toNat)) s.cur.slot) ∧
    (Owns s a → x ≠ 0 → roleOf (s.core s.coreId).bankRole x.toNat ≠ 2 →
      Traps (exec (.mma a x y p ty) s) 0x05 (BitVec.ofNat 64 (7 * 2 ^ 60 + 2 ^ 16 + x.toNat * 2 ^ 8 + a.toNat)) s.cur.slot) ∧
    (Owns s a → x = 0 → roleOf (s.core s.coreId).bankRole y.toNat = 2 → (s.core s.coreId).bypassTag ≠ some (ty.toNat, s.cur.ctx) →
      Traps (exec (.mma a x y p ty) s) 0x05 (BitVec.ofNat 64 (7 * 2 ^ 60 + 3 * 2 ^ 16 + a.toNat)) s.cur.slot) ∧
    (y ≠ 0 → roleOf (s.core s.coreId).bankRole y.toNat = 2 → 2 ^ 19 ≤ (s.rS r).toNat →
      Traps (exec (.mpack y r ty) s) 0x05 (BitVec.ofNat 64 (7 * 2 ^ 60 + 4 * 2 ^ 16)) s.cur.slot))

/-! ### Global memory -/

namespace Sys2Proof.Claims

/-- An access goes on at once: no part of it waits (R172, R199, R315), and a matrix engine holds no line that it reaches through the cluster
window (R253). -/
def Goes (s : State) (l : List Piece) (write : Bool) : Prop := NoWait s l ∧ (served s l).windowWaits write l = false

/-- What an access reads: the value, and the state with the caches and records as the read leaves them; what lies in a cluster window is
asked of its banks for the landing that the load takes (R175). -/
def loaded (s : State) (ea : Nat) (l : List Piece) : Nat × State := (s.windowLoads ea l 0).readPieces l

/-- A load of form `f` goes on: the landing of what it reads, some parts of which banks have yet to bring. -/
def lands (s : State) (ea n : Nat) (f : LoadForm) (l : List Piece) : State :=
  ((loaded (served s l) ea l).2.landLoad n f (loaded (served s l) ea l).1 (windowParts l)).noteWindow (windowParts l)

/-- A bundle that finds all landing entries taken holds, unless the operation's own checks find a precise trap (R52, R86). -/
def HoldsOrTraps (o : Out) : Prop := ∃ t, o = .next t ∧ (t.cur.held = true ∨ t.cur.trap ≠ none)

/-- Neither the core's cache banks nor its die's L2 hold bytes of a line that are not yet at the memory side. -/
def NothingOwn (s : State) (core line : Nat) : Prop :=
  (∀ j, (s.core core).findLine s.now line = some j → ((s.core core).line j (line % 128)).dirty = 0) ∧
    (s.l2Line (dieOf core) line).dirty = 0

/-- A vector write of every position. -/
def everyLane (v : BitVec 5) (x : Nat) : RegWrite := .v v (BitVec.allOnes 32) (BitVec.ofNat 1024 x)

/-- The registers, mode and trap state of every context, and every core's local bytes and tiles, are as they were. -/
def KeepsContexts (s t : State) : Prop :=
  ∀ x, (t.ctxAt x).r = (s.ctxAt x).r ∧ (t.ctxAt x).csr = (s.ctxAt x).csr ∧ (t.ctxAt x).trap = (s.ctxAt x).trap ∧
    (t.ctxAt x).log = (s.ctxAt x).log ∧ (t.ctxAt x).priv = (s.ctxAt x).priv ∧ (t.ctxAt x).pc = (s.ctxAt x).pc ∧
    (t.ctxAt x).phase = (s.ctxAt x).phase

/-- One byte of memory holds. -/
def sameByte (s t : State) (pa : Nat) : Prop := t.memByte pa = s.memByte pa

end Sys2Proof.Claims

/-- R58, R86, R113, R189, R190: global loads translate, read, and give their landing the extended value at their due cycle; stores translate
and write; `pref` does nothing a program can see but what bringing a line into the L2 does; `vldcb` lands a codebook table. Each takes the
fault that its translation finds, also while all sixteen landing entries are taken (R52), where a load otherwise holds. Data are read
at issue (log entry 11), but for what banks bring.

R262, R264: a `stg.i64` to a BXE aperture of its own cluster enters the channel of its address, once no store through the cluster window is
outstanding (R207), with its context and word; it holds while eight copies wait there; one to another cluster's is refused and logged.

R86, R87, R175, R354: a landing entry holds the due cycle and the writes; when its data have arrived its registers take them, and the entry is
free; one whose data a bank has yet to bring, or that is not due, waits; a landing whose entry is gone changes nothing. The cycle of
arrival is a free value, after the due cycle for data from another package. -/
def Obligations.GlobalAccessesAndLandings : Prop :=
  (∀ (s : State) (d a : BitVec 6) (v : BitVec 5) (u o : BitVec 10) (z : BitVec 3) (x : BitVec 1) (off lo : Int) (n : Nat),
    s.lent < 2 ^ s.lentWidth → off = (BitVec.ofNat (10 + s.lentWidth) (s.lent * 2 ^ 10 + o.toNat)).toInt →
    lo = (BitVec.ofNat s.lentWidth s.lent).toInt → n = 2 ^ (z.toNat % 4) → u ≠ 0 →
    (s.ctx.flow.landings.length < 16 →
      (∀ (ea : Nat) (l : List Piece), ea = (s.rS a + BitVec.ofInt 64 (lo * n)).toNat →
        s.xlate ea n { kind := .load, plain := true } = .ok l → Goes s l false →
        exec (.ldg d a u z) s = .next (lands s ea u.toNat (.scalar d z) l)) ∧
      (∀ (ea : Nat) (l : List Piece), ea = (s.rS a + BitVec.ofInt 64 (lo * 128)).toNat →
        s.xlate (ea - ea % 128) 128 { kind := .vload, plain := true } = .ok l → Goes s l false →
        exec (.vldg v a u) s = .next (lands s (ea - ea % 128) u.toNat (.vector v (BitVec.allOnes 32)) l)) ∧
      (∀ (ea : Nat) (l : List Piece), ea = (s.rS a + BitVec.ofInt 64 (lo * 16)).toNat →
        s.xlate (ea - ea % 16) 16 { kind := .table } = .ok l → NoWait s l →
        exec (.vldcb x a u) s = .next (((served s l).readPieces l).2.land u.toNat
          [.cbt x (BitVec.ofNat 128 ((served s l).readPieces l).1)] []))) ∧
    (∀ (ea c r va : Nat), ea = (s.rS a + BitVec.ofInt 64 (lo * n)).toNat →
      s.xlate ea n { kind := .load, plain := true } = .error (.fault c r va) →
      Traps (exec (.ldg d a u z) s) c (faultInfo r va) s.cur.slot) ∧
    (∀ (ea c r va : Nat), ea = (s.rS a + BitVec.ofInt 64 (lo * 128)).toNat →
      s.xlate (ea - ea % 128) 128 { kind := .vload, plain := true } = .error (.fault c r va) →
      Traps (exec (.vldg v a u) s) c (faultInfo r va) s.cur.slot) ∧
    (∀ (ea c r va : Nat), ea = (s.rS a + BitVec.ofInt 64 (lo * 16)).toNat →
      s.xlate (ea - ea % 16) 16 { kind := .table } = .error (.fault c r va) →
      Traps (exec (.vldcb x a u) s) c (faultInfo r va) s.cur.slot) ∧
    (∀ (ea c r va : Nat), ea = (s.rS a + BitVec.ofInt 64 (off * n)).toNat →
      s.xlate ea n { kind := .store, size3 := z == 3, plain := true } = .error (.fault c r va) →
      Traps (exec (.stg d a o z) s) c (faultInfo r va) s.cur.slot) ∧
    (∀ (ea c r va : Nat), ea = (s.rS a + BitVec.ofInt 64 (off * 128)).toNat →
      s.xlate (ea - ea % 128) 128 { kind := .vstore, plain := true } = .error (.fault c r va) →
      Traps (exec (.vstg v a o) s) c (faultInfo r va) s.cur.slot) ∧
    (16 ≤ s.ctx.flow.landings.length → HoldsOrTraps (exec (.ldg d a u z) s) ∧ HoldsOrTraps (exec (.vldg v a u) s) ∧
      HoldsOrTraps (exec (.vldcb x a u) s)) ∧
    (∀ (ea : Nat) (l : List Piece), ea = (s.rS a + BitVec.ofInt 64 (off * n)).toNat →
      s.xlate ea n { kind := .store, size3 := z == 3, plain := true } = .ok l → (∀ p ∈ l, ∀ k, region p.pa ≠ .aperture k) →
      Goes s l true → exec (.stg d a o z) s = .next ((served s l).writePieces ea l (s.rS d).toNat).noteSender) ∧
    (∀ (ea k ch : Nat) (p : Piece), ea = (s.rS a + BitVec.ofInt 64 (off * n)).toNat →
      s.xlate ea n { kind := .store, size3 := z == 3, plain := true } = .ok [p] → region p.pa = .aperture k → ch = bits p.pa 15 12 →
      (clusterOf s.coreId ≠ k → exec (.stg d a o z) s = .next (s.errorLogHere 3 ea).noteSender) ∧
      (clusterOf s.coreId = k → 8 ≤ ((s.bxe k).channel ch).length → Holds s (exec (.stg d a o z) s)) ∧
      (clusterOf s.coreId = k → ((s.bxe k).channel ch).length < 8 → s.owesRelease 2 = true → Holds s (exec (.stg d a o z) s)) ∧
      (clusterOf s.coreId = k → ((s.bxe k).channel ch).length < 8 → s.owesRelease 2 = false →
        ∃ (t : State) (r : CopyReq), exec (.stg d a o z) s = .next t ∧ (t.bxe k).channel ch = (s.bxe k).channel ch ++ [r] ∧
          r.ctx = some s.cur.ctx ∧ r.gen = s.ctx.csr.gen ∧ r.launch = s.ctx.launch ∧ r.node = none ∧ r.priv = s.ctx.priv ∧
          r.word = s.rS d ∧ KeepsContexts s t ∧ t.cur = s.noteSender.cur)) ∧
    (∀ (ea : Nat) (l : List Piece), ea = (s.rS a + BitVec.ofInt 64 (off * 128)).toNat →
      s.xlate (ea - ea % 128) 128 { kind := .vstore, plain := true } = .ok l → Goes s l true →
      exec (.vstg v a o) s = .next ((served s l).writePieces (ea - ea % 128) l (s.rV v).toNat).noteSender) ∧
    (∀ h : BitVec 5, ∃ t, exec (.pref h a o) s = .next t ∧ KeepsContexts s t ∧ t.cur = s.cur ∧
      (∀ i, (t.core i).loc = (s.core i).loc ∧ (t.core i).tiles = (s.core i).tiles) ∧
      ((s.die (dieOf s.coreId)).l2.length < l2Lines → t.ctxs = s.ctxs ∧ t.cores = s.cores ∧ t.mem = s.mem))) ∧
  ((∀ (s : State) (n : Nat) (ws : List RegWrite) (evs : List (EvKind × Nat)), ∃ (l : Landing) (at_ : Nat),
    (s.land n ws evs).ctx.flow.landings = s.ctx.flow.landings ++ [l] ∧ l.due = s.now + n ∧ l.ws = ws ∧ l.id = s.ctx.flow.nextLanding ∧
    l.poison = s.cur.poison ∧ s.now + n ≤ at_ ∧ (s.cur.far = true → s.now + n < at_) ∧
    (s.land n ws evs).timers = s.timers ++ [(at_, { i := .landing, a := s.cur.ctx, b := s.ctx.flow.nextLanding })] ∧
    l.owed = none ∧ KeepsContexts s (s.land n ws evs) ∧ (s.land n ws evs).mem = s.mem ∧ (s.land n ws evs).cores = s.cores) ∧
  (∀ (s : State) (n v parts : Nat) (f : LoadForm), ∃ l : Landing,
    (s.landLoad n f v parts).ctx.flow.landings = s.ctx.flow.landings ++ [l] ∧ l.due = s.now + n ∧ l.ws = [f.write v] ∧
    l.id = s.ctx.flow.nextLanding ∧ l.poison = s.cur.poison ∧ l.owed = (if parts = 0 then none else some ⟨f, v, parts⟩)) ∧
  (∀ (d : BitVec 6) (z : BitVec 3) (v : BitVec 5) (x : Nat), (LoadForm.scalar d z).write x = .s d (extendLoad z x) ∧
    (LoadForm.vector v (BitVec.allOnes 32)).write x = everyLane v x) ∧
  (∀ (l : Landing) (o : Owed) (shift x : Nat) (poison : Option Nat), l.owed = some o →
    (l.bring shift x poison).ws = [o.form.write (o.raw + x * 2 ^ shift)] ∧ ((l.bring shift x poison).owed = none ↔ o.left ≤ 1) ∧
    (l.bring shift x poison).due = l.due ∧ (l.bring shift x poison).id = l.id) ∧
  (∀ (s : State) (l : Landing), (s.ctxAt s.arg.a).flow.landings.find? (fun x => x.id == s.arg.b) = some l →
    l.owed ≠ none ∨ s.now < l.due → exec .landing s = .next { s with timers := s.timers ++ [(max (s.now + 1) l.due, s.arg)] }) ∧
  (∀ (s : State) (l : Landing), (s.ctxAt s.arg.a).flow.landings.find? (fun x => x.id == s.arg.b) = some l → l.poison = none →
    l.owed = none → l.due ≤ s.now → (s.ctxAt s.arg.a).flow.recent = [] →
    ∃ t, exec .landing s = .next t ∧ (t.ctxAt s.arg.a).r = l.ws.foldl Regs.landed (s.ctxAt s.arg.a).r ∧
      (t.ctxAt s.arg.a).flow.landings = (s.ctxAt s.arg.a).flow.landings.filter (fun x => x.id != l.id) ∧
      (t.ctxAt s.arg.a).csr = (s.ctxAt s.arg.a).csr ∧ (∀ y, y ≠ s.arg.a → t.ctxAt y = s.ctxAt y) ∧
      t.mem = s.mem ∧ t.cores = s.cores) ∧
  (∀ s : State, (s.ctxAt s.arg.a).flow.landings.find? (fun x => x.id == s.arg.b) = none →
    ∃ t, exec .landing s = .next t ∧ (∀ y, t.ctxAt y = s.ctxAt y) ∧ t.mem = s.mem ∧ t.cores = s.cores))

/-- R3, R182, R198, R200: at any level (0 cache banks, 1 the L2, 2 the memory side) a core that writes bytes of one line and then
reads them reads what it wrote; at the memory side where its cache banks hold no other bytes of that line that it has written.

R3, R178, R182, R199: on a strongly ordered page of HBM a load reads the bytes at the memory side and changes none, where no cache of its
core and die holds newer ones, and a store of `n` bytes writes those bytes, little-endian, under both of their names, and no other
byte of memory. -/
def Obligations.MemoryAndItsCopies : Prop :=
  (∀ (s : State) (core level pa n x : Nat), level ≤ 2 → region pa = .hbm → 0 < n → pa % 128 + n ≤ 128 →
    (level = 2 → ∀ j, (s.core core).findLine s.now (pa / 128) = some j → ((s.core core).line j (pa / 128 % 128)).dirty = 0) →
    ((s.writePa core level pa n x).readPa core level pa n).1 = x % 256 ^ n) ∧
  (∀ (s : State) (va x : Nat) (p : Piece), region p.pa = .hbm → leafOrd p.leaf = 0 → p.pa % 128 + p.n ≤ 128 →
    (NothingOwn s s.coreId (p.pa / 128) →
      (s.readPiece p).1 = s.memRead p.pa p.n ∧ (s.readPiece p).2.mem = s.mem ∧ KeepsContexts s (s.readPiece p).2) ∧
    (∀ i, i < p.n → ∀ b, home b = home (p.pa + i) → b < hostBase → (s.writePiece va p x).memByte b = BitVec.ofNat 8 (x / 256 ^ i)) ∧
    (∀ b, (hostBase ≤ b ∨ ∀ i, i < p.n → home b ≠ home (p.pa + i)) → sameByte s (s.writePiece va p x) b) ∧
    KeepsContexts s (s.writePiece va p x))

/-- R191 to R196: `vgather` lands the words at its enabled lanes' addresses; `vscatter` stores to them in ascending order; `agu.set` reads a
field at once and writes one for the next cycle, refusing an illegal CONFIG; `vld.fmt` and `vst.fmt` act on the blocks that hold the
elements inside the tensor. Where the spec states no result (BSTRIDE 0 or an illegal CONFIG) a load lands a free value and a store writes
nothing: that is the model's choice (log entry 25). -/
def Obligations.GathersAndFormats : Prop :=
  ∀ (s : State) (v : BitVec 5) (a : BitVec 6) (i : BitVec 5) (k m : BitVec 3) (u : BitVec 6) (g : BitVec 3) (r c : BitVec 6) (sat : BitVec 1),
    (∀ l : List (Nat × Nat × List Piece), 1 ≤ s.lent * 64 + u.toNat → s.lent * 64 + u.toNat ≤ 1023 → s.ctx.flow.landings.length < 16 →
      s.xlateLanes { kind := .gather, plain := true } (s.lanesOf a i k) = .ok l → (∀ e ∈ l, s.windowWaits false e.2.2 = false) →
      NoWait s (l.flatMap (·.2.2)) → ∃ (x : Nat) (t : State), exec (.vgather v a i k u) s =
          .next ((t.landLoad (s.lent * 64 + u.toNat) (.vector v (s.rK k)) x (l.map fun e => windowParts e.2.2).sum).noteWindow
            (l.map fun e => windowParts e.2.2).sum) ∧
        (x, t) = l.foldl (fun q e => (q.1 + (q.2.readPieces e.2.2).1 * 2 ^ (32 * e.1), (q.2.readPieces e.2.2).2))
          (0, l.foldl (fun s e => s.windowLoads e.2.1 e.2.2 (32 * e.1)) (served s (l.flatMap (·.2.2))))) ∧
    (∀ l : List (Nat × Nat × List Piece), s.lent = 0 →
      s.xlateLanes { kind := .scatter, plain := true } (s.lanesOf a i k) = .ok l → (∀ e ∈ l, s.windowWaits true e.2.2 = false) →
      NoWait s (l.flatMap (·.2.2)) →
      exec (.vscatter v a i k) s = .next (l.foldl (fun t e => t.writePieces e.2.1 e.2.2 ((s.rV v).toNat / 2 ^ (32 * e.1) % 2 ^ 32))
        (served s (l.flatMap (·.2.2)))).noteSender) ∧
    (s.lent = 0 → ∀ e : BitVec 4,
      (8 ≤ e.toNat → exec (.aguSet a g e) s = .next (s.wS 1 a ((s.ctx.r.getG g).field (e.toNat - 8)))) ∧
      (e.toNat < 8 → e ≠ 3 ∨ configOk (s.rS a) = true → exec (.aguSet a g e) s = .next (s.queue 1 (.g g e (s.rS a)))) ∧
      (e = 3 → configOk (s.rS a) = false → Traps (exec (.aguSet a g e) s) 0x01 (s.rS a) s.cur.slot)) ∧
    (∀ (w f b0 : Nat) (l : List BlockAt), 1 ≤ s.lent * 64 + u.toNat → s.lent * 64 + u.toNat ≤ 1023 → s.ctx.flow.landings.length < 16 →
      (s.ctx.r.getG g).stated = true → canonical (s.versionRewrite s.cur.ctx (s.ctx.r.getG g).base.toNat) = true →
      s.lookup s.cur.ctx (s.versionRewrite s.cur.ctx (s.ctx.r.getG g).base.toNat) = some (.leaf w) → f = leafFmt w → f ≠ 0 →
      (s.ctx.r.getG g).base.toNat % 2 ^ 16 % blockBytes f = 0 → b0 = (s.ctx.r.getG g).base.toNat % 2 ^ 16 / blockBytes f →
      b0 < blocksPerPage f →
      s.xlateBlocks (s.ctx.r.getG g) { kind := .fmtLoad } f b0
        (insideBlocks ((s.ctx.r.getG g).plan f ((s.rS r).toNat % 2 ^ 32) ((s.rS c).toNat % 2 ^ 32))) = .ok l →
      NoWait s (l.flatMap (·.pieces f)) → ∀ s' : State, s' = served s (l.flatMap (·.pieces f)) →
      ∃ (x : Nat) (evs : List (EvKind × Nat)), exec (.vldFmt v g r c u) s =
          .next ((s'.readBlocks f l).2.land (s.lent * 64 + u.toNat) [.v v (BitVec.allOnes 32) (BitVec.ofNat 1024 x)] evs) ∧
        ∀ (j : Nat) (e : Nat × Nat × Bool) (t w : Nat), t = (s.ctx.r.getG g).config.toNat / 8 → w = typeWidth t →
          ((s.ctx.r.getG g).plan f ((s.rS r).toNat % 2 ^ 32) ((s.rS c).toNat % 2 ^ 32))[j]? = some e →
          (e.2.2 = false → x / 2 ^ (w * j) % 2 ^ w = (s.ctx.r.getG g).pad.toNat % 2 ^ w) ∧
          (e.2.2 = true → ∀ idx data scale, (s'.readBlocks f l).1.find? (fun y => y.1 == e.1) = some (e.1, idx, data, scale) →
            x / 2 ^ (w * j) % 2 ^ w = ((fmtOf t).round (blockElement f data scale
              (if idx % 2 = 0 then s.ctx.r.cbt0 else s.ctx.r.cbt1) e.2.1) (s.formatMode 7) false 0).1 % 2 ^ w)) ∧
    (∀ w f : Nat, (s.ctx.r.getG g).stated = false → canonical (s.versionRewrite s.cur.ctx (s.ctx.r.getG g).base.toNat) = true →
      s.lookup s.cur.ctx (s.versionRewrite s.cur.ctx (s.ctx.r.getG g).base.toNat) = some (.leaf w) → f = leafFmt w → f ≠ 0 →
      (s.ctx.r.getG g).base.toNat % 2 ^ 16 % blockBytes f = 0 → (s.ctx.r.getG g).base.toNat % 2 ^ 16 / blockBytes f < blocksPerPage f →
      (1 ≤ s.lent * 64 + u.toNat → s.lent * 64 + u.toNat ≤ 1023 → s.ctx.flow.landings.length < 16 →
        exec (.vldFmt v g r c u) s = .next ({ s with fresh := s.fresh + 1 }.land (s.lent * 64 + u.toNat)
          [.v v (BitVec.allOnes 32) (Config.openVector s.fresh)] [])) ∧
      (s.lent = 0 → f ≠ 5 → exec (.vstFmt v g r c m sat) s = .next s)) ∧
    (∀ (w f b0 : Nat) (l : List BlockAt), s.lent = 0 →
      (s.ctx.r.getG g).stated = true → canonical (s.versionRewrite s.cur.ctx (s.ctx.r.getG g).base.toNat) = true →
      s.lookup s.cur.ctx (s.versionRewrite s.cur.ctx (s.ctx.r.getG g).base.toNat) = some (.leaf w) → f = leafFmt w → f ≠ 0 → f ≠ 5 →
      (s.ctx.r.getG g).base.toNat % 2 ^ 16 % blockBytes f = 0 → b0 = (s.ctx.r.getG g).base.toNat % 2 ^ 16 / blockBytes f →
      b0 < blocksPerPage f →
      s.xlateBlocks (s.ctx.r.getG g) { kind := .fmtStore } f b0
        (insideBlocks ((s.ctx.r.getG g).plan f ((s.rS r).toNat % 2 ^ 32) ((s.rS c).toNat % 2 ^ 32))) = .ok l →
      NoWait s (l.flatMap (·.pieces f)) → ∃ t, exec (.vstFmt v g r c m sat) s = .next t ∧ KeepsContexts s t ∧ (l = [] → t = s.noteSender) ∧
        ∀ (b : BlockAt) (vs : List Val), l = [b] →
          vs = ((((s.ctx.r.getG g).plan f ((s.rS r).toNat % 2 ^ 32) ((s.rS c).toNat % 2 ^ 32)).zip
              (elems (typeWidth ((s.ctx.r.getG g).config.toNat / 8)) (s.rV v))).filter fun e => e.1.1 == b.b).map
            (fun e => if e.1.2.2 then (fmtOf ((s.ctx.r.getG g).config.toNat / 8)).decode e.2 else .zero false) →
          ∃ evs, t = (((served s (b.pieces f)).logEvs evs).writeBlock f b (encodeBlock f vs (s.formatMode m.toNat) (sat == 1)).1
            (encodeBlock f vs (s.formatMode m.toNat) (sat == 1)).2.1).noteSender)

/-! ### Atomics and ordering -/

namespace Sys2Proof.Claims

/-- `r` is the lesser (`first` is `.lt`) or the greater (`.gt`) of two words of a format: the canonical NaN for two NaNs, the other
word for one, the word that compares `first`, and of two zeros the negative or the positive one (R137, R215). -/
def Extreme (f : Fmt) (first : Ordering) (m v r : Nat) : Prop :=
  let a := f.decode m
  let b := f.decode v
  (a.isNan = true → b.isNan = true → r = f.nan) ∧ (a.isNan = true → b.isNan = false → r = v) ∧
    (a.isNan = false → b.isNan = true → r = m) ∧
    (a.cmp b = some first → r = m) ∧ (b.cmp a = some first → r = v) ∧
    (a.cmp b = some .eq → (r = m ∨ r = v) ∧
      ((f.decode r).isNeg = if first = .lt then a.isNeg || b.isNeg else a.isNeg && b.isNeg))

/-- What an `amo` stores, from the width, the old value and the operand (R214). -/
inductive AmoStores : Instr → (w m v next : Nat) → Option Nat → Prop where
  | add (b d a u) (w m v x) : AmoStores (.amoAdd b d a u) w m v x (some ((m + v) % 2 ^ w))
  | and (b d a u) (w m v x) : AmoStores (.amoAnd b d a u) w m v x (some ((m &&& v) % 2 ^ w))
  | or (b d a u) (w m v x) : AmoStores (.amoOr b d a u) w m v x (some ((m ||| v) % 2 ^ w))
  | xor (b d a u) (w m v x) : AmoStores (.amoXor b d a u) w m v x (some ((m ^^^ v) % 2 ^ w))
  | minS (b d a u) (w m v x) : AmoStores (.amoMinSigned b d a u) w m v x
      (some ((if (BitVec.ofNat w v).slt (BitVec.ofNat w m) then v else m) % 2 ^ w))
  | maxS (b d a u) (w m v x) : AmoStores (.amoMaxSigned b d a u) w m v x
      (some ((if (BitVec.ofNat w m).slt (BitVec.ofNat w v) then v else m) % 2 ^ w))
  | minU (b d a u) (w m v x) : AmoStores (.amoMinUnsigned b d a u) w m v x (some (min m v % 2 ^ w))
  | maxU (b d a u) (w m v x) : AmoStores (.amoMaxUnsigned b d a u) w m v x (some (max m v % 2 ^ w))
  | xchg (b d a u) (w m v x) : AmoStores (.amoXchg b d a u) w m v x (some (v % 2 ^ w))
  | cas (b d a u) (w m v x) : AmoStores (.amoCas b d a u) w m v x (if m = v then some (x % 2 ^ w) else none)
  | fadd (b d a u) (w m v x) : AmoStores (.amoFadd b d a u) w m v x
      (some ((amoFmt w).round (Val.add .rne ((amoFmt w).decode m) ((amoFmt w).decode v)) .rne false 0).1)
  | fmin (b d a u) (w m v x r) : Extreme (amoFmt w) .lt m v r → AmoStores (.amoFmin b d a u) w m v x (some r)
  | fmax (b d a u) (w m v x r) : Extreme (amoFmt w) .gt m v r → AmoStores (.amoFmax b d a u) w m v x (some r)

end Sys2Proof.Claims

/-- R197, R209, R213 to R215: an `amo` reads the word at its execution point, lands the old value, and stores what its operation makes of
it: a later read at that point gives the value stored, or the old one where `amo.cas` stores nothing (of a page that no cache may keep a
line of, where no write-back to its memory queues). -/
def Obligations.AtomicsReadAndStore : Prop :=
  ∀ (s : State) (i : Instr) (b : BitVec 1) (d a : BitVec 6) (u : BitVec 10) (n ea m v : Nat) (p : Piece) (new : Option Nat),
    s.lent = 0 → u ≠ 0 → s.ctx.flow.landings.length < 16 → n = (if b = 1 then 8 else 4) → ea = (s.rS a).toNat - (s.rS a).toNat % n →
    s.xlate ea n { kind := .amo } = .ok [p] → NoWaitAt s amoLevel [p] → p.pa % n = 0 → (p.level = 2 → amoLevel p = 1 → s.dramIdle = true) →
    (region p.pa = .hbm ∨ ∃ k, region p.pa = .sync k) →
    m = (((servedAt s amoLevel [p]).evictBytes s.coreId p.pa n (2 ≤ amoLevel p)).readPa s.coreId (amoLevel p) p.pa n).1 → v = (s.rS d).toNat % 2 ^ (8 * n) →
    i ∈ [.amoAdd b d a u, .amoAnd b d a u, .amoOr b d a u, .amoXor b d a u, .amoMinSigned b d a u, .amoMaxSigned b d a u,
      .amoMinUnsigned b d a u, .amoMaxUnsigned b d a u, .amoXchg b d a u, .amoCas b d a u, .amoFadd b d a u, .amoFmin b d a u,
      .amoFmax b d a u] →
    AmoStores i (8 * n) m v (s.rS (d + 1)).toNat new →
    ∃ (t : State) (evs : List (EvKind × Nat)), exec i s = .next (t.land u.toNat [.s d (BitVec.ofNat 64 m)] evs) ∧
      (t.readPa s.coreId (amoLevel p) p.pa n).1 = new.getD m ∧ KeepsContexts s t

/-- R201, R204, R205, R207, R209, R211: each ordering operation completes once nothing it must wait for is left: an acquire fence waits for the
context's earlier loads; a release (also the `fence.full` of a load from a UO page) besides, by its scope, for its stores through the
cluster window (`cluster`), its accumulate-writes and aperture stores (`pkg`) and the acknowledgements of its stores to host and remote
memory (`sys`); and what an operation of scope `pkg` or wider writes back must not queue at DRAM that a run claims (R315). `ld.acq` reads
at its scope's point, applies the record of the line it reads and lands the word; `st.rel` writes dirty sectors down to its scope's
point before its own write there; the fences do either part. With something owed they hold. Scopes of 1 and less write nothing back and
drop nothing, and no ordering action changes a register or a mode. -/
def Obligations.AcquiresAndReleases : Prop :=
  ∀ (s : State) (d a : BitVec 6) (u : BitVec 7) (p : BitVec 3) (ea : Nat) (l : List Piece), ea = (s.rS a).toNat - (s.rS a).toNat % 8 →
    (∀ t : State, t = servedAt s (accessLevel p.toNat) l → 1 ≤ s.lent * 128 + u.toNat → s.lent * 128 + u.toNat ≤ 1023 →
      s.ctx.flow.landings.length < 16 → s.xlate ea 8 { kind := .load } = .ok l → NoWaitAt s (accessLevel p.toNat) l →
      ((∀ q ∈ l, leafOrd q.leaf ≠ 2) → 4 ≤ p.toNat → t.flushWaits s.coreId false (t.acquireSig p.toNat l) = false) →
      ((∃ q ∈ l, leafOrd q.leaf = 2) → t.owesRelease p.toNat = false ∧ (4 ≤ p.toNat → t.flushWaits s.coreId true t.fullSig = false)) →
      exec (.ldAcq d a u p) s = .next ((l.foldl (fun q x => q.2.acquireRead p.toNat x) (0, t)).2.land (s.lent * 128 + u.toNat)
        [.s d (BitVec.ofNat 64 (l.foldl (fun q x => q.2.acquireRead p.toNat x) (0, t)).1)] [])) ∧
    (∀ t : State, t = servedAt s (accessLevel p.toNat) l → s.lent = 0 → s.xlate ea 8 { kind := .store } = .ok l →
      NoWaitAt s (accessLevel p.toNat) l → t.owesRelease p.toNat = false →
      (4 ≤ p.toNat → t.flushWaits s.coreId true (if l.any fun q => leafOrd q.leaf == 2 then t.fullSig else 0) = false) →
      exec (.stRel d a p) s = .next (l.foldl (fun t q => t.releaseWrite ea p.toNat q (s.rS d).toNat) t).noteSender) ∧
    (s.lent = 0 → s.owesReads s.cur.ctx = false → (4 ≤ p.toNat → s.flushWaits s.coreId false s.ctx.flow.acqSig = false) →
      exec (.fenceAcq p) s = .next (s.acquireCarried p.toNat)) ∧
    (s.lent = 0 → s.owesRelease p.toNat = false → (4 ≤ p.toNat → s.flushWaits s.coreId true 0 = false) →
      exec (.fenceRel p) s = .next ((s.release s.coreId p.toNat).modCtx fun c =>
        { c with flow := { c.flow with relFence := c.flow.relFence || decide (2 ≤ p.toNat) } })) ∧
    (s.lent = 0 → s.owesRelease p.toNat = false → (4 ≤ p.toNat → s.flushWaits s.coreId true s.fullSig = false) →
      exec (.fenceFull p) s = .next (s.fenceFull p.toNat)) ∧
    (s.lent = 0 → s.owesReads s.cur.ctx = true → Holds s (exec (.fenceAcq p) s)) ∧
    (s.lent = 0 → s.owesRelease p.toNat = true → Holds s (exec (.fenceRel p) s) ∧ Holds s (exec (.fenceFull p) s)) ∧
    (s.lent = 0 → 4 ≤ p.toNat → s.flushWaits s.coreId true 0 = true → Holds s (exec (.fenceRel p) s)) ∧
    (∀ scope : Nat, s.owesRelease scope = (s.owesReads s.cur.ctx || (decide (2 ≤ scope) && s.owesWindow s.cur.ctx) ||
      (decide (4 ≤ scope) && (s.owesPackets s.cur.ctx || s.owesCopies s.cur.ctx)) ||
      (decide (5 ≤ scope) && s.ackedBy.owesAcks s.cur.ctx))) ∧
    (∀ (core : Nat) (g : Sig), s.acquire core 1 g = s ∧ s.release core 1 = s) ∧
    (∀ (core scope : Nat) (g : Sig), KeepsContexts s (s.acquire core scope g) ∧ KeepsContexts s (s.release core scope))

/-! ### The sync engine, signals, barriers and version sets as a context meets them -/

namespace Sys2Proof.Claims

/-- The slot being tried has sent no request yet; or an engine has answered it with `x` (R52). -/
def Unasked (s : State) : Prop := Store.get (.requested 0) s.ctx.flow.waits s.cur.slot = .requested 0
def Answered (s : State) (x : Nat) : Prop := Store.get (.requested 0) s.ctx.flow.waits s.cur.slot = .replied x

/-- The bundle holds and sends a request, and nothing but the record of its try changes. -/
def Asks (s : State) (o : Out) (e : Event) : Prop :=
  ∃ t, o = .next t ∧ t.cur.held = true ∧ t.cur.requests = s.cur.requests ++ [{ e with a := s.cur.ctx, b := s.cur.slot }] ∧
    { t with cur := s.cur } = s

/-- The bundle holds and asks nothing. -/
def HoldsSilent (s : State) (o : Out) : Prop :=
  ∃ t, o = .next t ∧ t.cur.held = true ∧ t.cur.requests = s.cur.requests ∧ { t with cur := s.cur } = s

/-- A CONFIG value that `bar.init` takes: EXPECTED in [19:0] is not 0 and the bits but FLAG's are zero (R228, R230). -/
def LegalConfig (v : Nat) : Prop := v % 2 ^ 20 ≠ 0 ∧ v / 2 ^ 20 % 16 = 0 ∧ v / 2 ^ 28 = 0

/-- TRAP_INFO of the protection fault CLASS at an address (R188). -/
def classAt (va : Nat) : Word := BitVec.ofNat 64 (12 * 2 ^ 60 + va % 2 ^ 57)

end Sys2Proof.Claims

/-- R229 to R231, R348: barrier, `waitw` and version-set operations ask their engine and hold until it answers; then they have no further
effect but what their rule names. Those of one bundle that go to a sync engine ask one after the other (log entry 114), and `bar.arrive`
holds until what lower slots of its bundle store is performed. A CONFIG value or a set that is refused, and a record without EXPECTED, trap.

R93, R94, R295: `ntile` draws the next tile of a queue record, its own or one that a port reaches, and advances it, or says that none is left;
`basin.q` lands a basin's status word. -/
def Obligations.EngineWaitsAndQueries : Prop :=
  (∀ (s : State) (r a : BitVec 6) (ea : Nat) (p : Piece), s.lent = 0 → ea = (s.rS a).toNat - (s.rS a).toNat % 16 →
    (¬ LegalConfig (s.rS r).toNat → Traps (exec (.barInit r a) s) 0x01 (s.rS r) s.cur.slot) ∧
    (s.xlate ea 16 { kind := .engine } = .ok [p] →
      (LegalConfig (s.rS r).toNat →
        (Unasked s → s.syncAhead = false → Asks s (exec (.barInit r a) s) (request 0 p.pa (s.rS r) 0)) ∧
        (Unasked s → s.syncAhead = true → HoldsSilent s (exec (.barInit r a) s)) ∧
        (∀ x, Answered s x → exec (.barInit r a) s = .next s)) ∧
      (Unasked s → s.syncAhead = false → (s.cur.senders = [] →
          Asks s (exec (.barArrive a) s) (request 1 p.pa (s.ownTarget s.cur.ctx) 0)) ∧
        Asks s (exec (.barWait a) s) (request 2 p.pa 0 0)) ∧
      (Unasked s → s.syncAhead = true → HoldsSilent s (exec (.barWait a) s) ∧ HoldsSilent s (exec (.barArrive a) s)) ∧
      (s.cur.senders ≠ [] → HoldsSilent s (exec (.barArrive a) s)) ∧
      (s.cur.senders = [] → Answered s 0 → exec (.barArrive a) s = .next s) ∧
      (s.cur.senders = [] → Answered s 1 → Traps (exec (.barArrive a) s) 0x05 (classAt ea) s.cur.slot) ∧
      (Answered s 1 → Traps (exec (.barWait a) s) 0x05 (classAt ea) s.cur.slot) ∧
      (∀ f < 16, Answered s (16 + f) → (4, f) ∉ s.ctx.flow.parity →
        (s.ctx.r.f.getLsbD f = true → exec (.barWait a) s = .next ((s.passFlags (1#16 <<< f)).clearFlags (1#16 <<< f))) ∧
        (s.ctx.r.f.getLsbD f = false → Holds s (exec (.barWait a) s)))) ∧
    (∀ (c : BitVec 4) (q : Piece), s.xlate ((s.rS a).toNat - (s.rS a).toNat % 8) 8 { kind := .waitw, plain := true } = .ok [q] →
      (Unasked s → atSync q.pa = true → s.syncAhead = false → Asks s (exec (.waitw r a c) s) (request 3 (q.pa * 16 + c.toNat) (s.rS r) 0)) ∧
      (Unasked s → atSync q.pa = false →
        Asks s (exec (.waitw r a c) s) { i := .waitwPoll, c := q.pa * 16 + c.toNat, v := s.rS r }) ∧
      (∀ x, Answered s x → exec (.waitw r a c) s = .next s)) ∧
    (∀ id, id = (s.rS a).toNat % 2 ^ 16 →
      (s.setCount ≤ id → Traps (exec (.roundPin r a) s) 0x05 (classAt id) s.cur.slot ∧
        Traps (exec (.roundWait r a) s) 0x05 (classAt id) s.cur.slot) ∧
      (id < s.setCount →
        (Unasked s → Asks s (exec (.roundPin r a) s) (request 5 id (s.rS r) 0) ∧
          Asks s (exec (.roundWait r a) s) (request 6 id (s.rS r) 0)) ∧
        (∀ x, Answered s x → exec (.roundWait r a) s = .next (s.acquireSet s.coreId id)) ∧
        (∀ x, Answered s x → exec (.roundPin r a) s = .next ((s.acquireSet s.coreId id).queue 1 (.csr 0x014
          (pinRoundAfter (s.acquireSet s.coreId id).ctx.csr.pinRound (s.rS r) x)))))) ∧
    (∀ old x : Word, (pinRoundAfter old x 1).toNat % 2 ^ 33 = x.toNat % 2 ^ 32 ∧
      pinRoundAfter old x 0 = old &&& ~~~(1#64 <<< 32) ∧ pinRoundAfter old x 2 = old ||| (1#64 <<< 32))) ∧
  (∀ (s : State) (d a : BitVec 6) (u : BitVec 10), s.lent = 0 → u ≠ 0 → s.ctx.flow.landings.length < 16 →
    (∀ (t : State) (p : Piece) (i n w : Nat), s.xlate ((s.rS a).toNat - (s.rS a).toNat % 16) 16 { kind := .engine } = .ok [p] →
      ((∀ q, region p.pa ≠ .remote q) ∧ t = s.notePoison 2 p.pa 16 ∨
        (∃ q, region p.pa = .remote q ∧ s.reachable q = true ∧ t = (s.ask q reqTile p.pa 16 0 0).notePoison 2 p.pa 16)) →
      t.plainMemory p.pa = true → i = t.memRead p.pa 8 → n = t.memRead (p.pa + 8) 4 → w = t.memRead (p.pa + 12) 4 →
      (i < n → w = 0 → exec (.ntile d a u) s =
        .next ((t.memWrite p.pa 8 (i + 1)).land u.toNat [.s d (BitVec.ofNat 64 i), .c 15 false] [])) ∧
      (i < n → w ≠ 0 → exec (.ntile d a u) s = .next ((t.memWrite p.pa 8 (i + 1)).land u.toNat
        [.s d (BitVec.ofNat 64 (i / w * 2 ^ 32 + i % w)), .c 15 false] [])) ∧
      (n ≤ i → exec (.ntile d a u) s = .next (t.land u.toNat [.s d (BitVec.allOnes 64), .c 15 true] []))) ∧
    (∀ p : Piece, s.xlate (s.rS a).toNat 1 { kind := .query } = .ok [p] →
      (∃ t w, exec (.basinQ d a u) s = .next (t.land u.toNat [.s d w] []) ∧ KeepsContexts s t ∧ t.mem = s.mem) ∧
      ((∀ q, region p.pa ≠ .remote q) →
        ∃ w, exec (.basinQ d a u) s = .next ({ s with fresh := s.fresh + 1 }.land u.toNat [.s d w] []) ∧
        (∀ k id b, s.basinOf p.pa = some (k, id, b) → w = BitVec.ofNat 64 (b.status k id)) ∧
        (s.basinOf p.pa = none → region p.pa = .hbm →
          (∀ e ∈ (s.stack (stackOf p.pa)).basins, e.2.phase = .complete →
            ¬ (e.2.result ≤ home p.pa ∧ home p.pa < e.2.result + e.2.elems * e.2.inputSize)) → w = 0))))

/-! ### The engine's side -/

namespace Sys2Proof.Claims

/-- A record of 16 bytes in the part of a die's SRAM that software shares. -/
def RecordAt (pa k : Nat) : Prop := k < 4 ∧ pa % 16 = 0 ∧ syncBase + k * 2 ^ 22 ≤ pa ∧ pa + 16 ≤ syncBase + k * 2 ^ 22 + 0x380000

/-- The delivery of a barrier's flag to a target (R229). -/
def barrierSignal (k flag : Nat) (g : Sig) (t : Word) : Event :=
  { i := .signalDelivery, a := k, b := flag, c := 1, v := t, sig := g }

/-- Nothing but the bytes of a record differs in memory. -/
def OnlyRecord (s t : State) (pa : Nat) : Prop := ∀ b, b < hostBase → (b < pa ∨ pa + 16 ≤ b) → home b = b → sameByte s t b

end Sys2Proof.Claims

/-- R228, R229: the engine's barrier record. An arrival that is not the last adds one to ARRIVED and is listed; the last one sends FLAG to every
listed arrival and itself, zeroes ARRIVED and advances PHASE. `bar.init` writes CONFIG, and completes the phase when its EXPECTED has
arrived already. Each is one write of the record. No `waitw` of another package watches the die's words (such a one would be answered in the
same step, R353).

R52, R207, R219, R220, R229, R231, R344, R348: an engine answers the request of a bundle that still waits for it, and no other one; what
it cannot answer yet waits with it: an arrival also until the release before it has come about. The arrival that completes a phase needs
no free entry (log entry 112). -/
def Obligations.BarriersAndReplies : Prop :=
  (∀ (s : State) (pa k n e : Nat) (t v : Word) (g : Sig), RecordAt pa k → n = s.memRead (pa + 8) 4 →
    (∀ w ∈ (s.die k).watches, w.ctx < peerCtx) →
    (e = s.memRead pa 8 % 2 ^ 20 →
      (n + 1 < e →
        (s.barArrive pa t g).memRead (pa + 8) 4 = n + 1 ∧ (s.barArrive pa t g).memRead (pa + 12) 4 = s.memRead (pa + 12) 4 ∧
        (Store.get {} ((s.barArrive pa t g).die k).barriers pa).arrivals = (Store.get {} (s.die k).barriers pa).arrivals ++ [t] ∧
        (s.barArrive pa t g).agenda = s.agenda) ∧
      (e ≤ n + 1 →
        (s.barArrive pa t g).memRead (pa + 8) 4 = 0 ∧
        (s.barArrive pa t g).memRead (pa + 12) 4 = (s.memRead (pa + 12) 4 + 1) % 2 ^ 32 ∧
        (Store.get {} ((s.barArrive pa t g).die k).barriers pa).arrivals = [] ∧
        (s.barArrive pa t g).agenda = s.agenda ++ ((Store.get {} (s.die k).barriers pa).arrivals ++ [t]).map
          (barrierSignal k (s.memRead pa 8 / 2 ^ 24 % 16) ((Store.get {} (s.die k).barriers pa).sig ||| g)))) ∧
    ((n = 0 ∨ n < v.toNat % 2 ^ 20) →
      (s.barInit pa v).memRead pa 8 = v.toNat ∧ (s.barInit pa v).memRead (pa + 8) 4 = n ∧ (s.barInit pa v).agenda = s.agenda) ∧
    (n ≠ 0 → v.toNat % 2 ^ 20 ≤ n →
      (s.barInit pa v).memRead pa 8 = v.toNat ∧ (s.barInit pa v).memRead (pa + 8) 4 = 0 ∧
      (s.barInit pa v).agenda = s.agenda ++ (Store.get {} (s.die k).barriers pa).arrivals.map
        (barrierSignal k (v.toNat / 2 ^ 24 % 16) (Store.get {} (s.die k).barriers pa).sig)) ∧
    OnlyRecord s (s.barArrive pa t g) pa ∧ OnlyRecord s (s.barInit pa v) pa) ∧
  ((∀ s : State, s.arg.c ≠ 11 → s.awaited s.arg = false → exec .engineReply s = .next s) ∧
  (∀ (s u : State) (pa k scope : Nat) (v : Word), s.awaited s.arg = true → v = s.arg.v →
    scope = recordScope (coreOf s.arg.a) pa → u = s.release (coreOf s.arg.a) scope →
    (region pa = .sync k →
      (s.arg.c = 16 * pa → exec .engineReply s = .next ((s.barInit pa v).reply s.arg.a s.arg.b s.arg.d 0)) ∧
      (s.arg.c = 1 + 16 * pa → s.releaseOwes s.arg.a scope = false →
        (4 ≤ scope → s.flushWaits (coreOf s.arg.a) true 0 = false) →
        (u.memRead pa 8 % 2 ^ 20 = 0 → exec .engineReply s = .next (u.reply s.arg.a s.arg.b s.arg.d 1)) ∧
        (u.memRead pa 8 % 2 ^ 20 ≠ 0 →
          u.entriesFull (syncDie pa) = false ∨ u.memRead pa 8 % 2 ^ 20 ≤ u.memRead (pa + 8) 4 + 1 →
          exec .engineReply s = .next ((u.barArrive pa v (u.core (coreOf s.arg.a)).carried).reply s.arg.a s.arg.b s.arg.d 0))) ∧
      (s.arg.c = 1 + 16 * pa → s.releaseOwes s.arg.a scope = true → exec .engineReply s = .next (s.laterOpen s.arg)) ∧
      (s.arg.c = 1 + 16 * pa → s.releaseOwes s.arg.a scope = false → 4 ≤ scope → s.flushWaits (coreOf s.arg.a) true 0 = true →
        exec .engineReply s = .next ((s.flushLate (coreOf s.arg.a) true 0).laterOpen s.arg)) ∧
      (s.arg.c = 2 + 16 * pa → s.memRead pa 8 % 2 ^ 20 ≠ 0 →
        exec .engineReply s = .next (s.reply s.arg.a s.arg.b s.arg.d (16 + s.memRead pa 8 / 2 ^ 24 % 16))) ∧
      (∀ c < 16, s.arg.c = 3 + 16 * (pa * 16 + c) →
        (intCond 64 c (s.memRead pa 8) v.toNat = true → exec .engineReply s = .next (s.reply s.arg.a s.arg.b s.arg.d 0)) ∧
        (intCond 64 c (s.memRead pa 8) v.toNat = false → s.entriesFull (syncDie pa) = false →
          ∃ t, exec .engineReply s = .next t ∧ t.ctxs = s.ctxs ∧ t.mem = s.mem ∧
          (t.die (syncDie pa)).watches = (s.die (syncDie pa)).watches ++ [⟨s.arg.a, s.arg.b, s.arg.d, pa, c, v⟩]))) ∧
    (s.arg.c = 6 + 16 * pa → countDiff (s.setRound pa) (v.toNat % 2 ^ 32) < 2 ^ 31 →
      exec .engineReply s = .next (s.reply s.arg.a s.arg.b s.arg.d 0)) ∧
    (s.arg.c = 6 + 16 * pa → ¬ countDiff (s.setRound pa) (v.toNat % 2 ^ 32) < 2 ^ 31 →
      s.entriesFull (syncDie (s.setAt pa)) = false →
      exec .engineReply s = .next { s with setWaits := s.setWaits ++ [⟨pa, .wait s.arg⟩] }) ∧
    (s.arg.c = 5 + 16 * pa → v.getLsbD 63 = true →
      exec .engineReply s = .next ((s.releaseCtxPin s.arg.a).reply s.arg.a s.arg.b s.arg.d 0))) ∧
  (∀ (s u : State) (pa : Nat), Store.get (.requested 0) (s.ctxAt s.arg.a).flow.waits s.arg.b = .requested (s.arg.d + 1) →
    s.arg.l = [] → pa = s.arg.c / 16 → (region pa = .hbm ∨ region pa = .host) → s.dramWaits (.step s.arg) pa 8 = false →
    u = (s.dramTake pa 8).dramLeave (.step s.arg) →
    (intCond 64 (s.arg.c % 16) (s.memRead pa 8) s.arg.v.toNat = true →
      exec .waitwPoll s = .next (u.reply s.arg.a s.arg.b s.arg.d 0)) ∧
    (intCond 64 (s.arg.c % 16) (s.memRead pa 8) s.arg.v.toNat = false →
      ∃ n, s.now < n ∧ n ≤ s.now + 256 ∧ exec .waitwPoll s =
        .next { u with timers := u.timers ++ [(n, s.arg)], fresh := u.fresh + 1 })) ∧
  (∀ (s : State) (x slot id v : Nat), Store.get (.requested 0) (s.ctxAt x).flow.waits slot = .requested (id + 1) →
    Store.get (.requested 0) ((s.reply x slot id v).ctxAt x).flow.waits slot = .replied v ∧
    (s.reply x slot id v).mem = s.mem ∧ KeepsContexts s (s.reply x slot id v)))

namespace Sys2Proof.Claims

/-- The fields of a context's directory entry (R223). -/
def liveGen (s : State) (x : Nat) : Nat := s.memRead (dirEntry x) 4
def isLive (s : State) (x : Nat) : Prop := s.memRead (dirEntry x + 4) 1 % 2 = 1
def aliasState (s : State) (x : Nat) : Nat := s.memRead (dirEntry x + 5) 1 % 4
def aliasGen (s : State) (x : Nat) : Nat := s.memRead (dirEntry x + 8) 4
def aliasWord (s : State) (x : Nat) : Nat := s.memRead (dirEntry x + 16) 8

/-- A word of the die's shared SRAM. -/
def GoodWord (x w : Nat) : Prop :=
  w % 8 = 0 ∧ syncBase + x / 768 * 2 ^ 22 ≤ w ∧ w + 8 ≤ syncBase + x / 768 * 2 ^ 22 + 0x380000

end Sys2Proof.Claims

/-- R222, R227: `sig` releases at the scope of its target (`die` for a target on the sender's die, `pkg` in the package, `sys` for another one),
once nothing is left that the release waits for, then one delivery of its flag sets out, with the sender's generation and the carried
signature.

R222, R224: where a delivery goes: to the flag of a live context of the same generation, or of a RESTORED one by its alias; to the signal word
of a PARKED alias; a stale one sets nothing and is logged against its sender, or counted for a barrier. -/
def Obligations.SignalsAndDeliveries : Prop :=
  (∀ (s u : State) (a : BitVec 6) (n : BitVec 4) (scope : Nat), s.lent = 0 →
    scope = (if s.targetHere (s.rS a) = false then 5 else if (s.rS a).toNat % 2 ^ 12 / 768 = s.cur.ctx / 768 then 3 else 4) →
    s.owesRelease scope = false → (4 ≤ scope → s.flushWaits s.coreId true 0 = false) → u = s.release s.coreId scope →
    exec (.sig a n) s = .next { u with agenda := u.agenda ++
      [{ i := .signalDelivery, a := s.cur.ctx, b := n.toNat, c := 0, d := s.ctx.csr.gen.toNat, v := s.rS a,
         sig := (u.core s.coreId).carried }] }) ∧
  (∀ (s : State) (x gen n : Nat), s.arg.c ≤ 1 → s.targetHere s.arg.v = true → x = s.arg.v.toNat % 2 ^ 12 → gen = s.arg.v.toNat / 2 ^ 32 →
    n = s.arg.b → n < 16 →
    (x < 3072 → (isLive s x ∧ liveGen s x = gen) ∨ (aliasState s x = 2 ∧ aliasGen s x = gen) →
      ∃ t, exec .signalDelivery s = .next t ∧ (t.ctxAt x).r = { (s.ctxAt x).r with f := (s.ctxAt x).r.f ||| 1#16 <<< n } ∧
        (t.ctxAt x).csr = (s.ctxAt x).csr ∧ (∀ y, y ≠ x → t.ctxAt y = s.ctxAt y) ∧ t.mem = s.mem) ∧
    (x < 3072 → ¬ (isLive s x ∧ liveGen s x = gen) → aliasState s x = 1 → aliasGen s x = gen → GoodWord x (aliasWord s x) →
      ∃ t, exec .signalDelivery s = .next t ∧ t.memRead (aliasWord s x) 8 = s.memRead (aliasWord s x) 8 ||| 2 ^ n ∧
        (∀ b, b < hostBase → home b = b → (b < aliasWord s x ∨ aliasWord s x + 8 ≤ b) → sameByte s t b) ∧ KeepsContexts s t) ∧
    ((3072 ≤ x ∨ (¬ (isLive s x ∧ liveGen s x = gen) ∧ aliasGen s x ≠ gen)) →
      (s.arg.c = 0 → exec .signalDelivery s = .next (s.errorLog s.arg.a 1 s.arg.d s.arg.v.toNat)) ∧
      (s.arg.c = 1 → ∃ k t, exec .signalDelivery s = .next t ∧ (t.die k).staleCount = (s.die k).staleCount + 1 ∧ t.mem = s.mem ∧
        t.ctxs = s.ctxs)))

/-- R221, R255, R380: from stage 1 on SYNC_OVF_BASE and SYNC_OVF_SIZE take a new value, only while no entry is used in the area, and
SYNC_STALE_COUNT clears; before, their writes do nothing. A start token goes to the next requesting core at most once an interval. -/
def Obligations.SyncRegistersAndTokens : Prop :=
  (∀ s : State, s.mc.stage ≠ 1 → s.mc.stage ≠ 2 →
    exec .syncOvfBaseWrite s = .next s ∧ exec .syncOvfSizeWrite s = .next s ∧ exec .syncStaleCountClear s = .next s) ∧
  (∀ s : State, s.mc.stage = 1 ∨ s.mc.stage = 2 →
    (∃ t, exec .syncOvfBaseWrite s = .next t ∧
      t = s.modDie s.arg.a fun d => if s.ovfUsed s.arg.a = 0 then { d with ovfBase := s.arg.v &&& ~~~0xFFFF#64 } else d) ∧
    (∃ t, exec .syncOvfSizeWrite s = .next t ∧
      t = s.modDie s.arg.a fun d => if s.ovfUsed s.arg.a = 0 then { d with ovfSize := s.arg.v &&& ~~~0xFFFF#64 } else d) ∧
    (∃ t, exec .syncStaleCountClear s = .next t ∧ (t.die s.arg.a).staleCount = 0 ∧ t.ctxs = s.ctxs ∧ t.mem = s.mem)) ∧
  (∀ s : State, (s.die s.arg.a).tokenWants = [] → exec .tokenGrant s = .next s) ∧
  (∀ (s : State) (c : Nat), c ∈ (s.die s.arg.a).tokenWants → 0 < s.now →
    (∀ g, (s.die s.arg.a).tokenLast = some g → g + (s.die s.arg.a).tokenGap ≤ s.now - 1) →
    (∀ w ∈ (s.die s.arg.a).tokenWants,
      if (s.die s.arg.a).tokenLast.isSome = true ∧ (s.die s.arg.a).tokenCore < c then w ≤ (s.die s.arg.a).tokenCore ∨ c ≤ w
      else c ≤ w ∧ ¬ ((s.die s.arg.a).tokenLast.isSome = true ∧ (s.die s.arg.a).tokenCore < w)) →
    ∃ t, exec .tokenGrant s = .next t ∧ (t.core c).token = true ∧ (t.die s.arg.a).tokenLast = some (s.now - 1) ∧
      (t.die s.arg.a).tokenCore = c ∧ (∀ w, w ∈ (t.die s.arg.a).tokenWants ↔ w ∈ (s.die s.arg.a).tokenWants ∧ w ≠ c) ∧ t.ctxs = s.ctxs) ∧
  (∀ (s : State) (g : Nat), (s.die s.arg.a).tokenLast = some g → s.now - 1 < g + (s.die s.arg.a).tokenGap →
    ∃ t, exec .tokenGrant s = .next t ∧ t.cores = s.cores ∧ t.dies = s.dies)

/-! ### Rings -/

namespace Sys2Proof.Claims

/-- Handle `h` of the issuing context is bound to entry `idx`, which holds `r`, on `side` (R235). -/
def Bound (s : State) (h : BitVec 3) (idx : Nat) (r : Ring) (side : Nat) : Prop :=
  (s.ctx.r.getH h).toNat / 2 ^ 31 % 2 = 1 ∧ idx = (s.ctx.r.getH h).toNat % 32 ∧ side = (s.ctx.r.getH h).toNat / 2 ^ 8 % 4 ∧
    (s.cluster (clusterOf s.coreId)).ring idx = some r

/-- TRAP_INFO of a ring fault (R240). -/
def ringFaultInfo (sub idx k h : Nat) : Word := BitVec.ofNat 64 (6 * 2 ^ 60 + sub * 2 ^ 16 + idx * 2 ^ 8 + k * 2 ^ 4 + h)

/-- The use that a context reaches at offset `k` of its own position (R236, R238). -/
def useOf (s : State) (r : Ring) (side k : Nat) : Nat := r.own side (meOf s.cur.ctx) + k

/-- A stage access is allowed: side 1 or 2, `k` below the number of stages, inside the stage, and the use is not forbidden (R238, R240, R244). -/
def StageOpen (s : State) (h : BitVec 3) (idx : Nat) (r : Ring) (side k last : Nat) : Prop :=
  Bound s h idx r side ∧ (side = 1 ∨ side = 2) ∧ k < r.stages ∧ last ≤ 2 ^ r.stageLog2 ∧ r.forbids side (useOf s r side k) = false

/-- Bytes of a store. -/
def storedByte (x i : Nat) : Byte := BitVec.ofNat 8 (x / 256 ^ i)

/-- Only core `core`'s bytes from `a` to `a + n - 1` of the local stores are changed, to the little-endian bytes of `x`. -/
def StoresLocal (s t : State) (core a n x : Nat) : Prop :=
  ∀ c b, locByte t c b = if c = core ∧ a ≤ b ∧ b < a + n then storedByte x (b - a) else locByte s c b

/-- A store of the `n` bytes of `x` at local address `a` waits at its bank of core `core` from the next cycle on (R175). -/
def AsksStore (s t : State) (core a n x : Nat) : Prop :=
  (t.core core).bankReqs = (s.core core).bankReqs ++
    [{ bank := a / 2 ^ 14, from_ := s.now + 1, left := 1, op := some ⟨s.cur.ctx, s.ctx.csr.gen.toNat, false, a, a, n, some x, .landing 0 0⟩ }]

end Sys2Proof.Claims

/-- R46, R235 to R239, R241 to R243: `ring.put` and `ring.take` count one use for the end of the cycle, unless an engine operation, a store that
is not performed (R239) or the ring's counts, with those of the bundle's lower slots, forbid it, when they hold; `ring.ptr` reads the
counts, modulo 2^32, and stage addresses; `ring.def` holds for the cluster's table, and as it issues binds the handle, for the end of the
cycle, to the ring of the key, entering that when it is new: slots of the bundle read the old handle (log entry 33). A handle without a
ring, a context on the wrong side, a bad key and a refused entry fault. -/
def Obligations.RingCounts : Prop :=
  (∀ (s : State) (h : BitVec 3) (idx side : Nat) (r : Ring) (me : Nat), s.lent = 0 → me = meOf s.cur.ctx → Bound s h idx r side →
    (side = 1 → s.engineOwes true = false → s.owesWindow s.cur.ctx = false →
      Store.get 0 r.puts me + Store.get 0 r.newPuts me < r.drained + r.stages →
      ∃ t, exec (.ringPut h) s = .next t ∧ (t.cluster (clusterOf s.coreId)).ring idx =
          some { r with newPuts := Store.set 0 r.newPuts me (Store.get 0 r.newPuts me + 1) } ∧
        t.ctxs = s.ctxs ∧ t.cores = s.cores ∧ t.mem = s.mem) ∧
    (side = 1 → s.engineOwes true = false → r.drained + r.stages ≤ Store.get 0 r.puts me + Store.get 0 r.newPuts me →
      Holds s (exec (.ringPut h) s)) ∧
    (side = 1 → s.engineOwes true = true ∨ s.owesWindow s.cur.ctx = true → Holds s (exec (.ringPut h) s)) ∧
    (side = 2 → s.engineOwes false = true → Holds s (exec (.ringTake h) s)) ∧
    (side = 2 → r.filled ≤ Store.get 0 r.takes me + Store.get 0 r.newTakes me → Holds s (exec (.ringTake h) s)) ∧
    (side = 2 → s.engineOwes false = false → Store.get 0 r.takes me + Store.get 0 r.newTakes me < r.filled →
      ∃ t, exec (.ringTake h) s = .next t ∧ (t.cluster (clusterOf s.coreId)).ring idx =
          some { r with newTakes := Store.set 0 r.newTakes me (Store.get 0 r.newTakes me + 1) } ∧
        t.ctxs = s.ctxs ∧ t.cores = s.cores ∧ t.mem = s.mem) ∧
    (side ≠ 1 → Traps (exec (.ringPut h) s) 0x05 (ringFaultInfo 2 idx 0 h.toNat) s.cur.slot) ∧
    (side ≠ 2 → Traps (exec (.ringTake h) s) 0x05 (ringFaultInfo 2 idx 0 h.toNat) s.cur.slot) ∧
    (∀ d : BitVec 6,
      exec (.ringPtr d h 0) s = .next (s.wS 2 d (BitVec.ofNat 64 (r.filled % 2 ^ 32))) ∧
      exec (.ringPtr d h 1) s = .next (s.wS 2 d (BitVec.ofNat 64 (r.drained % 2 ^ 32))) ∧
      exec (.ringPtr d h 2) s = .next (s.wS 2 d (BitVec.ofNat 64 (r.own side me % 2 ^ 32))) ∧
      exec (.ringPtr d h 3) s = .next (s.wS 2 d (s.ctx.r.getH h)) ∧
      exec (.ringPtr d h 4) s = .next (s.wS 2 d (BitVec.ofNat 64 (Store.get 0 r.done r.filled * 2 ^ 32 + r.taken % 2 ^ 32))) ∧
      exec (.ringPtr d h 5) s = .next (s.wS 2 d (r.conf idx)) ∧
      ∀ k < 8, StageOpen s h idx r side k 0 → exec (.ringPtr d h (BitVec.ofNat 4 (8 + k))) s =
        .next (s.wS 2 d (BitVec.ofNat 64 (r.base + useOf s r side k % r.stages * 2 ^ r.stageLog2))))) ∧
  (∀ (s : State) (g : BitVec 3) (d a : BitVec 6), s.lent = 0 →
    ((s.ctx.r.getH g).toNat / 2 ^ 31 % 2 = 0 →
      Traps (exec (.ringPut g) s) 0x05 (ringFaultInfo 1 0 0 g.toNat) s.cur.slot ∧
      Traps (exec (.ringTake g) s) 0x05 (ringFaultInfo 1 0 0 g.toNat) s.cur.slot ∧
      Traps (exec (.ringPtr d g 0) s) 0x05 (ringFaultInfo 1 0 0 g.toNat) s.cur.slot) ∧
    ((s.rS a).toNat % 16 ≠ 0 → Traps (exec (.ringDef a g) s) 0x05 (ringFaultInfo 6 0 0 g.toNat) s.cur.slot) ∧
    ((s.rS a).toNat % 16 = 0 →
      (∀ j q, (s.cluster (clusterOf s.coreId)).findRing s.ctx.launch (s.rS a) = some (j, q) →
        (Unasked s → Asks s (exec (.ringDef a g) s) (request 7 g.toNat (s.rS a) 0)) ∧
        (∀ x, Answered s x → exec (.ringDef a g) s =
          .next (s.queue 1 (.h g (BitVec.ofNat 64 (2 ^ 31 + q.sideOf (meOf s.cur.ctx) g.toNat * 2 ^ 8 + j)))))) ∧
      (∀ l : List Piece, (s.cluster (clusterOf s.coreId)).findRing s.ctx.launch (s.rS a) = none →
        s.xlate (s.rS a).toNat 80 { kind := .load } = .ok l →
        (Unasked s → Asks s (exec (.ringDef a g) s) (request 7 g.toNat (s.rS a) 0)) ∧
        (∀ (x v k : Nat) (w : State), Answered s x → NoWait s l → (v, w) = (served s l).readPieces l → k = clusterOf w.coreId →
          (ringValid v = false → Traps (exec (.ringDef a g) s) 0x05 (ringFaultInfo 6 0 0 g.toNat) s.cur.slot) ∧
          (ringValid v = true → (w.cluster k).ringRoom = 0 ∨ (w.cluster k).freeRing = none →
            Traps (exec (.ringDef a g) s) 0x05 (ringFaultInfo 5 0 0 g.toNat) s.cur.slot) ∧
          (∀ j, ringValid v = true → (w.cluster k).ringRoom ≠ 0 → (w.cluster k).freeRing = some j →
            exec (.ringDef a g) s = .next ((w.modCluster k fun c =>
              c.setRing j (some { ringOf v with launch := s.ctx.launch, key := s.rS a })).queue 1 (.h g (BitVec.ofNat 64
                (2 ^ 31 + (ringOf v).sideOf (meOf s.cur.ctx) g.toNat * 2 ^ 8 + j))))))))) ∧
  (∀ (s : State) (n : Nat), s.awaited s.arg = true → s.arg.c = 7 + 16 * n →
    exec .engineReply s = .next (s.reply s.arg.a s.arg.b s.arg.d 0)) ∧
  (∀ (s : State) (x due stamp : Nat) (r : Regs) (g e : BitVec 3) (v : Word),
    ((s.applyWrite x r ⟨due, stamp, .h g v⟩).ctxAt x).r.getH e = if e = g then v else (s.ctxAt x).r.getH e)

/-- R84, R244: a ring-relative access reaches the stage of the context's use, in the core's own bank as a local access does, and in another
core's through the cluster window; loads answer three, four, 45 or 46 cycles later by where the bytes lie, and read them as they issue
(log entry 34); stores change those bytes only, a remote one when its bank grants it (R175). A use that is not yet open makes it hold,
unless its own checks find a trap (R52). An access past the stage faults. -/
def Obligations.RingAccesses : Prop :=
  ∀ (s : State) (h : BitVec 3) (k : BitVec 4) (o : BitVec 9) (z : BitVec 3) (d : BitVec 6) (v : BitVec 5) (idx side n off ea va hc : Nat) (r : Ring),
    n = 2 ^ (z.toNat % 4) → off = s.lent * 2 ^ 9 + o.toNat → hc = clusterOf s.coreId * 64 + r.home →
    ea = r.base + useOf s r side k.toNat % r.stages * 2 ^ r.stageLog2 + off * n →
    va = r.base + useOf s r side k.toNat % r.stages * 2 ^ r.stageLog2 + off * 128 → r.base % 128 = 0 → 7 ≤ r.stageLog2 →
    (StageOpen s h idx r side k.toNat (off * n + n) → hc = s.coreId →
      (LocalServed s ea n false → ∃ u, OnlyCore s u s.coreId ∧ (∀ b, locByte u s.coreId b = locByte s s.coreId b) ∧
        exec (.ringLd d h k o z) s = .next (u.wS 3 d (extendLoad z (locNumber s s.coreId ea n)))) ∧
      (LocalServed s ea n true → ∃ u, OnlyCore s u s.coreId ∧ exec (.ringSt d h k o z) s = .next u ∧
        StoresLocal s u s.coreId ea n (s.rS d).toNat)) ∧
    (StageOpen s h idx r side k.toNat (off * 128 + 128) → hc = s.coreId →
      (LocalServed s va 128 false → ∃ u, OnlyCore s u s.coreId ∧ (∀ b, locByte u s.coreId b = locByte s s.coreId b) ∧
        exec (.ringVld v h k o) s = .next (u.wV 4 v (BitVec.ofNat 1024 (locNumber s s.coreId va 128)))) ∧
      (LocalServed s va 128 true → ∃ u, OnlyCore s u s.coreId ∧ exec (.ringVst v h k o) s = .next u ∧
        StoresLocal s u s.coreId va 128 (s.rV v).toNat)) ∧
    (StageOpen s h idx r side k.toNat (off * n + n) → hc ≠ s.coreId → roleOf (s.core hc).bankRole (ea / 2 ^ 14) = 1 →
      (s.core hc).isChanging s.now (ea / 2 ^ 14) = false →
      ((s.core hc).lineHeld s.now (ea / 128) false false = false → ∃ u, OnlyCore s u hc ∧ (∀ b, locByte u hc b = locByte s hc b) ∧
        exec (.ringLd d h k o z) s = .next (u.wS 45 d (extendLoad z (locNumber s hc ea n)))) ∧
      ((s.core hc).lineHeld s.now (ea / 128) true false = false → ∃ u, OnlyCore s u hc ∧ (∀ b, locByte u hc b = locByte s hc b) ∧
        exec (.ringSt d h k o z) s = .next u.noteSender ∧ AsksStore s u hc ea n (s.rS d).toNat)) ∧
    (StageOpen s h idx r side k.toNat (off * 128 + 128) → hc ≠ s.coreId → roleOf (s.core hc).bankRole (va / 2 ^ 14) = 1 →
      (s.core hc).isChanging s.now (va / 2 ^ 14) = false →
      ((s.core hc).lineHeld s.now (va / 128) false false = false → ∃ u, OnlyCore s u hc ∧ (∀ b, locByte u hc b = locByte s hc b) ∧
        exec (.ringVld v h k o) s = .next (u.wV 46 v (BitVec.ofNat 1024 (locNumber s hc va 128)))) ∧
      ((s.core hc).lineHeld s.now (va / 128) true false = false → ∃ u, OnlyCore s u hc ∧ (∀ b, locByte u hc b = locByte s hc b) ∧
        exec (.ringVst v h k o) s = .next u.noteSender ∧ AsksStore s u hc va 128 (s.rV v).toNat)) ∧
    (Bound s h idx r side → (side = 1 ∨ side = 2) → k.toNat < r.stages → r.forbids side (useOf s r side k.toNat) = true →
      (off * n + n ≤ 2 ^ r.stageLog2 → HoldsOrTraps (exec (.ringLd d h k o z) s) ∧ HoldsOrTraps (exec (.ringSt d h k o z) s)) ∧
      (off * 128 + 128 ≤ 2 ^ r.stageLog2 → HoldsOrTraps (exec (.ringVld v h k o) s) ∧ HoldsOrTraps (exec (.ringVst v h k o) s))) ∧
    (Bound s h idx r side → (side = 1 ∨ side = 2) → k.toNat < r.stages → 2 ^ r.stageLog2 < off * n + n →
      Traps (exec (.ringLd d h k o z) s) 0x05 (ringFaultInfo 4 idx k.toNat h.toNat) s.cur.slot ∧
      Traps (exec (.ringSt d h k o z) s) 0x05 (ringFaultInfo 4 idx k.toNat h.toNat) s.cur.slot) ∧
    (∀ (u : State) (core x : Nat) (q : WindowOp), u.windowOk core q.a = true → q.store = some x →
      StoresLocal u (u.performWindow core q) core q.a q.n x)

/-! ### Réseau and accumulate-writes -/

namespace Sys2Proof.Claims

/-- The header and the level record of a region were read and are valid, and the registers they ask for exist: `g` is what they say, and `u` the state
after the reads (R297, R298, R306). -/
def GridRead (s : State) (base level : Nat) (scat : Bool) (last : Grid → Nat) (g : Grid) (u : State) : Prop :=
  ∃ (lh lr : List Piece) (x r : Nat) (w : State),
    s.xlate (base - base % 2 ^ 13) 16 { kind := .reseau } = .ok lh ∧
    s.xlate (base - base % 2 ^ 13 + 16 + 32 * level) 32 { kind := .reseau } = .ok lr ∧ NoWait s (lh ++ lr) ∧
    (x, w) = (served s (lh ++ lr)).readPieces lh ∧ (r, u) = w.readPieces lr ∧
    headerOk x = true ∧ level < x / 2 ^ 8 % 32 ∧ levelOk x r scat = true ∧ g = gridOf x r ∧ last g ≤ 31

/-- The reply `x` grants the first `n` halves of a reservation (R284). -/
def Grants (x n : Nat) : Prop := 8 ≤ x ∧ ∀ i < n, (grantAt x i).isSome = true

/-- The packets that carry some halves of a granted reservation in this module's basin (R283), each with the context's round. -/
def Carries (s t : State) (pa : Nat) (ps : List Packet) : Prop :=
  t.packets = s.packets ++ ps ∧ t.nextPacket = s.nextPacket + ps.length ∧ ∀ p ∈ ps, p.done = false ∧ p.sends = 1 ∧ p.ctx = some s.cur.ctx ∧
    p.gen = s.ctx.csr.gen ∧ p.tag = s.ctx.csr.pinRound.toNat % 2 ^ 16 ∧ pa ≤ p.pa

/-- Packet `q` carries `payload` for the half at `a`, the `i`-th that the reply `x` grants, as contributor `k` (R283). -/
def PacketFor (s : State) (x i a k : Nat) (bf close : Bool) (payload : VWord) (q : Packet) : Prop :=
  q.pa = a ∧ q.payload = payload ∧ q.k = k ∧ q.bf = bf ∧ q.close = close ∧ ∀ g, grantAt x i = some g →
    q.stack = g.stack ∧ q.basin = g.basin ∧ q.arm = BitVec.ofNat 8 g.arm ∧ q.half = (home a - (s.basin g.stack g.basin).result) / 128

end Sys2Proof.Claims

/-- R283, R284, R293, R294: an accumulate-write reserves at the basin first, after the reservations of lower slots, and holds until the engine
answers; granted, it sends one packet with the register's bytes, which the basin is to take in; refused, it traps with BASIN and the
engine's reason.

R259, R258, R294: `mdrain.acc` drains an owned tile that no engine uses into packets for a granted basin, each with its 128 bytes of the
converted tile; it asks the basin first, as an accumulate-write does. -/
def Obligations.AccumulateAndTileWrites : Prop :=
  (∀ (s : State) (a : BitVec 6) (v : BitVec 5) (c : BitVec 12) (e b : BitVec 1) (lo : Int) (ea k : Nat) (p : Piece) (pre : List Piece),
    s.lent < 2 ^ s.lentWidth → lo = (BitVec.ofNat s.lentWidth s.lent).toInt →
    ea = (s.rS a + BitVec.ofInt 64 (lo * 128)).toNat - (s.rS a + BitVec.ofInt 64 (lo * 128)).toNat % 128 →
    k = (if e = 1 then c.toNat else s.ctx.csr.contrib.toNat) → s.xlate ea 128 { kind := .confluence } = .ok (p :: pre) →
    region p.pa = .hbm →
    (s.cur.reserving = true → Holds s (exec (.accw v a c e b) s)) ∧
    (s.cur.reserving = false →
    (Unasked s → Asks s (exec (.accw v a c e b) s)
      { request opReserve p.pa (reserveWord k (s.ctx.csr.pinRound.toNat % 2 ^ 16) (b == 1) reserveTile) 0 with l := [0] }) ∧
    (∀ x, Answered s x → x < 8 → Traps (exec (.accw v a c e b) s) 0x05 (BitVec.ofNat 64 (5 * 2 ^ 60 + x * 2 ^ 16 + k % 4096)) s.cur.slot) ∧
    (∀ x g, Answered s x → 8 ≤ x → grantAt x 0 = some g →
      ∃ (t : State) (q : Packet), exec (.accw v a c e b) s = .next t ∧ Carries s t p.pa [q] ∧
        PacketFor s x 0 p.pa k (b == 1) false (s.rV v) q ∧ t.ctxs = s.ctxs ∧ t.cores = s.cores ∧ t.mem = s.mem))) ∧
  (∀ (s : State) (a : BitVec 2) (r : BitVec 6) (ty : BitVec 5) (code ea bytes : Nat) (sat : Bool) (p : Piece) (pre : List Piece),
    s.rounding = some (code, sat) → code ≠ 5 → Owns s a → bytes = imageBytes ty.toNat → ea = (s.rS r).toNat - (s.rS r).toNat % bytes →
    s.xlate ea bytes { kind := .confluence } = .ok (p :: pre) → region p.pa = .hbm →
    ((s.core s.coreId).isBusy s.now (.tile a.toNat) = true → Holds s (exec (.mdrainAcc a r ty) s)) ∧
    ((s.core s.coreId).isBusy s.now (.tile a.toNat) = false → s.cur.reserving = false →
      (Unasked s → Asks s (exec (.mdrainAcc a r ty) s)
        { request opReserve p.pa (reserveWord s.ctx.csr.contrib.toNat (s.ctx.csr.pinRound.toNat % 2 ^ 16) (ty == 10) reserveTile) 0 with
          l := upTo (bytes / 128) }) ∧
      (∀ x, Answered s x → x < 8 → Traps (exec (.mdrainAcc a r ty) s) 0x05
        (BitVec.ofNat 64 (5 * 2 ^ 60 + x * 2 ^ 16 + s.ctx.csr.contrib.toNat % 4096)) s.cur.slot) ∧
      (∀ x, Answered s x → Grants x (bytes / 128) →
        ∃ (t : State) (ps : List Packet), exec (.mdrainAcc a r ty) s = .next t ∧ Carries s t p.pa ps ∧ ps.length = bytes / 128 ∧
          (∀ i q, ps[i]? = some q → PacketFor s x i (p.pa + 128 * i) s.ctx.csr.contrib.toNat (ty == 10) false q.payload q ∧
            ∀ (w : Nat) (mode : Rnd), ty.toNat ≤ 13 → w = typeWidth ty.toNat → mode = (if s.modeOf code = .sr then .rne else s.modeOf code) →
              ∀ m n, m < 1024 / w → n = i * (1024 / w) + m → q.payload.toNat / 2 ^ (w * m) % 2 ^ w =
                (roundType ty.toNat (a80.decode ((s.core s.coreId).tileAt a.toNat (n / 32) (n % 32)).toNat) mode sat 0).1 % 2 ^ w) ∧
          (t.core s.coreId).isBusy (s.now + 1) (.tile a.toNat) = true ∧ t.mem = s.mem ∧ t.ctxs = s.ctxs)))

/-- R302, R306, R307: `rsld` with a valid header reads each entry that its enabled lanes name once, lands the interpolated features in
consecutive registers, after its last corner cycle and the loads before it, and occupies the unit; it holds while the unit has an
operation waiting. A header whose fields break R298, and a table past its page, fault.

R304 to R307: `rsscat` sums its lanes' terms per gradient element and sends one packet for each half of GRAD it names, with the sums of that
half and +0 elsewhere, after it has been in the unit, which it enters while its bundle holds (log entry 115), and the basin has granted
every half; with no enabled lane inside it sends none. Its close sends one packet that closes every half, once what the
context owes has been acknowledged. -/
def Obligations.GridLoadsAndScatters : Prop :=
  (∀ (s u : State) (v : BitVec 5) (a : BitVec 6) (c : BitVec 5) (k : BitVec 3) (l : BitVec 4) (d : BitVec 3) (n : Nat) (g : Grid) (p : Piece)
    (pre : List Piece),
    n = s.lent * 8 + d.toNat → 1 ≤ n → n ≤ 1023 → s.ctx.flow.landings.length < 16 →
    (GridRead s (s.rS a).toNat l.toNat false (fun g => max (c.toNat + g.dims - 1) (v.toNat + g.feats - 1)) g u →
      (∀ r ∈ groupRegs c g.dims, r ∉ u.ctx.flow.parity) → u.xlate g.table 1 { kind := .reseau } = .ok (p :: pre) →
      (leavesPage p (2 ^ g.tlog2 * (g.feats * g.featBytes)) = true →
        Traps (exec (.rsld v a c k l d) s) 0x05 (BitVec.ofNat 64 (4 * 2 ^ 16 + l.toNat * 2 ^ 3)) s.cur.slot) ∧
      (leavesPage p (2 ^ g.tlog2 * (g.feats * g.featBytes)) = false → u.hasEntered = false → (u.core u.coreId).reseauFull u.now = true →
        ∃ t, exec (.rsld v a c k l d) s = .next t ∧ t.cur.held = true ∧ t.ctxs = u.ctxs) ∧
      (leavesPage p (2 ^ g.tlog2 * (g.feats * g.featBytes)) = false → u.hasEntered = true ∨ (u.core u.coreId).reseauFull u.now = false →
        ∀ need : List Piece, need = (u.entriesOf g c (u.rK k)).map (fun e =>
          { p with pa := p.pa + e * (g.feats * g.featBytes), n := g.feats * g.featBytes }) → NoWait u need →
        ∃ (w z : State) (m : Store (List Nat)) (rs : List Nat) (es : List (EvKind × Nat)) (last : Nat),
          (m, w) = (served u need).readEntries g p (u.entriesOf g c (u.rK k)) ∧ (rs, es) = w.interpolateAll g m c (w.rK k) ∧
          rs.length = g.feats ∧ (last, z) = w.enterLoad (g.cornerCycles g.featBytes) ∧
          exec (.rsld v a c k l d) s = .next (z.landUnit last n ((indexed rs).map fun e =>
            .v (v + BitVec.ofNat 5 e.1) (w.rK k) (BitVec.ofNat 1024 e.2)) es))) ∧
    (∀ (lh lr : List Piece) (x r : Nat) (w : State),
      s.xlate ((s.rS a).toNat - (s.rS a).toNat % 2 ^ 13) 16 { kind := .reseau } = .ok lh →
      s.xlate ((s.rS a).toNat - (s.rS a).toNat % 2 ^ 13 + 16 + 32 * l.toNat) 32 { kind := .reseau } = .ok lr →
      NoWait s (lh ++ lr) → (x, w) = (served s (lh ++ lr)).readPieces lh → (r, u) = w.readPieces lr →
      (headerOk x = false → Traps (exec (.rsld v a c k l d) s) 0x05 (BitVec.ofNat 64 (1 * 2 ^ 16 + l.toNat * 2 ^ 3)) s.cur.slot) ∧
      (headerOk x = true → x / 2 ^ 8 % 32 ≤ l.toNat →
        Traps (exec (.rsld v a c k l d) s) 0x05 (BitVec.ofNat 64 (2 * 2 ^ 16 + l.toNat * 2 ^ 3)) s.cur.slot))) ∧
  (∀ (s : State) (n last : Nat) (ws : List RegWrite) (evs : List (EvKind × Nat)), ∃ (x : Landing) (at_ : Nat),
    (s.landUnit last n ws evs).ctx.flow.landings = s.ctx.flow.landings ++ [x] ∧ x.due = s.now + n ∧ x.ws = ws ∧
    (s.landUnit last n ws evs).timers = s.timers ++ [(at_, { i := .landing, a := s.cur.ctx, b := s.ctx.flow.nextLanding })] ∧
    s.now + n ≤ at_ ∧ last < at_ ∧ (s.core s.coreId).reseauLand < at_) ∧
  (∀ (s : State) (n : Nat), s.hasEntered = false → ((s.enterLoad n).2.core s.coreId).reseau = ((s.core s.coreId).reseauEnter s.now n).reseau ∧
    ((s.enterLoad n).1 = ((s.core s.coreId).reseauEnter s.now n).reseauEnd ∨ ∃ x, Answered s x)) ∧
  (∀ (s : State) (core id : Nat) (e : Event), ((s.enterUnit core e id).core core).reseau = ((s.core core).reseauEnter s.now (e.c / 16)).reseau ∧
    ∃ n last, last = ((s.core core).reseauEnter s.now (e.c / 16)).reseauEnd ∧ last < n ∧
      (s.enterUnit core e id).timers = s.timers ++ [(n, { e with d := id, v := BitVec.ofNat 64 last })]) ∧
  (∀ (s u : State) (v : BitVec 5) (a : BitVec 6) (c : BitVec 5) (k : BitVec 3) (l : BitVec 4) (g : Grid) (p : Piece) (pre : List Piece),
    s.lent = 0 → (u.core u.coreId).reseauFull u.now = false →
    (GridRead s (s.rS a).toNat l.toNat true (fun g => max (c.toNat + g.dims - 1) (v.toNat + g.feats - 1)) g u →
      u.xlate g.grad 1 { kind := .confluence } = .ok (p :: pre) → leavesPage p (2 ^ g.tlog2 * g.feats * 4) = false →
      (∀ r ∈ groupRegs c g.dims ++ groupRegs v g.feats, r ∉ u.ctx.flow.parity) →
      u.ctx.flow.writesAny v.toNat g.feats = false → u.ctx.flow.writesAny c.toNat g.dims = false →
      (halvesOf g (byCorner g.dims (u.allTerms g v c (u.rK k)).1) = [] →
        ∃ t, exec (.rsscat v a c k l) s = .next t ∧ t.packets = s.packets ∧ (t.core s.coreId).reseau ≠ [] ∧ t.ctxs = u.ctxs) ∧
      (∀ h0 hs, halvesOf g (byCorner g.dims (u.allTerms g v c (u.rK k)).1) = h0 :: hs → region (p.pa + 128 * h0) = .hbm →
        u.cur.reserving = false →
        (Unasked u → u.reseauSoFar.reseauFull u.now = true →
          ∃ t, exec (.rsscat v a c k l) s = .next t ∧ t.cur.held = true ∧ t.packets = s.packets ∧ t.cur.requests = u.cur.requests) ∧
        (Unasked u → u.reseauSoFar.reseauFull u.now = false → u.cur.units = [] →
          ∃ t, exec (.rsscat v a c k l) s = .next t ∧ t.cur.held = true ∧ t.packets = s.packets ∧
            t.cur.requests = u.cur.requests ++ [unitRequest s.cur.ctx s.cur.slot (g.cornerCycles 4)]) ∧
        (∀ x, Answered u x → u.hasEntered = true → ∃ t, exec (.rsscat v a c k l) s = .next t ∧ t.cur.held = true ∧ t.packets = s.packets ∧
          t.cur.requests = u.cur.requests ++ [{ request opReserve (p.pa + 128 * h0)
            (reserveWord ((s.rS a).toNat % 4096) (s.ctx.csr.pinRound.toNat % 2 ^ 16) false reserveEach) 0 with
            a := s.cur.ctx, b := s.cur.slot, l := (h0 :: hs).map (· - h0) }]) ∧
        (∀ x, Answered u x → u.hasEntered = false → Grants x (h0 :: hs).length →
          ∃ (t : State) (ps : List Packet), exec (.rsscat v a c k l) s = .next t ∧ Carries s t p.pa ps ∧ ps.length = (h0 :: hs).length ∧
            (∀ i q h, ps[i]? = some q → (h0 :: hs)[i]? = some h →
              PacketFor s x i (p.pa + 128 * h) ((s.rS a).toNat % 4096) false false q.payload q ∧
              ∀ m < 32, lane 32 q.payload m = (elementSum ((byCorner g.dims (u.allTerms g v c (u.rK k)).1).filter fun y =>
                y.x == 32 * h + m)).1 % 2 ^ 32) ∧
            (t.core s.coreId).reseau = (u.core s.coreId).reseau))) ∧
    (GridRead s (s.rS a).toNat l.toNat true (fun g => c.toNat + g.dims - 1) g u →
      u.xlate g.grad 1 { kind := .confluence } = .ok (p :: pre) → leavesPage p (2 ^ g.tlog2 * g.feats * 4) = false → region p.pa = .hbm →
      (u.owesPackets u.cur.ctx = true → ∃ t, exec (.rsscatClose v a c k l) s = .next t ∧ t.cur.held = true ∧ t.packets = s.packets) ∧
      (∀ x, u.owesPackets u.cur.ctx = false → u.cur.reserving = false → Answered u x → Grants x 1 →
        ∃ (t : State) (q : Packet), exec (.rsscatClose v a c k l) s = .next t ∧ Carries s t p.pa [q] ∧
          PacketFor s x 0 p.pa ((s.rS a).toNat % 4096) false true 0 q ∧ (t.core s.coreId).reseau ≠ [])))

/-! ### Delta processors -/

namespace Sys2Proof.Claims

/-- The instruction at the PC of the stack's run `r` issues in the run's cycle `t`, and sees the registers of `q` (R317, R318). -/
structure Issues (s : State) (w : BitVec 6) (r q : Run) (t : Nat) : Prop where
  stack : s.cur.stack < 16
  run : s.runOf s.cur.stack = some r
  cycle : t = max (r.next + w.toNat) r.held
  seen : q = r.settle t

/-- Lane `n` of a data register. -/
def dLane (s : State) (q : Run) (d : BitVec 5) (n : Nat) : Nat := (s.lanes q d).getD n 0

/-- The lanes that an instruction's mask enables (R319). -/
def lanesOn (q : Run) (f : DrFields) : List Nat := (List.range 1024).filter fun n => (q.getQ f.q).getLsbD n != (f.qn == 1)

/-- The random word of a lane (R326). -/
def drawOf (q : Run) (ei : BitVec 4) (m : BitVec 2) (n : Nat) : Nat :=
  philoxWord q.seed (q.round * 2 ^ 40 ||| ((q.getE ei).toNat + n) % 2 ^ 40) m.toNat

/-- The rounding mode of an instruction that may draw (R322). -/
def deltaMode (q : Run) (rnd : BitVec 3) : Rnd := Rnd.ofCode (if rnd = 7 then q.rnd else rnd.toNat)

/-- The instruction ends, and the only difference is that the stack's run is now `r`. -/
def LeavesRun (s : State) (i : Instr) (r : Run) : Prop := exec i s = .next (s.setRun s.cur.stack (some r))

/-- The instruction issues and queues the results `g` of its enabled lanes for `lat` cycles later, records what they raise, and goes on to the
next word. -/
def WritesLanes (i : Instr) (s : State) (q : Run) (t lat : Nat) (d : BitVec 5) (on : List Nat) (g : Nat → Nat × List EvKind) : Prop :=
  LeavesRun s i (((q.queue (t + lat) (.lanes d.toNat (on.map fun n => (n, (g n).1)))).record (on.flatMap fun n => (g n).2)).advance t)

/-- The instruction issues, queues one scalar result for the next cycle and goes on. -/
def WritesE (i : Instr) (s : State) (q : Run) (t : Nat) (e : BitVec 4) (x : Word) : Prop :=
  LeavesRun s i ((q.queue (t + 1) (.e e.toNat x)).advance t)

/-- The run after a taken branch in cycle `t`: the target issues one cycle later than the next word would (R318, R329). -/
def branched (q : Run) (t : Nat) (tgt : BitVec 13) : Run :=
  { q with last := q.pc, pc := tgt.toNat, issued := q.issued + 1, next := t + 2, held := 0 }

/-- An access of eight bytes by the stack's run is served at once, in state `s'`: it does not queue at DRAM that another run claims (R315). -/
def ServedRun (s : State) (pa : Nat) (s' : State) : Prop :=
  s.dramWaits (.run s.cur.stack) pa 8 = false ∧ s' = (s.dramTake pa 8).dramLeave (.run s.cur.stack)

/-- What a sum writes: a NaN that no addition has made is written canonical, with its events (R26). -/
def sumResult (y : Nat × List EvKind) : Nat × List EvKind :=
  if y.2 = [] ∧ (fp32.decode y.1).isNan = true then
    (0x7FC00000, if (fp32.decode y.1).isSnan then [.invalid, .nangen] else [.nangen])
  else y

end Sys2Proof.Claims

/-- R321 to R325, R328, R330: the lane instructions. Arithmetic is exact and rounded once by the instruction's mode; minima, maxima and signs act on
the words; `dsel` writes every lane; `dcmp` writes a mask register; sums go by the pair tree into lane 0, the squares of `dsq` rounded with the
instruction's saturation (log entry 61); `drng` is the draw's top 24 bits as a fraction; `dbcast` copies a scalar. The values of `drcp`,
`drsqrt` and `dsqrt` are exact ones cut below their last place with a sticky bit, as O19 states.

R321, R327, R140: `dcmp` sets the bits of its enabled lanes whose condition holds and clears the others; conversions to a narrow type round each
lane and pack the bytes (with a scale byte a block for the MX types), conversions from one unpack and widen them exactly. -/
def Obligations.DeltaLanesAndConversions : Prop :=
  (∀ (s : State) (w : BitVec 6) (f : DrFields) (r q : Run) (t : Nat) (mode : Rnd) (sat : Bool) (a b c : Nat → Nat) (rnd : Nat → Nat),
    Issues s w r q t → mode = deltaMode q f.rnd → sat = (f.sat == 1) → a = dLane s q f.da → b = dLane s q f.db → c = dLane s q f.dc →
    rnd = (fun n => if mode = .sr then drawOf q f.ei f.m n else 0) →
    let val (x : Nat) : Val := fp32.decode x
    let arithmetic (g : Nat → Val) (n : Nat) := fp32.round (g n) mode sat (rnd n)
    WritesLanes (.dadd w f) s q t 4 f.dd (lanesOn q f) (arithmetic fun n => (val (a n)).add mode (val (b n))) ∧
    WritesLanes (.dsub w f) s q t 4 f.dd (lanesOn q f) (arithmetic fun n => (val (a n)).add mode (val (b n)).neg) ∧
    WritesLanes (.dmul w f) s q t 4 f.dd (lanesOn q f) (arithmetic fun n => (val (a n)).mul (val (b n))) ∧
    WritesLanes (.dfma w f) s q t 6 f.dd (lanesOn q f) (arithmetic fun n => (val (a n)).fma mode (val (b n)) (val (c n))) ∧
    (∀ (isMin : Bool) (i : Instr), (isMin = true ∧ i = .dmin w f) ∨ (isMin = false ∧ i = .dmax w f) →
      WritesLanes i s q t 2 f.dd (lanesOn q f) fun n => minMaxFloat fp32 isMin (a n) (b n)) ∧
    (∀ (neg : Bool) (i : Instr), (neg = true ∧ i = .dneg w f) ∨ (neg = false ∧ i = .dabs w f) →
      WritesLanes i s q t 2 f.dd (lanesOn q f) fun n =>
        if (val (a n)).isNan then (0x7FC00000, if (val (a n)).isSnan then [.invalid, .nangen] else [.nangen])
        else (a n % 2 ^ 31 + (if neg && !(a n).testBit 31 then 2 ^ 31 else 0), [])) ∧
    (∀ (fn : Nat) (i : Instr), (fn = 0 ∧ i = .drcp w f) ∨ (fn = 1 ∧ i = .drsqrt w f) ∨ (fn = 2 ∧ i = .dsqrt w f) →
      WritesLanes i s q t 12 f.dd (lanesOn q f) fun n =>
        let x := unaryVal fn (val (a n))
        let y := fp32.round x.1 mode sat (rnd n)
        (y.1, x.2 ++ y.2)) ∧
    WritesLanes (.dsel w f) s q t 2 f.dd (List.range 1024)
      (fun n => (if (q.getQ f.q).getLsbD n != (f.qn == 1) then a n else b n, [])) ∧
    WritesLanes (.drng w f) s q t 4 f.dd (lanesOn q f) (fun n =>
      (if drawOf q f.ei f.m n / 2 ^ 8 = 0 then 0
        else (fp32.round (.num ⟨false, drawOf q f.ei f.m n / 2 ^ 8, -24, false⟩) .rne false 0).1, [])) ∧
    WritesLanes (.dbcast w f) s q t 2 f.dd (lanesOn q f) (fun _ => ((q.getE f.ei).toNat % 2 ^ 32, [])) ∧
    (∀ (leaf : Nat → Nat × List EvKind) (lat : Nat) (i : Instr),
      (leaf = (fun n => (a n, [])) ∧ lat = 42 ∧ i = .dsum w f) ∨
        (leaf = (fun n => fp32.round ((val (a n)).mul (val (a n))) .rne sat 0) ∧ lat = 46 ∧ i = .dsq w f) →
      ∀ x : Nat × List EvKind, x = sumResult ((pairTree (fun p y =>
          let z := fp32.round ((val p.1).add (if mode = .sr then .rne else mode) (val y.1)) (if mode = .sr then .rne else mode) sat 0
          (z.1, p.2 ++ y.2 ++ z.2)) (fun n => if (q.getQ f.q).getLsbD n != (f.qn == 1) then some (leaf n) else none) 10 0).getD (0, [])) →
        WritesLanes i s q t lat f.dd (List.range 1024) fun n => if n = 0 then x else (0, []))) ∧
  (∀ (s : State) (w : BitVec 6) (r q : Run) (t : Nat), Issues s w r q t →
    (∀ (qd m : BitVec 2) (da db : BitVec 5) (cc : BitVec 4) (qn : BitVec 1), ∃ (x : VWord) (es : List EvKind),
      LeavesRun s (.dcmp w qd da db cc m qn) (((q.queue (t + 2) (.q qd.toNat x)).record es).advance t) ∧
      ∀ n < 1024, x.getLsbD n = (((q.getQ m).getLsbD n != (qn == 1)) &&
        (floatCond cc.toNat (fp32.decode (dLane s q da n)) (fp32.decode (dLane s q db n))).1)) ∧
    (∀ (dd da ty : BitVec 5) (rnd : BitVec 3) (sat : BitVec 1) (m : BitVec 2) (ei : BitVec 4) (mode : Rnd) (draw : Nat → Nat) (ty' wd : Nat),
      mode = deltaMode q rnd → draw = (fun n => if mode = .sr then drawOf q ei m n else 0) → ty' = ty.toNat → wd = typeWidth ty' →
      ∃ (x : Nat) (es : List EvKind), LeavesRun s (.dcvtTo w dd da ty rnd sat m ei)
          (((q.queue (t + 4) (.lanes dd.toNat ((List.range 1024).map fun n => (n, x / 2 ^ (32 * n) % 2 ^ 32)))).record es).advance t) ∧
        (ty' ≤ 13 → ∀ n < 1024, x / 2 ^ (wd * n) % 2 ^ wd =
          ((fmtOf ty').round (fp32.decode (dLane s q da n)) mode (sat == 1) (draw n)).1 % 2 ^ wd) ∧
        (14 ≤ ty' → ty' ≤ 15 → ∀ (j : Nat) (vs : List Val), j < 32 → vs = (List.range 32).map (fun k => fp32.decode (dLane s q da (32 * j + k))) →
          x / 2 ^ (8192 + 8 * j) % 2 ^ 8 = (if vs.any fun v => v.isNan || v.isInf then 0xFF else mxScale ty' vs) ∧
          ∀ k < 32, x / 2 ^ (8 * (32 * j + k)) % 2 ^ 8 = (if vs.any fun v => v.isNan || v.isInf then 0
            else (mxElement ty' (mxScale ty' vs) (vs.getD k (.zero false)) mode (sat == 1) (draw (32 * j + k))).1 % 2 ^ 8))) ∧
    (∀ (dd da ty : BitVec 5) (rnd : BitVec 3) (sat : BitVec 1) (m : BitVec 2) (ei : BitVec 4) (x ty' wd : Nat), ty' = ty.toNat → wd = typeWidth ty' →
      x = (List.range 1024).foldr (fun n acc => dLane s q da n % 2 ^ 32 + 2 ^ 32 * acc) 0 →
      WritesLanes (.dcvtFrom w dd da ty rnd sat m ei) s q t 4 dd (List.range 1024) fun n =>
        fp32.round (if ty' ≤ 13 then (fmtOf ty').decode (x / 2 ^ (wd * n) % 2 ^ wd)
          else mxDecode ty' (x / 2 ^ (8192 + 8 * (n / 32)) % 256) (x / 2 ^ (wd * n) % 2 ^ wd)) .rne false 0))

/-- R317 to R319: a result of an instruction is seen from its latency on and not before, and the next instruction follows one cycle later.

R315, R317, R318, R329, R330: the scalar instructions: sums and products modulo 2^64 of a register and a register or an immediate, and branches, which
cost one cycle more; `eld` loads eight bytes of module memory outside the run's own channels, waits while the access queues at another
run's DRAM, and any other address stops the run. -/
def Obligations.DeltaScalarsAndLandings : Prop :=
  (∀ (r : Run) (t at_ c : Nat) (n : BitVec 4) (x : Word), r.pending = [] →
    ((r.queue at_ (.e n.toNat x)).settle c).getE n = (if n ≠ 0 ∧ at_ ≤ c then x else r.getE n) ∧
    (∀ m : BitVec 4, m ≠ n → ((r.queue at_ (.e n.toNat x)).settle c).getE m = r.getE m) ∧
    ((r.queue at_ (.e n.toNat x)).settle c).d = r.d ∧
    (∀ (d lane v : Nat), lane < 1024 → Store.get 0 ((r.queue at_ (.lanes d [(lane, v)])).settle c).d (1024 * d + lane) =
      (if at_ ≤ c then BitVec.ofNat 32 v else Store.get 0 r.d (1024 * d + lane))) ∧
    (r.advance t).pc = r.pc + 1 ∧ (r.advance t).next = t + 1 ∧ (r.advance t).d = r.d ∧ (r.advance t).e = r.e ∧ (r.advance t).q = r.q) ∧
  (∀ (s : State) (w : BitVec 6) (r q : Run) (t : Nat), Issues s w r q t →
    (∀ (ed ea eb : BitVec 4) (isel : BitVec 1) (imm : BitVec 32),
      WritesE (.eadd w ed ea eb isel imm) s q t ed (q.getE ea + if isel = 1 then imm.signExtend 64 else q.getE eb) ∧
      WritesE (.emul w ed ea eb isel imm) s q t ed (q.getE ea * if isel = 1 then imm.signExtend 64 else q.getE eb)) ∧
    (∀ (ed : BitVec 4) (imm : BitVec 40), WritesE (.eli w ed imm) s q t ed (imm.signExtend 64)) ∧
    (∀ (ea eb cc : BitVec 4) (tgt : BitVec 13),
      (intCond 64 cc.toNat (q.getE ea).toNat (q.getE eb).toNat = true →
        LeavesRun s (.ebr w ea eb cc tgt) (branched q t tgt)) ∧
      (intCond 64 cc.toNat (q.getE ea).toNat (q.getE eb).toNat = false → LeavesRun s (.ebr w ea eb cc tgt) (q.advance t)) ∧
      LeavesRun s (.ejmp w tgt) (branched q t tgt) ∧
      (q.getE ea ≠ 1 → LeavesRun s (.eloop w ea tgt) (branched (q.queue (t + 1) (.e ea.toNat (q.getE ea - 1))) t tgt)) ∧
      (q.getE ea = 1 → LeavesRun s (.eloop w ea tgt) ((q.queue (t + 1) (.e ea.toNat 0)).advance t))) ∧
    (∀ (ed ea : BitVec 4) (pa : Nat), pa = (q.getE ea).toNat →
      (∀ s' : State, pa % 8 = 0 → region pa = .hbm → q.claims s.cur.stack pa 8 = false → ServedRun s pa s' → s.memPoisoned pa 8 = false →
        ∃ n, t < n ∧ exec (.eld w ed ea) s = .next ({ s' with fresh := s'.fresh + 1 }.setRun s.cur.stack
          (some { (q.queue n (.e ed.toNat (BitVec.ofNat 64 (s.memRead pa 8)))).advance t with next := n }))) ∧
      (s.dramWaits (.run s.cur.stack) pa 8 = true → pa % 8 = 0 → region pa = .hbm → q.claims s.cur.stack pa 8 = false →
        exec (.eld w ed ea) s = .next ((s.dramJoin (.run s.cur.stack) pa 8).setRun s.cur.stack (some { r with held := s.runNow r + 1 }))) ∧
      ((pa % 8 ≠ 0 ∨ moduleMemory pa = false ∨ q.claims s.cur.stack pa 8 = true) →
        exec (.eld w ed ea) s = .next (s.stopRun s.cur.stack 6 r.pc))))

/-! ### Delta memory -/

namespace Sys2Proof.Claims

/-- The four segments of `dld` and `dst` (R331): where they lie, `b` bytes each. -/
def segsOf (q : Run) (ea es : BitVec 4) (n : Nat) : List Nat :=
  (List.range n).map fun g => ((q.getE ea).toNat + g * (q.getE es).toNat) % 2 ^ 64

/-- The segments may be moved now: no all-bank load is outstanding, each is legal and in a channel of the run, and none of the channel and row
times of R320 is broken; `q'` has those times brought forward and `e` is the end of the last segment. -/
def SegsPlaced (s : State) (q : Run) (t : Nat) (ea es : BitVec 4) (k : BitVec 3) (q' : Run) (e : Nat) : Prop :=
  (q.dldb.any fun x => !x.waited) = false ∧ (∀ x ∈ segsOf q ea es 4, s.segOk s.cur.stack (1024 / 2 ^ k.toNat) x = true) ∧
    q.place t (1024 / 2 ^ k.toNat) (segsOf q ea es 4) [] 0 = .ok (q', e)

/-- Lane `n` of what four segments of `b` bytes hold in memory; the lanes past the last byte are 0 (R331). -/
def memLane (s : State) (segs : List Nat) (b n : Nat) : Nat :=
  match segs[4 * n / b]? with
  | some x => s.memRead (segPa s.cur.stack x + 4 * n % b) 4
  | none => 0

end Sys2Proof.Claims

/-- R313, R316, R320, R331, R332: `dld` fills a register from four segments 16 cycles after the last ends; `dst` writes a register's bytes to its segments
and no other byte; `dldb` starts a load of all banks, whose lanes are those of memory when it lands; when each access is performed is log
entry 55. An outstanding all-bank load, an illegal segment, a pseudo-channel that is not the run's, and, of `dld` and `dst`, a broken
channel or row time each stop the run, OVERLAP before RANGE before these (log entry 54).

R309, R313, R318, R332: the last wave of an all-bank load lands with the lanes of memory, in the place among writes of the same cycle that its
issue gives it, unless an error has struck a segment, which stops the run; between waves the next one starts, of the stack's bank limit
as it then stands (log entry 57), and a run that exits starts none. -/
def Obligations.DeltaMemoryAccess : Prop :=
  (∀ (s : State) (w : BitVec 6) (r q : Run) (t : Nat) (d : BitVec 5) (ea es : BitVec 4) (k : BitVec 3) (b : Nat), Issues s w r q t →
    b = 1024 / 2 ^ k.toNat →
    (∀ (q' : Run) (e : Nat), SegsPlaced s q t ea es k q' e →
      ((∀ x ∈ segsOf q ea es 4, s.memPoisoned (segPa s.cur.stack x) b = false) → ∀ l : Nat,
        l = (if (segsOf q ea es 4).any (fun x => !x.testBit 36) then e + 16 else t + 24) →
        LeavesRun s (.dld w d ea es k) ({ q'.queue l (.lanes d.toNat ((List.range 1024).map fun n =>
          (n, memLane s (segsOf q ea es 4) b n))) with dramDone := max q'.dramDone l }.advance t)) ∧
      (∃ t', exec (.dst w d ea es k) s = .next t' ∧ t'.ctxs = s.ctxs ∧ t'.cores = s.cores ∧
        (∀ a, a < hostBase → home a = a → (∀ x ∈ segsOf q ea es 4, a < segPa s.cur.stack x ∨ segPa s.cur.stack x + b ≤ a) → sameByte s t' a) ∧
        ((∀ i j, i < j → j < 4 → ∀ x y, (segsOf q ea es 4)[i]? = some x → (segsOf q ea es 4)[j]? = some y →
            segPa s.cur.stack x + b ≤ segPa s.cur.stack y ∨ segPa s.cur.stack y + b ≤ segPa s.cur.stack x) →
          ∀ g x n, (segsOf q ea es 4)[g]? = some x → 4 * n < b →
            t'.memRead (segPa s.cur.stack x + 4 * n) 4 = dLane s q' d (b * g / 4 + n) % 2 ^ 32))) ∧
    ((q.dldb.any fun x => !x.waited) = true → exec (.dld w d ea es k) s = .next (s.stopRun s.cur.stack 5 r.pc) ∧
      exec (.dst w d ea es k) s = .next (s.stopRun s.cur.stack 5 r.pc)) ∧
    ((q.dldb.any fun x => !x.waited) = false → (∃ x ∈ segsOf q ea es 4, s.segOk s.cur.stack b x = false) →
      exec (.dld w d ea es k) s = .next (s.stopRun s.cur.stack 6 r.pc) ∧ exec (.dst w d ea es k) s = .next (s.stopRun s.cur.stack 6 r.pc)) ∧
    (∀ kind : Nat, (q.dldb.any fun x => !x.waited) = false → (∀ x ∈ segsOf q ea es 4, s.segOk s.cur.stack b x = true) →
      q.place t b (segsOf q ea es 4) [] 0 = .error kind →
      exec (.dld w d ea es k) s = .next (s.stopRun s.cur.stack kind r.pc) ∧ exec (.dst w d ea es k) s = .next (s.stopRun s.cur.stack kind r.pc)) ∧
    ((q.dldb.any fun x => !x.waited) = true ∨ t < q.dramDone → exec (.dldb w d ea es k) s = .next (s.stopRun s.cur.stack 5 r.pc)) ∧
    ((q.dldb.any fun x => !x.waited) = false → q.dramDone ≤ t →
      ((∃ x ∈ segsOf q ea es (4096 / b), s.segOk s.cur.stack b x = false) →
        exec (.dldb w d ea es k) s = .next (s.stopRun s.cur.stack 6 r.pc)) ∧
      ((∀ x ∈ segsOf q ea es (4096 / b), s.segOk s.cur.stack b x = true) →
        (∃ x ∈ segsOf q ea es (4096 / b), x.testBit 36 = false ∧ q.pchMask.getLsbD (pchOf x) = false) →
        exec (.dldb w d ea es k) s = .next (s.stopRun s.cur.stack 4 r.pc))) ∧
    ((q.dldb.any fun x => !x.waited) = false → q.dramDone ≤ t → (∀ x ∈ segsOf q ea es (4096 / b), s.segOk s.cur.stack b x = true) →
      (∀ x ∈ segsOf q ea es (4096 / b), x.testBit 36 = true ∨ q.pchMask.getLsbD (pchOf x) = true) →
      (∀ x ∈ segsOf q ea es (4096 / b), s.memPoisoned (segPa s.cur.stack x) b = false) →
      ∃ (t' : State) (r' : Run) (x : AllBank), exec (.dldb w d ea es k) s = .next t' ∧ t'.runOf s.cur.stack = some r' ∧ r'.dldb = some x ∧
        x.d = d.toNat ∧ x.segs = segsOf q ea es (4096 / b) ∧ x.bytes = b ∧ x.waited = false ∧ x.landed = false ∧ r'.pc = q.pc + 1 ∧
        r'.d = q.d ∧ r'.e = q.e ∧ r'.q = q.q ∧ t'.mem = s.mem ∧ t'.ctxs = s.ctxs)) ∧
  (∀ (q : Run) (t b x e p start : Nat) (xs : List Nat) (own : Store Nat), x.testBit 36 = false → p = pchOf x → start = max t (Store.get 0 own p) →
    (q.pchMask.getLsbD p = false → q.place t b (x :: xs) own e = .error 4) ∧
    (q.pchMask.getLsbD p = true → start < Store.get 0 q.pchEnd p → q.place t b (x :: xs) own e = .error 3) ∧
    (q.pchMask.getLsbD p = true → Store.get 0 q.pchEnd p ≤ start → ∀ row, row = Store.get 0 q.rowStart (64 * p + bankOf x) →
      (row ≠ 0 → start + 1 < row + 48 → q.place t b (x :: xs) own e = .error 2) ∧
      ((row = 0 ∨ row + 48 ≤ start + 1) → q.place t b (x :: xs) own e =
        { q with rowStart := Store.set 0 q.rowStart (64 * p + bankOf x) (start + 1) }.place t b xs (Store.set 0 own p (start + 8 + b / 32))
          (max e (start + 8 + b / 32))))) ∧
  (∀ (s : State) (r : Run) (x : AllBank), s.runOf s.arg.a = some r → r.dldb = some x →
    (∀ c, x.lands = some c → s.arg.b = c → s.arg.a = s.cur.stack →
      (∀ y ∈ x.segs, s.memPoisoned (segPa s.arg.a y) x.bytes = false) → ∃ t r', exec .dldbComplete s = .next t ∧ t.runOf s.arg.a = some r' ∧
      r'.dldb = (if x.waited then none else some { x with landed := true }) ∧
      (∃ p ∈ r'.pending, p.at_ = c ∧ p.order = x.order ∧ p.w = .lanes x.d ((List.range 1024).map fun n => (n, memLane s x.segs x.bytes n))) ∧
      t.mem = s.mem ∧ t.ctxs = s.ctxs) ∧
    (∀ c, x.lands = some c → s.arg.b = c → r.phase = .running → (∃ y ∈ x.segs, s.memPoisoned (segPa s.arg.a y) x.bytes = true) →
      ∃ t r', exec .dldbComplete s = .next t ∧ t.runOf s.arg.a = some r' ∧ r'.phase = .exiting ∧ r'.kind = 8 ∧ r'.faultPc = x.pc ∧
        r'.pending = r.pending ∧ t.mem = s.mem) ∧
    (x.lands = none → r.phase = .running → ∃ t r' y, exec .dldbComplete s = .next t ∧ t.runOf s.arg.a = some r' ∧ r'.dldb = some y ∧
      y.started = x.started + r.bankLimit ∧ y.segs = x.segs ∧ t.mem = s.mem) ∧
    (x.lands = none → r.phase ≠ .running → ∃ t r', exec .dldbComplete s = .next t ∧ t.runOf s.arg.a = some r' ∧ r'.dldb = none))

/-- R333, R334, R330: `dwait` waits for every DRAM instruction and clears the all-bank load; `dwait.ext` opens a window as well; `dlock` and `dunlock`
keep the set of locked rows, of at most 64. -/
def Obligations.DeltaWaitsAndLocks : Prop :=
  ∀ (s : State) (w : BitVec 6) (r q : Run) (t : Nat), Issues s w r q t →
    ((q.dldb.any fun x => x.lands.isNone) = false → ∀ u : Nat, u = max (t + 1) q.dramDone →
      (∃ r', LeavesRun s (.dwait w) r' ∧ r'.pc = q.pc + 1 ∧ r'.next = u ∧ r'.window = q.window ∧ (r'.dldb.any fun x => !x.waited) = false ∧
        r'.d = q.d ∧ r'.e = q.e ∧ r'.q = q.q ∧ r'.locks = q.locks) ∧
      (∀ n : BitVec 16, n ≠ 0 → ∃ r', LeavesRun s (.dwaitExt w n) r' ∧ r'.pc = q.pc + 1 ∧ r'.next = u + n.toNat ∧
        r'.window = some (u, u + n.toNat) ∧ (r'.dldb.any fun x => !x.waited) = false ∧ r'.d = q.d ∧ r'.e = q.e ∧ r'.q = q.q)) ∧
    ((q.dldb.any fun x => x.lands.isNone) = true → LeavesRun s (.dwait w) { r with held := s.runNow r + 1 }) ∧
    (∀ (ea es : BitVec 4) (k : BitVec 3),
      (∀ x ∈ segsOf q ea es 4, x.testBit 36 = false ∧ s.segOk s.cur.stack (1024 / 2 ^ k.toNat) x = true) →
      ((∀ x ∈ segsOf q ea es 4, q.pchMask.getLsbD (pchOf x) = true) → q.locks.length ≤ 60 →
        ∃ ls, LeavesRun s (.dlock w ea es k) ({ q with locks := ls }.advance t) ∧
          ∀ y, y ∈ ls ↔ y ∈ q.locks ∨ ∃ x ∈ segsOf q ea es 4, y = (pchOf x, bankOf x, rowOf x)) ∧
      ((∃ x ∈ segsOf q ea es 4, q.pchMask.getLsbD (pchOf x) = false) →
        exec (.dlock w ea es k) s = .next (s.stopRun s.cur.stack 4 r.pc)) ∧
      ∃ ls, LeavesRun s (.dunlock w ea es k) ({ q with locks := ls }.advance t) ∧
        ∀ y, y ∈ ls ↔ y ∈ q.locks ∧ ∀ x ∈ segsOf q ea es 4, y ≠ (pchOf x, bankOf x, rowOf x))

/-- R335 to R338: pushes, signals, publications and the end of a program. A store push sets out with its bytes; an accumulate push asks for its
reservation; `dsig`, `dsig.st` and `dpub` wait for earlier stores and pushes, then send, store or publish, and a `dpub` to a set that
is not there publishes nothing (log entry 46); `dhalt` waits for everything and ends the run. -/
def Obligations.DeltaMessages : Prop :=
  ∀ (s : State) (w : BitVec 6) (r q : Run) (t : Nat), Issues s w r q t →
    (∀ (d : BitVec 5) (ea ek : BitVec 4) (k : BitVec 3) (pa n x : Nat), pa = (q.getE ea).toNat → n = 4096 / 2 ^ k.toNat → pa % n = 0 →
      q.pushes.length < 64 → x = (List.range (n / 4)).foldr (fun i acc => dLane s q d i % 2 ^ 32 + 2 ^ 32 * acc) 0 →
      (region pa = .hbm → q.claims s.cur.stack pa n = false → ∃ t' r', exec (.dpush w d ea ek k) s = .next t' ∧ t'.runOf s.cur.stack = some r' ∧
        r'.pushes = q.pushes ++ [⟨q.nextPush, false, pa, n, x, 0, 0⟩] ∧ r'.pc = q.pc + 1 ∧ t'.mem = s.mem ∧ t'.ctxs = s.ctxs) ∧
      (region pa = .hbm → ∀ reply, reply = (s.serveReserve pa (upTo (n / 128)) (reserveWord ((q.getE ek).toNat % 4096)
          ((q.getE ek).toNat / 2 ^ 16 % 2 ^ 16) false reserveEach)).1 →
        (∀ c, reply = some c → c < 8 → exec (.dpushAcc w d ea ek k) s = .next (s.stopRun s.cur.stack 10 r.pc)) ∧
        ((∀ c, reply = some c → 8 ≤ c) → ∀ p : Push, p = ⟨q.nextPush, true, pa, n, x, (q.getE ek).toNat % 4096,
            (q.getE ek).toNat / 2 ^ 16 % 2 ^ 16⟩ →
          exec (.dpushAcc w d ea ek k) s = .next ((s.setRun s.cur.stack (some ({ q with
            pushes := q.pushes ++ [p], nextPush := q.nextPush + 1 }.advance t))).reservePush s.cur.stack p)))) ∧
    (∀ (d : BitVec 5) (ea ek : BitVec 4) (k : BitVec 3), (q.getE ea).toNat % (4096 / 2 ^ k.toNat) ≠ 0 →
      exec (.dpush w d ea ek k) s = .next (s.stopRun s.cur.stack 6 r.pc) ∧ exec (.dpushAcc w d ea ek k) s = .next (s.stopRun s.cur.stack 6 r.pc)) ∧
    (q.pushes = [] → q.dstDone ≤ t → ∀ (ea ev n : BitVec 4) (pa : Nat), pa = (q.getE ea).toNat →
      exec (.dsig w ea ev n) s = .next { s.setRun s.cur.stack (some { q.advance t with signalling := true }) with
        agenda := s.agenda ++ [{ i := .signalDelivery, a := s.cur.stack, b := n.toNat, c := 3, v := q.getE ea, sig := q.sig }] } ∧
      (∀ s' : State, pa % 8 = 0 → region pa = .hbm → q.claims s.cur.stack pa 8 = false → ServedRun s pa s' →
        ∃ t', exec (.dsigSt w ea ev n) s = .next t' ∧ t'.runOf s.cur.stack = some (q.advance t) ∧ t'.memRead pa 8 = (q.getE ev).toNat ∧
          (∀ a, a < hostBase → (∀ i < 8, home a ≠ home (pa + i)) → sameByte s t' a)) ∧
      (pa % 8 ≠ 0 → exec (.dsigSt w ea ev n) s = .next (s.stopRun s.cur.stack 6 r.pc)) ∧
      (s.setCount ≤ (q.getE ea).toNat % 2 ^ 16 → ∃ t', exec (.dpub w ea ev) s = .next t' ∧ t'.runOf s.cur.stack = some (q.advance t) ∧
        t'.mem = s.mem) ∧
      (∀ i, i = (q.getE ea).toNat % 2 ^ 16 → i < s.setCount → ∃ u, u = s.setRun s.cur.stack (some { q.advance t with pubs := q.pubs + 1 }) ∧
        exec (.dpub w ea ev) s = .next ((u.publish s.cur.stack i ((q.getE ev).toNat % 2 ^ 32) q.sig).afterRound i))) ∧
    ((q.pushes ≠ [] ∨ t < q.dstDone) → ∀ ea ev n : BitVec 4, LeavesRun s (.dsig w ea ev n) { r with held := s.runNow r + 1 } ∧
      LeavesRun s (.dsigSt w ea ev n) { r with held := s.runNow r + 1 } ∧ LeavesRun s (.dpub w ea ev) { r with held := s.runNow r + 1 }) ∧
    (q.finished t = true → ∃ t' r', exec (.dhalt w) s = .next t' ∧ t'.runOf s.cur.stack = some r' ∧ r'.phase = .exiting ∧ r'.kind = q.kind ∧
      t'.mem = s.mem ∧ t'.ctxs = s.ctxs) ∧
    (q.finished t = false → LeavesRun s (.dhalt w) { r with held := s.runNow r + 1 })

/-! ### Translation and the steps of a core's surroundings -/

namespace Sys2Proof.Claims

/-- The TLBs of cores, clusters and dies hold what `p` says an entry must be, of what they held before. -/
def TlbsKeep (s t : State) (p : TlbEntry → Prop) : Prop :=
  (∀ k e, e ∈ (t.core k).tlb ↔ e ∈ (s.core k).tlb ∧ p e) ∧ (∀ k e, e ∈ (t.cluster k).tlb ↔ e ∈ (s.cluster k).tlb ∧ p e) ∧
    ∀ k e, e ∈ (t.die k).tlb ↔ e ∈ (s.die k).tlb ∧ p e

/-- What TLB_INVAL's value `v` leaves standing (R180). -/
def outlives (v : Word) (e : TlbEntry) : Prop := v.getLsbD 0 = false ∧ e.covers (bits v.toNat 56 16) = false

/-- The management processor runs: what the host writes in the MGMT window takes effect (R374, R380). -/
def Managed (s : State) : Prop := s.mc.stage = 1 ∨ s.mc.stage = 2

/-- No translation found for a held bundle is left (R180). -/
def NothingFound (t : State) : Prop := ∀ x va w, tlbLookup (t.core (coreOf x)).tlb (pageOf va) = none → t.lookup x va ≠ some (.leaf w)

end Sys2Proof.Claims

/-- R176, R180, R181, R183, R184, R187, R188: a noncanonical address faults; a walk follows table entries of HBM frames
down to a legal leaf of its level, and fails where an entry is not valid or no legal leaf; on an ordinary raw page of HBM the rights decide in the order USER, R, W, X; an address
whose page no TLB holds waits for a walk.

R180, R187, R315, R380: a walk or an outer TLB answers with a leaf, which the three TLBs above the core then hold (log entry 75), or with the
reason that fails the waiting access; a walk whose tables lie in DRAM that a run claims queues there; a write of PT_ROOT empties every TLB; one of TLB_INVAL drops the named page or all, as it is made and once more when every walk
begun before it has ended, and reads 1 until then. Neither has an effect before the management processor runs. -/
def Obligations.TranslationRightsAndTlbs : Prop :=
  ((∀ (s : State) (x va issued : Nat) (r : AccessRule) (p : Bool), canonical va = false → s.translate x va issued r p = .fault 0x04 1 issued) ∧
  (∀ (s : State) (die va n : Nat) (t w : Nat → Nat), n ≤ 4 → t 0 = bits s.ptRoot.toNat 51 12 * 2 ^ 12 →
    (∀ i, w i = s.readTable die (t i + 8 * levelIndex i va)) → (∀ i, t (i + 1) = bits (w i) 51 12 * 2 ^ 12) → (∀ i ≤ n, region (t i) = .hbm) →
    (∀ i < n, bit (w i) 0 = true ∧ bits (w i) 3 1 = 0 ∧ bits (w i) 11 4 = 0 ∧ bits (w i) 63 52 = 0) →
    (bit (w n) 0 = false → s.walk die va = .failed 2) ∧
    (2 ≤ n → bit (w n) 0 = true → bits (w n) 3 1 ≠ 0 → leafSize (w n) = 4 - n → leafLegal (w n) = true → s.walk die va = .leaf (w n)) ∧
    (bit (w n) 0 = true → bits (w n) 3 1 ≠ 0 → (n < 2 ∨ leafSize (w n) ≠ 4 - n ∨ leafLegal (w n) = false) → s.walk die va = .failed 3)) ∧
  (∀ (s : State) (x va issued w pa : Nat) (r : AccessRule) (p : Bool), canonical va = true → s.lookup x va = some (.leaf w) →
    leafFmt w = 0 → leafClass w = 0 → region (leafFrame w) = .hbm → region (leafFrame w + leafBytes w - 1) = .hbm →
    pa = leafFrame w + va % leafBytes w → r.kind ∈ [Access.load, .store, .vload, .vstore, .fetch] → r.fmt = 0 →
    s.translate x va issued r p =
      if p = false ∧ bit w 4 = false then .fault 0x05 8 issued
      else if r.kind.needsR = true ∧ bit w 1 = false then .fault 0x05 9 issued
      else if r.kind.needsW = true ∧ bit w 2 = false then .fault 0x05 10 issued
      else if r.kind = .fetch ∧ bit w 3 = false then .fault 0x05 11 issued
      else .ok pa w) ∧
  (∀ (s : State) (x va issued : Nat) (r : AccessRule) (p : Bool), canonical va = true → s.lookup x va = none →
    s.translate x va issued r p = .wait va)) ∧
  (∀ s : State,
    (∀ a, s.firstWaiting (.step s.arg) [] (s.walkAccesses s.arg) = some a →
      exec .tlbWalkDone s = .next (s.dramJoin (.step s.arg) a.1 a.2)) ∧
    (∀ (x va core : Nat), x = s.arg.a → va = s.arg.b → core = coreOf x → s.firstWaiting (.step s.arg) [] (s.walkAccesses s.arg) = none →
      ∃ t, exec .tlbWalkDone s = .next t ∧ t.mem = s.mem ∧ KeepsContexts s t ∧
      (∀ w, (s.outerTlb core (pageOf va) = some w ∨ (s.outerTlb core (pageOf va) = none ∧ s.walk (dieOf core) va = .leaf w)) →
        tlbLookup (t.core core).tlb (pageOf va) = some w ∧ tlbLookup (t.cluster (clusterOf core)).tlb (pageOf va) = some w ∧
        tlbLookup (t.die (dieOf core)).tlb (pageOf va) = some w) ∧
      (∀ n, s.outerTlb core (pageOf va) = none → s.walk (dieOf core) va = .failed n → tlbLookup (s.core core).tlb (pageOf va) = none →
        canonical va = true → ∀ issued r p, t.translate x va issued r p = .fault 0x04 n issued)) ∧
    (Managed s → ∃ t, exec .ptRootWrite s = .next t ∧ t.ptRoot = s.arg.v &&& 0x000FFFFFFFFFF000 ∧ TlbsKeep s t (fun _ => False) ∧
      NothingFound t ∧ KeepsContexts s t ∧ t.mem = s.mem) ∧
    (Managed s → ∃ t, exec .tlbInval s = .next t ∧ t.tlbInval = s.tlbInval + 1 ∧ TlbsKeep s t (outlives s.arg.v) ∧ NothingFound t ∧
      KeepsContexts s t ∧ t.mem = s.mem ∧ t.ptRoot = s.ptRoot ∧
      ∃ n, s.now < n ∧ (n, { i := .tlbInvalDone, c := s.now, v := s.arg.v }) ∈ t.timers) ∧
    (¬ Managed s → exec .ptRootWrite s = .next s ∧ exec .tlbInval s = .next s) ∧
    (s.walksSince s.arg.c = false → ∃ t, exec .tlbInvalDone s = .next t ∧ t.tlbInval = s.tlbInval - 1 ∧ TlbsKeep s t (outlives s.arg.v) ∧
      NothingFound t ∧ KeepsContexts s t ∧ t.mem = s.mem ∧ t.ptRoot = s.ptRoot) ∧
    (s.walksSince s.arg.c = true → ∃ n, s.now < n ∧ exec .tlbInvalDone s =
      .next { s with fresh := s.fresh + 1, timers := s.timers ++ [(n, s.arg)] }))

namespace Sys2Proof.Claims

/-- Contexts other than `x` keep their registers, mode, PC and trap registers. -/
def OthersKeep (s t : State) (x : Nat) : Prop :=
  ∀ y, y ≠ x → (t.ctxAt y).r = (s.ctxAt y).r ∧ (t.ctxAt y).csr = (s.ctxAt y).csr ∧ (t.ctxAt y).trap = (s.ctxAt y).trap ∧
    (t.ctxAt y).log = (s.ctxAt y).log ∧ (t.ctxAt y).priv = (s.ctxAt y).priv ∧ (t.ctxAt y).pc = (s.ctxAt y).pc ∧
    (t.ctxAt y).phase = (s.ctxAt y).phase

/-- The asynchronous cause that a context takes first, with TRAP_INFO (R360). -/
def firstCause (f : Flow) : Option (Nat × Word) :=
  match f.copyError, f.remoteError, f.preempt with
  | some w, _, _ => some (0x21, w ||| BitVec.ofNat 64 (f.heldInfo + if f.copyMore then 512 else 0))
  | none, some w, _ => some (0x22, w ||| BitVec.ofNat 64 (f.heldInfo + if f.remoteMore then 512 else 0))
  | none, none, some park => some (0x20, BitVec.ofNat 64 (f.heldInfo + if park then 256 else 0))
  | none, none, none => none

end Sys2Proof.Claims

/-- R80, R83, R92, R226, R357, R358, R360: an asynchronous trap is taken by an active user-mode context with a pending cause, at its PC and with its results still on
their way; the switch gives the slot to a ready context of the highest level, the next in turn; a retiring context for which nothing is outstanding
writes back what its release owes to DRAM (R207) and, once that is performed, becomes FREE; a core with nothing to do is gated, its matrix
engine idle (R255); a missing line of code comes from the die's L2 or the memory side. -/
def Obligations.ContextSteps : Prop :=
  ∀ s : State,
    (∀ (x cause : Nat) (info : Word), x = s.arg.a → (s.ctxAt x).phase = .active → (s.ctxAt x).priv = false →
      firstCause (s.ctxAt x).flow = some (cause, info) → ∃ (t : State) (c : Ctx), exec .asyncTrap s = .next t ∧ t.ctxAt x = c ∧
        c.priv = true ∧ c.pc = (s.ctxAt x).trap.vec ∧
        c.trap = { (s.ctxAt x).trap with
          pc := (s.ctxAt x).pc &&& ~~~0xF#64, slot := 0, cause := BitVec.ofNat 8 cause, info := info, status := (s.ctxAt x).r.f } ∧
        c.r = (s.ctxAt x).r ∧ c.csr = (s.ctxAt x).csr ∧ c.log = (s.ctxAt x).log ∧ c.flow.pending = (s.ctxAt x).flow.pending ∧
        c.flow.landings = (s.ctxAt x).flow.landings ∧ c.flow.earliest = s.now + 2 ∧ (∀ y, y ≠ x → t.ctxAt y = s.ctxAt y) ∧ t.mem = s.mem) ∧
    (((s.ctxAt s.arg.a).priv = true ∨ firstCause (s.ctxAt s.arg.a).flow = none) → exec .asyncTrap s = .next s) ∧
    (∀ (k m i : Nat), k = s.arg.a → m = s.arg.c → i = (s.core k).running → i < 4 →
      ((∃ j < 4, bit m j = true) → ∃ (t : State) (j : Nat), exec .switch s = .next t ∧ j < 4 ∧ bit m j = true ∧
        (∀ n < 4, bit m n = true → (s.ctxAt (4 * k + n)).csr.level.toNat ≤ (s.ctxAt (4 * k + j)).csr.level.toNat) ∧
        (∀ n < 4, bit m n = true → (s.ctxAt (4 * k + n)).csr.level = (s.ctxAt (4 * k + j)).csr.level → (j + 3 - i) % 4 ≤ (n + 3 - i) % 4) ∧
        t.core k = { s.core k with running := j, granted := true, yielded := false } ∧ KeepsContexts s t ∧ t.mem = s.mem ∧
        ∀ y, y ≠ k → t.core y = s.core y) ∧
      ((∀ j < 4, bit m j = false) → ∃ t, exec .switch s = .next t ∧ t.core k = { s.core k with granted := false, yielded := false } ∧
        KeepsContexts s t ∧ t.mem = s.mem ∧ ∀ y, y ≠ k → t.core y = s.core y)) ∧
    (∀ x : Nat, x = s.arg.a → (s.ctxAt x).phase = .retiring →
      (s.mayFree x = true → s.flushWaits (coreOf x) true 0 = true → exec .contextFree s = .next (s.flushLate (coreOf x) true 0)) ∧
      (s.mayFree x = true → s.flushWaits (coreOf x) true 0 = false → ∃ t, exec .contextFree s = .next t ∧ (t.ctxAt x).phase = .free ∧ (t.ctxAt x).r = {} ∧
        (t.ctxAt x).csr = { gen := (s.ctxAt x).csr.gen } ∧ (t.ctxAt x).launch = none ∧ OthersKeep s t x) ∧
      (s.mayFree x = false → exec .contextFree s = .next s)) ∧
    (∀ k : Nat, k = s.arg.a →
      ((∀ i < 4, ((s.ctxAt (4 * k + i)).phase = .free ∨ ((s.ctxAt (4 * k + i)).phase = .active ∧ (s.ctxAt (4 * k + i)).flow.quiet = true)) ∧
          (s.ctxAt (4 * k + i)).flow.landings = []) → (∀ b ∈ (s.core k).busy, b.last < s.now) → (s.core k).transposes = [] →
        exec .powerGate s = .next (s.modCore k fun c => { c with gated := true, lastActive := none })) ∧
      (∀ (c : CoreSt) (now : Nat), c.lastActive = none → c.cold now = true) ∧
      (∀ i < 4, (s.ctxAt (4 * k + i)).flow.landings ≠ [] → exec .powerGate s = .next s)) ∧
    (∀ x line core : Nat, x = s.arg.a → line = s.arg.b → core = coreOf x → region (line * 128) = .hbm →
      ((s.l2Line (dieOf core) line).have_ = 15 ∨ s.firstWaiting (.step s.arg) [] [(line * 128, 128)] = none) → ∃ t d,
      exec .instructionCacheFill s = .next t ∧ Store.get none (t.core core).icache line = some d ∧ KeepsContexts s t ∧ t.mem = s.mem ∧
      (∀ b < 128, (d >>> (8 * b)).toNat % 2 ^ 8 = if (s.l2Line (dieOf core) line).have_.getLsbD (b / 32)
        then ((s.l2Line (dieOf core) line).data >>> (8 * b)).toNat % 2 ^ 8 else s.memRead (line * 128 + b) 1) ∧
      ∀ l, l ≠ line → Store.get none (t.core core).icache l = Store.get none (s.core core).icache l ∨ Store.get none (t.core core).icache l = none)

/-- R361, R364, R365: a pre-emption request becomes pending in a context that runs; a parking context that has settled becomes FREE and its launch lists it as
parked, with the launch's rings frozen and the pin it has kept (R347); a resume request starts a prologue for a parked context, which then is created in privileged mode at the
resume vector with the cause that tells its routine why. -/
def Obligations.ParkingAndResuming : Prop :=
  ∀ s : State,
    (¬ Managed s → exec .preemptReq s = .next s ∧ exec .resumeReq s = .next s) ∧
    (∀ x : Nat, x = s.arg.v.toNat % 2 ^ 12 → Managed s →
      (x < 3072 → (s.ctxAt x).phase = .active ∨ (s.ctxAt x).phase = .prologue → exec .preemptReq s = .next ({ s with lastNamed := x }.modCtxAt x
        fun c => { c with flow := { c.flow with preempt := some (s.arg.v.getLsbD 16) } })) ∧
      ((3072 ≤ x ∨ ((s.ctxAt x).phase ≠ .active ∧ (s.ctxAt x).phase ≠ .prologue)) → exec .preemptReq s = .next { s with lastNamed := x }) ∧
      (∀ l, s.parkedIn x = some l → ∃ t, exec .resumeReq s = .next t ∧ t.lastNamed = x ∧ t.ctxs = s.ctxs ∧ t.cores = s.cores ∧ t.mem = s.mem ∧
        ∃ n, s.now < n ∧ t.timers = s.timers ++ [(n, { i := .resumePrologue, a := x })]) ∧
      (s.parkedIn x = none → exec .resumeReq s = .next { s with lastNamed := x })) ∧
    (∀ (x l : Nat) (y : Launch), x = s.arg.a → (s.ctxAt x).phase = .parking → (s.ctxAt x).launch = some l → s.launch l = some y →
      s.fillsTaken l = false → s.settled x = true → s.owesPackets x = false → ∃ t, exec .parkComplete s = .next t ∧ (t.ctxAt x).phase = .free ∧ (t.ctxAt x).r = {} ∧
        (t.ctxAt x).csr = { gen := (s.ctxAt x).csr.gen } ∧ OthersKeep s t x ∧
        t.launch l = some { y with
          frozen := true, live := y.live.erase x, resuming := y.resuming.erase x, parked := x :: y.parked
          parkedPins := ((Store.get none s.ctxPins x).map fun p => (x, p)).toList ++ y.parkedPins } ∧ Store.get none t.ctxPins x = none) ∧
    (∀ (x l : Nat) (y : Launch), x = s.arg.a → (s.ctxAt x).phase = .parking → (s.ctxAt x).launch = some l → s.launch l = some y →
      s.settled x = false ∨ s.owesPackets x = true → exec .parkComplete s = .next (s.setLaunch l (some { y with frozen := true }))) ∧
    (∀ (x l place : Nat) (y : Launch), x = s.arg.a → s.parkedIn x = some l → s.launch l = some y →
      (y.places.find? fun p => placeCore p == coreOf x) = some place → s.coreFreeFor l (coreOf x) = true →
      ∃ t, exec .resumePrologue s = .next t ∧ (t.ctxAt x).phase = .prologue ∧ (t.ctxAt x).priv = true ∧
        (t.ctxAt x).pc = s.mgmtReg 0x430 &&& 0x01FFFFFFFFFFFFF0#64 ∧ (t.ctxAt x).trap.cause = 0x24 ∧ (t.ctxAt x).launch = some l ∧
        (t.ctxAt x).csr.gen = (s.ctxAt x).csr.gen + 1 ∧ (t.ctxAt x).r = {} ∧ OthersKeep s t x ∧
        (t.ctxAt x).csr.pinRound = BitVec.ofNat 64 ((y.pins.head?.map (·.2)).getD 0) ∧ Store.get none t.ctxPins x = y.pinOf x ∧
        t.launch l = some { y with
          parked := y.parked.erase x, parkedPins := y.parkedPins.filter (fun p => p.1 != x), resuming := x :: y.resuming, live := x :: y.live
          gens := (x, ((s.ctxAt x).csr.gen + 1).toNat) :: y.gens })

/-! ### The command graph -/

namespace Sys2Proof.Claims

/-- A step of its own is on its way: `e` falls due later. -/
def Due (s t : State) (e : Event) : Prop := ∃ n, s.now < n ∧ (n, e) ∈ t.timers

/-- The nodes, launches and registers of the walker may differ; contexts, cores, memory and the rest of the module do not. -/
def OnlyWalker (s t : State) : Prop := { t with walker := s.walker, timers := s.timers, fresh := s.fresh, agenda := s.agenda } = s

/-- The step's accesses to some physical ranges are served at once, in state `s'`: none queues at DRAM that a run claims (R315). -/
def ServedStep (s : State) (l : List (Nat × Nat)) (s' : State) : Prop :=
  s.firstWaiting (.step s.arg) [] l = none ∧ s' = (l.foldl (fun s x => s.dramTake x.1 x.2) s).dramLeave (.step s.arg)

/-- The walker's reads of some virtual ranges are served at once, in state `s'`, and so are those of the tables of their translation. -/
def Reads (s : State) (l : List (Nat × Nat)) (s' : State) : Prop := ServedStep s (s.walkerAccesses l) s'

/-- A status word is written at once: nothing queues at DRAM (R315), and a word in side store lies in a way that serves (R279). -/
def WritesNow (s : State) (pa : Nat) : Prop :=
  s.dramBlocked pa 8 = false ∧ s.dramQueue = [] ∧ (region pa = .side → s.sideServes pa = true)

end Sys2Proof.Claims

/-- R95, R96, R97, R99, R380: a submission takes a credit and is validated later; without credit, frozen, misaligned or before stage 2 it is counted as
rejected. ERR_ACK thaws, in stage 2. A descriptor that cannot be read counts as a rejected submission, and a node table that cannot be
read has its graph REJECTED (log entry 40). Validation accepts a graph whose records are legal: its status word reads ACCEPTED and its nodes without dependences are
READY; an illegal one reads REJECTED and gives its credit back in the cycle after. -/
def Obligations.GraphSubmission : Prop :=
  ∀ s : State,
    (s.walker.credits ≠ 0 → s.walker.frozen = false → s.arg.v.toNat % 64 = 0 → s.mc.stage = 2 → ∃ t, exec .submit s = .next t ∧
      t.graph s.walker.nextId = some { addr := s.arg.v.toNat } ∧ t.walker.credits = s.walker.credits - 1 ∧ t.walker.nextId = s.walker.nextId + 1 ∧
      t.walker.rejected = s.walker.rejected ∧ Due s t { i := .graphValidation, a := s.walker.nextId } ∧ OnlyWalker s t) ∧
    ((s.walker.credits = 0 ∨ s.walker.frozen = true ∨ s.arg.v.toNat % 64 ≠ 0 ∨ s.mc.stage ≠ 2) →
      exec .submit s = .next { s with walker := { s.walker with rejected := min 255 (s.walker.rejected + 1) } }) ∧
    (s.arg.v.getLsbD 0 = true → s.mc.stage = 2 → exec .errAck s = .next { s with walker := { s.walker with frozen := false, rejected := 0 } }) ∧
    (s.arg.v.getLsbD 0 = false ∨ s.mc.stage ≠ 2 → exec .errAck s = .next s) ∧
    (∀ (g : Nat) (x : Graph), g = s.arg.a → s.graph g = some x →
      ∀ s' : State, Reads s ((x.addr, 32) :: ((s.walkerRead x.addr 32).map fun d => (bits d 63 0, 64 * min (bits d 95 64) 65535)).toList) s' →
      (∀ (d : Nat), s.walkerRead x.addr 32 = some d → WritesNow s' (bits d 191 128) → statusOk (bits d 191 128) = true → x.firstFailed = none →
        (∀ ns, bits d 63 0 % 64 = 0 → bits d 95 64 ≠ 0 → bits d 95 64 ≤ 65535 → bits d 127 96 = 0 → bits d 255 192 = 0 →
          s'.readNodes (bits d 63 0) (bits d 95 64) = some ns → nodesOk ns = true → ∃ t, exec .graphValidation s = .next t ∧
            ((t.graph g).map fun y => (y.accepted, y.count, y.status)) = some (true, bits d 95 64, bits d 191 128) ∧
            (∀ n y, ns[n]? = some y → (t.node g n).phase = (if y.deps = 0 then .ready else .waiting) ∧ (t.node g n).kind = y.kind ∧
              (t.node g n).left = y.deps) ∧
            t.memRead (bits d 191 128) 8 = 1 ∧ t.walker.credits = s.walker.credits) ∧
        ((bits d 63 0 % 64 ≠ 0 ∨ bits d 95 64 = 0 ∨ 65535 < bits d 95 64 ∨ bits d 127 96 ≠ 0 ∨ bits d 255 192 ≠ 0 ∨
            (∀ ns, s'.readNodes (bits d 63 0) (bits d 95 64) = some ns → nodesOk ns = false)) → ∃ t, exec .graphValidation s = .next t ∧
          t.graph g = none ∧ t.walker.returning = s.walker.returning + 1 ∧ t.memRead (bits d 191 128) 8 = 4 + 2 ^ 63)) ∧
      ((∀ d, s.walkerRead x.addr 32 = some d → statusOk (bits d 191 128) = false) → ∃ t, exec .graphValidation s = .next t ∧
        t.graph g = none ∧ t.walker.returning = s.walker.returning + 1 ∧ t.walker.rejected = min 255 (s.walker.rejected + 1) ∧ t.mem = s.mem)) ∧
    (s.walker.sent = [] → s.settleWalker =
      { s with walker := { s.walker with credits := s.walker.credits + s.walker.returning, returning := 0 } })

/-- R100, R101, R102, R103, R104, R204: a mark lowers a node's count, and the last makes it READY; marks sent in one cycle reach a node by ascending sender; a
READY node is cancelled by an ERROR mark, skipped when all its marks
are SKIP, and else runs by its kind. COND sends RUN to the successor its word selects; WHILE ends at 0, fails at its limit, and else begins an iteration,
which a back edge ends. A node's status word gives its final state. The model's choices: a condition word that cannot be read fails its
node with BAD_RECORD (log entry 41); a cancelled WHILE sends ERROR to every successor, and a launch is DISPATCHING before it runs (43); what
the walker acquires joins its graph's signature (100); a WHILE that fails sends ERROR to SUCC[4..7] (101). -/
def Obligations.GraphNodes : Prop :=
  (∀ (s : State) (g sender n origin : Nat) (m : Mark) (sig : Sig) (gr : Graph), s.graph g = some gr →
    (((s.node g n).kind ≠ 7 ∨ sender ≠ (s.node g n).bodyLast) →
      ((s.applyMark g sender n m origin sig).node g n).left = (s.node g n).left - 1 ∧
      ((s.applyMark g sender n m origin sig).node g n).marks = (s.node g n).marks ++ [(m, origin)] ∧
      ((s.applyMark g sender n m origin sig).node g n).sig = (s.node g n).sig ||| sig ∧
      ((s.applyMark g sender n m origin sig).node g n).phase = (if (s.node g n).left = 1 then .ready else (s.node g n).phase) ∧
      ∀ k, k ≠ n → (s.applyMark g sender n m origin sig).node g k = s.node g k)) ∧
  (∀ (s : State) (g n cause origin : Nat) (p : NodePhase) (sig : Sig) (gr : Graph), s.graph g = some gr → (s.node g n).nstatus ≠ 0 →
    statusOk (s.node g n).nstatus = true → WritesNow s (s.node g n).nstatus → home gr.status ≠ home (s.node g n).nstatus → gr.status % 8 = 0 → cause < 256 →
    (s.endNode g n p cause origin sig []).memRead (s.node g n).nstatus 8 = p.code + cause * 2 ^ 8 +
      if p = .failed ∨ p = .cancelled then origin % 2 ^ 16 * 2 ^ 16 + 2 ^ 63 else 0) ∧
  (∀ (s : State) (g n : Nat) (gr : Graph) (a b : SentMark), s.graph g = some gr → n < gr.count → (s.node g n).kind ≠ 7 → (s.node g n).left = 2 →
    s.walker.sent = [a, b] → a.graph = g → b.graph = g → a.node = n → b.node = n → b.sender < a.sender →
    (s.settleWalker.node g n).marks = (s.node g n).marks ++ [(b.mark, b.origin), (a.mark, a.origin)] ∧
      (s.settleWalker.node g n).phase = .ready ∧ s.settleWalker.walker.sent = []) ∧
  ∀ (s : State) (g n : Nat) (x : GraphNode), g = s.arg.a → n = s.arg.b → x = s.node g n →
    (x.phase = .ready →
      (∀ m, x.marks.find? (fun m => m.1 == .error) = some m →
        exec .nodeResolve s = .next (s.endNode g n .cancelled 0xC m.2 0 (x.succ.map fun k => (k, .error)))) ∧
      ((∀ m ∈ x.marks, m.1 = .skip) → x.marks ≠ [] →
        exec .nodeResolve s = .next (s.endNode g n .skipped 0 n 0 (x.succ.map fun k => (k, .skip)))) ∧
      ((∀ m ∈ x.marks, m.1 ≠ .error) → (x.marks = [] ∨ ∃ m ∈ x.marks, m.1 = .run) → ∀ s' : State, Reads s (s.nodeRanges x) s' →
        (x.kind = 6 → exec .nodeResolve s = .next ((s'.runNode g n).laterOpen { i := .condNode, a := g, b := n })) ∧
        (x.kind = 7 → exec .nodeResolve s = .next ((s'.runNode g n).laterOpen { i := .whileNode, a := g, b := n })) ∧
        (x.kind = 3 → exec .nodeResolve s = .next ((s'.runNode g n).soon { i := .basinDeclare, a := g, b := n })) ∧
        (x.kind = 8 → exec .nodeResolve s = .next (s'.nodeDone g n 0)) ∧
        (x.kind = 1 → (∀ c, s'.checkLaunchRecord g n x.body = .error c → exec .nodeResolve s = .next (s'.nodeFailed g n c)) ∧
          (∀ l gr, s'.checkLaunchRecord g n x.body = .ok l → s.graph g = some gr → ∃ t, exec .nodeResolve s = .next t ∧
            (t.node g n).phase = .dispatching ∧ t.launch x.seq = some l ∧ t.walker.dispatching = s.walker.dispatching ++ [x.seq] ∧
            t.agenda = s.agenda ++ [{ i := .launchDispatch, a := g, b := n }] ∧ OnlyWalker s' t)) ∧
        (x.kind = 2 → exec .nodeResolve s = .next ((s'.runNode g n).runCopyNode g n)) ∧
        (x.kind = 4 → exec .nodeResolve s = .next ((s'.runNode g n).startDelta g n)) ∧
        (x.kind = 5 → exec .nodeResolve s = .next ((s'.runNode g n).startRound g n)))) ∧
    (x.phase = .running →
      (∀ s' u : State, Reads s [(x.cond, 4)] s' → u = s'.acquireFor g [(x.cond, 4)] →
        (∀ v, s'.walkerRead x.cond 4 = some v → exec .condNode s = .next (u.endNode g n .done 0 n 0 ((indexed x.succ).map fun e =>
          (e.2, if e.1 = min v 7 then .run else .skip)))) ∧
        (s'.walkerRead x.cond 4 = none → exec .condNode s = .next (s'.nodeFailed g n 4) ∧ exec .whileNode s = .next (s'.nodeFailed g n 4)) ∧
        (s'.walkerRead x.cond 4 = some 0 → exec .whileNode s = .next (u.nodeDone g n 0)) ∧
        (∀ v, s'.walkerRead x.cond 4 = some v → v ≠ 0 → x.maxIter ≤ x.iter → exec .whileNode s = .next (u.nodeFailed g n 8)) ∧
        (∀ v gr, s'.walkerRead x.cond 4 = some v → v ≠ 0 → x.iter < x.maxIter → s.graph g = some gr → (n < x.bodyFirst ∨ x.bodyLast < n) →
          ∃ t, exec .whileNode s = .next t ∧ (t.node g n).phase = .looping ∧ (t.node g n).iter = x.iter + 1 ∧ (t.node g n).back = none ∧
            (∀ b, x.bodyFirst ≤ b → b ≤ x.bodyLast →
              (t.node g b).phase = .waiting ∧ (t.node g b).left = (s.node g b).deps ∧ (t.node g b).marks = []) ∧
            t.walker.sent = s.walker.sent ++ ((x.succ.take 4).filter (· != 0xFFFF)).map fun k => ⟨g, n, k, .run, n, 0⟩)) ∧
      (x.kind = 3 ∨ 5 ≤ x.kind → x.seq = s.arg.c → exec .nodeTimeout s = .next (s.nodeFailed g n 7)) ∧
      (∀ l, x.kind = 1 → x.seq = s.arg.c → s.launch x.seq = some l → exec .nodeTimeout s = .next ((s.resetLaunch x.seq l).nodeFailed g n 7)) ∧
      (x.seq ≠ s.arg.c → exec .nodeTimeout s = .next s)) ∧
    (∀ l, OnlyWalker s (s.acquireFor g l) ∧ ∀ k, (s.acquireFor g l).node g k = s.node g k) ∧
    (∀ gr o, s.graph g = some gr → x.phase = .looping → x.back = some (.error, o) →
      exec .whileBackEdge s = .next (s.endNode g n .cancelled 0xC o 0 (x.outs.map fun k => (k, .error)))) ∧
    (∀ gr m o, s.graph g = some gr → x.phase = .looping → x.back = some (m, o) → m ≠ .error → gr.bodyFinal x = true →
      ∃ t, exec .whileBackEdge s = .next t ∧ (t.node g n).phase = .running ∧ (t.node g n).back = none ∧ Due s t { i := .whileNode, a := g, b := n } ∧
        OnlyWalker s t)

/-- R79, R104, R105, R107, R108: a launch whose cores and rings are not free waits; one dispatched with its pins granted has its node RUNNING and its contexts
listed as live; a context is created with the PC, the arguments and control registers of its placement. A launch without live, parked or resuming contexts and
copies ends its node, with its contexts' signature (R210), DONE or FAILED with the first cause. -/
def Obligations.Launches : Prop :=
  (∀ (s : State) (l p place c from_ id o : Nat) (x : Launch), c < 4 → id = 4 * placeCore place + c → o = 4 * p + c → ∃ k : Ctx,
    k = (s.createCtx l x p place c from_).ctxAt id ∧ k.phase = .prologue ∧ k.priv = false ∧ k.launch = some l ∧
    k.pc = BitVec.ofNat 64 (fieldAt x.record 0 8 + 16 * fieldAt place (8 + 2 * c) 2) ∧
    k.csr.gen = (s.ctxAt id).csr.gen + 1 ∧ k.csr.seed = BitVec.ofNat 64 (fieldAt x.record 56 8) ∧
    k.csr.streamBase = BitVec.ofNat 64 (fieldAt x.record 64 8 + o * 2 ^ 45) ∧ k.csr.issueCount = 0 ∧ k.csr.fpctl = 0 ∧
    k.csr.shadowTop = k.csr.shadowBase ∧ k.csr.shadowBase = BitVec.ofNat 64 (fieldAt x.record 72 8 + o * fieldAt x.record 80 4) ∧
    (∀ i < 16, k.r.getS (BitVec.ofNat 6 (16 + i)) = BitVec.ofNat 64 (fieldAt x.record (128 + 8 * i) 8)) ∧
    k.r.getS 14 = BitVec.ofNat 64 p ∧ k.r.getS 15 = BitVec.ofNat 64 o ∧ (∀ n : BitVec 6, n.toNat < 14 ∨ 32 ≤ n.toNat → k.r.getS n = 0) ∧
    (∀ n, k.r.getV n = 0) ∧ k.r.f = 0 ∧ k.r.c = 0 ∧ k.log = {} ∧ OthersKeep s (s.createCtx l x p place c from_) id) ∧
  ∀ (s : State) (g n i : Nat) (l : Launch), g = s.arg.a → n = s.arg.b → i = (s.node g n).seq → s.launch i = some l →
    ((s.node g n).phase = .dispatching → s.resourcesFree i l = false → exec .launchDispatch s = .next (s.laterOpen s.arg)) ∧
    (∀ (u : State) (gr : Graph), (s.node g n).phase = .dispatching → s.resourcesFree i l = true → l.dispatched = true → s.graph g = some gr → l.graph = g →
      l.node = n → (∃ s', Reads s [] s' ∧ State.takePins s' i l (l.pinTable.drop l.pins.length) = (.granted, u)) → ∃ t y, exec .launchDispatch s = .next t ∧
        (t.node g n).phase = .running ∧ i ∉ t.walker.dispatching ∧ t.launch i = some y ∧ y.live = contextsOf l.places) ∧
    (∀ (u : State), (s.node g n).phase = .dispatching → s.resourcesFree i l = true → l.dispatched = true →
      (∃ s', Reads s [] s' ∧ State.takePins s' i l (l.pinTable.drop l.pins.length) = (.waits, u)) → exec .launchDispatch s = .next u) ∧
    (∀ s' : State, (s.node g n).phase = .dispatching → s.resourcesFree i l = true → l.dispatched = false → bit l.flags 1 = true →
      Reads s [(fieldAt l.record 104 8, 4)] s' → s'.walkerRead (fieldAt l.record 104 8) 4 = some 0 →
      exec .launchDispatch s = .next (((s'.acquireFor g [(fieldAt l.record 104 8, 4)]).dropLaunch i).nodeDone l.graph l.node 0)) ∧
    (s.walker.launches.find? (fun e => match e.2 with
        | some x => x.graph == g && x.node == n && !s.walker.dispatching.contains e.1
        | none => false) = some (i, some l) →
      ((l.live ≠ [] ∨ l.parked ≠ [] ∨ l.resuming ≠ [] ∨ s.launchCopies i = true) → exec .launchComplete s = .next s) ∧
      (l.live = [] → l.parked = [] → l.resuming = [] → s.launchCopies i = false → ((s.dropLaunch i).node l.graph l.node).phase = .running →
        (l.failCause = none → exec .launchComplete s = .next ((s.dropLaunch i).nodeDone l.graph l.node l.sig)) ∧
        (∀ c, l.failCause = some c → exec .launchComplete s = .next ((s.dropLaunch i).nodeFailedWith l.graph l.node c l.sig))))

/-! ### Copies, side store and basins -/

namespace Sys2Proof.Claims

/-- Only the block-transfer engine of cluster `k` and the steps on their way may differ. -/
def OnlyBxe (s t : State) (k : Nat) : Prop :=
  t.ctxs = s.ctxs ∧ t.cores = s.cores ∧ t.dies = s.dies ∧ t.hbmStacks = s.hbmStacks ∧ t.mem = s.mem ∧ t.walker = s.walker ∧
    ∀ i, i ≠ k → t.cluster i = s.cluster i

end Sys2Proof.Claims

namespace Sys2Proof.Claims

/-- The lines of the payload that move `l` from `from_`. -/
def payloadLines (from_ : List Nat) (l : List (Nat × Nat)) : List Nat := linesOf from_ ++ linesOf (l.map (·.1))

/-- The banks have granted the copy those of its lines that are in local stores, or there is none (R175). -/
def BanksGranted (s : State) (k : Nat) (c : Copy) (ls : List Nat) : Prop :=
  (∀ x ∈ ls, ∀ n, region (128 * x) ≠ .window n) ∨ (c.asked = true ∧ s.banksOwed k c.req.id = false)

end Sys2Proof.Claims

/-- R237, R262, R263, R265, R266, R269 to R277: a channel's head is taken into its class while fewer than sixteen copies stand there, or ends at once with the
kind of failure its request or template has (in the order of log entry 47); a fill copy takes the next use of its ring, one that fails for
another reason than the ring's own state too, and counts as done when it fails; a chunk starts eight cycles after the one before, one
with a byte that fails is the copy's last, and none moves a byte yet; when all have started the payload waits for its banks (R175) and is
performed whole, or fails and leaves every byte as it was (log entry 93); a copy whose turn to complete has come writes its completion
word, and tells its node or its context. -/
def Obligations.Copies : Prop :=
  ∀ (s : State) (k ch : Nat), k = s.arg.a → ch = s.arg.b →
    (∀ (r : CopyReq) (rest : List CopyReq), (s.bxe k).channel ch = r :: rest → ch < 16 →
      (16 ≤ ((s.bxe k).cls r.cls).length → exec .copyTake s = .next (s.waitCopy .bank)) ∧
      (((s.bxe k).cls r.cls).length < 16 → ∀ w, s.parseCopy k ch r = .error w → exec .copyTake s = .next (s.waitCopy w)) ∧
      (∀ (c : Copy) (u : State), s.parseCopy k ch r = .ok (c, u) → ((s.bxe k).cls r.cls).length < 16 → c.cls = r.cls ∧
        (c.err = none → c.ring = none → ∃ t, exec .copyTake s = .next t ∧ (t.bxe k).channel ch = rest ∧
          (t.bxe k).cls c.cls = (s.bxe k).cls c.cls ++ [c] ∧ (t.bxe k).ending = (s.bxe k).ending ∧ KeepsContexts s t) ∧
        (∀ e, c.err = some e → c.ring = none → ∃ t, exec .copyTake s = .next t ∧ (t.bxe k).channel ch = rest ∧
          (t.bxe k).classes = (s.bxe k).classes ∧ (t.bxe k).ending = (s.bxe k).ending ++ [{ c with moved := true }] ∧
          Due s t { i := .copyComplete, a := k, b := c.req.id }) ∧
        (∀ (i z x : Nat) (ring ring' : Ring), c.ring = some (i, z) → (u.cluster k).ring i = some ring → ring.fills ≠ 0 → u.ringFrozen ring = false →
          ring.takeFill = some (x, ring') →
          (c.err = none → c.dst.addr + c.rows * c.rowBytes ≤ 2 ^ ring'.stageLog2 → ∃ t, exec .copyTake s = .next t ∧
            (t.bxe k).cls c.cls = (s.bxe k).cls c.cls ++ [{ c with ring := some (i, x) }] ∧ (t.cluster k).ring i = some ring') ∧
          (∀ e, c.err = some e → ∃ t, exec .copyTake s = .next t ∧
            (t.bxe k).ending = (s.bxe k).ending ++ [{ c with ring := some (i, x), moved := true }] ∧
            (t.cluster k).ring i = some (ring'.fillDone x))) ∧
        (∀ x v, s.readTemplate k r = .ok (x, v) →
          (r.legal = false → c.err = some 1) ∧ (r.legal = true → templateOk x = false → c.err = some 2) ∧
          (r.legal = true → templateOk x = true → c.err = none → c.rows = bits x 47 32 ∧ c.rowBytes = bits x 95 64 ∧ c.pad = bits x 127 96 ∧
            c.src.addr = bits x 191 128 ∧ c.dst.addr = bits x 319 256)))) ∧
    (∀ (b : Bxe) (c : Copy) (rest : List Copy) (m : State), m = (s.modBxe k fun b => { b with armed := false }) →
      Bxe.serve (m.quantum k) 9 (m.bxe k) = some b → b.cls b.turn = c :: rest → ∃ t, exec .chunkStart s = .next t ∧
        (t.bxe k).nextStart = s.now + 8 ∧ t.mem = s.mem ∧ t.cores = s.cores ∧ t.ctxs = s.ctxs ∧
        (m.chunkFails k c = none → OnlyBxe s t k ∧
          (2048 * (c.next + 1) < c.total → (t.bxe k).cls b.turn = rest ++ [{ c with next := c.next + 1 }]) ∧
          (c.total ≤ 2048 * (c.next + 1) → (t.bxe k).cls b.turn = rest ∧ { c with next := c.next + 1 } ∈ (t.bxe k).ending ∧
            Due s t { i := .copyComplete, a := k, b := c.req.id })) ∧
        (∀ e, m.chunkFails k c = some e → (∃ i < c.chunkBytes, m.payloadByte k c (2048 * c.next + i) = .error (.kind e)) ∧
          (t.bxe k).cls b.turn = rest ∧ { c with next := c.next + 1, err := some e, moved := true } ∈ (t.bxe k).ending ∧
          Due s t { i := .copyComplete, a := k, b := c.req.id })) ∧
    (∀ c : Copy, ((s.bxe k).ending.find? fun c => c.req.id == s.arg.b) = some c →
      (c.moved = false → c.ring = none →
        (∀ (l : List (Nat × Nat)) (u : State) (ls : List Nat), s.payloadData k c 0 c.total = .ok (l, u) → ls = payloadLines (s.sources k c) l →
          s.dramIdle = true →
          (BanksGranted s k c ls → (∀ x ∈ s.sources k c ++ l.map (·.1), atHome x = false) → ∃ t, exec .copyComplete s = .next t ∧
            { c with moved := true, asked := false, sig := sigOf c.sig l } ∈ (t.bxe k).ending ∧ Due s t s.arg ∧ KeepsContexts s t ∧
            ((∀ e ∈ l, region e.1 = .hbm) → (∀ i j : Nat, i < j → ∀ x y : Nat × Nat, l[i]? = some x → l[j]? = some y → home x.1 ≠ home y.1) →
              ∀ e ∈ l, t.memByte e.1 = BitVec.ofNat 8 e.2)) ∧
          (c.asked = false → (∃ x ∈ ls, ∃ n, region (128 * x) = .window n) → exec .copyComplete s =
            .next (((s.askBanks k c.req.id ls).keepCopy k { c with asked := true }).waitCopy .bank)) ∧
          (c.asked = true → (∃ x ∈ ls, ∃ n, region (128 * x) = .window n) → s.banksOwed k c.req.id = true →
            exec .copyComplete s = .next (s.waitCopy .bank))) ∧
        (∀ u, s.perform k c = .error u → exec .copyComplete s = .next u) ∧
        (∀ e, s.payloadData k c 0 c.total = .error (.kind e) → ∃ t, exec .copyComplete s = .next t ∧
          { c with moved := true, asked := false, err := some e } ∈ (t.bxe k).ending ∧ Due s t s.arg ∧ KeepsContexts s t ∧ t.mem = s.mem) ∧
        (s.payloadData k c 0 c.total = .error .bank → exec .copyComplete s = .next (s.waitCopy .bank))) ∧
      (c.moved = true → (s.bxe k).earlier c = true ∨ s.carrying (.copy k c.req.id) = true → exec .copyComplete s = .next (s.waitCopy .bank)) ∧
      (c.moved = true → (s.bxe k).earlier c = false → s.carrying (.copy k c.req.id) = false → ∀ u : State,
        u = (s.modBxe k fun b => { b with ending := b.ending.filter fun x => x.req.id != c.req.id }).dramLeave (.step s.arg) →
        (c.comp = 0 → c.err = none → c.req.node = none → exec .copyComplete s = .next (u.checkLaunch c.req.launch)) ∧
        (∀ g n, c.comp = 0 → c.err = none → c.req.node = some (g, n) → (s.node g n).phase = .running →
          exec .copyComplete s = .next (u.nodeDone g n c.sig)) ∧
        (∀ g n e, c.comp = 0 → c.err = some e → c.req.node = some (g, n) → c.req.ctx = none → (s.node g n).phase = .running →
          exec .copyComplete s = .next (u.nodeFailedWith g n (if e = 8 then 7 else 6) c.sig)) ∧
        (∀ pa, c.comp ≠ 0 → c.err = none → c.req.node = none → s.copyXlate k c.compVa .store c.req.priv false = .ok pa → region pa = .hbm →
          pa % 8 = 0 → s.dramIdle = true → ∃ t, exec .copyComplete s = .next t ∧ t.memRead pa 8 = c.compValue % 2 ^ 64 ∧ KeepsContexts s t ∧
            (t.bxe k).ending = (u.bxe k).ending)))

/-- R278, R279, R291, R380: SIDE_WAYS takes a new value unless a conversion is in progress or a way in use would leave; then SIDE_STATUS shows the ways that serve
throughout, until the conversion has ended and every other way's bytes read zero. BASIN_SELECT chooses or frees an entry. None of the three has an effect
before the management processor runs. -/
def Obligations.SideStore : Prop :=
  ∀ (s : State) (k : Nat), k = s.arg.a →
    (¬ Managed s → exec .sideWaysWrite s = .next s ∧ exec .basinSelect s = .next s ∧ exec .basinRetire s = .next s) ∧
    (((s.stack k).converting = true ∨ (∃ w < 16, (s.stack k).sideWays.getLsbD w = true ∧ s.arg.v.getLsbD w = false ∧ s.wayInUse k w = true)) →
      exec .sideWaysWrite s = .next s) ∧
    (Managed s → (s.stack k).converting = false → (∀ w < 16, (s.stack k).sideWays.getLsbD w = true → s.arg.v.getLsbD w = false → s.wayInUse k w = false) →
      s.arg.v.setWidth 16 ≠ (s.stack k).sideWays → ∃ t, exec .sideWaysWrite s = .next t ∧
        t.stack k = { (s.stack k).dropKept (fun _ l => s.arg.v.getLsbD l.way) with
          sideWays := s.arg.v.setWidth 16, sideStatus := (s.stack k).sideWays &&& s.arg.v.setWidth 16, converting := true } ∧
        Due s t { i := .sideConversionDone, a := k } ∧ t.mem = s.mem ∧ t.ctxs = s.ctxs ∧ ∀ j, j ≠ k → t.stack j = s.stack j) ∧
    (k < 16 → ∃ t, exec .sideConversionDone s = .next t ∧ t.stack k = { s.stack k with sideStatus := (s.stack k).sideWays, converting := false } ∧
      t.ctxs = s.ctxs ∧ (∀ w < 16, ∀ pa, sideBase + k * 2 ^ 28 + w * 2 ^ 24 ≤ pa → pa < sideBase + k * 2 ^ 28 + (w + 1) * 2 ^ 24 →
        t.memByte pa = if (s.stack k).sideWays.getLsbD w && (s.stack k).sideStatus.getLsbD w then s.memByte pa else 0) ∧
      ∀ pa, pa < hostBase → home pa = pa → (pa < sideBase + k * 2 ^ 28 ∨ sideBase + (k + 1) * 2 ^ 28 ≤ pa) → sameByte s t pa) ∧
    (Managed s → exec .basinSelect s = .next (s.modStack k fun x => { x with basinSelect := s.arg.v.toNat % 4096 })) ∧
    (Managed s → ∃ t, exec .basinRetire s = .next t ∧ (t.basin k (s.arg.v.toNat % 4096)).phase = .free ∧
      (t.basin k (s.arg.v.toNat % 4096)).arm = (s.basin k (s.arg.v.toNat % 4096)).arm ∧ (t.stack k).basinSelect = s.arg.v.toNat % 4096 ∧
      (∀ id, id ≠ s.arg.v.toNat % 4096 → t.basin k id = s.basin k id) ∧ t.mem = s.mem ∧ t.ctxs = s.ctxs)

namespace Sys2Proof.Claims

/-- The results of some halves of a live basin, which the step `e` writes, do not queue at DRAM that a run claims (R315). -/
def HalvesGo (s : State) (e : Event) (b : Basin) (hs : List Nat) : Prop :=
  b.live = true → s.firstWaiting (.step e) [] (hs.map fun h => (b.result + 4 * b.halfElems * h, 4 * b.halfElems)) = none

end Sys2Proof.Claims

/-- R280, R281, R283, R285, R286, R290, R291, R305, R384: a legal declaration arms its entry and ends its node DONE; a packet or close for the entry's arming
and round sets its contributor's bit and, completing a half, writes its results, the lower contributor of two that meet in a delta cycle
going first, which is decided in the last core cycle of that (log entry 49); a close sets sixteen bits a cycle, and another of its index
waits for its end; a repeat and a stale one are counted and change nothing else; one whose CRC fails is only marked. An acknowledged
packet is done; one not acknowledged in 5000 cycles, 2 µs (log entry 48), is sent again, up to eight times, each an error that is
corrected, and then lost, one that is not. -/
def Obligations.Basins : Prop :=
  (∀ (s : State) (g n x k id : Nat) (b : Basin), g = s.arg.a → n = s.arg.b → (s.node g n).phase = .running → (s.node g n).body % 64 = 0 →
    ∀ s' : State, Reads s [((s.node g n).body, 64)] s' →
    s'.walkerRead (s.node g n).body 64 = some x → k = fieldAt x 19 1 → id = fieldAt x 14 2 → b = declared x (s.basin k id) →
    ((declarationOk x = false ∨ s.declarable k id b = false) → exec .basinDeclare s = .next (s'.nodeFailed g n 4)) ∧
    (declarationOk x = true → s.declarable k id b = true → (s.basin k id).live = true → exec .basinDeclare s = .next (s'.nodeFailed g n 0xA)) ∧
    (declarationOk x = true → s.declarable k id b = true → (s.basin k id).live = false → ∃ t y, exec .basinDeclare s = .next t ∧ t.basin k id = y ∧
      y.phase = .armed ∧ y.arm = (s.basin k id).arm + 1 ∧ y.accepted = [] ∧ y.result = fieldAt x 0 8 ∧ y.elems = fieldAt x 8 4 + 1 ∧
      y.n = fieldAt x 12 2 ∧ y.mode = fieldAt x 16 1 ∧ y.round = fieldAt x 20 2 ∧ y.staging = fieldAt x 24 8 ∧ y.room = 0 ∧
      KeepsContexts s t)) ∧
  ∀ (s : State) (p : Packet) (b : Basin), s.packet s.arg.a = some p → b = s.basin p.stack p.basin →
    (s.arg.c = 1 → ∃ t, exec .basinPacket s = .next t ∧ t.basin p.stack p.basin = { b with checksum := true } ∧ t.mem = s.mem ∧ t.ctxs = s.ctxs ∧
      t.timers = s.timers) ∧
    (s.arg.c ≠ 1 → s.deltaGoesOn = true → exec .basinPacket s = .next (s.later 1 s.arg)) ∧
    (s.arg.c ≠ 1 → s.deltaGoesOn = false → s.outranked p = true → exec .basinPacket s = .next (s.soon s.arg)) ∧
    (s.arg.c ≠ 1 → s.deltaGoesOn = false → s.outranked p = false → HalvesGo s s.arg b [p.half] →
      (b.staleFor p = true → ∃ t, exec .basinPacket s = .next t ∧ (t.basin p.stack p.basin).stale = min 255 (b.stale + 1) ∧
        (t.basin p.stack p.basin).accepted = b.accepted ∧ (t.basin p.stack p.basin).reject =
          BitVec.ofNat 64 (2 * 2 ^ 62 + p.half % 2 ^ 28 * 2 ^ 16 + p.k) ∧ t.mem = s.mem ∧ t.ctxs = s.ctxs ∧
        Due s t { i := .confluenceAck, a := p.id }) ∧
      (b.staleFor p = false → b.hasBit p.half p.k = true → ∃ t, exec .basinPacket s = .next t ∧
        (t.basin p.stack p.basin).dup = min 65535 (b.dup + 1) ∧ (t.basin p.stack p.basin).accepted = b.accepted ∧
        (t.basin p.stack p.basin).reject = BitVec.ofNat 64 (2 ^ 62 + p.half % 2 ^ 28 * 2 ^ 16 + p.k) ∧ t.mem = s.mem ∧ t.ctxs = s.ctxs ∧
        Due s t { i := .confluenceAck, a := p.id }) ∧
      (b.staleFor p = false → b.hasBit p.half p.k = false → ∃ t, exec .basinPacket s = .next t ∧ KeepsContexts s t ∧
        Due s t { i := .confluenceAck, a := p.id } ∧
        ((t.basin p.stack p.basin).arm = b.arm → bit ((t.basin p.stack p.basin).bitsOf p.half) p.k = true ∧
          ∀ h, h ≠ p.half → (t.basin p.stack p.basin).bitsOf h = b.bitsOf h) ∧
        (b.bitsOf p.half + 2 ^ p.k = b.fullMask → b.mode ≠ 0 → s.poison = [] → b.spoilt = [] → (t.basin p.stack p.basin).arm = b.arm → hbmBase ≤ b.result → b.result + 4 * b.elems ≤ sideBase →
          ∀ e ∈ b.elemsOf p.half, t.memRead (b.result + 4 * e) 4 =
            ({ b with given := Store.set 0 b.given (4096 * p.half + p.k) p.payload }.elemResult e).1 % 2 ^ 32))) ∧
    (s.arg.c = 3 → ((∃ c ∈ b.closes, c.1 = p.k) → exec .basinClose s = .next (s.later 1 s.arg)) ∧
      ((∀ c ∈ b.closes, c.1 ≠ p.k) → ∃ t, exec .basinClose s = .next t ∧ t.hbmStacks = s.hbmStacks ∧ t.mem = s.mem ∧ t.ctxs = s.ctxs ∧
        Due s t { i := .confluenceAck, a := p.id })) ∧
    (b.staleFor p = true → s.arg.c ≠ 2 → s.arg.c ≠ 3 → ∃ t, exec .basinClose s = .next t ∧ (t.basin p.stack p.basin).stale = min 255 (b.stale + 1) ∧
      (t.basin p.stack p.basin).accepted = b.accepted ∧ t.mem = s.mem ∧ t.ctxs = s.ctxs ∧ Due s t { i := .confluenceAck, a := p.id }) ∧
    (b.staleFor p = false → s.arg.c ≠ 2 → s.arg.c ≠ 3 → (∃ c ∈ b.closes, c.1 = p.k) →
      exec .basinClose s = .next (s.later 1 { s.arg with c := 3 })) ∧
    (∀ i : Nat, b.staleFor p = false → s.arg.c ≠ 3 → (b.closes.find? fun c => c.1 == p.k) = (if s.arg.c = 2 then some (p.k, i) else none) →
      (s.arg.c ≠ 2 → i = 0) → HalvesGo s { s.arg with c := 2 } b ((List.range b.halves).filter fun h => i ≤ h ∧ h < i + 16) →
      ∃ t, exec .basinClose s = .next t ∧ KeepsContexts s t ∧
        ((t.basin p.stack p.basin).arm = b.arm → ∀ h, i ≤ h → h < i + 16 → h < b.halves → bit ((t.basin p.stack p.basin).bitsOf h) p.k = true) ∧
        (i + 16 < b.halves → Due s t { s.arg with c := 2 } ∧ ((t.basin p.stack p.basin).closes.find? fun c => c.1 == p.k) = some (p.k, i + 16)) ∧
        (b.halves ≤ i + 16 → Due s t { i := .confluenceAck, a := p.id })) ∧
    (p.done = false → p.push = none → ∃ t, exec .confluenceAck s = .next t ∧ t.hbmStacks = s.hbmStacks ∧ t.mem = s.mem ∧ t.ctxs = s.ctxs ∧
      t.agenda = s.agenda ∧ ∀ q, t.packet p.id = some q → q.done = true) ∧
    (∀ k i, p.done = false → p.push = some (k, i) → (∀ q ∈ s.packets, q.id ≠ p.id → q.push = some (k, i) → q.done = true) → ∃ t,
      exec .confluenceAck s = .next t ∧ t.agenda = s.agenda ++ [{ i := .dpushFinish, a := k, b := i }] ∧ t.hbmStacks = s.hbmStacks ∧
        t.mem = s.mem ∧ t.ctxs = s.ctxs) ∧
    (p.done = true → exec .confluenceAck s = .next s ∧ exec .confluenceResend s = .next s) ∧
    (p.done = false → p.sends < 8 → ∃ t q, exec .confluenceResend s = .next t ∧ t.packet p.id = some q ∧ q.sends = p.sends + 1 ∧ q.done = false ∧
      (s.now + 5000, { i := .confluenceResend, a := p.id }) ∈ t.timers ∧ t.mem = s.mem ∧ t.ctxs = s.ctxs ∧ t.hbmStacks = s.hbmStacks ∧
      t.errCorrected = min (2 ^ 64 - 1) (s.errCorrected + 1)) ∧
    (p.done = false → 8 ≤ p.sends → ∃ t q, exec .confluenceResend s = .next t ∧ t.packet p.id = some q ∧ q.done = true ∧ KeepsContexts s t ∧
      t.errUncorrected = min (2 ^ 64 - 1) (s.errUncorrected + 1) ∧
      ∀ k i, p.push = some (k, i) → t.runOf k = (s.runOf k).map fun r => { r with pushLost := true })

/-! ### The life of a delta run, and the links -/

/-- R210, R309 to R315, R335, R345, R349, R350: an idle processor starts the oldest request whose prerequisites are met; a run that would write a pinned slot
does not start; one with a bad header only exits, with kind HEADER (log entry 60); entry loads program and parameters and writes
RUNNING, or stops the run where these are poisoned (log entry 71); exit, once everything issued has finished, writes the status word, ends
the run's node with its signature and frees the processor. A store push is written at its home and is finished; a round-done message that
fits its set is counted, one that does not waits, and one for a set that is not there is dropped (log entry 46). -/
def Obligations.DeltaRuns : Prop :=
  ∀ (s : State) (k : Nat), k = s.arg.a →
    (∀ (q : StartReq) (qs : List StartReq) (who : DramParty), (s.stack k).delta.run = none → (s.stack k).delta.queue = q :: qs →
      who = .step { s.arg with b := 1 } →
      ((∀ y ∈ q :: qs, s.dramWaits who y.header 128 = true) → ∀ u, u = s.dramJoin who q.header 128 →
        exec .deltaRunSelect s = .next (if s.arg.b = 1 then u else u.laterOpen s.arg)) ∧
      ((∀ y ∈ q :: qs, s.dramWaits who y.header 128 = false) →
      (∀ x u, s.headerOf q = some x → s.prerequisites x = some u → ∃ t more, exec .deltaRunSelect s = .next t ∧ t.runOf k = some (runOfHeader q x (s.stack k).bankLimit) ∧
        (t.stack k).delta.queue = qs ++ more ∧ Due s t { i := .deltaEntryDone, a := k } ∧ KeepsContexts s t) ∧
      (s.headerOf q = none → ∃ t r, exec .deltaRunSelect s = .next t ∧ t.runOf k = some r ∧ r.kind = 12 ∧ r.phase = .exiting ∧ r.req = q ∧
        Due s t { i := .deltaExitDone, a := k } ∧ t.mem = s.mem) ∧
      ((∀ y ∈ q :: qs, ∃ x, s.headerOf y = some x ∧ s.prerequisites x = none) → exec .deltaRunSelect s =
        .next (if s.arg.b = 1 then s.dramLeave who else (s.dramLeave who).laterOpen s.arg)))) ∧
    ((s.stack k).delta.run ≠ none → exec .deltaRunSelect s = .next (s.dramLeave (.step { s.arg with b := 1 }))) ∧
    (∀ i w : Nat, s.setPins i (w % s.setV i) ≠ 0 → s.vwait i w = none) ∧
    (∀ (r : Run) (s' : State), s.runOf k = some r → r.phase = .entering → ServedStep s r.entryReads s' →
      (s.memPoisoned r.code (8 * r.words) = false → (r.param = 0 ∨ s.memPoisoned r.param 120 = false) → region r.status = .hbm → r.status % 8 = 0 →
        ∃ t r', exec .deltaEntryDone s = .next t ∧ t.runOf k = some r' ∧ r'.phase = .running ∧ r'.pc = r.pc ∧ r'.origin = deltaNow s.now + 1 ∧
          (∀ i < r.words, (Store.get 0 r'.program i).toNat = s.memRead (r.code + 8 * i) 8) ∧
          (∀ i : BitVec 4, i ≠ 0 → (r'.getE i).toNat = if r.param = 0 then 0 else s.memRead (r.param + 8 * (i.toNat - 1)) 8) ∧
          (r.status ≠ 0 → r.claims k r.status 8 = true ∨ WritesNow s' r.status → t.memRead r.status 8 = 1) ∧ KeepsContexts s t) ∧
      ((s.memPoisoned r.code (8 * r.words) = true ∨ (r.param ≠ 0 ∧ s.memPoisoned r.param 120 = true)) →
        exec .deltaEntryDone s = .next (s'.stopRun k 8 0))) ∧
    (∀ r : Run, s.runOf k = some r → r.phase = .exiting →
      (r.pushes = [] → r.pubs = 0 → r.signalling = false → r.dramDone ≤ s.runNow r → (r.dldb.any fun x => x.lands.isNone) = false →
        ∃ t, exec .deltaExitDone s = .next t ∧ t.runOf k = none ∧ KeepsContexts s t ∧ { i := .deltaRunSelect, a := k } ∈ t.agenda ∧
          (r.req.node = none → region r.status = .hbm → r.status % 8 = 0 → r.status ≠ 0 → WritesNow s r.status → t.memRead r.status 8 =
            ((if r.kind = 0 then 2 else if r.kind = 9 then 4 else 3) + r.kind * 2 ^ 8 +
              (if r.kind = 0 ∨ r.kind = 11 ∨ r.kind = 9 then r.last else r.faultPc) * 2 ^ 16 + r.events.toNat * 2 ^ 32 +
              (if r.signalLost then 2 ^ 38 else 0) + if r.kind = 0 then 0 else 2 ^ 63) % 2 ^ 64) ∧
          (r.req.node = none → t.walker.frozen = (s.walker.frozen || decide (r.kind ≠ 0))) ∧
          (∀ g n, r.req.node = some (g, n) → (s.node g n).phase = .running → r.status = 0 → t = ((if r.kind = 0 then
            (s.setRun k none).nodeDone g n r.sig else (s.setRun k none).nodeFailedWith g n (if r.kind = 12 then 4 else if r.kind = 9 then 7 else 9)
              r.sig).soon { i := .deltaRunSelect, a := k }))) ∧
      ((r.pushes ≠ [] ∨ r.pubs ≠ 0 ∨ r.signalling = true ∨ s.runNow r < r.dramDone ∨ (r.dldb.any fun x => x.lands.isNone) = true) → exec .deltaExitDone s = .next (s.laterOpen s.arg))) ∧
    (∀ (r : Run) (p : Push), s.runOf k = some r → s.push k s.arg.b = some p → s.arg.c ≠ 1 →
      (p.acc = false → region p.pa = .hbm → s.firstWaiting (.step s.arg) [] [(p.pa, p.n)] = none → p.n ∣ 4096 → p.pa % p.n = 0 → ∃ t r', exec .dpushFinish s = .next t ∧
        t.runOf k = some r' ∧ (∀ q, q ∈ r'.pushes ↔ q ∈ r.pushes ∧ q.id ≠ p.id) ∧ t.memRead p.pa p.n = p.data % 2 ^ (8 * p.n) ∧ t.ctxs = s.ctxs ∧
        ∀ a, a < hostBase → (∀ i < p.n, home a ≠ home (p.pa + i)) → sameByte s t a) ∧
      (p.acc = true → ∃ t r', exec .dpushFinish s = .next t ∧ t.runOf k = some r' ∧ (∀ q, q ∈ r'.pushes ↔ q ∈ r.pushes ∧ q.id ≠ p.id) ∧
        t.mem = s.mem ∧ t.ctxs = s.ctxs)) ∧
    (k < s.setCount → (s.roundFits k s.arg.b = true → exec .roundDoneMessage s = .next ((s.takeMessage k s.arg.b s.arg.sig).afterRound k)) ∧
      (s.roundFits k s.arg.b = false → exec .roundDoneMessage s = .next { s with roundWaits := s.roundWaits ++ [⟨k, s.arg.b, none, s.arg.sig⟩] })) ∧
    (s.setCount ≤ k → exec .roundDoneMessage s = .next s)

namespace Sys2Proof.Claims

/-- The flits that an ACK or NAK naming `ack` does not cover. -/
def beyond (ack : Nat) (f : Flit) : Bool := decide (0 < (f.seq + 2 ^ 12 - ack) % 2 ^ 12 ∧ (f.seq + 2 ^ 12 - ack) % 2 ^ 12 < 2 ^ 11)

/-- No two flits kept at a port have one SEQ. -/
def SeqsApart (p : Port) : Prop := p.replay.Pairwise fun f g => f.seq ≠ g.seq

/-- The flit of a kept flit's payload, with the port's last SEQ received in order. -/
def dataFlit (p : Port) (seq data : Nat) : Nat := flitImage seq ((p.expected + 2 ^ 12 - 1) % 2 ^ 12) 1 0 data

end Sys2Proof.Claims

/-- R352, R384: a port sends a data flit with its next SEQ and keeps it, at most 512 of them, until it is accepted; a flit whose CRC fails or whose SEQ is not
the next expected is answered by a NAK that names the last good SEQ, and accepted by nobody; the flit expected is, and its credit goes back; an ACK
lets its flits go; a NAK replays what follows the SEQ it names, and 2 µs of silence, 5000 cycles (log entry 48), the one flit unprompted,
which is an error that is corrected; when a flit is due a replay after sixteen without progress the port goes down, one that is not. The
CRC, what ACK, NAK and idle flits carry, and when a port goes down are the model's (log entry 94). -/
def Obligations.Flits : Prop :=
  ∀ (s : State) (k : Nat) (p : Port), p = s.port k → p.down = false →
    (∀ (data : Nat) (r : Option Request),
      (p.replay.length < 512 → (∀ g ∈ p.replay, g.seq ≠ p.nextSeq) →
        (s.sendFlit k data r).port k = { p with
          nextSeq := (p.nextSeq + 1) % 2 ^ 12, replay := p.replay ++ [{ seq := p.nextSeq, data := data, request := r, sends := 1 }]
          out := p.out ++ [dataFlit p p.nextSeq data] } ∧
        (s.now + 5000, { i := .flitReplayTimeout, a := k, b := p.nextSeq, c := 1 }) ∈ (s.sendFlit k data r).timers) ∧
      (512 ≤ p.replay.length → (s.sendFlit k data r).port k = { p with waiting := p.waiting ++ [(data, r)] })) ∧
    (k = s.arg.a → ∀ (x : Nat) (a : Port), x = s.arg.d → a = { p.acked (bits x 23 12) with credits := p.credits + bits x 35 28 } →
      ((crc32 252 (x % 2 ^ 2016) ≠ bits x 2047 2016 ∨ bits x 11 0 ≠ p.expected) → ∃ t, exec .flitReceive s = .next t ∧
        t.port k = { p with out := p.out ++ [flitImage p.nextSeq ((p.expected + 2 ^ 12 - 1) % 2 ^ 12) 2 0 0] } ∧
        t.ctxs = s.ctxs ∧ t.mem = s.mem ∧ ∀ j, j ≠ k → t.port j = s.port j) ∧
      (crc32 252 (x % 2 ^ 2016) = bits x 2047 2016 → bits x 11 0 = p.expected → p.waiting = [] →
        (bits x 27 24 = 1 → ∃ t, exec .flitReceive s = .next t ∧
          t.port k = { a with
            expected := (bits x 11 0 + 1) % 2 ^ 12, received := p.received ++ [{ seq := bits x 11 0, data := bits x 2015 64 }]
            out := p.out ++ [flitImage p.nextSeq (((bits x 11 0 + 1) % 2 ^ 12 + 2 ^ 12 - 1) % 2 ^ 12) 0 1 0] } ∧
          t.ctxs = s.ctxs ∧ t.mem = s.mem ∧ ∀ j, j ≠ k → t.port j = s.port j) ∧
        (bits x 27 24 = 2 → ∃ t, exec .flitReceive s = .next t ∧ t.port k = a ∧
          t.agenda = s.agenda ++ [{ i := .flitNak, a := k, b := bits x 23 12 }] ∧ t.ctxs = s.ctxs ∧ t.mem = s.mem) ∧
        (bits x 27 24 ≠ 1 → bits x 27 24 ≠ 2 → ∃ t, exec .flitReceive s = .next t ∧ t.port k = a ∧ t.ctxs = s.ctxs ∧ t.mem = s.mem))) ∧
    (k = s.arg.a → p.waiting = [] → SeqsApart p → ∀ q : Port, q = p.acked s.arg.b → ∃ t, exec .flitNak s = .next t ∧ t.ctxs = s.ctxs ∧ t.mem = s.mem ∧
      ((∀ f ∈ q.replay, f.replays < 16) → (t.port k).down = false ∧
        (q.replay ≠ [] → t.errCorrected = min (2 ^ 64 - 1) (s.errCorrected + 1)) ∧
        (t.port k).replay = q.replay.map (fun f => { f with replays := f.replays + 1, sends := f.sends + 1 }) ∧
        (t.port k).out = p.out ++ q.replay.map (fun f => dataFlit p f.seq f.data) ∧
        ∀ f ∈ q.replay, (s.now + 5000, { i := .flitReplayTimeout, a := k, b := f.seq, c := f.sends + 1 }) ∈ t.timers) ∧
      ((∃ f ∈ q.replay, 16 ≤ f.replays) → (t.port k).down = true ∧ t.errUncorrected = min (2 ^ 64 - 1) (s.errUncorrected + 1))) ∧
    (k = s.arg.a → SeqsApart p →
      (∀ f ∈ p.replay, f.seq = s.arg.b → f.sends = s.arg.c → ∃ t, exec .flitReplayTimeout s = .next t ∧ t.ctxs = s.ctxs ∧ t.mem = s.mem ∧
        (f.replays < 16 → (t.port k).down = false ∧ t.errCorrected = min (2 ^ 64 - 1) (s.errCorrected + 1) ∧ (t.port k).replay =
          p.replay.map fun g => if g.seq = f.seq then { g with replays := g.replays + 1, sends := g.sends + 1 } else g) ∧
        (16 ≤ f.replays → (t.port k).down = true ∧ t.errUncorrected = min (2 ^ 64 - 1) (s.errUncorrected + 1))) ∧
      ((∀ f ∈ p.replay, f.seq ≠ s.arg.b ∨ f.sends ≠ s.arg.c) → ∃ t, exec .flitReplayTimeout s = .next t ∧ t.port k = p ∧ t.timers = s.timers ∧
        t.ctxs = s.ctxs ∧ t.mem = s.mem)) ∧
    (∀ w : Nat, (p.acked w).replay.map (fun f => (f.seq, f.data)) = (p.replay.filter (beyond w)).map (fun f => (f.seq, f.data)) ∧
      ((p.replay.filter (beyond w)).length < p.replay.length → ∀ f ∈ (p.acked w).replay, f.replays = 0))

/-- R94, R108, R216, R275, R315, R335, R353, R355, R360, R362: a numbered request of a peer is executed once, and a repeat is answered with the first reply and has no other
effect; a request that no port carries is reported to its context, or logged and against the launch that made it (log entry 63), fails
its copy with kind REMOTE or loses its push; from stage 1 on a host read returns the memory side's bytes, a host write reaches it as a
release, and a host atomic, with the functions of `amo` by their codes (63), does both at once. What a request's code and fields say is
the model's (log entry 94). -/
def Obligations.RequestsFromOutside : Prop :=
  ∀ s : State,
    (∀ r, s.remoteReplies.find? (fun r => r.1 == (s.arg.a, s.arg.b)) = some r →
      exec .remoteTransaction s = .next (s.sendReply s.arg.a s.arg.b (s.arg.c / 16) r.2)) ∧
    (∀ (pa n : Nat), s.remoteReplies.find? (fun r => r.1 == (s.arg.a, s.arg.b)) = none → pa = s.arg.c / 16 → n = s.arg.d → region pa = .hbm →
      s.firstWaiting (.step s.arg) [] [(pa, max 1 n)] = none →
      (s.arg.c % 16 = 0 → ∃ t, exec .remoteTransaction s = .next t ∧ t.mem = s.mem ∧ t.ctxs = s.ctxs ∧ t.cores = s.cores ∧
        t.remoteReplies = s.remoteReplies ++ [((s.arg.a, s.arg.b), s.memRead pa n)]) ∧
      (s.arg.c % 16 = 1 → n ∣ 4096 → pa % n = 0 → ∃ t, exec .remoteTransaction s = .next t ∧ t.ctxs = s.ctxs ∧ t.cores = s.cores ∧
        t.memRead pa n = s.arg.l.headD 0 % 2 ^ (8 * n) ∧ t.remoteReplies = s.remoteReplies ++ [((s.arg.a, s.arg.b), 0)] ∧
        ∀ a, a < hostBase → (∀ i < n, home a ≠ home (pa + i)) → sameByte s t a)) ∧
    (s.remoteReplies.find? (fun r => r.1 == (s.arg.a, s.arg.b)) = none → s.arg.c % 16 = 0 ∨ s.arg.c % 16 = 1 ∨ s.arg.c % 16 = 13 → moduleMemory (s.arg.c / 16) = false →
      exec .remoteTransaction s = .next s) ∧
    (∀ pa : Nat, s.remoteReplies.find? (fun r => r.1 == (s.arg.a, s.arg.b)) = none → s.arg.c = 15 + 16 * pa →
      (∀ x, s.drawTile pa = some x → ∃ t, exec .remoteTransaction s = .next t ∧ KeepsContexts s t ∧
        t.remoteReplies = s.remoteReplies ++ [((s.arg.a, s.arg.b), x)] ∧ ∀ d, region pa = .sync d → t.memRead pa 8 = s.memRead pa 8 + 1) ∧
      (s.drawTile pa = none → ∃ t, exec .remoteTransaction s = .next t ∧ KeepsContexts s t ∧ t.mem = s.mem ∧
        t.remoteReplies = s.remoteReplies ++ [((s.arg.a, s.arg.b), 2 ^ 64 - 1)])) ∧
    (∀ x gen c, x = (if s.arg.d = 0 then s.arg.a else 4 * s.arg.a + (s.core s.arg.a).running) → c = s.ctxAt x →
      gen = (if s.arg.d = 0 then s.arg.c else c.csr.gen.toNat) → s.arg.d < 2 →
      (c.phase = .active → c.csr.gen.toNat = gen → c.flow.remoteError = none → ∃ t, exec .remoteRequestFail s = .next t ∧
        t.ctxAt x = { c with flow := { c.flow with
          remoteError := some (BitVec.ofNat 64 (s.arg.b % 64 * 2 ^ 58 + 0xB * 2 ^ 48)) } } ∧ (∀ y, y ≠ x → t.ctxAt y = s.ctxAt y) ∧ t.mem = s.mem) ∧
      (c.phase = .active → c.csr.gen.toNat = gen → c.flow.remoteError ≠ none → ∃ t, exec .remoteRequestFail s = .next t ∧
        (t.ctxAt x).flow.remoteMore = true ∧ KeepsContexts s t) ∧
      ((c.phase ≠ .active ∨ c.csr.gen.toNat ≠ gen) → exec .remoteRequestFail s = .next ((s.errorLog x 9 gen s.arg.v.toNat).failLaunch
        (s.launchOf x gen) 0xB))) ∧
    (s.arg.d = 2 → exec .remoteRequestFail s = .next (s.modBxe s.arg.a fun b => { b with
      ending := b.ending.map fun c => if c.req.id = s.arg.c then { c with err := some (c.err.getD 9) } else c })) ∧
    (∀ r, s.arg.d = 3 → s.runOf s.arg.a = some r → (∃ p ∈ r.pushes, p.id = s.arg.c) → ∃ t r', exec .remoteRequestFail s = .next t ∧
      t.runOf s.arg.a = some r' ∧ r'.pushLost = true ∧ (∀ p, p ∈ r'.pushes ↔ p ∈ r.pushes ∧ p.id ≠ s.arg.c) ∧ t.mem = s.mem ∧ t.ctxs = s.ctxs) ∧
    ((s.mc.stage ≠ 1 ∧ s.mc.stage ≠ 2) → exec .hostMemAccess s = .next s) ∧
    ((s.mc.stage = 1 ∨ s.mc.stage = 2) → s.arg.a + s.arg.b ≤ hbmBase → s.firstWaiting (.step s.arg) [] [(s.arg.a, max 1 s.arg.b)] = none →
      (s.arg.c = 1 → s.arg.b ∣ 4096 → s.arg.a % s.arg.b = 0 → ∃ t, exec .hostMemAccess s = .next t ∧ t.memRead s.arg.a s.arg.b =
        s.arg.d % 2 ^ (8 * s.arg.b) ∧ t.ctxs = s.ctxs ∧ t.cores = s.cores ∧
        ∀ a, a < hostBase → (∀ i < s.arg.b, home a ≠ home (s.arg.a + i)) → sameByte s t a) ∧
      (s.arg.c = 0 → ∃ t, exec .hostMemAccess s = .next t ∧ t.hostData = s.memRead s.arg.a s.arg.b ∧ t.mem = s.mem ∧ t.ctxs = s.ctxs ∧
        t.cores = s.cores) ∧
      (∀ (k m : Nat) (y : Option Nat), k < 16 → s.arg.c = 16 + k → s.arg.b = 4 ∨ s.arg.b = 8 → s.arg.a % s.arg.b = 0 → m = s.memRead s.arg.a s.arg.b →
        y = (amoFn s.arg.v.toNat k (8 * s.arg.b) m (s.arg.d % 2 ^ (8 * s.arg.b))).1 → ∃ t, exec .hostMemAccess s = .next t ∧ t.hostData = m ∧
          t.memRead s.arg.a s.arg.b = y.getD m % 2 ^ (8 * s.arg.b) ∧ t.ctxs = s.ctxs ∧
          ∀ a, a < hostBase → (∀ i < s.arg.b, home a ≠ home (s.arg.a + i)) → sameByte s t a))

/-! ### Limits, measurements, errors -/

namespace Sys2Proof.Claims

/-- Whether a die is throttled once its three cluster sensors read `l`: above the threshold, until all are 5 °C below it (R378). -/
def throttledBy (threshold : Int) (l : List Int) (before : Bool) : Bool :=
  if ∃ x ∈ l, threshold < x then true else if ∀ x ∈ l, x ≤ threshold - 80 then false else before

/-- The sensors of a die, three clusters' in order. -/
def sensors (s : State) (d : Nat) : List Int := (List.range 3).map fun i => reading (s.cluster (3 * d + i)).temp

/-- Power is gone: the start is FAILED with a cause, nothing but the module controller's own steps is on its way, memory and contexts are lost. -/
def Unpowered (t : State) (cause : Nat) : Prop :=
  t.mc.stage = 0xF ∧ t.mc.cause = cause ∧ t.mc.powered = false ∧ t.ctxs = [] ∧ t.mem = [] ∧ (∀ e ∈ t.agenda, mcStep e.i = true) ∧
    ∀ e ∈ t.timers, mcStep e.2.i = true

end Sys2Proof.Claims

/-- R309, R374, R375, R376, R377, R378: the limits take legal values and ignore others, BANK_LIMIT for the run that is there too (log entry 57); a sample, every 625000
cycles, throttled or not (48), shows new measurements and writes a record while the buffer has room for one; a sensor above the threshold
throttles its die until every sensor of it is 5 °C below, whichever row brings the reading (68); one above its limit, and a rail below its
own, sampled or reported, end the module's power, and memory is empty at once (65). -/
def Obligations.LimitsAndTelemetry : Prop :=
  ∀ (s : State) (k : Nat), k = s.arg.a →
    (s.arg.v.toNat % 256 ≠ 0 → ∃ t, exec .currentRampLimitWrite s = .next t ∧ (t.die k).rampLimit = s.arg.v.toNat % 256 ∧
      (t.die k).tokenWants = (s.die k).tokenWants ∧ t.ctxs = s.ctxs ∧ t.mem = s.mem ∧ ∀ j, j ≠ k → t.die j = s.die j) ∧
    (s.arg.v.toNat % 256 = 0 → exec .currentRampLimitWrite s = .next s) ∧
    (4 ≤ s.arg.v.toNat → s.arg.v.toNat ≤ 64 → exec .bankLimitWrite s = .next (s.modStack k fun x =>
      { x with bankLimit := s.arg.v.toNat, delta := { x.delta with run := x.delta.run.map fun r => { r with bankLimit := s.arg.v.toNat } } })) ∧
    ((s.arg.v.toNat < 4 ∨ 64 < s.arg.v.toNat) → exec .bankLimitWrite s = .next s) ∧
    (∀ mv : Nat → Nat, s.mc.powered = true → (∀ d, mv d = Config.measured (s.fresh + 2 * d + 1) % 2 ^ 16) →
      ((∃ d < 4, 100 * mv d < 92 * Config.nominalRail) → ∃ t, exec .telemetrySample s = .next t ∧ Unpowered t 4) ∧
      ((∀ d < 4, 92 * Config.nominalRail ≤ 100 * mv d) → ∃ t, exec .telemetrySample s = .next t ∧ KeepsContexts s t ∧
        (s.now + 625000, { i := .telemetrySample }) ∈ t.timers ∧
        (∀ d < 4, (t.die d).hot = (s.die d).throttled ∧ (t.die d).power < 2 ^ 32 ∧ (t.die d).samples.length ≤ 4 ∧ (t.die d).vmon = mv d) ∧
        (s.mgmtReg 0x1208 = 0 → t.telemHead = s.telemHead ∧ t.mem = s.mem) ∧
        (s.mgmtReg 0x1208 ≠ 0 → t.telemHead = s.telemHead + 1 ∧
          ∀ r, r = (s.mgmtReg 0x1200).toNat + 64 * (s.telemHead % (s.mgmtReg 0x1208).toNat) → region r = .hbm → region (r + 8) = .hbm → r % 64 = 0 →
            s.dramIdle = true → t.memRead r 8 = s.telemHead % 2 ^ 64 ∧ t.memRead (r + 8) 8 = (s.now - s.mc.stage0) / 2500 % 2 ^ 64))) ∧
    (s.mc.powered = false → exec .telemetrySample s = .next s ∧ exec .thermalThrottle s = .next s ∧ exec .thermalTrip s = .next s) ∧
    (∀ c, c = s.arg.b → s.mc.powered = true →
      (reading s.arg.v ≤ 1840 → ∃ t, exec .thermalThrottle s = .next t ∧ (t.cluster c).temp = s.arg.v &&& 0xFFFF#64 ∧ t.ctxs = s.ctxs ∧
        t.cores = s.cores ∧ t.mem = s.mem ∧ (∀ j, j ≠ c → t.cluster j = s.cluster j) ∧
        (t.die (c / 3)).throttled = throttledBy (reading (s.mgmtReg 0x1418)) (sensors t (c / 3)) (s.die (c / 3)).throttled ∧
        ∀ j, j ≠ c / 3 → t.die j = s.die j) ∧
      (1840 < reading s.arg.v → ∃ t, exec .thermalThrottle s = .next t ∧ Unpowered t 3) ∧
      (k = 0 → exec .thermalTrip s = exec .thermalThrottle s)) ∧
    (s.mc.powered = true → (∀ i < 3, reading (BitVec.ofNat 64 (s.arg.l.getD i 0)) ≤ 1840) → ∃ t, exec .throttleEnd s = .next t ∧ t.ctxs = s.ctxs ∧
      t.cores = s.cores ∧ t.mem = s.mem ∧ (∀ i < 3, (t.cluster (3 * k + i)).temp = BitVec.ofNat 64 (s.arg.l.getD i 0) &&& 0xFFFF#64) ∧
      (t.die k).throttled = throttledBy (reading (s.mgmtReg 0x1418)) (sensors t k) (s.die k).throttled) ∧
    (s.mc.powered = true → k = 1 → reading s.arg.v ≤ 1600 →
      exec .thermalTrip s = .next (s.modStack s.arg.b fun x => { x with temp := s.arg.v &&& 0xFFFF#64 })) ∧
    (s.mc.powered = true → k = 1 → 1600 < reading s.arg.v → ∃ t, exec .thermalTrip s = .next t ∧ Unpowered t 3) ∧
    (s.mc.powered = true → 2 ≤ k → (100 * s.arg.v.toNat < 92 * Config.nominalRail → ∃ t, exec .thermalTrip s = .next t ∧ Unpowered t 4) ∧
      (92 * Config.nominalRail ≤ 100 * s.arg.v.toNat → exec .thermalTrip s = .next s))

/-- R265, R356, R374, R380, R382, R384, R386: the error counters clear on a write and count what happens, saturating; an uncorrectable error poisons its sector, and a register's is held in
its parity; a wrong result of an unchecked unit replaces its value unseen, in a register, a tile, a transpose, a basin's result or a
run's register. A plain register keeps the bits it has, and a quantum of 0 reads as 1 (R265); one that the management processor serves,
below 0x1000, takes a write only while that runs (log entry 69). A nonce byte starts an attestation in progress anew. -/
def Obligations.ErrorsAndRegisters : Prop :=
  ∀ (s : State),
    exec .errCorrectedClear s = .next { s with errCorrected := 0 } ∧ exec .errUncorrectedClear s = .next { s with errUncorrected := 0 } ∧
    (s.arg.a = 0 → exec .softError s = .next { s with errCorrected := min (2 ^ 64 - 1) (s.errCorrected + 1) }) ∧
    (s.arg.a = 1 → ∃ t, exec .softError s = .next t ∧ t.errUncorrected = min (2 ^ 64 - 1) (s.errUncorrected + 1) ∧
      t.errLastPa = s.arg.b % 2 ^ 52 ∧ PoisonAt.mem (home s.arg.b / 32) ∈ t.poison ∧ t.ctxs = s.ctxs ∧ t.cores = s.cores ∧
      ∀ a, a < hostBase → home a = a → a / 32 ≠ home s.arg.b / 32 → sameByte s t a) ∧
    (∀ p, (s.arg.a = 2 ∧ p = PoisonAt.l2 s.arg.b s.arg.c) ∨ (s.arg.a = 3 ∧ p = .cache s.arg.b s.arg.c) ∨ (s.arg.a = 4 ∧ p = .loc s.arg.b s.arg.c) →
      ∃ t, exec .softError s = .next t ∧ t.errUncorrected = min (2 ^ 64 - 1) (s.errUncorrected + 1) ∧ p ∈ t.poison ∧ t.mem = s.mem ∧ t.ctxs = s.ctxs) ∧
    (s.arg.a = 5 → ∃ t, exec .softError s = .next t ∧ t.errUncorrected = min (2 ^ 64 - 1) (s.errUncorrected + 1) ∧
      (t.ctxAt s.arg.b).flow.parity = (s.arg.c, s.arg.d) :: (s.ctxAt s.arg.b).flow.parity ∧ (∀ y, y ≠ s.arg.b → t.ctxAt y = s.ctxAt y) ∧ t.mem = s.mem) ∧
    (∀ r, s.arg.a = 6 → s.runOf s.arg.b = some r → ∃ t, exec .softError s = .next t ∧ t.errUncorrected = min (2 ^ 64 - 1) (s.errUncorrected + 1) ∧
      t.runOf s.arg.b = some { r with parity := s.arg.c :: r.parity } ∧ t.mem = s.mem ∧ t.ctxs = s.ctxs) ∧
    (∀ x, s.arg.a = 7 → s.arg.c = 0 → s.arg.d < 64 → s.arg.d ≠ 0 → x = BitVec.ofNat 64 (s.arg.l.headD 0) → ∃ t, exec .softError s = .next t ∧
      (t.ctxAt s.arg.b).r.getS (BitVec.ofNat 6 s.arg.d) = x ∧ (t.ctxAt s.arg.b).flow = (s.ctxAt s.arg.b).flow ∧
      t.errCorrected = s.errCorrected ∧ t.errUncorrected = s.errUncorrected) ∧
    (∀ x : Nat, x = s.arg.l.headD 0 → ∀ b c d : Nat, b = s.arg.b → c = s.arg.c → d = s.arg.d →
      (s.arg.a = 8 → ∃ t, exec .softError s = .next t ∧ Store.get 0 (t.core b).tiles c = BitVec.ofNat 80 x ∧ t.mem = s.mem ∧ t.ctxs = s.ctxs ∧
        t.errCorrected = s.errCorrected ∧ t.errUncorrected = s.errUncorrected) ∧
      (∀ q, s.arg.a = 9 → (s.core b).transposes[c]? = some q → ∃ t, exec .softError s = .next t ∧ t.mem = s.mem ∧ t.ctxs = s.ctxs ∧
        (t.core b).transposes[c]? = some { q with tile := q.tile.set d x } ∧ t.errCorrected = s.errCorrected ∧
        t.errUncorrected = s.errUncorrected) ∧
      (s.arg.a = 10 → (s.basin b c).live = true → d < (s.basin b c).elems → hbmBase ≤ (s.basin b c).result →
        (s.basin b c).result + 4 * (s.basin b c).elems ≤ sideBase → ∃ t, exec .softError s = .next t ∧
          t.memRead ((s.basin b c).result + 4 * d) 4 = x % 2 ^ 32 ∧ t.ctxs = s.ctxs ∧ t.errCorrected = s.errCorrected ∧
          t.errUncorrected = s.errUncorrected) ∧
      (∀ r, s.arg.a = 11 → s.runOf b = some r → c < 32 → d < 1024 → ∃ t r', exec .softError s = .next t ∧ t.runOf b = some r' ∧
        Store.get 0 r'.d (1024 * c + d) = BitVec.ofNat 32 x ∧ r'.parity = r.parity ∧ t.mem = s.mem ∧ t.ctxs = s.ctxs ∧
        t.errCorrected = s.errCorrected ∧ t.errUncorrected = s.errUncorrected)) ∧
    (s.arg.b = 0 → (∀ m, mgmtMask s.arg.a = some m → isQuanta s.arg.a = false → (s.arg.a < 0x1000 → Managed s) → ∃ t, exec .mgmtRegisterWrite s = .next t ∧
        t.mgmtReg s.arg.a = s.arg.v &&& m ∧ (∀ o, o ≠ s.arg.a → t.mgmtReg o = s.mgmtReg o) ∧ t.ctxs = s.ctxs ∧ t.mem = s.mem) ∧
      ((mgmtMask s.arg.a = none ∨ (s.arg.a < 0x1000 ∧ ¬ Managed s)) → exec .mgmtRegisterWrite s = .next s)) ∧
    (s.arg.b = 1 → 0x100 ≤ s.arg.a → s.arg.a < 0x11F → ∃ t, exec .mgmtRegisterWrite s = .next t ∧ t.mc.attestReady = false ∧
      t.cfgReg s.arg.a = BitVec.ofNat 64 (s.arg.v.toNat % 256) ∧ t.ctxs = s.ctxs ∧ t.mem = s.mem ∧
      (s.mc.attestBusy = true → t.mc.attesting = s.mc.attesting + 1 ∧ Due s t { i := .attestDone, a := s.mc.attesting + 1 }) ∧
      (s.mc.attestBusy = false → t.mc.attesting = s.mc.attesting ∧ t.timers = s.timers)) ∧
    (∀ j, s.arg.b = 0 → Managed s → j < 12 → s.arg.a = 0x508 + 0x20 * j → ∃ t, exec .mgmtRegisterWrite s = .next t ∧ ∀ c < 4,
      bits (t.mgmtReg s.arg.a).toNat (8 * c + 7) (8 * c) = max 1 (bits s.arg.v.toNat (8 * c + 7) (8 * c)))

/-! ### Resets and the module controller -/

namespace Sys2Proof.Claims

/-- The walker has read its journal (R389): of a graph that was accepted and has not ended, a node in a final state is as it was and is not
run again, one that was RUNNING or LOOPING has ended FAILED with cause RESET, and one that was READY or DISPATCHING is READY and will be
resolved; a graph that was not accepted is gone. -/
def Resumes (s t : State) : Prop :=
  ∀ (g : Nat) (gr : Graph), s.graph g = some gr → (gr.accepted = false → t.graph g = none) ∧
    (gr.accepted = true → t.graph g ≠ none → ∀ (n : Nat) (p : NodePhase), p = (s.node g n).phase →
      ((p = .done ∨ p = .skipped ∨ p = .cancelled ∨ p = .failed ∨ p = .waiting) → t.node g n = s.node g n) ∧
      ((p = .running ∨ p = .looping) → (t.node g n).phase = .failed ∧ (t.node g n).cause = 0xD) ∧
      ((p = .ready ∨ p = .dispatching) → (t.node g n).phase = .ready ∧ Due s t { i := .nodeResolve, a := g, b := n }))

/-- What a warm reset leaves of the sync engines' records and of the basins, where no flag of a basin was on its way (R388): barrier records
with pending arrivals read ARRIVED 0, PINS 0, and no directory entry is LIVE or has an ALIAS_STATE; nothing is pending; basins keep
their acceptance bits. -/
def EnginesReset (s t : State) : Prop :=
  (∀ d < 4, (t.die d).barriers = [] ∧ (t.die d).watches = [] ∧ ∀ e ∈ (s.die d).barriers, e.2.arrivals ≠ [] →
    ∀ k, region (e.1 + 8) = .sync k → t.memRead (e.1 + 8) 4 = 0) ∧
  (∀ i < s.setCount, ∀ j < 3, ∀ k, region (s.setAt i + 40 + 2 * j) = .sync k → t.memRead (s.setAt i + 40 + 2 * j) 2 = 0) ∧
  (s.wild = [] → ∀ a k, region a = .sync k → 0x3FA000 ≤ syncOffset a →
    ((syncOffset a - 0x3FA000) % 32 = 4 → t.memByte a = 0) ∧ ((syncOffset a - 0x3FA000) % 32 = 5 → (t.memByte a).toNat % 4 = 0)) ∧
  ∀ k id, (t.basin k id).accepted = (s.basin k id).accepted ∧ (t.basin k id).phase = (s.basin k id).phase ∧
    (t.basin k id).arm = (s.basin k id).arm

end Sys2Proof.Claims

/-- R378, R379, R380, R381, R382, R387, R388, R389: a reset waits for the one in progress and is taken when that ends; a warm reset frees every context, keeping CTX_GEN, and
starts again from stage 1; what it and a walker reset keep, and that they do nothing outside stage 2, is log entry 64; the walker
then resumes from its journal; a cold reset starts everything anew but what log entry 65 names; stages advance unless firmware or
self-test stop them, and an interrupted write of the flash keeps the module at stage 0, while a load in progress goes on (log entry 98);
firmware loads and attestations run their course. -/
def Obligations.ResetsAndStartUp : Prop :=
  ∀ s : State,
    (∀ j, s.mc.resetting = some j →
      exec .walkerReset s = .next { s with mc := { s.mc with resetNext := s.mc.resetNext ++ [1] } } ∧
      exec .warmReset s = .next { s with mc := { s.mc with resetNext := s.mc.resetNext ++ [2] } } ∧
      (s.mc.powered = true → s.mc.stage ≠ 0xF → exec .coldReset s = .next { s with mc := { s.mc with resetNext := s.mc.resetNext ++ [3] } })) ∧
    (s.mc.resetNext = [] → s.endReset = { s with mc := { s.mc with resetting := none } }) ∧
    (∀ k ks, s.mc.resetNext = k :: ks → s.endReset = { s with
      mc := { s.mc with resetting := none, resetNext := ks }
      agenda := s.agenda ++ [{ i := if k = 1 then .walkerReset else if k = 2 then .warmReset else .coldReset }] }) ∧
    (s.mc.resetting = none → s.mc.stage = 2 → ∃ t, exec .walkerReset s = .next t ∧ KeepsContexts s t ∧ t.walker.dispatching = [] ∧
      Resumes s t ∧ (s.mc.resetNext = [] → t.mc = s.mc)) ∧
    (s.mc.resetting = none → s.mc.stage ≠ 2 → exec .walkerReset s = .next s.endReset ∧ exec .warmReset s = .next s.endReset) ∧
    (s.mc.resetting = none → s.mc.stage = 2 → ∃ t, exec .warmReset s = .next t ∧ t.mc = { s.mc with stage := 1, resetting := some 2 } ∧
      (∀ x, (t.ctxAt x).phase = .free ∧ (t.ctxAt x).r = {} ∧ (t.ctxAt x).csr = { gen := (s.ctxAt x).csr.gen } ∧ (t.ctxAt x).launch = none) ∧
      (∀ k, (t.core k).bankRole = 0 ∧ (t.core k).loc = [] ∧ (t.core k).lines = [] ∧ (t.core k).tiles = []) ∧
      (∀ k, (t.cluster k).rings = [] ∧ (t.cluster k).bxe = {}) ∧ (∀ k < 16, (t.stack k).delta.run = none) ∧ t.walker.launches = [] ∧
      (s.walker.sent = [] → t.walker.graphs = s.walker.graphs) ∧ t.mgmt = s.mgmt ∧ t.ptRoot = s.ptRoot ∧ t.cycleBase = s.now ∧ Due s t { i := .stageAdvance } ∧
      (s.walker.sent = [] → (∀ e ∈ s.hbmStacks, ∀ b ∈ e.2.basins, b.2.acting ≠ 1) → EnginesReset s t)) ∧
    ((s.mc.resetting = none ∨ s.mc.powered = false ∨ s.mc.stage = 0xF) → ∃ t, exec .coldReset s = .next t ∧ t.ctxs = [] ∧ t.cores = [] ∧ t.mem = [] ∧
      t.walker = {} ∧ t.ptRoot = 0 ∧ t.mc.fwMin = s.mc.fwMin ∧ t.mc.flash = s.mc.flash ∧ t.mc.flashTorn = s.mc.flashTorn ∧ t.agenda = [{ i := .powerGood }] ∧ t.mgmt = resetMgmt) ∧
    (∃ t, exec .powerGood s = .next t ∧ t.mc.stage = 0 ∧ t.mc.cause = 0 ∧ t.mc.powered = true ∧ t.mc.fwStatus = 0 ∧
      (s.now + 625000, { i := .telemetrySample }) ∈ t.timers ∧ Due s t { i := .stageAdvance } ∧ t.ctxs = s.ctxs ∧ t.mem = s.mem) ∧
    (∀ v d, s.mc.flash = some (v, d) → s.flashImage = (true, v, d)) ∧
    (s.mc.stage = 0 → s.mc.flashTorn = true → s.mc.fwStatus = 3 → ∃ t, exec .stageAdvance s = .next t ∧ t.mc = s.mc ∧ Due s t s.arg ∧
      t.ctxs = s.ctxs ∧ t.mem = s.mem) ∧
    (s.mc.stage = 0 → s.mc.flashTorn = true → s.mc.fwStatus ≠ 3 → ∃ t, exec .stageAdvance s = .next t ∧ t.mc.stage = 0 ∧ t.mc.cause = 1 ∧ t.mc.fwStatus = 2 ∧
      t.timers = s.timers ∧ t.ctxs = s.ctxs ∧ t.mem = s.mem) ∧
    (∀ g v d, s.mc.stage = 0 → s.mc.flashTorn = false → s.flashImage = (g, v, d) → ∃ t, exec .stageAdvance s = .next t ∧ t.ctxs = s.ctxs ∧
      t.mem = s.mem ∧ ((g = false ∨ v < s.mc.fwMin) → t.mc.stage = 0xF ∧ t.mc.cause = 1 ∧ t.mc.fwStatus = (if s.mc.fwStatus = 3 then 3 else 2)) ∧
      (g = true → s.mc.fwMin ≤ v → t.mc.fwStatus = (if s.mc.fwStatus = 3 then 3 else 1) ∧ t.mc.fwVersion = v ∧ t.mc.fwDigest = d ∧
        ((t.mc.stage = 1 ∧ Due s t { i := .stageAdvance }) ∨ (t.mc.stage = 0xF ∧ t.mc.cause = 2)))) ∧
    (s.mc.stage = 1 → ∃ t, exec .stageAdvance s = .next t ∧ (t.mc.stage = 2 ∨ (t.mc.stage = 0xF ∧ t.mc.cause = 2)) ∧ t.mc.resetting = none ∧
      KeepsContexts s t ∧ (t.mc.stage = 2 → Resumes s t)) ∧
    (s.arg.v = 1 → s.mc.fwStatus ≠ 3 → ∃ t, exec .fwLoadGo s = .next t ∧ t.mc = { s.mc with fwStatus := 3 } ∧ Due s t { i := .fwLoadDone } ∧
      t.ctxs = s.ctxs ∧ t.mem = s.mem) ∧
    ((s.arg.v ≠ 1 ∨ s.mc.fwStatus = 3) → exec .fwLoadGo s = .next s) ∧
    (s.mc.fwStatus = 3 → ∃ t, exec .fwLoadDone s = .next t ∧ t.ctxs = s.ctxs ∧ t.mem = s.mem ∧
      (s.arg.a ≠ 1 → t.mc = { s.mc with fwStatus := 2 } ∨ ∃ v d, s.mc.fwMin ≤ v ∧ t.mc = { s.mc with flashTorn := true } ∧
        Due s t { i := .fwLoadDone, a := 1, b := v, c := d }) ∧
      (s.arg.a = 1 → t.mc = { s.mc with flash := some (s.arg.b, s.arg.c), flashTorn := false, fwMin := s.arg.b, fwStatus := 1 } ∧
        t.agenda = s.agenda ++ [{ i := .coldReset }])) ∧
    (∃ t, exec .attestStart s = .next t ∧ t.cfgReg 0x11F = BitVec.ofNat 64 (s.arg.v.toNat % 256) ∧ t.mc.attestReady = false ∧
      t.mc.attestBusy = true ∧ t.mc.attesting = s.mc.attesting + 1 ∧ Due s t { i := .attestDone, a := s.mc.attesting + 1 } ∧ t.ctxs = s.ctxs ∧ t.mem = s.mem) ∧
    (s.arg.a = s.mc.attesting → ∃ t x, exec .attestDone s = .next t ∧ t.mc = { s.mc with attestBusy := false, attestReady := true, signature := some x } ∧
      t.ctxs = s.ctxs ∧ t.mem = s.mem) ∧
    (s.arg.a ≠ s.mc.attesting → exec .attestDone s = .next s)

/-! ### Reset values and an invariant -/

/-- R79, R95, R101, R162, R246, R265, R278, R374, R375, R376, R379: what the spec says that registers hold at reset: every context slot is FREE, every bank in the cache role, every
tile element +0, no way in side store, the limits and quanta at their reset values, the queue's credits whole. That FROZEN reads 0 and both
error counters 0 is the model's choice, log entry 2.

The memory of the module after reset is in canonical form: nothing is listed (R177; an unlisted byte reads 0, the model's choice, log entry 4). -/
def Obligations.ResetState : Prop :=
  ((∀ x, (State.reset.ctxAt x).phase = .free) ∧ (∀ k, (State.reset.core k).bankRole = 0 ∧ (State.reset.core k).tiles = []) ∧
  (∀ k, (State.reset.stack k).sideWays = 0 ∧ (State.reset.stack k).bankLimit = 64 ∧ (State.reset.stack k).basins = []) ∧
  (∀ k, (State.reset.die k).rampLimit = 255) ∧ (∀ k < 12, State.reset.mgmtReg (0x508 + 0x20 * k) = 0x01010204) ∧
  State.reset.mgmtReg 0x1418 = 0x0640 ∧ State.reset.walker.credits = 64 ∧ State.reset.walker.frozen = false ∧ State.reset.mc.stage = 0 ∧
  State.reset.errCorrected = 0 ∧ State.reset.errUncorrected = 0 ∧ State.reset.now = 0) ∧
  (MemoryOk State.reset ∧ ∀ pa, pa < hostBase → State.reset.memByte pa = 0)

/-- Every step keeps memory in canonical form: keys strictly rising, no entry equal to what an unlisted address reads as (the model's form of the memory that R177
lays out). -/
def Obligations.StepKeepsMemoryCanonical : Prop := ∀ s t : State, MemoryOk s → step s = .next t → MemoryOk t
end

