-- ==== Sys2Proof/Laws/Store.lean ====
section
/-!
SUPPORT. Sparse maps: reading after a write, and that a write and a removal keep the canonical form.
-/
namespace Sys2Proof
variable {α : Type}

@[simp] theorem Store.get_nil (d : α) (k : Nat) : Store.get d [] k = d := rfl

section
variable [DecidableEq α]

/-- A read gives the value written at its key, and the old value elsewhere, in a map of any form. -/
theorem Store.get_set (d : α) (m : Store α) (k j : Nat) (v : α) :
    Store.get d (Store.set d m k v) j = if j = k then v else Store.get d m j := by
  induction m with
  | nil =>
    simp only [Store.set]
    by_cases h : v = d
    · simp [h, Store.get]
    · simp [h, Store.get, eq_comm]
  | cons e m ih =>
    obtain ⟨a, b⟩ := e
    simp only [Store.set, Store.get]
    (repeat' split) <;> simp only [Store.get, ih] <;> (repeat' split) <;> first | rfl | assumption | (exfalso; omega)

@[simp] theorem Store.get_set_same (d : α) (m : Store α) (k : Nat) (v : α) : Store.get d (Store.set d m k v) k = v := by
  simp [Store.get_set]

theorem Store.get_set_other (d : α) (m : Store α) {k j : Nat} (v : α) (h : j ≠ k) :
    Store.get d (Store.set d m k v) j = Store.get d m j := by simp [Store.get_set, h]

theorem Store.wfFrom_mono (d : α) (m : Store α) {i j : Nat} (h : j ≤ i) (hw : Store.wfFrom d i m = true) :
    Store.wfFrom d j m = true := by
  cases m with
  | nil => rfl
  | cons e m =>
    obtain ⟨a, b⟩ := e
    simp only [Store.wfFrom, Bool.and_eq_true, decide_eq_true_eq] at *
    exact ⟨⟨by omega, hw.1.2⟩, hw.2⟩

theorem Store.wfFrom_set (d : α) (m : Store α) (k : Nat) (v : α) :
    ∀ lo : Nat, (v = d ∨ lo ≤ k) → Store.wfFrom d lo m = true → Store.wfFrom d lo (Store.set d m k v) = true := by
  induction m with
  | nil => intro lo h _; simp only [Store.set]; split <;> simp_all [Store.wfFrom]
  | cons e m ih =>
    obtain ⟨a, b⟩ := e
    intro lo h hw
    simp only [Store.wfFrom, Bool.and_eq_true, decide_eq_true_eq] at hw
    obtain ⟨⟨h1, h2⟩, h3⟩ := hw
    simp only [Store.set]
    split
    · split
      · rename_i hv; simp only [Store.wfFrom, Bool.and_eq_true, decide_eq_true_eq]; exact ⟨⟨h1, h2⟩, ih _ (.inl hv) h3⟩
      · rename_i hk hv; simp only [Store.wfFrom, Bool.and_eq_true, decide_eq_true_eq]
        exact ⟨⟨h.resolve_left hv, hv⟩, ⟨by omega, h2⟩, h3⟩
    · split
      · split
        · rename_i hv; exact Store.wfFrom_mono d _ (by omega) (ih _ (.inl hv) h3)
        · rename_i hk hv; subst hk; simp only [Store.wfFrom, Bool.and_eq_true, decide_eq_true_eq]; exact ⟨⟨h1, hv⟩, h3⟩
      · simp only [Store.wfFrom, Bool.and_eq_true, decide_eq_true_eq]; exact ⟨⟨h1, h2⟩, ih _ (by omega) h3⟩

/-- A write keeps the canonical form. -/
theorem Store.wf_set (d : α) (m : Store α) (k : Nat) (v : α) (h : Store.wf d m = true) :
    Store.wf d (Store.set d m k v) = true :=
  Store.wfFrom_set d m k v 0 (.inr (Nat.zero_le _)) h

theorem Store.wfFrom_filter (d : α) (p : Nat × α → Bool) (m : Store α) :
    ∀ lo : Nat, Store.wfFrom d lo m = true → Store.wfFrom d lo (m.filter p) = true := by
  induction m with
  | nil => intro lo _; rfl
  | cons e m ih =>
    obtain ⟨a, b⟩ := e
    intro lo hw
    simp only [Store.wfFrom, Bool.and_eq_true, decide_eq_true_eq] at hw
    rw [List.filter_cons]
    split
    · simp only [Store.wfFrom, Bool.and_eq_true, decide_eq_true_eq]; exact ⟨hw.1, ih _ hw.2⟩
    · exact Store.wfFrom_mono d _ (by omega) (ih _ hw.2)

/-- Removing entries keeps the canonical form. -/
theorem Store.wf_filter (d : α) (p : Nat × α → Bool) (m : Store α) (h : Store.wf d m = true) :
    Store.wf d (m.filter p) = true := Store.wfFrom_filter d p m 0 h

/-- Below its first key a canonical map reads as the default. -/
theorem Store.get_of_lt (d : α) (m : Store α) : ∀ lo : Nat, Store.wfFrom d lo m = true → ∀ k < lo, Store.get d m k = d := by
  induction m with
  | nil => intro _ _ _ _; rfl
  | cons e m ih =>
    obtain ⟨a, b⟩ := e
    intro lo hw k hk
    simp only [Store.wfFrom, Bool.and_eq_true, decide_eq_true_eq] at hw
    simp only [Store.get]
    split
    · omega
    · exact ih _ hw.2 k (by omega)

theorem Store.ext_from (d : α) : ∀ (m m' : Store α) (lo : Nat), Store.wfFrom d lo m = true → Store.wfFrom d lo m' = true →
    (∀ k, Store.get d m k = Store.get d m' k) → m = m'
  | [], [], _, _, _, _ => rfl
  | [], (a, b) :: m', _, _, h', hg => by
    simp only [Store.wfFrom, Bool.and_eq_true, decide_eq_true_eq] at h'
    exact absurd (by simpa [Store.get] using (hg a).symm) h'.1.2
  | (a, b) :: m, [], _, h, _, hg => by
    simp only [Store.wfFrom, Bool.and_eq_true, decide_eq_true_eq] at h
    exact absurd (by simpa [Store.get] using hg a) h.1.2
  | (a, b) :: m, (a', b') :: m', lo, h, h', hg => by
    simp only [Store.wfFrom, Bool.and_eq_true, decide_eq_true_eq] at h h'
    have e : a = a' := by
      rcases Nat.lt_trichotomy a a' with hlt | he | hlt
      · have := hg a
        simp only [Store.get, if_true, if_neg (show ¬ a' = a by omega)] at this
        exact absurd (this.trans (Store.get_of_lt d m' _ h'.2 a (by omega))) h.1.2
      · exact he
      · have := hg a'
        simp only [Store.get, if_true, if_neg (show ¬ a = a' by omega)] at this
        exact absurd (this.symm.trans (Store.get_of_lt d m _ h.2 a' (by omega))) h'.1.2
    subst e
    have eb : b = b' := by simpa [Store.get] using hg a
    subst eb
    have := Store.ext_from d m m' (a + 1) h.2 h'.2 fun k => by
      by_cases hk : a = k
      · subst hk; rw [Store.get_of_lt d m _ h.2 a (by omega), Store.get_of_lt d m' _ h'.2 a (by omega)]
      · simpa [Store.get, hk] using hg k
    rw [this]

/-- Two canonical maps that read alike are equal data. -/
theorem Store.ext_get (d : α) (m m' : Store α) (h : Store.wf d m = true) (h' : Store.wf d m' = true)
    (hg : ∀ k, Store.get d m k = Store.get d m' k) : m = m' := Store.ext_from d m m' 0 h h' hg

end
end Sys2Proof
end

