-- ==== Sys2Proof/Laws/State.lean ====
section
/-!
SUPPORT. Every field of the state after every named update, so that no proof unfolds a record update; and what the parts
(contexts, cores, clusters, dies, stacks) read as after one of them is changed.
-/
namespace Sys2Proof.Machine
variable (s : State)

/-! ### `setCtxAt` -/

@[simp] theorem State.setCtxAt_now (i : Nat) (x : Ctx) : (s.setCtxAt i x).now = s.now := rfl
@[simp] theorem State.setCtxAt_cur (i : Nat) (x : Ctx) : (s.setCtxAt i x).cur = s.cur := rfl
theorem State.setCtxAt_ctxs (i : Nat) (x : Ctx) : (s.setCtxAt i x).ctxs = Store.set {} s.ctxs i x := rfl
@[simp] theorem State.setCtxAt_cores (i : Nat) (x : Ctx) : (s.setCtxAt i x).cores = s.cores := rfl
@[simp] theorem State.setCtxAt_clusters (i : Nat) (x : Ctx) : (s.setCtxAt i x).clusters = s.clusters := rfl
@[simp] theorem State.setCtxAt_dies (i : Nat) (x : Ctx) : (s.setCtxAt i x).dies = s.dies := rfl
@[simp] theorem State.setCtxAt_hbmStacks (i : Nat) (x : Ctx) : (s.setCtxAt i x).hbmStacks = s.hbmStacks := rfl
@[simp] theorem State.setCtxAt_mem (i : Nat) (x : Ctx) : (s.setCtxAt i x).mem = s.mem := rfl
@[simp] theorem State.setCtxAt_wild (i : Nat) (x : Ctx) : (s.setCtxAt i x).wild = s.wild := rfl
@[simp] theorem State.setCtxAt_outside (i : Nat) (x : Ctx) : (s.setCtxAt i x).outside = s.outside := rfl
@[simp] theorem State.setCtxAt_ptRoot (i : Nat) (x : Ctx) : (s.setCtxAt i x).ptRoot = s.ptRoot := rfl
@[simp] theorem State.setCtxAt_mgmt (i : Nat) (x : Ctx) : (s.setCtxAt i x).mgmt = s.mgmt := rfl
@[simp] theorem State.setCtxAt_cfg (i : Nat) (x : Ctx) : (s.setCtxAt i x).cfg = s.cfg := rfl
@[simp] theorem State.setCtxAt_tlbInval (i : Nat) (x : Ctx) : (s.setCtxAt i x).tlbInval = s.tlbInval := rfl
@[simp] theorem State.setCtxAt_walker (i : Nat) (x : Ctx) : (s.setCtxAt i x).walker = s.walker := rfl
@[simp] theorem State.setCtxAt_packets (i : Nat) (x : Ctx) : (s.setCtxAt i x).packets = s.packets := rfl
@[simp] theorem State.setCtxAt_nextPacket (i : Nat) (x : Ctx) : (s.setCtxAt i x).nextPacket = s.nextPacket := rfl
@[simp] theorem State.setCtxAt_setSigs (i : Nat) (x : Ctx) : (s.setCtxAt i x).setSigs = s.setSigs := rfl
@[simp] theorem State.setCtxAt_roundWaits (i : Nat) (x : Ctx) : (s.setCtxAt i x).roundWaits = s.roundWaits := rfl
@[simp] theorem State.setCtxAt_setWaits (i : Nat) (x : Ctx) : (s.setCtxAt i x).setWaits = s.setWaits := rfl
@[simp] theorem State.setCtxAt_ctxPins (i : Nat) (x : Ctx) : (s.setCtxAt i x).ctxPins = s.ctxPins := rfl
@[simp] theorem State.setCtxAt_ports (i : Nat) (x : Ctx) : (s.setCtxAt i x).ports = s.ports := rfl
@[simp] theorem State.setCtxAt_remoteReplies (i : Nat) (x : Ctx) : (s.setCtxAt i x).remoteReplies = s.remoteReplies := rfl
@[simp] theorem State.setCtxAt_requestNumbers (i : Nat) (x : Ctx) : (s.setCtxAt i x).requestNumbers = s.requestNumbers := rfl
@[simp] theorem State.setCtxAt_hostSig (i : Nat) (x : Ctx) : (s.setCtxAt i x).hostSig = s.hostSig := rfl
@[simp] theorem State.setCtxAt_hostData (i : Nat) (x : Ctx) : (s.setCtxAt i x).hostData = s.hostData := rfl
@[simp] theorem State.setCtxAt_cycleBase (i : Nat) (x : Ctx) : (s.setCtxAt i x).cycleBase = s.cycleBase := rfl
@[simp] theorem State.setCtxAt_mc (i : Nat) (x : Ctx) : (s.setCtxAt i x).mc = s.mc := rfl
@[simp] theorem State.setCtxAt_poison (i : Nat) (x : Ctx) : (s.setCtxAt i x).poison = s.poison := rfl
@[simp] theorem State.setCtxAt_dramQueue (i : Nat) (x : Ctx) : (s.setCtxAt i x).dramQueue = s.dramQueue := rfl
@[simp] theorem State.setCtxAt_acks (i : Nat) (x : Ctx) : (s.setCtxAt i x).acks = s.acks := rfl
@[simp] theorem State.setCtxAt_errCorrected (i : Nat) (x : Ctx) : (s.setCtxAt i x).errCorrected = s.errCorrected := rfl
@[simp] theorem State.setCtxAt_errUncorrected (i : Nat) (x : Ctx) : (s.setCtxAt i x).errUncorrected = s.errUncorrected := rfl
@[simp] theorem State.setCtxAt_errLastPa (i : Nat) (x : Ctx) : (s.setCtxAt i x).errLastPa = s.errLastPa := rfl
@[simp] theorem State.setCtxAt_telemHead (i : Nat) (x : Ctx) : (s.setCtxAt i x).telemHead = s.telemHead := rfl
@[simp] theorem State.setCtxAt_lastNamed (i : Nat) (x : Ctx) : (s.setCtxAt i x).lastNamed = s.lastNamed := rfl
@[simp] theorem State.setCtxAt_agenda (i : Nat) (x : Ctx) : (s.setCtxAt i x).agenda = s.agenda := rfl
@[simp] theorem State.setCtxAt_timers (i : Nat) (x : Ctx) : (s.setCtxAt i x).timers = s.timers := rfl
@[simp] theorem State.setCtxAt_order (i : Nat) (x : Ctx) : (s.setCtxAt i x).order = s.order := rfl
@[simp] theorem State.setCtxAt_ran (i : Nat) (x : Ctx) : (s.setCtxAt i x).ran = s.ran := rfl
@[simp] theorem State.setCtxAt_badAccess (i : Nat) (x : Ctx) : (s.setCtxAt i x).badAccess = s.badAccess := rfl
@[simp] theorem State.setCtxAt_arg (i : Nat) (x : Ctx) : (s.setCtxAt i x).arg = s.arg := rfl
@[simp] theorem State.setCtxAt_fresh (i : Nat) (x : Ctx) : (s.setCtxAt i x).fresh = s.fresh := rfl

/-! ### `modCtxAt` -/

@[simp] theorem State.modCtxAt_now (i : Nat) (f : Ctx → Ctx) : (s.modCtxAt i f).now = s.now := rfl
@[simp] theorem State.modCtxAt_cur (i : Nat) (f : Ctx → Ctx) : (s.modCtxAt i f).cur = s.cur := rfl
theorem State.modCtxAt_ctxs (i : Nat) (f : Ctx → Ctx) : (s.modCtxAt i f).ctxs = Store.set {} s.ctxs i (f (s.ctxAt i)) := rfl
@[simp] theorem State.modCtxAt_cores (i : Nat) (f : Ctx → Ctx) : (s.modCtxAt i f).cores = s.cores := rfl
@[simp] theorem State.modCtxAt_clusters (i : Nat) (f : Ctx → Ctx) : (s.modCtxAt i f).clusters = s.clusters := rfl
@[simp] theorem State.modCtxAt_dies (i : Nat) (f : Ctx → Ctx) : (s.modCtxAt i f).dies = s.dies := rfl
@[simp] theorem State.modCtxAt_hbmStacks (i : Nat) (f : Ctx → Ctx) : (s.modCtxAt i f).hbmStacks = s.hbmStacks := rfl
@[simp] theorem State.modCtxAt_mem (i : Nat) (f : Ctx → Ctx) : (s.modCtxAt i f).mem = s.mem := rfl
@[simp] theorem State.modCtxAt_wild (i : Nat) (f : Ctx → Ctx) : (s.modCtxAt i f).wild = s.wild := rfl
@[simp] theorem State.modCtxAt_outside (i : Nat) (f : Ctx → Ctx) : (s.modCtxAt i f).outside = s.outside := rfl
@[simp] theorem State.modCtxAt_ptRoot (i : Nat) (f : Ctx → Ctx) : (s.modCtxAt i f).ptRoot = s.ptRoot := rfl
@[simp] theorem State.modCtxAt_mgmt (i : Nat) (f : Ctx → Ctx) : (s.modCtxAt i f).mgmt = s.mgmt := rfl
@[simp] theorem State.modCtxAt_cfg (i : Nat) (f : Ctx → Ctx) : (s.modCtxAt i f).cfg = s.cfg := rfl
@[simp] theorem State.modCtxAt_tlbInval (i : Nat) (f : Ctx → Ctx) : (s.modCtxAt i f).tlbInval = s.tlbInval := rfl
@[simp] theorem State.modCtxAt_walker (i : Nat) (f : Ctx → Ctx) : (s.modCtxAt i f).walker = s.walker := rfl
@[simp] theorem State.modCtxAt_packets (i : Nat) (f : Ctx → Ctx) : (s.modCtxAt i f).packets = s.packets := rfl
@[simp] theorem State.modCtxAt_nextPacket (i : Nat) (f : Ctx → Ctx) : (s.modCtxAt i f).nextPacket = s.nextPacket := rfl
@[simp] theorem State.modCtxAt_setSigs (i : Nat) (f : Ctx → Ctx) : (s.modCtxAt i f).setSigs = s.setSigs := rfl
@[simp] theorem State.modCtxAt_roundWaits (i : Nat) (f : Ctx → Ctx) : (s.modCtxAt i f).roundWaits = s.roundWaits := rfl
@[simp] theorem State.modCtxAt_setWaits (i : Nat) (f : Ctx → Ctx) : (s.modCtxAt i f).setWaits = s.setWaits := rfl
@[simp] theorem State.modCtxAt_ctxPins (i : Nat) (f : Ctx → Ctx) : (s.modCtxAt i f).ctxPins = s.ctxPins := rfl
@[simp] theorem State.modCtxAt_ports (i : Nat) (f : Ctx → Ctx) : (s.modCtxAt i f).ports = s.ports := rfl
@[simp] theorem State.modCtxAt_remoteReplies (i : Nat) (f : Ctx → Ctx) : (s.modCtxAt i f).remoteReplies = s.remoteReplies := rfl
@[simp] theorem State.modCtxAt_requestNumbers (i : Nat) (f : Ctx → Ctx) : (s.modCtxAt i f).requestNumbers = s.requestNumbers := rfl
@[simp] theorem State.modCtxAt_hostSig (i : Nat) (f : Ctx → Ctx) : (s.modCtxAt i f).hostSig = s.hostSig := rfl
@[simp] theorem State.modCtxAt_hostData (i : Nat) (f : Ctx → Ctx) : (s.modCtxAt i f).hostData = s.hostData := rfl
@[simp] theorem State.modCtxAt_cycleBase (i : Nat) (f : Ctx → Ctx) : (s.modCtxAt i f).cycleBase = s.cycleBase := rfl
@[simp] theorem State.modCtxAt_mc (i : Nat) (f : Ctx → Ctx) : (s.modCtxAt i f).mc = s.mc := rfl
@[simp] theorem State.modCtxAt_poison (i : Nat) (f : Ctx → Ctx) : (s.modCtxAt i f).poison = s.poison := rfl
@[simp] theorem State.modCtxAt_dramQueue (i : Nat) (f : Ctx → Ctx) : (s.modCtxAt i f).dramQueue = s.dramQueue := rfl
@[simp] theorem State.modCtxAt_acks (i : Nat) (f : Ctx → Ctx) : (s.modCtxAt i f).acks = s.acks := rfl
@[simp] theorem State.modCtxAt_errCorrected (i : Nat) (f : Ctx → Ctx) : (s.modCtxAt i f).errCorrected = s.errCorrected := rfl
@[simp] theorem State.modCtxAt_errUncorrected (i : Nat) (f : Ctx → Ctx) : (s.modCtxAt i f).errUncorrected = s.errUncorrected := rfl
@[simp] theorem State.modCtxAt_errLastPa (i : Nat) (f : Ctx → Ctx) : (s.modCtxAt i f).errLastPa = s.errLastPa := rfl
@[simp] theorem State.modCtxAt_telemHead (i : Nat) (f : Ctx → Ctx) : (s.modCtxAt i f).telemHead = s.telemHead := rfl
@[simp] theorem State.modCtxAt_lastNamed (i : Nat) (f : Ctx → Ctx) : (s.modCtxAt i f).lastNamed = s.lastNamed := rfl
@[simp] theorem State.modCtxAt_agenda (i : Nat) (f : Ctx → Ctx) : (s.modCtxAt i f).agenda = s.agenda := rfl
@[simp] theorem State.modCtxAt_timers (i : Nat) (f : Ctx → Ctx) : (s.modCtxAt i f).timers = s.timers := rfl
@[simp] theorem State.modCtxAt_order (i : Nat) (f : Ctx → Ctx) : (s.modCtxAt i f).order = s.order := rfl
@[simp] theorem State.modCtxAt_ran (i : Nat) (f : Ctx → Ctx) : (s.modCtxAt i f).ran = s.ran := rfl
@[simp] theorem State.modCtxAt_badAccess (i : Nat) (f : Ctx → Ctx) : (s.modCtxAt i f).badAccess = s.badAccess := rfl
@[simp] theorem State.modCtxAt_arg (i : Nat) (f : Ctx → Ctx) : (s.modCtxAt i f).arg = s.arg := rfl
@[simp] theorem State.modCtxAt_fresh (i : Nat) (f : Ctx → Ctx) : (s.modCtxAt i f).fresh = s.fresh := rfl

/-! ### `modCtx` -/

@[simp] theorem State.modCtx_now (f : Ctx → Ctx) : (s.modCtx f).now = s.now := rfl
@[simp] theorem State.modCtx_cur (f : Ctx → Ctx) : (s.modCtx f).cur = s.cur := rfl
theorem State.modCtx_ctxs (f : Ctx → Ctx) : (s.modCtx f).ctxs = Store.set {} s.ctxs s.cur.ctx (f s.ctx) := rfl
@[simp] theorem State.modCtx_cores (f : Ctx → Ctx) : (s.modCtx f).cores = s.cores := rfl
@[simp] theorem State.modCtx_clusters (f : Ctx → Ctx) : (s.modCtx f).clusters = s.clusters := rfl
@[simp] theorem State.modCtx_dies (f : Ctx → Ctx) : (s.modCtx f).dies = s.dies := rfl
@[simp] theorem State.modCtx_hbmStacks (f : Ctx → Ctx) : (s.modCtx f).hbmStacks = s.hbmStacks := rfl
@[simp] theorem State.modCtx_mem (f : Ctx → Ctx) : (s.modCtx f).mem = s.mem := rfl
@[simp] theorem State.modCtx_wild (f : Ctx → Ctx) : (s.modCtx f).wild = s.wild := rfl
@[simp] theorem State.modCtx_outside (f : Ctx → Ctx) : (s.modCtx f).outside = s.outside := rfl
@[simp] theorem State.modCtx_ptRoot (f : Ctx → Ctx) : (s.modCtx f).ptRoot = s.ptRoot := rfl
@[simp] theorem State.modCtx_mgmt (f : Ctx → Ctx) : (s.modCtx f).mgmt = s.mgmt := rfl
@[simp] theorem State.modCtx_cfg (f : Ctx → Ctx) : (s.modCtx f).cfg = s.cfg := rfl
@[simp] theorem State.modCtx_tlbInval (f : Ctx → Ctx) : (s.modCtx f).tlbInval = s.tlbInval := rfl
@[simp] theorem State.modCtx_walker (f : Ctx → Ctx) : (s.modCtx f).walker = s.walker := rfl
@[simp] theorem State.modCtx_packets (f : Ctx → Ctx) : (s.modCtx f).packets = s.packets := rfl
@[simp] theorem State.modCtx_nextPacket (f : Ctx → Ctx) : (s.modCtx f).nextPacket = s.nextPacket := rfl
@[simp] theorem State.modCtx_setSigs (f : Ctx → Ctx) : (s.modCtx f).setSigs = s.setSigs := rfl
@[simp] theorem State.modCtx_roundWaits (f : Ctx → Ctx) : (s.modCtx f).roundWaits = s.roundWaits := rfl
@[simp] theorem State.modCtx_setWaits (f : Ctx → Ctx) : (s.modCtx f).setWaits = s.setWaits := rfl
@[simp] theorem State.modCtx_ctxPins (f : Ctx → Ctx) : (s.modCtx f).ctxPins = s.ctxPins := rfl
@[simp] theorem State.modCtx_ports (f : Ctx → Ctx) : (s.modCtx f).ports = s.ports := rfl
@[simp] theorem State.modCtx_remoteReplies (f : Ctx → Ctx) : (s.modCtx f).remoteReplies = s.remoteReplies := rfl
@[simp] theorem State.modCtx_requestNumbers (f : Ctx → Ctx) : (s.modCtx f).requestNumbers = s.requestNumbers := rfl
@[simp] theorem State.modCtx_hostSig (f : Ctx → Ctx) : (s.modCtx f).hostSig = s.hostSig := rfl
@[simp] theorem State.modCtx_hostData (f : Ctx → Ctx) : (s.modCtx f).hostData = s.hostData := rfl
@[simp] theorem State.modCtx_cycleBase (f : Ctx → Ctx) : (s.modCtx f).cycleBase = s.cycleBase := rfl
@[simp] theorem State.modCtx_mc (f : Ctx → Ctx) : (s.modCtx f).mc = s.mc := rfl
@[simp] theorem State.modCtx_poison (f : Ctx → Ctx) : (s.modCtx f).poison = s.poison := rfl
@[simp] theorem State.modCtx_dramQueue (f : Ctx → Ctx) : (s.modCtx f).dramQueue = s.dramQueue := rfl
@[simp] theorem State.modCtx_acks (f : Ctx → Ctx) : (s.modCtx f).acks = s.acks := rfl
@[simp] theorem State.modCtx_errCorrected (f : Ctx → Ctx) : (s.modCtx f).errCorrected = s.errCorrected := rfl
@[simp] theorem State.modCtx_errUncorrected (f : Ctx → Ctx) : (s.modCtx f).errUncorrected = s.errUncorrected := rfl
@[simp] theorem State.modCtx_errLastPa (f : Ctx → Ctx) : (s.modCtx f).errLastPa = s.errLastPa := rfl
@[simp] theorem State.modCtx_telemHead (f : Ctx → Ctx) : (s.modCtx f).telemHead = s.telemHead := rfl
@[simp] theorem State.modCtx_lastNamed (f : Ctx → Ctx) : (s.modCtx f).lastNamed = s.lastNamed := rfl
@[simp] theorem State.modCtx_agenda (f : Ctx → Ctx) : (s.modCtx f).agenda = s.agenda := rfl
@[simp] theorem State.modCtx_timers (f : Ctx → Ctx) : (s.modCtx f).timers = s.timers := rfl
@[simp] theorem State.modCtx_order (f : Ctx → Ctx) : (s.modCtx f).order = s.order := rfl
@[simp] theorem State.modCtx_ran (f : Ctx → Ctx) : (s.modCtx f).ran = s.ran := rfl
@[simp] theorem State.modCtx_badAccess (f : Ctx → Ctx) : (s.modCtx f).badAccess = s.badAccess := rfl
@[simp] theorem State.modCtx_arg (f : Ctx → Ctx) : (s.modCtx f).arg = s.arg := rfl
@[simp] theorem State.modCtx_fresh (f : Ctx → Ctx) : (s.modCtx f).fresh = s.fresh := rfl

/-! ### `modCur` -/

@[simp] theorem State.modCur_now (f : Cur → Cur) : (s.modCur f).now = s.now := rfl
@[simp] theorem State.modCur_cur (f : Cur → Cur) : (s.modCur f).cur = f s.cur := rfl
@[simp] theorem State.modCur_ctxs (f : Cur → Cur) : (s.modCur f).ctxs = s.ctxs := rfl
@[simp] theorem State.modCur_cores (f : Cur → Cur) : (s.modCur f).cores = s.cores := rfl
@[simp] theorem State.modCur_clusters (f : Cur → Cur) : (s.modCur f).clusters = s.clusters := rfl
@[simp] theorem State.modCur_dies (f : Cur → Cur) : (s.modCur f).dies = s.dies := rfl
@[simp] theorem State.modCur_hbmStacks (f : Cur → Cur) : (s.modCur f).hbmStacks = s.hbmStacks := rfl
@[simp] theorem State.modCur_mem (f : Cur → Cur) : (s.modCur f).mem = s.mem := rfl
@[simp] theorem State.modCur_wild (f : Cur → Cur) : (s.modCur f).wild = s.wild := rfl
@[simp] theorem State.modCur_outside (f : Cur → Cur) : (s.modCur f).outside = s.outside := rfl
@[simp] theorem State.modCur_ptRoot (f : Cur → Cur) : (s.modCur f).ptRoot = s.ptRoot := rfl
@[simp] theorem State.modCur_mgmt (f : Cur → Cur) : (s.modCur f).mgmt = s.mgmt := rfl
@[simp] theorem State.modCur_cfg (f : Cur → Cur) : (s.modCur f).cfg = s.cfg := rfl
@[simp] theorem State.modCur_tlbInval (f : Cur → Cur) : (s.modCur f).tlbInval = s.tlbInval := rfl
@[simp] theorem State.modCur_walker (f : Cur → Cur) : (s.modCur f).walker = s.walker := rfl
@[simp] theorem State.modCur_packets (f : Cur → Cur) : (s.modCur f).packets = s.packets := rfl
@[simp] theorem State.modCur_nextPacket (f : Cur → Cur) : (s.modCur f).nextPacket = s.nextPacket := rfl
@[simp] theorem State.modCur_setSigs (f : Cur → Cur) : (s.modCur f).setSigs = s.setSigs := rfl
@[simp] theorem State.modCur_roundWaits (f : Cur → Cur) : (s.modCur f).roundWaits = s.roundWaits := rfl
@[simp] theorem State.modCur_setWaits (f : Cur → Cur) : (s.modCur f).setWaits = s.setWaits := rfl
@[simp] theorem State.modCur_ctxPins (f : Cur → Cur) : (s.modCur f).ctxPins = s.ctxPins := rfl
@[simp] theorem State.modCur_ports (f : Cur → Cur) : (s.modCur f).ports = s.ports := rfl
@[simp] theorem State.modCur_remoteReplies (f : Cur → Cur) : (s.modCur f).remoteReplies = s.remoteReplies := rfl
@[simp] theorem State.modCur_requestNumbers (f : Cur → Cur) : (s.modCur f).requestNumbers = s.requestNumbers := rfl
@[simp] theorem State.modCur_hostSig (f : Cur → Cur) : (s.modCur f).hostSig = s.hostSig := rfl
@[simp] theorem State.modCur_hostData (f : Cur → Cur) : (s.modCur f).hostData = s.hostData := rfl
@[simp] theorem State.modCur_cycleBase (f : Cur → Cur) : (s.modCur f).cycleBase = s.cycleBase := rfl
@[simp] theorem State.modCur_mc (f : Cur → Cur) : (s.modCur f).mc = s.mc := rfl
@[simp] theorem State.modCur_poison (f : Cur → Cur) : (s.modCur f).poison = s.poison := rfl
@[simp] theorem State.modCur_dramQueue (f : Cur → Cur) : (s.modCur f).dramQueue = s.dramQueue := rfl
@[simp] theorem State.modCur_acks (f : Cur → Cur) : (s.modCur f).acks = s.acks := rfl
@[simp] theorem State.modCur_errCorrected (f : Cur → Cur) : (s.modCur f).errCorrected = s.errCorrected := rfl
@[simp] theorem State.modCur_errUncorrected (f : Cur → Cur) : (s.modCur f).errUncorrected = s.errUncorrected := rfl
@[simp] theorem State.modCur_errLastPa (f : Cur → Cur) : (s.modCur f).errLastPa = s.errLastPa := rfl
@[simp] theorem State.modCur_telemHead (f : Cur → Cur) : (s.modCur f).telemHead = s.telemHead := rfl
@[simp] theorem State.modCur_lastNamed (f : Cur → Cur) : (s.modCur f).lastNamed = s.lastNamed := rfl
@[simp] theorem State.modCur_agenda (f : Cur → Cur) : (s.modCur f).agenda = s.agenda := rfl
@[simp] theorem State.modCur_timers (f : Cur → Cur) : (s.modCur f).timers = s.timers := rfl
@[simp] theorem State.modCur_order (f : Cur → Cur) : (s.modCur f).order = s.order := rfl
@[simp] theorem State.modCur_ran (f : Cur → Cur) : (s.modCur f).ran = s.ran := rfl
@[simp] theorem State.modCur_badAccess (f : Cur → Cur) : (s.modCur f).badAccess = s.badAccess := rfl
@[simp] theorem State.modCur_arg (f : Cur → Cur) : (s.modCur f).arg = s.arg := rfl
@[simp] theorem State.modCur_fresh (f : Cur → Cur) : (s.modCur f).fresh = s.fresh := rfl

/-! ### `queue` -/

@[simp] theorem State.queue_now (n : Nat) (w : RegWrite) : (s.queue n w).now = s.now := rfl
@[simp] theorem State.queue_cur (n : Nat) (w : RegWrite) : (s.queue n w).cur = s.cur := rfl
@[simp] theorem State.queue_cores (n : Nat) (w : RegWrite) : (s.queue n w).cores = s.cores := rfl
@[simp] theorem State.queue_clusters (n : Nat) (w : RegWrite) : (s.queue n w).clusters = s.clusters := rfl
@[simp] theorem State.queue_dies (n : Nat) (w : RegWrite) : (s.queue n w).dies = s.dies := rfl
@[simp] theorem State.queue_hbmStacks (n : Nat) (w : RegWrite) : (s.queue n w).hbmStacks = s.hbmStacks := rfl
@[simp] theorem State.queue_mem (n : Nat) (w : RegWrite) : (s.queue n w).mem = s.mem := rfl
@[simp] theorem State.queue_wild (n : Nat) (w : RegWrite) : (s.queue n w).wild = s.wild := rfl
@[simp] theorem State.queue_outside (n : Nat) (w : RegWrite) : (s.queue n w).outside = s.outside := rfl
@[simp] theorem State.queue_ptRoot (n : Nat) (w : RegWrite) : (s.queue n w).ptRoot = s.ptRoot := rfl
@[simp] theorem State.queue_mgmt (n : Nat) (w : RegWrite) : (s.queue n w).mgmt = s.mgmt := rfl
@[simp] theorem State.queue_cfg (n : Nat) (w : RegWrite) : (s.queue n w).cfg = s.cfg := rfl
@[simp] theorem State.queue_tlbInval (n : Nat) (w : RegWrite) : (s.queue n w).tlbInval = s.tlbInval := rfl
@[simp] theorem State.queue_walker (n : Nat) (w : RegWrite) : (s.queue n w).walker = s.walker := rfl
@[simp] theorem State.queue_packets (n : Nat) (w : RegWrite) : (s.queue n w).packets = s.packets := rfl
@[simp] theorem State.queue_nextPacket (n : Nat) (w : RegWrite) : (s.queue n w).nextPacket = s.nextPacket := rfl
@[simp] theorem State.queue_setSigs (n : Nat) (w : RegWrite) : (s.queue n w).setSigs = s.setSigs := rfl
@[simp] theorem State.queue_roundWaits (n : Nat) (w : RegWrite) : (s.queue n w).roundWaits = s.roundWaits := rfl
@[simp] theorem State.queue_setWaits (n : Nat) (w : RegWrite) : (s.queue n w).setWaits = s.setWaits := rfl
@[simp] theorem State.queue_ctxPins (n : Nat) (w : RegWrite) : (s.queue n w).ctxPins = s.ctxPins := rfl
@[simp] theorem State.queue_ports (n : Nat) (w : RegWrite) : (s.queue n w).ports = s.ports := rfl
@[simp] theorem State.queue_remoteReplies (n : Nat) (w : RegWrite) : (s.queue n w).remoteReplies = s.remoteReplies := rfl
@[simp] theorem State.queue_requestNumbers (n : Nat) (w : RegWrite) : (s.queue n w).requestNumbers = s.requestNumbers := rfl
@[simp] theorem State.queue_hostSig (n : Nat) (w : RegWrite) : (s.queue n w).hostSig = s.hostSig := rfl
@[simp] theorem State.queue_hostData (n : Nat) (w : RegWrite) : (s.queue n w).hostData = s.hostData := rfl
@[simp] theorem State.queue_cycleBase (n : Nat) (w : RegWrite) : (s.queue n w).cycleBase = s.cycleBase := rfl
@[simp] theorem State.queue_mc (n : Nat) (w : RegWrite) : (s.queue n w).mc = s.mc := rfl
@[simp] theorem State.queue_poison (n : Nat) (w : RegWrite) : (s.queue n w).poison = s.poison := rfl
@[simp] theorem State.queue_dramQueue (n : Nat) (w : RegWrite) : (s.queue n w).dramQueue = s.dramQueue := rfl
@[simp] theorem State.queue_acks (n : Nat) (w : RegWrite) : (s.queue n w).acks = s.acks := rfl
@[simp] theorem State.queue_errCorrected (n : Nat) (w : RegWrite) : (s.queue n w).errCorrected = s.errCorrected := rfl
@[simp] theorem State.queue_errUncorrected (n : Nat) (w : RegWrite) : (s.queue n w).errUncorrected = s.errUncorrected := rfl
@[simp] theorem State.queue_errLastPa (n : Nat) (w : RegWrite) : (s.queue n w).errLastPa = s.errLastPa := rfl
@[simp] theorem State.queue_telemHead (n : Nat) (w : RegWrite) : (s.queue n w).telemHead = s.telemHead := rfl
@[simp] theorem State.queue_lastNamed (n : Nat) (w : RegWrite) : (s.queue n w).lastNamed = s.lastNamed := rfl
@[simp] theorem State.queue_agenda (n : Nat) (w : RegWrite) : (s.queue n w).agenda = s.agenda := rfl
@[simp] theorem State.queue_timers (n : Nat) (w : RegWrite) : (s.queue n w).timers = s.timers := rfl
@[simp] theorem State.queue_order (n : Nat) (w : RegWrite) : (s.queue n w).order = s.order := rfl
@[simp] theorem State.queue_ran (n : Nat) (w : RegWrite) : (s.queue n w).ran = s.ran := rfl
@[simp] theorem State.queue_badAccess (n : Nat) (w : RegWrite) : (s.queue n w).badAccess = s.badAccess := rfl
@[simp] theorem State.queue_arg (n : Nat) (w : RegWrite) : (s.queue n w).arg = s.arg := rfl
@[simp] theorem State.queue_fresh (n : Nat) (w : RegWrite) : (s.queue n w).fresh = s.fresh := rfl

/-! ### `modCore` -/

@[simp] theorem State.modCore_now (i : Nat) (f : CoreSt → CoreSt) : (s.modCore i f).now = s.now := rfl
@[simp] theorem State.modCore_cur (i : Nat) (f : CoreSt → CoreSt) : (s.modCore i f).cur = s.cur := rfl
@[simp] theorem State.modCore_ctxs (i : Nat) (f : CoreSt → CoreSt) : (s.modCore i f).ctxs = s.ctxs := rfl
theorem State.modCore_cores (i : Nat) (f : CoreSt → CoreSt) : (s.modCore i f).cores = Store.set {} s.cores i (f (s.core i)) := rfl
@[simp] theorem State.modCore_clusters (i : Nat) (f : CoreSt → CoreSt) : (s.modCore i f).clusters = s.clusters := rfl
@[simp] theorem State.modCore_dies (i : Nat) (f : CoreSt → CoreSt) : (s.modCore i f).dies = s.dies := rfl
@[simp] theorem State.modCore_hbmStacks (i : Nat) (f : CoreSt → CoreSt) : (s.modCore i f).hbmStacks = s.hbmStacks := rfl
@[simp] theorem State.modCore_mem (i : Nat) (f : CoreSt → CoreSt) : (s.modCore i f).mem = s.mem := rfl
@[simp] theorem State.modCore_wild (i : Nat) (f : CoreSt → CoreSt) : (s.modCore i f).wild = s.wild := rfl
@[simp] theorem State.modCore_outside (i : Nat) (f : CoreSt → CoreSt) : (s.modCore i f).outside = s.outside := rfl
@[simp] theorem State.modCore_ptRoot (i : Nat) (f : CoreSt → CoreSt) : (s.modCore i f).ptRoot = s.ptRoot := rfl
@[simp] theorem State.modCore_mgmt (i : Nat) (f : CoreSt → CoreSt) : (s.modCore i f).mgmt = s.mgmt := rfl
@[simp] theorem State.modCore_cfg (i : Nat) (f : CoreSt → CoreSt) : (s.modCore i f).cfg = s.cfg := rfl
@[simp] theorem State.modCore_tlbInval (i : Nat) (f : CoreSt → CoreSt) : (s.modCore i f).tlbInval = s.tlbInval := rfl
@[simp] theorem State.modCore_walker (i : Nat) (f : CoreSt → CoreSt) : (s.modCore i f).walker = s.walker := rfl
@[simp] theorem State.modCore_packets (i : Nat) (f : CoreSt → CoreSt) : (s.modCore i f).packets = s.packets := rfl
@[simp] theorem State.modCore_nextPacket (i : Nat) (f : CoreSt → CoreSt) : (s.modCore i f).nextPacket = s.nextPacket := rfl
@[simp] theorem State.modCore_setSigs (i : Nat) (f : CoreSt → CoreSt) : (s.modCore i f).setSigs = s.setSigs := rfl
@[simp] theorem State.modCore_roundWaits (i : Nat) (f : CoreSt → CoreSt) : (s.modCore i f).roundWaits = s.roundWaits := rfl
@[simp] theorem State.modCore_setWaits (i : Nat) (f : CoreSt → CoreSt) : (s.modCore i f).setWaits = s.setWaits := rfl
@[simp] theorem State.modCore_ctxPins (i : Nat) (f : CoreSt → CoreSt) : (s.modCore i f).ctxPins = s.ctxPins := rfl
@[simp] theorem State.modCore_ports (i : Nat) (f : CoreSt → CoreSt) : (s.modCore i f).ports = s.ports := rfl
@[simp] theorem State.modCore_remoteReplies (i : Nat) (f : CoreSt → CoreSt) : (s.modCore i f).remoteReplies = s.remoteReplies := rfl
@[simp] theorem State.modCore_requestNumbers (i : Nat) (f : CoreSt → CoreSt) : (s.modCore i f).requestNumbers = s.requestNumbers := rfl
@[simp] theorem State.modCore_hostSig (i : Nat) (f : CoreSt → CoreSt) : (s.modCore i f).hostSig = s.hostSig := rfl
@[simp] theorem State.modCore_hostData (i : Nat) (f : CoreSt → CoreSt) : (s.modCore i f).hostData = s.hostData := rfl
@[simp] theorem State.modCore_cycleBase (i : Nat) (f : CoreSt → CoreSt) : (s.modCore i f).cycleBase = s.cycleBase := rfl
@[simp] theorem State.modCore_mc (i : Nat) (f : CoreSt → CoreSt) : (s.modCore i f).mc = s.mc := rfl
@[simp] theorem State.modCore_poison (i : Nat) (f : CoreSt → CoreSt) : (s.modCore i f).poison = s.poison := rfl
@[simp] theorem State.modCore_dramQueue (i : Nat) (f : CoreSt → CoreSt) : (s.modCore i f).dramQueue = s.dramQueue := rfl
@[simp] theorem State.modCore_acks (i : Nat) (f : CoreSt → CoreSt) : (s.modCore i f).acks = s.acks := rfl
@[simp] theorem State.modCore_errCorrected (i : Nat) (f : CoreSt → CoreSt) : (s.modCore i f).errCorrected = s.errCorrected := rfl
@[simp] theorem State.modCore_errUncorrected (i : Nat) (f : CoreSt → CoreSt) : (s.modCore i f).errUncorrected = s.errUncorrected := rfl
@[simp] theorem State.modCore_errLastPa (i : Nat) (f : CoreSt → CoreSt) : (s.modCore i f).errLastPa = s.errLastPa := rfl
@[simp] theorem State.modCore_telemHead (i : Nat) (f : CoreSt → CoreSt) : (s.modCore i f).telemHead = s.telemHead := rfl
@[simp] theorem State.modCore_lastNamed (i : Nat) (f : CoreSt → CoreSt) : (s.modCore i f).lastNamed = s.lastNamed := rfl
@[simp] theorem State.modCore_agenda (i : Nat) (f : CoreSt → CoreSt) : (s.modCore i f).agenda = s.agenda := rfl
@[simp] theorem State.modCore_timers (i : Nat) (f : CoreSt → CoreSt) : (s.modCore i f).timers = s.timers := rfl
@[simp] theorem State.modCore_order (i : Nat) (f : CoreSt → CoreSt) : (s.modCore i f).order = s.order := rfl
@[simp] theorem State.modCore_ran (i : Nat) (f : CoreSt → CoreSt) : (s.modCore i f).ran = s.ran := rfl
@[simp] theorem State.modCore_badAccess (i : Nat) (f : CoreSt → CoreSt) : (s.modCore i f).badAccess = s.badAccess := rfl
@[simp] theorem State.modCore_arg (i : Nat) (f : CoreSt → CoreSt) : (s.modCore i f).arg = s.arg := rfl
@[simp] theorem State.modCore_fresh (i : Nat) (f : CoreSt → CoreSt) : (s.modCore i f).fresh = s.fresh := rfl

/-! ### `modCluster` -/

@[simp] theorem State.modCluster_now (i : Nat) (f : Cluster → Cluster) : (s.modCluster i f).now = s.now := rfl
@[simp] theorem State.modCluster_cur (i : Nat) (f : Cluster → Cluster) : (s.modCluster i f).cur = s.cur := rfl
@[simp] theorem State.modCluster_ctxs (i : Nat) (f : Cluster → Cluster) : (s.modCluster i f).ctxs = s.ctxs := rfl
@[simp] theorem State.modCluster_cores (i : Nat) (f : Cluster → Cluster) : (s.modCluster i f).cores = s.cores := rfl
theorem State.modCluster_clusters (i : Nat) (f : Cluster → Cluster) : (s.modCluster i f).clusters = Store.set {} s.clusters i (f (s.cluster i)) := rfl
@[simp] theorem State.modCluster_dies (i : Nat) (f : Cluster → Cluster) : (s.modCluster i f).dies = s.dies := rfl
@[simp] theorem State.modCluster_hbmStacks (i : Nat) (f : Cluster → Cluster) : (s.modCluster i f).hbmStacks = s.hbmStacks := rfl
@[simp] theorem State.modCluster_mem (i : Nat) (f : Cluster → Cluster) : (s.modCluster i f).mem = s.mem := rfl
@[simp] theorem State.modCluster_wild (i : Nat) (f : Cluster → Cluster) : (s.modCluster i f).wild = s.wild := rfl
@[simp] theorem State.modCluster_outside (i : Nat) (f : Cluster → Cluster) : (s.modCluster i f).outside = s.outside := rfl
@[simp] theorem State.modCluster_ptRoot (i : Nat) (f : Cluster → Cluster) : (s.modCluster i f).ptRoot = s.ptRoot := rfl
@[simp] theorem State.modCluster_mgmt (i : Nat) (f : Cluster → Cluster) : (s.modCluster i f).mgmt = s.mgmt := rfl
@[simp] theorem State.modCluster_cfg (i : Nat) (f : Cluster → Cluster) : (s.modCluster i f).cfg = s.cfg := rfl
@[simp] theorem State.modCluster_tlbInval (i : Nat) (f : Cluster → Cluster) : (s.modCluster i f).tlbInval = s.tlbInval := rfl
@[simp] theorem State.modCluster_walker (i : Nat) (f : Cluster → Cluster) : (s.modCluster i f).walker = s.walker := rfl
@[simp] theorem State.modCluster_packets (i : Nat) (f : Cluster → Cluster) : (s.modCluster i f).packets = s.packets := rfl
@[simp] theorem State.modCluster_nextPacket (i : Nat) (f : Cluster → Cluster) : (s.modCluster i f).nextPacket = s.nextPacket := rfl
@[simp] theorem State.modCluster_setSigs (i : Nat) (f : Cluster → Cluster) : (s.modCluster i f).setSigs = s.setSigs := rfl
@[simp] theorem State.modCluster_roundWaits (i : Nat) (f : Cluster → Cluster) : (s.modCluster i f).roundWaits = s.roundWaits := rfl
@[simp] theorem State.modCluster_setWaits (i : Nat) (f : Cluster → Cluster) : (s.modCluster i f).setWaits = s.setWaits := rfl
@[simp] theorem State.modCluster_ctxPins (i : Nat) (f : Cluster → Cluster) : (s.modCluster i f).ctxPins = s.ctxPins := rfl
@[simp] theorem State.modCluster_ports (i : Nat) (f : Cluster → Cluster) : (s.modCluster i f).ports = s.ports := rfl
@[simp] theorem State.modCluster_remoteReplies (i : Nat) (f : Cluster → Cluster) : (s.modCluster i f).remoteReplies = s.remoteReplies := rfl
@[simp] theorem State.modCluster_requestNumbers (i : Nat) (f : Cluster → Cluster) : (s.modCluster i f).requestNumbers = s.requestNumbers := rfl
@[simp] theorem State.modCluster_hostSig (i : Nat) (f : Cluster → Cluster) : (s.modCluster i f).hostSig = s.hostSig := rfl
@[simp] theorem State.modCluster_hostData (i : Nat) (f : Cluster → Cluster) : (s.modCluster i f).hostData = s.hostData := rfl
@[simp] theorem State.modCluster_cycleBase (i : Nat) (f : Cluster → Cluster) : (s.modCluster i f).cycleBase = s.cycleBase := rfl
@[simp] theorem State.modCluster_mc (i : Nat) (f : Cluster → Cluster) : (s.modCluster i f).mc = s.mc := rfl
@[simp] theorem State.modCluster_poison (i : Nat) (f : Cluster → Cluster) : (s.modCluster i f).poison = s.poison := rfl
@[simp] theorem State.modCluster_dramQueue (i : Nat) (f : Cluster → Cluster) : (s.modCluster i f).dramQueue = s.dramQueue := rfl
@[simp] theorem State.modCluster_acks (i : Nat) (f : Cluster → Cluster) : (s.modCluster i f).acks = s.acks := rfl
@[simp] theorem State.modCluster_errCorrected (i : Nat) (f : Cluster → Cluster) : (s.modCluster i f).errCorrected = s.errCorrected := rfl
@[simp] theorem State.modCluster_errUncorrected (i : Nat) (f : Cluster → Cluster) : (s.modCluster i f).errUncorrected = s.errUncorrected := rfl
@[simp] theorem State.modCluster_errLastPa (i : Nat) (f : Cluster → Cluster) : (s.modCluster i f).errLastPa = s.errLastPa := rfl
@[simp] theorem State.modCluster_telemHead (i : Nat) (f : Cluster → Cluster) : (s.modCluster i f).telemHead = s.telemHead := rfl
@[simp] theorem State.modCluster_lastNamed (i : Nat) (f : Cluster → Cluster) : (s.modCluster i f).lastNamed = s.lastNamed := rfl
@[simp] theorem State.modCluster_agenda (i : Nat) (f : Cluster → Cluster) : (s.modCluster i f).agenda = s.agenda := rfl
@[simp] theorem State.modCluster_timers (i : Nat) (f : Cluster → Cluster) : (s.modCluster i f).timers = s.timers := rfl
@[simp] theorem State.modCluster_order (i : Nat) (f : Cluster → Cluster) : (s.modCluster i f).order = s.order := rfl
@[simp] theorem State.modCluster_ran (i : Nat) (f : Cluster → Cluster) : (s.modCluster i f).ran = s.ran := rfl
@[simp] theorem State.modCluster_badAccess (i : Nat) (f : Cluster → Cluster) : (s.modCluster i f).badAccess = s.badAccess := rfl
@[simp] theorem State.modCluster_arg (i : Nat) (f : Cluster → Cluster) : (s.modCluster i f).arg = s.arg := rfl
@[simp] theorem State.modCluster_fresh (i : Nat) (f : Cluster → Cluster) : (s.modCluster i f).fresh = s.fresh := rfl

/-! ### `modDie` -/

@[simp] theorem State.modDie_now (i : Nat) (f : Die → Die) : (s.modDie i f).now = s.now := rfl
@[simp] theorem State.modDie_cur (i : Nat) (f : Die → Die) : (s.modDie i f).cur = s.cur := rfl
@[simp] theorem State.modDie_ctxs (i : Nat) (f : Die → Die) : (s.modDie i f).ctxs = s.ctxs := rfl
@[simp] theorem State.modDie_cores (i : Nat) (f : Die → Die) : (s.modDie i f).cores = s.cores := rfl
@[simp] theorem State.modDie_clusters (i : Nat) (f : Die → Die) : (s.modDie i f).clusters = s.clusters := rfl
theorem State.modDie_dies (i : Nat) (f : Die → Die) : (s.modDie i f).dies = Store.set {} s.dies i (f (s.die i)) := rfl
@[simp] theorem State.modDie_hbmStacks (i : Nat) (f : Die → Die) : (s.modDie i f).hbmStacks = s.hbmStacks := rfl
@[simp] theorem State.modDie_mem (i : Nat) (f : Die → Die) : (s.modDie i f).mem = s.mem := rfl
@[simp] theorem State.modDie_wild (i : Nat) (f : Die → Die) : (s.modDie i f).wild = s.wild := rfl
@[simp] theorem State.modDie_outside (i : Nat) (f : Die → Die) : (s.modDie i f).outside = s.outside := rfl
@[simp] theorem State.modDie_ptRoot (i : Nat) (f : Die → Die) : (s.modDie i f).ptRoot = s.ptRoot := rfl
@[simp] theorem State.modDie_mgmt (i : Nat) (f : Die → Die) : (s.modDie i f).mgmt = s.mgmt := rfl
@[simp] theorem State.modDie_cfg (i : Nat) (f : Die → Die) : (s.modDie i f).cfg = s.cfg := rfl
@[simp] theorem State.modDie_tlbInval (i : Nat) (f : Die → Die) : (s.modDie i f).tlbInval = s.tlbInval := rfl
@[simp] theorem State.modDie_walker (i : Nat) (f : Die → Die) : (s.modDie i f).walker = s.walker := rfl
@[simp] theorem State.modDie_packets (i : Nat) (f : Die → Die) : (s.modDie i f).packets = s.packets := rfl
@[simp] theorem State.modDie_nextPacket (i : Nat) (f : Die → Die) : (s.modDie i f).nextPacket = s.nextPacket := rfl
@[simp] theorem State.modDie_setSigs (i : Nat) (f : Die → Die) : (s.modDie i f).setSigs = s.setSigs := rfl
@[simp] theorem State.modDie_roundWaits (i : Nat) (f : Die → Die) : (s.modDie i f).roundWaits = s.roundWaits := rfl
@[simp] theorem State.modDie_setWaits (i : Nat) (f : Die → Die) : (s.modDie i f).setWaits = s.setWaits := rfl
@[simp] theorem State.modDie_ctxPins (i : Nat) (f : Die → Die) : (s.modDie i f).ctxPins = s.ctxPins := rfl
@[simp] theorem State.modDie_ports (i : Nat) (f : Die → Die) : (s.modDie i f).ports = s.ports := rfl
@[simp] theorem State.modDie_remoteReplies (i : Nat) (f : Die → Die) : (s.modDie i f).remoteReplies = s.remoteReplies := rfl
@[simp] theorem State.modDie_requestNumbers (i : Nat) (f : Die → Die) : (s.modDie i f).requestNumbers = s.requestNumbers := rfl
@[simp] theorem State.modDie_hostSig (i : Nat) (f : Die → Die) : (s.modDie i f).hostSig = s.hostSig := rfl
@[simp] theorem State.modDie_hostData (i : Nat) (f : Die → Die) : (s.modDie i f).hostData = s.hostData := rfl
@[simp] theorem State.modDie_cycleBase (i : Nat) (f : Die → Die) : (s.modDie i f).cycleBase = s.cycleBase := rfl
@[simp] theorem State.modDie_mc (i : Nat) (f : Die → Die) : (s.modDie i f).mc = s.mc := rfl
@[simp] theorem State.modDie_poison (i : Nat) (f : Die → Die) : (s.modDie i f).poison = s.poison := rfl
@[simp] theorem State.modDie_dramQueue (i : Nat) (f : Die → Die) : (s.modDie i f).dramQueue = s.dramQueue := rfl
@[simp] theorem State.modDie_acks (i : Nat) (f : Die → Die) : (s.modDie i f).acks = s.acks := rfl
@[simp] theorem State.modDie_errCorrected (i : Nat) (f : Die → Die) : (s.modDie i f).errCorrected = s.errCorrected := rfl
@[simp] theorem State.modDie_errUncorrected (i : Nat) (f : Die → Die) : (s.modDie i f).errUncorrected = s.errUncorrected := rfl
@[simp] theorem State.modDie_errLastPa (i : Nat) (f : Die → Die) : (s.modDie i f).errLastPa = s.errLastPa := rfl
@[simp] theorem State.modDie_telemHead (i : Nat) (f : Die → Die) : (s.modDie i f).telemHead = s.telemHead := rfl
@[simp] theorem State.modDie_lastNamed (i : Nat) (f : Die → Die) : (s.modDie i f).lastNamed = s.lastNamed := rfl
@[simp] theorem State.modDie_agenda (i : Nat) (f : Die → Die) : (s.modDie i f).agenda = s.agenda := rfl
@[simp] theorem State.modDie_timers (i : Nat) (f : Die → Die) : (s.modDie i f).timers = s.timers := rfl
@[simp] theorem State.modDie_order (i : Nat) (f : Die → Die) : (s.modDie i f).order = s.order := rfl
@[simp] theorem State.modDie_ran (i : Nat) (f : Die → Die) : (s.modDie i f).ran = s.ran := rfl
@[simp] theorem State.modDie_badAccess (i : Nat) (f : Die → Die) : (s.modDie i f).badAccess = s.badAccess := rfl
@[simp] theorem State.modDie_arg (i : Nat) (f : Die → Die) : (s.modDie i f).arg = s.arg := rfl
@[simp] theorem State.modDie_fresh (i : Nat) (f : Die → Die) : (s.modDie i f).fresh = s.fresh := rfl

/-! ### `modStack` -/

@[simp] theorem State.modStack_now (i : Nat) (f : Stack → Stack) : (s.modStack i f).now = s.now := rfl
@[simp] theorem State.modStack_cur (i : Nat) (f : Stack → Stack) : (s.modStack i f).cur = s.cur := rfl
@[simp] theorem State.modStack_ctxs (i : Nat) (f : Stack → Stack) : (s.modStack i f).ctxs = s.ctxs := rfl
@[simp] theorem State.modStack_cores (i : Nat) (f : Stack → Stack) : (s.modStack i f).cores = s.cores := rfl
@[simp] theorem State.modStack_clusters (i : Nat) (f : Stack → Stack) : (s.modStack i f).clusters = s.clusters := rfl
@[simp] theorem State.modStack_dies (i : Nat) (f : Stack → Stack) : (s.modStack i f).dies = s.dies := rfl
theorem State.modStack_hbmStacks (i : Nat) (f : Stack → Stack) : (s.modStack i f).hbmStacks = Store.set {} s.hbmStacks i (f (s.stack i)) := rfl
@[simp] theorem State.modStack_mem (i : Nat) (f : Stack → Stack) : (s.modStack i f).mem = s.mem := rfl
@[simp] theorem State.modStack_wild (i : Nat) (f : Stack → Stack) : (s.modStack i f).wild = s.wild := rfl
@[simp] theorem State.modStack_outside (i : Nat) (f : Stack → Stack) : (s.modStack i f).outside = s.outside := rfl
@[simp] theorem State.modStack_ptRoot (i : Nat) (f : Stack → Stack) : (s.modStack i f).ptRoot = s.ptRoot := rfl
@[simp] theorem State.modStack_mgmt (i : Nat) (f : Stack → Stack) : (s.modStack i f).mgmt = s.mgmt := rfl
@[simp] theorem State.modStack_cfg (i : Nat) (f : Stack → Stack) : (s.modStack i f).cfg = s.cfg := rfl
@[simp] theorem State.modStack_tlbInval (i : Nat) (f : Stack → Stack) : (s.modStack i f).tlbInval = s.tlbInval := rfl
@[simp] theorem State.modStack_walker (i : Nat) (f : Stack → Stack) : (s.modStack i f).walker = s.walker := rfl
@[simp] theorem State.modStack_packets (i : Nat) (f : Stack → Stack) : (s.modStack i f).packets = s.packets := rfl
@[simp] theorem State.modStack_nextPacket (i : Nat) (f : Stack → Stack) : (s.modStack i f).nextPacket = s.nextPacket := rfl
@[simp] theorem State.modStack_setSigs (i : Nat) (f : Stack → Stack) : (s.modStack i f).setSigs = s.setSigs := rfl
@[simp] theorem State.modStack_roundWaits (i : Nat) (f : Stack → Stack) : (s.modStack i f).roundWaits = s.roundWaits := rfl
@[simp] theorem State.modStack_setWaits (i : Nat) (f : Stack → Stack) : (s.modStack i f).setWaits = s.setWaits := rfl
@[simp] theorem State.modStack_ctxPins (i : Nat) (f : Stack → Stack) : (s.modStack i f).ctxPins = s.ctxPins := rfl
@[simp] theorem State.modStack_ports (i : Nat) (f : Stack → Stack) : (s.modStack i f).ports = s.ports := rfl
@[simp] theorem State.modStack_remoteReplies (i : Nat) (f : Stack → Stack) : (s.modStack i f).remoteReplies = s.remoteReplies := rfl
@[simp] theorem State.modStack_requestNumbers (i : Nat) (f : Stack → Stack) : (s.modStack i f).requestNumbers = s.requestNumbers := rfl
@[simp] theorem State.modStack_hostSig (i : Nat) (f : Stack → Stack) : (s.modStack i f).hostSig = s.hostSig := rfl
@[simp] theorem State.modStack_hostData (i : Nat) (f : Stack → Stack) : (s.modStack i f).hostData = s.hostData := rfl
@[simp] theorem State.modStack_cycleBase (i : Nat) (f : Stack → Stack) : (s.modStack i f).cycleBase = s.cycleBase := rfl
@[simp] theorem State.modStack_mc (i : Nat) (f : Stack → Stack) : (s.modStack i f).mc = s.mc := rfl
@[simp] theorem State.modStack_poison (i : Nat) (f : Stack → Stack) : (s.modStack i f).poison = s.poison := rfl
@[simp] theorem State.modStack_dramQueue (i : Nat) (f : Stack → Stack) : (s.modStack i f).dramQueue = s.dramQueue := rfl
@[simp] theorem State.modStack_acks (i : Nat) (f : Stack → Stack) : (s.modStack i f).acks = s.acks := rfl
@[simp] theorem State.modStack_errCorrected (i : Nat) (f : Stack → Stack) : (s.modStack i f).errCorrected = s.errCorrected := rfl
@[simp] theorem State.modStack_errUncorrected (i : Nat) (f : Stack → Stack) : (s.modStack i f).errUncorrected = s.errUncorrected := rfl
@[simp] theorem State.modStack_errLastPa (i : Nat) (f : Stack → Stack) : (s.modStack i f).errLastPa = s.errLastPa := rfl
@[simp] theorem State.modStack_telemHead (i : Nat) (f : Stack → Stack) : (s.modStack i f).telemHead = s.telemHead := rfl
@[simp] theorem State.modStack_lastNamed (i : Nat) (f : Stack → Stack) : (s.modStack i f).lastNamed = s.lastNamed := rfl
@[simp] theorem State.modStack_agenda (i : Nat) (f : Stack → Stack) : (s.modStack i f).agenda = s.agenda := rfl
@[simp] theorem State.modStack_timers (i : Nat) (f : Stack → Stack) : (s.modStack i f).timers = s.timers := rfl
@[simp] theorem State.modStack_order (i : Nat) (f : Stack → Stack) : (s.modStack i f).order = s.order := rfl
@[simp] theorem State.modStack_ran (i : Nat) (f : Stack → Stack) : (s.modStack i f).ran = s.ran := rfl
@[simp] theorem State.modStack_badAccess (i : Nat) (f : Stack → Stack) : (s.modStack i f).badAccess = s.badAccess := rfl
@[simp] theorem State.modStack_arg (i : Nat) (f : Stack → Stack) : (s.modStack i f).arg = s.arg := rfl
@[simp] theorem State.modStack_fresh (i : Nat) (f : Stack → Stack) : (s.modStack i f).fresh = s.fresh := rfl

/-! ### `modWalker` -/

@[simp] theorem State.modWalker_now (f : Walker → Walker) : (s.modWalker f).now = s.now := rfl
@[simp] theorem State.modWalker_cur (f : Walker → Walker) : (s.modWalker f).cur = s.cur := rfl
@[simp] theorem State.modWalker_ctxs (f : Walker → Walker) : (s.modWalker f).ctxs = s.ctxs := rfl
@[simp] theorem State.modWalker_cores (f : Walker → Walker) : (s.modWalker f).cores = s.cores := rfl
@[simp] theorem State.modWalker_clusters (f : Walker → Walker) : (s.modWalker f).clusters = s.clusters := rfl
@[simp] theorem State.modWalker_dies (f : Walker → Walker) : (s.modWalker f).dies = s.dies := rfl
@[simp] theorem State.modWalker_hbmStacks (f : Walker → Walker) : (s.modWalker f).hbmStacks = s.hbmStacks := rfl
@[simp] theorem State.modWalker_mem (f : Walker → Walker) : (s.modWalker f).mem = s.mem := rfl
@[simp] theorem State.modWalker_wild (f : Walker → Walker) : (s.modWalker f).wild = s.wild := rfl
@[simp] theorem State.modWalker_outside (f : Walker → Walker) : (s.modWalker f).outside = s.outside := rfl
@[simp] theorem State.modWalker_ptRoot (f : Walker → Walker) : (s.modWalker f).ptRoot = s.ptRoot := rfl
@[simp] theorem State.modWalker_mgmt (f : Walker → Walker) : (s.modWalker f).mgmt = s.mgmt := rfl
@[simp] theorem State.modWalker_cfg (f : Walker → Walker) : (s.modWalker f).cfg = s.cfg := rfl
@[simp] theorem State.modWalker_tlbInval (f : Walker → Walker) : (s.modWalker f).tlbInval = s.tlbInval := rfl
@[simp] theorem State.modWalker_walker (f : Walker → Walker) : (s.modWalker f).walker = f s.walker := rfl
@[simp] theorem State.modWalker_packets (f : Walker → Walker) : (s.modWalker f).packets = s.packets := rfl
@[simp] theorem State.modWalker_nextPacket (f : Walker → Walker) : (s.modWalker f).nextPacket = s.nextPacket := rfl
@[simp] theorem State.modWalker_setSigs (f : Walker → Walker) : (s.modWalker f).setSigs = s.setSigs := rfl
@[simp] theorem State.modWalker_roundWaits (f : Walker → Walker) : (s.modWalker f).roundWaits = s.roundWaits := rfl
@[simp] theorem State.modWalker_setWaits (f : Walker → Walker) : (s.modWalker f).setWaits = s.setWaits := rfl
@[simp] theorem State.modWalker_ctxPins (f : Walker → Walker) : (s.modWalker f).ctxPins = s.ctxPins := rfl
@[simp] theorem State.modWalker_ports (f : Walker → Walker) : (s.modWalker f).ports = s.ports := rfl
@[simp] theorem State.modWalker_remoteReplies (f : Walker → Walker) : (s.modWalker f).remoteReplies = s.remoteReplies := rfl
@[simp] theorem State.modWalker_requestNumbers (f : Walker → Walker) : (s.modWalker f).requestNumbers = s.requestNumbers := rfl
@[simp] theorem State.modWalker_hostSig (f : Walker → Walker) : (s.modWalker f).hostSig = s.hostSig := rfl
@[simp] theorem State.modWalker_hostData (f : Walker → Walker) : (s.modWalker f).hostData = s.hostData := rfl
@[simp] theorem State.modWalker_cycleBase (f : Walker → Walker) : (s.modWalker f).cycleBase = s.cycleBase := rfl
@[simp] theorem State.modWalker_mc (f : Walker → Walker) : (s.modWalker f).mc = s.mc := rfl
@[simp] theorem State.modWalker_poison (f : Walker → Walker) : (s.modWalker f).poison = s.poison := rfl
@[simp] theorem State.modWalker_dramQueue (f : Walker → Walker) : (s.modWalker f).dramQueue = s.dramQueue := rfl
@[simp] theorem State.modWalker_acks (f : Walker → Walker) : (s.modWalker f).acks = s.acks := rfl
@[simp] theorem State.modWalker_errCorrected (f : Walker → Walker) : (s.modWalker f).errCorrected = s.errCorrected := rfl
@[simp] theorem State.modWalker_errUncorrected (f : Walker → Walker) : (s.modWalker f).errUncorrected = s.errUncorrected := rfl
@[simp] theorem State.modWalker_errLastPa (f : Walker → Walker) : (s.modWalker f).errLastPa = s.errLastPa := rfl
@[simp] theorem State.modWalker_telemHead (f : Walker → Walker) : (s.modWalker f).telemHead = s.telemHead := rfl
@[simp] theorem State.modWalker_lastNamed (f : Walker → Walker) : (s.modWalker f).lastNamed = s.lastNamed := rfl
@[simp] theorem State.modWalker_agenda (f : Walker → Walker) : (s.modWalker f).agenda = s.agenda := rfl
@[simp] theorem State.modWalker_timers (f : Walker → Walker) : (s.modWalker f).timers = s.timers := rfl
@[simp] theorem State.modWalker_order (f : Walker → Walker) : (s.modWalker f).order = s.order := rfl
@[simp] theorem State.modWalker_ran (f : Walker → Walker) : (s.modWalker f).ran = s.ran := rfl
@[simp] theorem State.modWalker_badAccess (f : Walker → Walker) : (s.modWalker f).badAccess = s.badAccess := rfl
@[simp] theorem State.modWalker_arg (f : Walker → Walker) : (s.modWalker f).arg = s.arg := rfl
@[simp] theorem State.modWalker_fresh (f : Walker → Walker) : (s.modWalker f).fresh = s.fresh := rfl

/-! ### `modMc` -/

@[simp] theorem State.modMc_now (f : Mc → Mc) : (s.modMc f).now = s.now := rfl
@[simp] theorem State.modMc_cur (f : Mc → Mc) : (s.modMc f).cur = s.cur := rfl
@[simp] theorem State.modMc_ctxs (f : Mc → Mc) : (s.modMc f).ctxs = s.ctxs := rfl
@[simp] theorem State.modMc_cores (f : Mc → Mc) : (s.modMc f).cores = s.cores := rfl
@[simp] theorem State.modMc_clusters (f : Mc → Mc) : (s.modMc f).clusters = s.clusters := rfl
@[simp] theorem State.modMc_dies (f : Mc → Mc) : (s.modMc f).dies = s.dies := rfl
@[simp] theorem State.modMc_hbmStacks (f : Mc → Mc) : (s.modMc f).hbmStacks = s.hbmStacks := rfl
@[simp] theorem State.modMc_mem (f : Mc → Mc) : (s.modMc f).mem = s.mem := rfl
@[simp] theorem State.modMc_wild (f : Mc → Mc) : (s.modMc f).wild = s.wild := rfl
@[simp] theorem State.modMc_outside (f : Mc → Mc) : (s.modMc f).outside = s.outside := rfl
@[simp] theorem State.modMc_ptRoot (f : Mc → Mc) : (s.modMc f).ptRoot = s.ptRoot := rfl
@[simp] theorem State.modMc_mgmt (f : Mc → Mc) : (s.modMc f).mgmt = s.mgmt := rfl
@[simp] theorem State.modMc_cfg (f : Mc → Mc) : (s.modMc f).cfg = s.cfg := rfl
@[simp] theorem State.modMc_tlbInval (f : Mc → Mc) : (s.modMc f).tlbInval = s.tlbInval := rfl
@[simp] theorem State.modMc_walker (f : Mc → Mc) : (s.modMc f).walker = s.walker := rfl
@[simp] theorem State.modMc_packets (f : Mc → Mc) : (s.modMc f).packets = s.packets := rfl
@[simp] theorem State.modMc_nextPacket (f : Mc → Mc) : (s.modMc f).nextPacket = s.nextPacket := rfl
@[simp] theorem State.modMc_setSigs (f : Mc → Mc) : (s.modMc f).setSigs = s.setSigs := rfl
@[simp] theorem State.modMc_roundWaits (f : Mc → Mc) : (s.modMc f).roundWaits = s.roundWaits := rfl
@[simp] theorem State.modMc_setWaits (f : Mc → Mc) : (s.modMc f).setWaits = s.setWaits := rfl
@[simp] theorem State.modMc_ctxPins (f : Mc → Mc) : (s.modMc f).ctxPins = s.ctxPins := rfl
@[simp] theorem State.modMc_ports (f : Mc → Mc) : (s.modMc f).ports = s.ports := rfl
@[simp] theorem State.modMc_remoteReplies (f : Mc → Mc) : (s.modMc f).remoteReplies = s.remoteReplies := rfl
@[simp] theorem State.modMc_requestNumbers (f : Mc → Mc) : (s.modMc f).requestNumbers = s.requestNumbers := rfl
@[simp] theorem State.modMc_hostSig (f : Mc → Mc) : (s.modMc f).hostSig = s.hostSig := rfl
@[simp] theorem State.modMc_hostData (f : Mc → Mc) : (s.modMc f).hostData = s.hostData := rfl
@[simp] theorem State.modMc_cycleBase (f : Mc → Mc) : (s.modMc f).cycleBase = s.cycleBase := rfl
@[simp] theorem State.modMc_mc (f : Mc → Mc) : (s.modMc f).mc = f s.mc := rfl
@[simp] theorem State.modMc_poison (f : Mc → Mc) : (s.modMc f).poison = s.poison := rfl
@[simp] theorem State.modMc_dramQueue (f : Mc → Mc) : (s.modMc f).dramQueue = s.dramQueue := rfl
@[simp] theorem State.modMc_acks (f : Mc → Mc) : (s.modMc f).acks = s.acks := rfl
@[simp] theorem State.modMc_errCorrected (f : Mc → Mc) : (s.modMc f).errCorrected = s.errCorrected := rfl
@[simp] theorem State.modMc_errUncorrected (f : Mc → Mc) : (s.modMc f).errUncorrected = s.errUncorrected := rfl
@[simp] theorem State.modMc_errLastPa (f : Mc → Mc) : (s.modMc f).errLastPa = s.errLastPa := rfl
@[simp] theorem State.modMc_telemHead (f : Mc → Mc) : (s.modMc f).telemHead = s.telemHead := rfl
@[simp] theorem State.modMc_lastNamed (f : Mc → Mc) : (s.modMc f).lastNamed = s.lastNamed := rfl
@[simp] theorem State.modMc_agenda (f : Mc → Mc) : (s.modMc f).agenda = s.agenda := rfl
@[simp] theorem State.modMc_timers (f : Mc → Mc) : (s.modMc f).timers = s.timers := rfl
@[simp] theorem State.modMc_order (f : Mc → Mc) : (s.modMc f).order = s.order := rfl
@[simp] theorem State.modMc_ran (f : Mc → Mc) : (s.modMc f).ran = s.ran := rfl
@[simp] theorem State.modMc_badAccess (f : Mc → Mc) : (s.modMc f).badAccess = s.badAccess := rfl
@[simp] theorem State.modMc_arg (f : Mc → Mc) : (s.modMc f).arg = s.arg := rfl
@[simp] theorem State.modMc_fresh (f : Mc → Mc) : (s.modMc f).fresh = s.fresh := rfl

/-! ### `modPort` -/

@[simp] theorem State.modPort_now (k : Nat) (f : Port → Port) : (s.modPort k f).now = s.now := rfl
@[simp] theorem State.modPort_cur (k : Nat) (f : Port → Port) : (s.modPort k f).cur = s.cur := rfl
@[simp] theorem State.modPort_ctxs (k : Nat) (f : Port → Port) : (s.modPort k f).ctxs = s.ctxs := rfl
@[simp] theorem State.modPort_cores (k : Nat) (f : Port → Port) : (s.modPort k f).cores = s.cores := rfl
@[simp] theorem State.modPort_clusters (k : Nat) (f : Port → Port) : (s.modPort k f).clusters = s.clusters := rfl
@[simp] theorem State.modPort_dies (k : Nat) (f : Port → Port) : (s.modPort k f).dies = s.dies := rfl
@[simp] theorem State.modPort_hbmStacks (k : Nat) (f : Port → Port) : (s.modPort k f).hbmStacks = s.hbmStacks := rfl
@[simp] theorem State.modPort_mem (k : Nat) (f : Port → Port) : (s.modPort k f).mem = s.mem := rfl
@[simp] theorem State.modPort_wild (k : Nat) (f : Port → Port) : (s.modPort k f).wild = s.wild := rfl
@[simp] theorem State.modPort_outside (k : Nat) (f : Port → Port) : (s.modPort k f).outside = s.outside := rfl
@[simp] theorem State.modPort_ptRoot (k : Nat) (f : Port → Port) : (s.modPort k f).ptRoot = s.ptRoot := rfl
@[simp] theorem State.modPort_mgmt (k : Nat) (f : Port → Port) : (s.modPort k f).mgmt = s.mgmt := rfl
@[simp] theorem State.modPort_cfg (k : Nat) (f : Port → Port) : (s.modPort k f).cfg = s.cfg := rfl
@[simp] theorem State.modPort_tlbInval (k : Nat) (f : Port → Port) : (s.modPort k f).tlbInval = s.tlbInval := rfl
@[simp] theorem State.modPort_walker (k : Nat) (f : Port → Port) : (s.modPort k f).walker = s.walker := rfl
@[simp] theorem State.modPort_packets (k : Nat) (f : Port → Port) : (s.modPort k f).packets = s.packets := rfl
@[simp] theorem State.modPort_nextPacket (k : Nat) (f : Port → Port) : (s.modPort k f).nextPacket = s.nextPacket := rfl
@[simp] theorem State.modPort_setSigs (k : Nat) (f : Port → Port) : (s.modPort k f).setSigs = s.setSigs := rfl
@[simp] theorem State.modPort_roundWaits (k : Nat) (f : Port → Port) : (s.modPort k f).roundWaits = s.roundWaits := rfl
@[simp] theorem State.modPort_setWaits (k : Nat) (f : Port → Port) : (s.modPort k f).setWaits = s.setWaits := rfl
@[simp] theorem State.modPort_ctxPins (k : Nat) (f : Port → Port) : (s.modPort k f).ctxPins = s.ctxPins := rfl
theorem State.modPort_ports (k : Nat) (f : Port → Port) : (s.modPort k f).ports = Store.set {} s.ports k (f (s.port k)) := rfl
@[simp] theorem State.modPort_remoteReplies (k : Nat) (f : Port → Port) : (s.modPort k f).remoteReplies = s.remoteReplies := rfl
@[simp] theorem State.modPort_requestNumbers (k : Nat) (f : Port → Port) : (s.modPort k f).requestNumbers = s.requestNumbers := rfl
@[simp] theorem State.modPort_hostSig (k : Nat) (f : Port → Port) : (s.modPort k f).hostSig = s.hostSig := rfl
@[simp] theorem State.modPort_hostData (k : Nat) (f : Port → Port) : (s.modPort k f).hostData = s.hostData := rfl
@[simp] theorem State.modPort_cycleBase (k : Nat) (f : Port → Port) : (s.modPort k f).cycleBase = s.cycleBase := rfl
@[simp] theorem State.modPort_mc (k : Nat) (f : Port → Port) : (s.modPort k f).mc = s.mc := rfl
@[simp] theorem State.modPort_poison (k : Nat) (f : Port → Port) : (s.modPort k f).poison = s.poison := rfl
@[simp] theorem State.modPort_dramQueue (k : Nat) (f : Port → Port) : (s.modPort k f).dramQueue = s.dramQueue := rfl
@[simp] theorem State.modPort_acks (k : Nat) (f : Port → Port) : (s.modPort k f).acks = s.acks := rfl
@[simp] theorem State.modPort_errCorrected (k : Nat) (f : Port → Port) : (s.modPort k f).errCorrected = s.errCorrected := rfl
@[simp] theorem State.modPort_errUncorrected (k : Nat) (f : Port → Port) : (s.modPort k f).errUncorrected = s.errUncorrected := rfl
@[simp] theorem State.modPort_errLastPa (k : Nat) (f : Port → Port) : (s.modPort k f).errLastPa = s.errLastPa := rfl
@[simp] theorem State.modPort_telemHead (k : Nat) (f : Port → Port) : (s.modPort k f).telemHead = s.telemHead := rfl
@[simp] theorem State.modPort_lastNamed (k : Nat) (f : Port → Port) : (s.modPort k f).lastNamed = s.lastNamed := rfl
@[simp] theorem State.modPort_agenda (k : Nat) (f : Port → Port) : (s.modPort k f).agenda = s.agenda := rfl
@[simp] theorem State.modPort_timers (k : Nat) (f : Port → Port) : (s.modPort k f).timers = s.timers := rfl
@[simp] theorem State.modPort_order (k : Nat) (f : Port → Port) : (s.modPort k f).order = s.order := rfl
@[simp] theorem State.modPort_ran (k : Nat) (f : Port → Port) : (s.modPort k f).ran = s.ran := rfl
@[simp] theorem State.modPort_badAccess (k : Nat) (f : Port → Port) : (s.modPort k f).badAccess = s.badAccess := rfl
@[simp] theorem State.modPort_arg (k : Nat) (f : Port → Port) : (s.modPort k f).arg = s.arg := rfl
@[simp] theorem State.modPort_fresh (k : Nat) (f : Port → Port) : (s.modPort k f).fresh = s.fresh := rfl

/-! ### Reading a part after a change -/

@[simp] theorem State.ctxAt_setCtxAt (i j : Nat) (c : Ctx) :
    (s.setCtxAt i c).ctxAt j = if j = i then c else s.ctxAt j := by
  simp [State.ctxAt, State.setCtxAt, Store.get_set]
@[simp] theorem State.ctxAt_modCtxAt (i j : Nat) (f : Ctx → Ctx) :
    (s.modCtxAt i f).ctxAt j = if j = i then f (s.ctxAt i) else s.ctxAt j := by simp [State.modCtxAt]
@[simp] theorem State.ctxAt_modCtx (j : Nat) (f : Ctx → Ctx) :
    (s.modCtx f).ctxAt j = if j = s.cur.ctx then f s.ctx else s.ctxAt j := by simp [State.modCtx, State.ctx]
@[simp] theorem State.ctx_modCtx (f : Ctx → Ctx) : (s.modCtx f).ctx = f s.ctx := by
  simp [State.ctx, State.modCtx, State.modCtxAt, State.setCtxAt, State.ctxAt]
@[simp] theorem State.core_modCore (i j : Nat) (f : CoreSt → CoreSt) :
    (s.modCore i f).core j = if j = i then f (s.core i) else s.core j := by simp [State.core, State.modCore, Store.get_set]
@[simp] theorem State.cluster_modCluster (i j : Nat) (f : Cluster → Cluster) :
    (s.modCluster i f).cluster j = if j = i then f (s.cluster i) else s.cluster j := by
  simp [State.cluster, State.modCluster, Store.get_set]
@[simp] theorem State.die_modDie (i j : Nat) (f : Die → Die) :
    (s.modDie i f).die j = if j = i then f (s.die i) else s.die j := by simp [State.die, State.modDie, Store.get_set]
@[simp] theorem State.stack_modStack (i j : Nat) (f : Stack → Stack) :
    (s.modStack i f).stack j = if j = i then f (s.stack i) else s.stack j := by
  simp [State.stack, State.modStack, Store.get_set]
@[simp] theorem State.port_modPort (i j : Nat) (f : Port → Port) :
    (s.modPort i f).port j = if j = i then f (s.port i) else s.port j := by simp [State.port, State.modPort, Store.get_set]

@[simp] theorem State.core_setCtxAt (i : Nat) (x : Ctx) (j : Nat) : (s.setCtxAt i x).core j = s.core j := rfl
@[simp] theorem State.core_modCtxAt (i : Nat) (f : Ctx → Ctx) (j : Nat) : (s.modCtxAt i f).core j = s.core j := rfl
@[simp] theorem State.core_modCtx (f : Ctx → Ctx) (j : Nat) : (s.modCtx f).core j = s.core j := rfl
@[simp] theorem State.core_modCur (f : Cur → Cur) (j : Nat) : (s.modCur f).core j = s.core j := rfl
@[simp] theorem State.core_queue (n : Nat) (w : RegWrite) (j : Nat) : (s.queue n w).core j = s.core j := rfl
@[simp] theorem State.core_modCluster (i : Nat) (f : Cluster → Cluster) (j : Nat) : (s.modCluster i f).core j = s.core j := rfl
@[simp] theorem State.core_modDie (i : Nat) (f : Die → Die) (j : Nat) : (s.modDie i f).core j = s.core j := rfl
@[simp] theorem State.core_modStack (i : Nat) (f : Stack → Stack) (j : Nat) : (s.modStack i f).core j = s.core j := rfl
@[simp] theorem State.core_modWalker (f : Walker → Walker) (j : Nat) : (s.modWalker f).core j = s.core j := rfl
@[simp] theorem State.core_modMc (f : Mc → Mc) (j : Nat) : (s.modMc f).core j = s.core j := rfl
@[simp] theorem State.core_modPort (k : Nat) (f : Port → Port) (j : Nat) : (s.modPort k f).core j = s.core j := rfl
@[simp] theorem State.cluster_setCtxAt (i : Nat) (x : Ctx) (j : Nat) : (s.setCtxAt i x).cluster j = s.cluster j := rfl
@[simp] theorem State.cluster_modCtxAt (i : Nat) (f : Ctx → Ctx) (j : Nat) : (s.modCtxAt i f).cluster j = s.cluster j := rfl
@[simp] theorem State.cluster_modCtx (f : Ctx → Ctx) (j : Nat) : (s.modCtx f).cluster j = s.cluster j := rfl
@[simp] theorem State.cluster_modCur (f : Cur → Cur) (j : Nat) : (s.modCur f).cluster j = s.cluster j := rfl
@[simp] theorem State.cluster_queue (n : Nat) (w : RegWrite) (j : Nat) : (s.queue n w).cluster j = s.cluster j := rfl
@[simp] theorem State.cluster_modCore (i : Nat) (f : CoreSt → CoreSt) (j : Nat) : (s.modCore i f).cluster j = s.cluster j := rfl
@[simp] theorem State.cluster_modDie (i : Nat) (f : Die → Die) (j : Nat) : (s.modDie i f).cluster j = s.cluster j := rfl
@[simp] theorem State.cluster_modStack (i : Nat) (f : Stack → Stack) (j : Nat) : (s.modStack i f).cluster j = s.cluster j := rfl
@[simp] theorem State.cluster_modWalker (f : Walker → Walker) (j : Nat) : (s.modWalker f).cluster j = s.cluster j := rfl
@[simp] theorem State.cluster_modMc (f : Mc → Mc) (j : Nat) : (s.modMc f).cluster j = s.cluster j := rfl
@[simp] theorem State.cluster_modPort (k : Nat) (f : Port → Port) (j : Nat) : (s.modPort k f).cluster j = s.cluster j := rfl
@[simp] theorem State.die_setCtxAt (i : Nat) (x : Ctx) (j : Nat) : (s.setCtxAt i x).die j = s.die j := rfl
@[simp] theorem State.die_modCtxAt (i : Nat) (f : Ctx → Ctx) (j : Nat) : (s.modCtxAt i f).die j = s.die j := rfl
@[simp] theorem State.die_modCtx (f : Ctx → Ctx) (j : Nat) : (s.modCtx f).die j = s.die j := rfl
@[simp] theorem State.die_modCur (f : Cur → Cur) (j : Nat) : (s.modCur f).die j = s.die j := rfl
@[simp] theorem State.die_queue (n : Nat) (w : RegWrite) (j : Nat) : (s.queue n w).die j = s.die j := rfl
@[simp] theorem State.die_modCore (i : Nat) (f : CoreSt → CoreSt) (j : Nat) : (s.modCore i f).die j = s.die j := rfl
@[simp] theorem State.die_modCluster (i : Nat) (f : Cluster → Cluster) (j : Nat) : (s.modCluster i f).die j = s.die j := rfl
@[simp] theorem State.die_modStack (i : Nat) (f : Stack → Stack) (j : Nat) : (s.modStack i f).die j = s.die j := rfl
@[simp] theorem State.die_modWalker (f : Walker → Walker) (j : Nat) : (s.modWalker f).die j = s.die j := rfl
@[simp] theorem State.die_modMc (f : Mc → Mc) (j : Nat) : (s.modMc f).die j = s.die j := rfl
@[simp] theorem State.die_modPort (k : Nat) (f : Port → Port) (j : Nat) : (s.modPort k f).die j = s.die j := rfl
@[simp] theorem State.stack_setCtxAt (i : Nat) (x : Ctx) (j : Nat) : (s.setCtxAt i x).stack j = s.stack j := rfl
@[simp] theorem State.stack_modCtxAt (i : Nat) (f : Ctx → Ctx) (j : Nat) : (s.modCtxAt i f).stack j = s.stack j := rfl
@[simp] theorem State.stack_modCtx (f : Ctx → Ctx) (j : Nat) : (s.modCtx f).stack j = s.stack j := rfl
@[simp] theorem State.stack_modCur (f : Cur → Cur) (j : Nat) : (s.modCur f).stack j = s.stack j := rfl
@[simp] theorem State.stack_queue (n : Nat) (w : RegWrite) (j : Nat) : (s.queue n w).stack j = s.stack j := rfl
@[simp] theorem State.stack_modCore (i : Nat) (f : CoreSt → CoreSt) (j : Nat) : (s.modCore i f).stack j = s.stack j := rfl
@[simp] theorem State.stack_modCluster (i : Nat) (f : Cluster → Cluster) (j : Nat) : (s.modCluster i f).stack j = s.stack j := rfl
@[simp] theorem State.stack_modDie (i : Nat) (f : Die → Die) (j : Nat) : (s.modDie i f).stack j = s.stack j := rfl
@[simp] theorem State.stack_modWalker (f : Walker → Walker) (j : Nat) : (s.modWalker f).stack j = s.stack j := rfl
@[simp] theorem State.stack_modMc (f : Mc → Mc) (j : Nat) : (s.modMc f).stack j = s.stack j := rfl
@[simp] theorem State.stack_modPort (k : Nat) (f : Port → Port) (j : Nat) : (s.modPort k f).stack j = s.stack j := rfl
@[simp] theorem State.ctxAt_modCur (f : Cur → Cur) (j : Nat) : (s.modCur f).ctxAt j = s.ctxAt j := rfl
@[simp] theorem State.ctxAt_modCore (i : Nat) (f : CoreSt → CoreSt) (j : Nat) : (s.modCore i f).ctxAt j = s.ctxAt j := rfl
@[simp] theorem State.ctxAt_modCluster (i : Nat) (f : Cluster → Cluster) (j : Nat) : (s.modCluster i f).ctxAt j = s.ctxAt j := rfl
@[simp] theorem State.ctxAt_modDie (i : Nat) (f : Die → Die) (j : Nat) : (s.modDie i f).ctxAt j = s.ctxAt j := rfl
@[simp] theorem State.ctxAt_modStack (i : Nat) (f : Stack → Stack) (j : Nat) : (s.modStack i f).ctxAt j = s.ctxAt j := rfl
@[simp] theorem State.ctxAt_modWalker (f : Walker → Walker) (j : Nat) : (s.modWalker f).ctxAt j = s.ctxAt j := rfl
@[simp] theorem State.ctxAt_modMc (f : Mc → Mc) (j : Nat) : (s.modMc f).ctxAt j = s.ctxAt j := rfl
@[simp] theorem State.ctxAt_modPort (k : Nat) (f : Port → Port) (j : Nat) : (s.modPort k f).ctxAt j = s.ctxAt j := rfl
@[simp] theorem State.ctx_modCore (i : Nat) (f : CoreSt → CoreSt) : (s.modCore i f).ctx = s.ctx := rfl
@[simp] theorem State.ctx_modCluster (i : Nat) (f : Cluster → Cluster) : (s.modCluster i f).ctx = s.ctx := rfl
@[simp] theorem State.ctx_modDie (i : Nat) (f : Die → Die) : (s.modDie i f).ctx = s.ctx := rfl
@[simp] theorem State.ctx_modStack (i : Nat) (f : Stack → Stack) : (s.modStack i f).ctx = s.ctx := rfl
@[simp] theorem State.ctx_modWalker (f : Walker → Walker) : (s.modWalker f).ctx = s.ctx := rfl
@[simp] theorem State.ctx_modMc (f : Mc → Mc) : (s.modMc f).ctx = s.ctx := rfl
@[simp] theorem State.ctx_modPort (k : Nat) (f : Port → Port) : (s.modPort k f).ctx = s.ctx := rfl

/-! ### Updates that stand for another -/

@[simp] theorem State.wS_eq_queue (n : Nat) (d : BitVec 6) (x : Word) : s.wS n d x = s.queue n (.s d x) := rfl
@[simp] theorem State.wC_eq_queue (n : Nat) (d : BitVec 4) (x : Bool) : s.wC n d x = s.queue n (.c d x) := rfl
@[simp] theorem State.wK_eq_queue (n : Nat) (d : BitVec 3) (x : Mask) : s.wK n d x = s.queue n (.k d x) := rfl
@[simp] theorem State.wV_eq_queue (n : Nat) (d : BitVec 5) (x : VWord) :
    s.wV n d x = s.queue n (.v d (BitVec.allOnes 32) x) := rfl

end Sys2Proof.Machine
end

