-- ==== Sys2Proof/Laws/Memory.lean ====
section
/-!
SUPPORT. Memory at its home agents: reading after a write, that a write leaves every other byte alone, and that every memory
operation keeps the canonical form.
-/
namespace Sys2Proof.Machine
variable (s : State)

/-- Both memories of a state stand in their canonical form. -/
def MemCanonical (s : State) : Prop := Memory.wf s.mem = true ∧ Store.wf none s.outside = true

/-- Reset memory stands in the canonical form. -/
theorem memCanonical_reset : MemCanonical State.reset := ⟨rfl, rfl⟩

/-- The form depends on the two memories alone. -/
theorem MemCanonical.of_eq {s t : State} (h : MemCanonical s) (hm : t.mem = s.mem) (ho : t.outside = s.outside) :
    MemCanonical t := by unfold MemCanonical; rw [hm, ho]; exact h

/-! ### One byte -/

/-- The seed of the unpredictable range that holds an address, if one does. -/
def seedAt (l : List Wild) (a : Nat) : Option Nat := (l.find? fun w => w.covers a).map (·.seed)

theorem seedAt_cons (w : Wild) (l : List Wild) (a : Nat) :
    seedAt (w :: l) a = if w.lo ≤ a ∧ a < w.hi then some w.seed else seedAt l a := by
  by_cases h : w.lo ≤ a ∧ a < w.hi <;> simp [seedAt, Wild.covers, h]

/-- Cutting some addresses out of the unpredictable ranges leaves the others as they are. -/
theorem seedAt_cutWild (l : List Wild) (lo hi a : Nat) :
    seedAt (cutWild l lo hi) a = if lo ≤ a ∧ a < hi then none else seedAt l a := by
  induction l with
  | nil => simp [cutWild, seedAt]
  | cons w l ih =>
    have hc : cutWild (w :: l) lo hi = ([{ w with hi := min w.hi lo }, { w with lo := max w.lo hi }].filter fun x => decide (x.lo < x.hi)) ++ cutWild l lo hi := rfl
    rw [hc, seedAt_cons]
    simp only [List.filter_cons, List.filter_nil]
    by_cases h1 : w.lo < min w.hi lo <;> by_cases h2 : max w.lo hi < w.hi <;>
      simp only [h1, h2, decide_true, decide_false, if_true, if_false, List.cons_append, List.nil_append, seedAt_cons, ih, Bool.false_eq_true] <;>
      (repeat' split) <;> first | rfl | omega

/-- A byte at its home agent, by the seed of the unpredictable range that holds it. -/
theorem memByte_eq (pa : Nat) : s.memByte pa = if hostBase ≤ pa then (Store.get none s.outside pa).getD (Config.outsideByte pa)
    else match seedAt s.wild (home pa) with
      | some n => Config.openByte n (home pa)
      | none => Store.get 0 s.mem (home pa) := by
  unfold State.memByte seedAt
  cases s.wild.find? fun w => w.covers (home pa) <;> rfl

/-- Where a byte is held: outside the module by its own address, inside by its home address (R177 to R179). -/
def heldAt (pa : Nat) : Bool × Nat := if hostBase ≤ pa then (true, pa) else (false, home pa)

/-- A byte written is the byte read, by every address that names it; every other byte is as before. -/
theorem memByte_setMemByte (pa pb : Nat) (b : Byte) :
    (s.setMemByte pa b).memByte pb = if heldAt pb = heldAt pa then b else s.memByte pb := by
  simp only [memByte_eq]
  unfold State.setMemByte heldAt
  by_cases ha : hostBase ≤ pa <;> by_cases hb : hostBase ≤ pb <;> simp [ha, hb, Store.get_set, seedAt_cutWild]
  · split <;> simp
  · by_cases h : home pb = home pa
    · simp [h]
    · have h1 : ¬ (home pa ≤ home pb ∧ home pb < home pa + 1) := by omega
      have h2 : ¬ (home pa ≤ home pb ∧ home pb ≤ home pa) := by omega
      simp [h, h1, h2]

@[simp] theorem memByte_setMemByte_same (pa : Nat) (b : Byte) : (s.setMemByte pa b).memByte pa = b := by
  simp [memByte_setMemByte]

theorem setMemByte_keeps (pa : Nat) (b : Byte) (h : MemCanonical s) : MemCanonical (s.setMemByte pa b) := by
  unfold State.setMemByte
  split
  · exact ⟨h.1, Store.wf_set none _ _ _ h.2⟩
  · exact ⟨Store.wf_set 0 _ _ _ h.1, h.2⟩

/-! ### Runs of bytes -/

/-- Bytes written at a run of addresses leave every byte held elsewhere alone. -/
theorem memByte_putBytes_other (pa n x pb : Nat) (h : ∀ i < n, heldAt pb ≠ heldAt (pa + i)) :
    (s.putBytes pa n x).memByte pb = s.memByte pb := by
  induction n generalizing s pa x with
  | zero => rfl
  | succ n ih =>
    rw [State.putBytes, ih _ _ _ fun i hi => by have := h (i + 1) (by omega); rwa [Nat.add_assoc, Nat.add_comm 1],
      memByte_setMemByte, if_neg (by simpa using h 0 (by omega))]

theorem putBytes_keeps (pa n x : Nat) (h : MemCanonical s) : MemCanonical (s.putBytes pa n x) := by
  induction n generalizing s pa x with
  | zero => exact h
  | succ n ih => exact ih _ _ _ (setMemByte_keeps s _ _ h)

/-- Writing `n` bytes changes nothing but the two memories and which of their bytes are unpredictable. -/
theorem putBytes_eq (pa n x : Nat) :
    s.putBytes pa n x = { s with
      mem := (s.putBytes pa n x).mem, outside := (s.putBytes pa n x).outside, wild := (s.putBytes pa n x).wild } := by
  induction n generalizing s pa x with
  | zero => rfl
  | succ n ih =>
    rw [State.putBytes]
    refine (ih _ _ _).trans ?_
    unfold State.setMemByte
    split <;> rfl

/-! ### Writes at the memory side -/

@[simp] theorem cureMem_mem (pa n : Nat) : (s.cureMem pa n).mem = s.mem := by unfold State.cureMem; split <;> rfl
@[simp] theorem cureMem_outside (pa n : Nat) : (s.cureMem pa n).outside = s.outside := by
  unfold State.cureMem; split <;> rfl
@[simp] theorem markPoison_mem (p : PoisonAt) : (s.markPoison p).mem = s.mem := by unfold State.markPoison; split <;> rfl
@[simp] theorem markPoison_outside (p : PoisonAt) : (s.markPoison p).outside = s.outside := by
  unfold State.markPoison; split <;> rfl
@[simp] theorem clearPoison_mem (p : PoisonAt) : (s.clearPoison p).mem = s.mem := by
  unfold State.clearPoison; split <;> rfl
@[simp] theorem clearPoison_outside (p : PoisonAt) : (s.clearPoison p).outside = s.outside := by
  unfold State.clearPoison; split <;> rfl
@[simp] theorem carryPoison_mem (p q : PoisonAt) : (s.carryPoison p q).mem = s.mem := by
  unfold State.carryPoison; split <;> simp
@[simp] theorem carryPoison_outside (p q : PoisonAt) : (s.carryPoison p q).outside = s.outside := by
  unfold State.carryPoison; split <;> simp
@[simp] theorem backPoison_mem (m : Nat) (p q : PoisonAt) : (s.backPoison m p q).mem = s.mem := by
  unfold State.backPoison; split <;> simp
@[simp] theorem backPoison_outside (m : Nat) (p q : PoisonAt) : (s.backPoison m p q).outside = s.outside := by
  unfold State.backPoison; split <;> simp
@[simp] theorem reply_mem (x slot id v : Nat) : (s.reply x slot id v).mem = s.mem := rfl
@[simp] theorem reply_outside (x slot id v : Nat) : (s.reply x slot id v).outside = s.outside := rfl

@[simp] theorem watchMet_mem (w : Watch) : (s.watchMet w).mem = s.mem := by unfold State.watchMet; split <;> rfl
@[simp] theorem watchMet_outside (w : Watch) : (s.watchMet w).outside = s.outside := by unfold State.watchMet; split <;> rfl

/-- A fold of updates that keep a property keeps it. -/
theorem foldl_keeps {α β : Type} (P : α → Prop) (f : α → β → α) (l : List β) (hf : ∀ a b, P a → P (f a b)) (a : α)
    (h : P a) : P (l.foldl f a) := by
  induction l generalizing a with
  | nil => exact h
  | cons b l ih => exact ih _ (hf _ _ h)

theorem testWatches_keeps (d lo hi : Nat) (h : MemCanonical s) : MemCanonical (s.testWatches d lo hi) := by
  unfold State.testWatches
  refine foldl_keeps MemCanonical _ _ (fun a w ha => ?_) s h
  split
  · exact ha
  · split
    · exact ha.of_eq (watchMet_mem a w) (watchMet_outside a w)
    · exact ha

/-- A write at the memory side keeps the canonical form. -/
theorem memWrite_keeps (pa n x : Nat) (h : MemCanonical s) : MemCanonical (s.memWrite pa n x) := by
  have hp : MemCanonical ((s.putBytes pa n x).cureMem pa n) :=
    (putBytes_keeps s pa n x h).of_eq (by simp) (by simp)
  unfold State.memWrite
  split
  · exact h.of_eq rfl rfl
  · exact h.of_eq rfl rfl
  · exact h.of_eq rfl rfl
  · dsimp only; split
    · exact hp
    · exact testWatches_keeps _ _ _ _ hp
  · dsimp only; split
    · exact hp
    · exact testWatches_keeps _ _ _ _ hp
  · exact hp

/-- A write where the memory map places nothing changes no byte and is recorded (R177). -/
theorem memWrite_nowhere (pa n x : Nat) (h : region pa = .unassigned) :
    s.memWrite pa n x = { s with badAccess := true } := by simp [State.memWrite, h]

/-- Writing some of the bytes of a range keeps the canonical form. -/
theorem memWriteMasked_keeps (pa n x m : Nat) (h : MemCanonical s) : MemCanonical (s.memWriteMasked pa n x m) := by
  unfold State.memWriteMasked
  split
  · exact memWrite_keeps _ _ _ _ h
  · refine foldl_keeps MemCanonical _ _ (fun a j ha => ?_) s h
    split
    · exact memWrite_keeps _ _ _ _ ha
    · exact ha

/-- Serving an access at the DRAM sequencer moves no byte. -/
theorem dramTake_memory (pa n : Nat) : (s.dramTake pa n).mem = s.mem ∧ (s.dramTake pa n).outside = s.outside := by
  unfold State.dramTake
  refine foldl_keeps (fun t : State => t.mem = s.mem ∧ t.outside = s.outside) _ _ (fun t x ht => ?_) s ⟨rfl, rfl⟩
  dsimp only
  split
  · exact ht
  · split <;> exact ht

theorem dramTake_keeps (pa n : Nat) (h : MemCanonical s) : MemCanonical (s.dramTake pa n) :=
  h.of_eq (dramTake_memory s pa n).1 (dramTake_memory s pa n).2

theorem memLand_keeps (pa n x m : Nat) (bad : Bool) (h : MemCanonical s) : MemCanonical (s.memLand pa n x m bad) := by
  have h' := memWriteMasked_keeps _ pa n x m (dramTake_keeps s pa n h)
  unfold State.memLand
  dsimp only
  split
  · exact h'.of_eq (by simp) (by simp)
  · exact h'

/-- A write that may queue at DRAM keeps the canonical form (R315). -/
theorem memPost_keeps (pa n x m : Nat) (c : Option Nat) (bad : Bool) (h : MemCanonical s) :
    MemCanonical (s.memPost pa n x m c bad) := by
  unfold State.memPost
  dsimp only
  split
  · refine h.of_eq ?_ ?_ <;> unfold State.dramJoin <;> dsimp only <;> split <;> rfl
  · exact memLand_keeps _ _ _ _ _ _ h

/-- A request to another package changes neither memory (R353). -/
theorem putRequest_memory (r : Request) : (s.putRequest r).mem = s.mem ∧ (s.putRequest r).outside = s.outside := by
  unfold State.putRequest
  split
  · unfold State.sendFlit
    dsimp only
    split <;> exact ⟨rfl, rfl⟩
  · unfold State.failRequest
    dsimp only
    split <;> exact ⟨rfl, rfl⟩

theorem sendRequest_keeps (p op pa n : Nat) (v : Word) (x : Nat) (o : Requester) (g : Sig) (h : MemCanonical s) :
    MemCanonical (s.sendRequest p op pa n v x o g) := h.of_eq (putRequest_memory _ _).1 (putRequest_memory _ _).2

theorem awaitAck_keeps (core : Nat) (x : Option Nat) (h : MemCanonical s) : MemCanonical (s.awaitAck core x) := h.of_eq rfl rfl

theorem memWriteBack_keeps (core pa v m : Nat) (bad : Bool) (h : MemCanonical s) : MemCanonical (s.memWriteBack core pa v m bad) := by
  unfold State.memWriteBack
  split
  · refine awaitAck_keeps _ _ _ (sendRequest_keeps _ _ _ _ _ _ _ _ _ ?_)
    split
    · exact memLand_keeps _ _ _ _ _ _ h
    · exact h
  · exact memPost_keeps _ _ _ _ _ _ _ h

/-- What the memory-side cache keeps is no part of the memories (R16). -/
@[simp] theorem keepLine_mem (pa : Nat) (d : Bool) : (s.keepLine pa d).mem = s.mem := by unfold State.keepLine; split <;> rfl
@[simp] theorem keepLine_outside (pa : Nat) (d : Bool) : (s.keepLine pa d).outside = s.outside := by
  unfold State.keepLine; split <;> rfl

theorem keepLine_keeps (pa : Nat) (d : Bool) (h : MemCanonical s) : MemCanonical (s.keepLine pa d) :=
  h.of_eq (keepLine_mem s pa d) (keepLine_outside s pa d)

/-! ### The lines of the L2s -/

@[simp] theorem setL2Line_mem (d line : Nat) (l : L2Line) : (s.setL2Line d line l).mem = s.mem := rfl
@[simp] theorem setL2Line_outside (d line : Nat) (l : L2Line) : (s.setL2Line d line l).outside = s.outside := rfl

theorem l2Clean_keeps (d line : Nat) (b : BitVec 4) (h : MemCanonical s) : MemCanonical (s.l2Clean d line b) := by
  have hf : ∀ (l : List Nat) (x : L2Line) (t : State), MemCanonical t → MemCanonical (l.foldl (fun s k =>
      s.memWriteBack (x.writers.getD k 0) (line * 128 + 32 * k) (lineBytes x.data (32 * k) 32) (sectorMask x.bytes k)
        (s.poison.contains (.l2 d (4 * line + k)))) t) := fun l x t ht =>
    foldl_keeps MemCanonical _ _ (fun a k ha => memWriteBack_keeps a _ _ _ _ _ ha) t ht
  unfold State.l2Clean
  dsimp only
  split
  · exact hf _ _ _ h
  · exact (hf _ _ _ (keepLine_keeps s _ _ h)).of_eq rfl rfl

theorem l2Drop_keeps (d line : Nat) (h : MemCanonical s) : MemCanonical (s.l2Drop d line) := by
  unfold State.l2Drop
  exact foldl_keeps MemCanonical _ _ (fun a k ha => ha.of_eq (by simp) (by simp)) _
    ((l2Clean_keeps s d line _ h).of_eq rfl rfl)

/-! ### What the caches write back -/

theorem setL2Line_keeps (d line : Nat) (l : L2Line) (h : MemCanonical s) : MemCanonical (s.setL2Line d line l) :=
  h.of_eq rfl rfl

theorem l2FillPoison_keeps (d line : Nat) (ks : List Nat) (h : MemCanonical s) :
    MemCanonical (s.l2FillPoison d line ks) := by
  unfold State.l2FillPoison
  split
  · exact h
  · exact foldl_keeps MemCanonical _ _ (fun a k ha => ha.of_eq (by simp) (by simp)) s h

theorem l2Room_keeps (d line : Nat) (h : MemCanonical s) : MemCanonical (s.l2Room d line) := by
  unfold State.l2Room
  dsimp only
  split
  · split
    · exact l2Drop_keeps _ _ _ h
    · exact h
  · exact h

theorem l2Fill_keeps (d line : Nat) (b : BitVec 4) (h : MemCanonical s) : MemCanonical (s.l2Fill d line b) := by
  unfold State.l2Fill
  dsimp only
  split
  · exact h
  · exact l2FillPoison_keeps _ _ _ _ (setL2Line_keeps _ _ _ _ (keepLine_keeps _ _ _ (l2Room_keeps _ _ _ h)))

theorem l2Read_keeps (d line off n : Nat) (h : MemCanonical s) : MemCanonical (s.l2Read d line off n).2 :=
  l2Fill_keeps s d line _ h

theorem l2Write_keeps (d core line off n x : Nat) (h : MemCanonical s) :
    MemCanonical (s.l2Write d core line off n x) := by
  unfold State.l2Write
  dsimp only
  exact setL2Line_keeps _ _ _ _
    (foldl_keeps MemCanonical _ _ (fun a k ha => ha.of_eq (by simp) (by simp)) _ (l2Fill_keeps _ _ _ _ (l2Room_keeps _ _ _ h)))

theorem l2WriteBack_keeps (d core line k v m : Nat) (h : MemCanonical s) :
    MemCanonical (s.l2WriteBack d core line k v m) := by
  unfold State.l2WriteBack
  split
  · exact l2Write_keeps _ _ _ _ _ _ _ h
  · exact setL2Line_keeps _ _ _ _ (l2Fill_keeps _ _ _ _ h)

theorem cleanLine_keeps (core bank set : Nat) (c : Bool) (h : MemCanonical s) :
    MemCanonical (s.cleanLine core bank set c) := by
  unfold State.cleanLine
  dsimp only
  split
  · exact h
  · split
    · exact h
    · exact (foldl_keeps MemCanonical _ _ (fun a k ha => (l2WriteBack_keeps a _ _ _ _ _ _ ha).of_eq
        (backPoison_mem _ _ _ _) (backPoison_outside _ _ _ _)) s h).of_eq rfl rfl

theorem dropLine_keeps (core bank set : Nat) (h : MemCanonical s) : MemCanonical (s.dropLine core bank set) := by
  have h' := (cleanLine_keeps s core bank set true h).of_eq
    (t := (s.cleanLine core bank set true).modCore core fun c => c.setLine bank set {}) rfl rfl
  unfold State.dropLine
  dsimp only
  split
  · exact foldl_keeps MemCanonical _ _ (fun a k ha => ha.of_eq (by simp) (by simp)) _ h'
  · exact h'

theorem allocLine_keeps (core line : Nat) (h : MemCanonical s) {r : Nat × State} (e : s.allocLine core line = some r) :
    MemCanonical r.2 := by
  unfold State.allocLine at e
  dsimp only at e
  split at e
  · cases e; exact h.of_eq rfl rfl
  · split at e
    · cases e
    · cases e; exact (dropLine_keeps s core _ _ h).of_eq rfl rfl

theorem ensureLine_keeps (core line : Nat) (h : MemCanonical s) {r : Nat × State}
    (e : s.ensureLine core line = some r) : MemCanonical r.2 := by
  unfold State.ensureLine at e
  split at e
  · cases e; exact h
  · exact allocLine_keeps s core line h e

theorem fillLine_keeps (core bank line : Nat) (b : BitVec 4) (h : MemCanonical s) :
    MemCanonical (s.fillLine core bank line b) := by
  unfold State.fillLine
  refine foldl_keeps MemCanonical _ _ (fun a k ha => ?_) s h
  exact (l2Read_keeps a (dieOf core) line (32 * k) 32 ha).of_eq
    (carryPoison_mem (a.l2Read (dieOf core) line (32 * k) 32).2 _ _)
    (carryPoison_outside (a.l2Read (dieOf core) line (32 * k) 32).2 _ _)

/-! ### Accesses of a core -/

theorem raiseOwn_keeps (core level line : Nat) (h : MemCanonical s) : MemCanonical (s.raiseOwn core level line) := by
  have h' : MemCanonical (match (s.core core).findLine s.now line with
      | some j => s.cleanLine core j (line % 128) true
      | none => s) := by
    split
    · exact cleanLine_keeps _ _ _ _ _ h
    · exact h
  have key : ∀ t : State, MemCanonical t → MemCanonical (
      let b := (t.l2Line (dieOf core) line).dirty
      if level = 1 ∨ b = 0 then t
      else (t.l2Clean (dieOf core) line b).modCore core fun c => { c with carried := sigAddSectors c.carried line b }) := fun t ht => by
    dsimp only
    split
    · exact ht
    · exact (l2Clean_keeps _ _ _ _ ht).of_eq rfl rfl
  unfold State.raiseOwn
  split
  · exact h
  · exact key _ h'

theorem readSpan_keeps (core level line off n : Nat) (h : MemCanonical s) :
    MemCanonical (s.readSpan core level line off n).2 := by
  have hr := raiseOwn_keeps s core level line h
  unfold State.readSpan
  dsimp only
  split
  · split
    · exact l2Read_keeps _ _ _ _ _ hr
    · next j s' e => exact (fillLine_keeps s' core j line _ (ensureLine_keeps _ core line hr e)).of_eq rfl rfl
  · exact l2Read_keeps _ _ _ _ _ hr
  · exact hr

theorem updateCopies_keeps (core level line off n x : Nat) (h : MemCanonical s) :
    MemCanonical (s.updateCopies core level line off n x) := by
  have h' : ∀ t : State, MemCanonical t → MemCanonical
      (if 2 ≤ level ∧ ((t.l2Line (dieOf core) line).have_ ≠ 0 ∨ (t.l2Line (dieOf core) line).dirty ≠ 0) then
        t.setL2Line (dieOf core) line { t.l2Line (dieOf core) line with
          data := setLineBytes (t.l2Line (dieOf core) line).data off n x
          bytes := (t.l2Line (dieOf core) line).bytes &&& ~~~byteRange off n }
      else t) := fun t ht => by
    split
    · exact ht.of_eq rfl rfl
    · exact ht
  refine h' _ ?_
  split
  · split
    · exact h.of_eq rfl rfl
    · exact h
  · exact h

theorem carryBytes_keeps (core line off n : Nat) (h : MemCanonical s) : MemCanonical (s.carryBytes core line off n) :=
  h.of_eq rfl rfl

theorem writeSpan_keeps (core level line off n x : Nat) (h : MemCanonical s) :
    MemCanonical (s.writeSpan core level line off n x) := by
  have hc := carryBytes_keeps s core line off n h
  rcases level with _ | _ | level
  · simp only [State.writeSpan, if_true]
    split
    · exact carryBytes_keeps _ _ _ _ _ (l2Write_keeps _ _ _ _ _ _ _ h)
    · next j s' e =>
      have h' : ∀ (l : List Nat) (b : BitVec 4), MemCanonical (l.foldl
          (fun s k => s.clearPoison (.cache core (4 * line + k)))
          ((s'.fillLine core j line b).touchLine core j (line % 128))) := fun l b =>
        foldl_keeps MemCanonical _ _ (fun a k ha => ha.of_eq (by simp) (by simp)) _
          (MemCanonical.of_eq (fillLine_keeps s' core j line b (ensureLine_keeps _ core line h e)) rfl rfl)
      exact MemCanonical.of_eq (h' _ _) rfl rfl
  · exact updateCopies_keeps _ _ _ _ _ _ _ (l2Write_keeps _ _ _ _ _ _ _ hc)
  · exact updateCopies_keeps _ _ _ _ _ _ _ (memWrite_keeps _ _ _ _ hc)

/-- A read by a core keeps the canonical form, whatever it writes back. -/
theorem readPa_keeps (core level pa n : Nat) (h : MemCanonical s) : MemCanonical (s.readPa core level pa n).2 := by
  unfold State.readPa
  refine foldl_keeps (fun r : Nat × State => MemCanonical r.2) _ _ (fun a sp ha => ?_) (0, s) h
  exact readSpan_keeps a.2 core level sp.1 sp.2.1 sp.2.2.1 ha

/-- A write by a core keeps the canonical form. -/
theorem writePa_keeps (core level pa n x : Nat) (h : MemCanonical s) : MemCanonical (s.writePa core level pa n x) := by
  unfold State.writePa
  exact foldl_keeps MemCanonical _ _ (fun a sp ha => writeSpan_keeps a _ _ _ _ _ _ ha) s h

/-! ### Release and acquire -/

theorem cleanCore_keeps (core : Nat) (h : MemCanonical s) : MemCanonical (s.cleanCore core) := by
  unfold State.cleanCore
  exact foldl_keeps MemCanonical _ _ (fun a e ha => cleanLine_keeps a _ _ _ _ ha) s h

theorem flushL2_keeps (core : Nat) (h : MemCanonical s) : MemCanonical (s.flushL2 core) := by
  unfold State.flushL2
  refine foldl_keeps MemCanonical _ _ (fun a e ha => ?_) s h
  dsimp only
  split
  · exact ha
  · exact (l2Clean_keeps a _ _ _ ha).of_eq rfl rfl

theorem release_keeps (core scope : Nat) (h : MemCanonical s) : MemCanonical (s.release core scope) := by
  unfold State.release
  dsimp only
  split
  · exact h
  · split
    · exact cleanCore_keeps s core h
    · exact flushL2_keeps _ core (cleanCore_keeps s core h)

theorem acquire_keeps (core scope : Nat) (g : Sig) (h : MemCanonical s) : MemCanonical (s.acquire core scope g) := by
  unfold State.acquire
  split
  · exact h
  · dsimp only
    have h1 := foldl_keeps MemCanonical
      (fun (s : State) (e : Nat × CacheLine) => match e.2.line with
        | some l => if lineMatches g l then s.dropLine core (e.1 / 128) (e.1 % 128) else s
        | none => s) ((s.modCore core fun c => { c with carried := c.carried ||| g }).core core).lines
      (fun a e ha => by
        split
        · split
          · exact dropLine_keeps a _ _ _ ha
          · exact ha
        · exact ha) (s.modCore core fun c => { c with carried := c.carried ||| g }) (h.of_eq rfl rfl)
    split
    · exact h1
    · refine foldl_keeps MemCanonical _ _ (fun a e ha => ?_) _ h1
      split
      · exact l2Drop_keeps a _ _ ha
      · exact ha

theorem evictBytes_keeps (core pa n : Nat) (b : Bool) (h : MemCanonical s) :
    MemCanonical (s.evictBytes core pa n b) := by
  unfold State.evictBytes
  refine foldl_keeps MemCanonical _ _ (fun a sp ha => ?_) s h
  have h' : MemCanonical (match (a.core core).findLine a.now sp.1 with
      | some j => a.dropLine core j (sp.1 % 128)
      | none => a) := by
    split
    · exact dropLine_keeps _ _ _ _ ha
    · exact ha
  dsimp only
  split
  · exact l2Drop_keeps _ _ _ h'
  · exact h'

/-! ### The engines -/

theorem recordMem_keeps (pa : Nat) (g : Sig) (h : MemCanonical s) : MemCanonical (s.recordMem pa g) := by
  unfold State.recordMem
  split <;> exact h

theorem syncWrite_keeps (pa n x : Nat) (h : MemCanonical s) : MemCanonical (s.syncWrite pa n x) := by
  unfold State.syncWrite
  dsimp only
  split
  · exact memWrite_keeps _ _ _ _ h
  · refine foldl_keeps MemCanonical _ _ (fun a i ha => ?_) s h
    split
    · exact ha
    · exact memWrite_keeps _ _ _ _ ha

theorem partyPut_keeps (pa n x : Nat) (h : MemCanonical s) : MemCanonical (s.partyPut pa n x) := by
  unfold State.partyPut
  split
  · split
    · exact memWrite_keeps _ _ _ _ h
    · exact h
  · split
    · exact syncWrite_keeps _ _ _ _ h
    · exact memWrite_keeps _ _ _ _ h

theorem partyWrite_keeps (pa n x : Nat) (h : MemCanonical s) : MemCanonical (s.partyWrite pa n x) := by
  unfold State.partyWrite
  split
  · exact memPost_keeps _ _ _ _ _ _ _ h
  · exact partyPut_keeps _ _ _ _ (dramTake_keeps _ _ _ h)

/-- Outside side store and the sync engines a party's write is a plain one (R197). -/
theorem partyPut_plain (pa n x : Nat) (hs : region pa ≠ .side) (hy : atSync pa = false) :
    s.partyPut pa n x = s.memWrite pa n x := by
  unfold State.partyPut
  split
  · exact absurd ‹_› hs
  · simp [hy]

theorem recordBytes_keeps (pa n : Nat) (g : Sig) (h : MemCanonical s) : MemCanonical (s.recordBytes pa n g) := by
  unfold State.recordBytes
  exact foldl_keeps MemCanonical _ _ (fun a i ha => recordMem_keeps a _ _ ha) s h

theorem joinRecordMem_keeps (pa : Nat) (g : Sig) (h : MemCanonical s) : MemCanonical (s.joinRecordMem pa g) := by
  unfold State.joinRecordMem
  split <;> exact h

/-- Writing back what an ordering operation waits for keeps the canonical form. -/
theorem flushLate_keeps (core : Nat) (own : Bool) (g : Sig) (h : MemCanonical s) : MemCanonical (s.flushLate core own g) := by
  unfold State.flushLate
  dsimp only
  refine foldl_keeps MemCanonical _ _ (fun a line ha => ?_) _ ?_
  · exact (l2Clean_keeps a _ _ _ ha).of_eq rfl rfl
  exact foldl_keeps MemCanonical _ _ (fun a k ha => cleanLine_keeps a _ _ _ _ ha) s h

theorem releasePut_keeps (pa n x : Nat) (g : Sig) (h : MemCanonical s) : MemCanonical (s.releasePut pa n x g) :=
  recordBytes_keeps _ _ _ _ (partyPut_keeps _ _ _ _ h)

theorem releaseMem_keeps (pa n x : Nat) (g : Sig) (h : MemCanonical s) : MemCanonical (s.releaseMem pa n x g) :=
  recordBytes_keeps _ _ _ _ (partyWrite_keeps _ _ _ _ h)

/-- Bytes that become unpredictable, or zero, keep the canonical form (R9). -/
theorem spoil_keeps (lo hi : Nat) (h : MemCanonical s) : MemCanonical (s.spoil lo hi) := ⟨Store.wf_filter 0 _ _ h.1, h.2⟩
theorem zeroRange_keeps (lo hi : Nat) (h : MemCanonical s) : MemCanonical (s.zeroRange lo hi) := ⟨Store.wf_filter 0 _ _ h.1, h.2⟩

/-- Discarding side-store ways keeps the canonical form (R278). -/
theorem zeroWays_keeps (k : Nat) (m : BitVec 16) (h : MemCanonical s) : MemCanonical (s.zeroWays k m) := by
  unfold State.zeroWays
  refine foldl_keeps MemCanonical _ _ (fun a w ha => ?_) s h
  dsimp only
  split
  · exact zeroRange_keeps _ _ _ ha
  · exact ha

end Sys2Proof.Machine
end

