-- ==== Sys2Proof/Laws/Num.lean ====
section
/-!
SUPPORT. What the integer square root is.
-/
namespace Sys2Proof.Machine

theorem isqrtAux_spec (n : Nat) : ∀ k r : Nat, r * r ≤ n → n < (r + 2 ^ k) * (r + 2 ^ k) →
    isqrtAux n k r * isqrtAux n k r ≤ n ∧ n < (isqrtAux n k r + 1) * (isqrtAux n k r + 1)
  | 0, r, h, h' => ⟨h, by simpa [isqrtAux] using h'⟩
  | k + 1, r, h, h' => by
    simp only [isqrtAux]
    split
    · next hle => exact isqrtAux_spec n k _ hle (by rw [Nat.add_assoc, ← Nat.two_mul, ← Nat.pow_succ']; exact h')
    · next hlt => exact isqrtAux_spec n k _ h (Nat.lt_of_not_le hlt)

/-- `isqrt n` is the greatest `r` with `r * r ≤ n`. -/
theorem isqrt_spec (n : Nat) : isqrt n * isqrt n ≤ n ∧ n < (isqrt n + 1) * (isqrt n + 1) := by
  refine isqrtAux_spec n _ 0 (Nat.zero_le n) ?_
  rw [Nat.zero_add, ← Nat.pow_add]
  exact Nat.lt_of_lt_of_le Nat.lt_log2_self (Nat.pow_le_pow_right (by decide) (by omega))

end Sys2Proof.Machine
end

