-- ==== Sys2Proof/Laws/Registers.lean ====
section
/-!
SUPPORT. A context's registers: what each register reads as after a write, the hard-wired registers, and the fields of a
context after the entry into the trap routine and the return from it.
-/
namespace Sys2Proof.Machine
variable (r : Regs)

/-! ### Hard-wired registers (R111, R112, R128) -/

@[simp] theorem Regs.getS_zero : r.getS 0 = 0 := rfl
@[simp] theorem Regs.getC_zero : r.getC 0 = false := rfl
@[simp] theorem Regs.getK_zero : r.getK 0 = BitVec.allOnes 32 := rfl
@[simp] theorem Regs.setS_zero (x : Word) : r.setS 0 x = r := rfl
@[simp] theorem Regs.setC_zero (x : Bool) : r.setC 0 x = r := rfl
@[simp] theorem Regs.setK_zero (x : Mask) : r.setK 0 x = r := rfl

/-! ### Reading after a write -/

theorem Regs.getS_setS (m n : BitVec 6) (x : Word) :
    (r.setS m x).getS n = if n = m ∧ m ≠ 0 then x else r.getS n := by
  by_cases hm : m = 0
  · subst hm
    rw [Regs.setS_zero, if_neg fun h => h.2 rfl]
  · by_cases hn : n = 0
    · subst hn
      rw [if_neg fun h => hm h.1.symm]; rfl
    · unfold Regs.getS Regs.setS
      rw [if_neg hn, if_neg hn, if_neg hm, Store.get_set]
      by_cases h : n = m
      · rw [if_pos (BitVec.toNat_inj.mpr h), if_pos ⟨h, hm⟩]
      · rw [if_neg (mt BitVec.toNat_inj.mp h), if_neg fun h' => h h'.1]

theorem Regs.getK_setK (m n : BitVec 3) (x : Mask) :
    (r.setK m x).getK n = if n = m ∧ m ≠ 0 then x else r.getK n := by
  by_cases hm : m = 0
  · subst hm
    rw [Regs.setK_zero, if_neg fun h => h.2 rfl]
  · by_cases hn : n = 0
    · subst hn
      rw [if_neg fun h => hm h.1.symm]; rfl
    · unfold Regs.getK Regs.setK
      rw [if_neg hn, if_neg hn, if_neg hm, Store.get_set]
      by_cases h : n = m
      · rw [if_pos (BitVec.toNat_inj.mpr h), if_pos ⟨h, hm⟩]
      · rw [if_neg (mt BitVec.toNat_inj.mp h), if_neg fun h' => h h'.1]

@[simp] theorem Regs.getV_setV (m n : BitVec 5) (x : VWord) : (r.setV m x).getV n = if n = m then x else r.getV n := by
  simp [Regs.setV, Regs.getV, Store.get_set, BitVec.toNat_inj]
@[simp] theorem Regs.getB_setB (m n : BitVec 2) (x : Word) : (r.setB m x).getB n = if n = m then x else r.getB n := by
  simp [Regs.setB, Regs.getB, Store.get_set, BitVec.toNat_inj]
@[simp] theorem Regs.getH_setH (m n : BitVec 3) (x : Word) : (r.setH m x).getH n = if n = m then x else r.getH n := by
  simp [Regs.setH, Regs.getH, Store.get_set, BitVec.toNat_inj]
@[simp] theorem Regs.getG_setG (m n : BitVec 3) (x : Agu) : (r.setG m x).getG n = if n = m then x else r.getG n := by
  simp [Regs.setG, Regs.getG, Store.get_set, BitVec.toNat_inj]

/-! ### One file after a write to another -/

@[simp] theorem Regs.getV_setS (m : BitVec 6) (x : Word) (n : BitVec 5) : (r.setS m x).getV n = r.getV n := by unfold Regs.setS; split <;> rfl
@[simp] theorem Regs.getK_setS (m : BitVec 6) (x : Word) (n : BitVec 3) : (r.setS m x).getK n = r.getK n := by unfold Regs.setS; split <;> rfl
@[simp] theorem Regs.getC_setS (m : BitVec 6) (x : Word) (n : BitVec 4) : (r.setS m x).getC n = r.getC n := by unfold Regs.setS; split <;> rfl
@[simp] theorem Regs.getB_setS (m : BitVec 6) (x : Word) (n : BitVec 2) : (r.setS m x).getB n = r.getB n := by unfold Regs.setS; split <;> rfl
@[simp] theorem Regs.getH_setS (m : BitVec 6) (x : Word) (n : BitVec 3) : (r.setS m x).getH n = r.getH n := by unfold Regs.setS; split <;> rfl
@[simp] theorem Regs.getG_setS (m : BitVec 6) (x : Word) (n : BitVec 3) : (r.setS m x).getG n = r.getG n := by unfold Regs.setS; split <;> rfl
@[simp] theorem Regs.getS_setV (m : BitVec 5) (x : VWord) (n : BitVec 6) : (r.setV m x).getS n = r.getS n := rfl
@[simp] theorem Regs.getK_setV (m : BitVec 5) (x : VWord) (n : BitVec 3) : (r.setV m x).getK n = r.getK n := rfl
@[simp] theorem Regs.getC_setV (m : BitVec 5) (x : VWord) (n : BitVec 4) : (r.setV m x).getC n = r.getC n := rfl
@[simp] theorem Regs.getB_setV (m : BitVec 5) (x : VWord) (n : BitVec 2) : (r.setV m x).getB n = r.getB n := rfl
@[simp] theorem Regs.getH_setV (m : BitVec 5) (x : VWord) (n : BitVec 3) : (r.setV m x).getH n = r.getH n := rfl
@[simp] theorem Regs.getG_setV (m : BitVec 5) (x : VWord) (n : BitVec 3) : (r.setV m x).getG n = r.getG n := rfl
@[simp] theorem Regs.getS_setK (m : BitVec 3) (x : Mask) (n : BitVec 6) : (r.setK m x).getS n = r.getS n := by unfold Regs.setK; split <;> rfl
@[simp] theorem Regs.getV_setK (m : BitVec 3) (x : Mask) (n : BitVec 5) : (r.setK m x).getV n = r.getV n := by unfold Regs.setK; split <;> rfl
@[simp] theorem Regs.getC_setK (m : BitVec 3) (x : Mask) (n : BitVec 4) : (r.setK m x).getC n = r.getC n := by unfold Regs.setK; split <;> rfl
@[simp] theorem Regs.getB_setK (m : BitVec 3) (x : Mask) (n : BitVec 2) : (r.setK m x).getB n = r.getB n := by unfold Regs.setK; split <;> rfl
@[simp] theorem Regs.getH_setK (m : BitVec 3) (x : Mask) (n : BitVec 3) : (r.setK m x).getH n = r.getH n := by unfold Regs.setK; split <;> rfl
@[simp] theorem Regs.getG_setK (m : BitVec 3) (x : Mask) (n : BitVec 3) : (r.setK m x).getG n = r.getG n := by unfold Regs.setK; split <;> rfl
@[simp] theorem Regs.getS_setC (m : BitVec 4) (x : Bool) (n : BitVec 6) : (r.setC m x).getS n = r.getS n := by unfold Regs.setC; split <;> rfl
@[simp] theorem Regs.getV_setC (m : BitVec 4) (x : Bool) (n : BitVec 5) : (r.setC m x).getV n = r.getV n := by unfold Regs.setC; split <;> rfl
@[simp] theorem Regs.getK_setC (m : BitVec 4) (x : Bool) (n : BitVec 3) : (r.setC m x).getK n = r.getK n := by unfold Regs.setC; split <;> rfl
@[simp] theorem Regs.getB_setC (m : BitVec 4) (x : Bool) (n : BitVec 2) : (r.setC m x).getB n = r.getB n := by unfold Regs.setC; split <;> rfl
@[simp] theorem Regs.getH_setC (m : BitVec 4) (x : Bool) (n : BitVec 3) : (r.setC m x).getH n = r.getH n := by unfold Regs.setC; split <;> rfl
@[simp] theorem Regs.getG_setC (m : BitVec 4) (x : Bool) (n : BitVec 3) : (r.setC m x).getG n = r.getG n := by unfold Regs.setC; split <;> rfl
@[simp] theorem Regs.getS_setB (m : BitVec 2) (x : Word) (n : BitVec 6) : (r.setB m x).getS n = r.getS n := rfl
@[simp] theorem Regs.getV_setB (m : BitVec 2) (x : Word) (n : BitVec 5) : (r.setB m x).getV n = r.getV n := rfl
@[simp] theorem Regs.getK_setB (m : BitVec 2) (x : Word) (n : BitVec 3) : (r.setB m x).getK n = r.getK n := rfl
@[simp] theorem Regs.getC_setB (m : BitVec 2) (x : Word) (n : BitVec 4) : (r.setB m x).getC n = r.getC n := rfl
@[simp] theorem Regs.getH_setB (m : BitVec 2) (x : Word) (n : BitVec 3) : (r.setB m x).getH n = r.getH n := rfl
@[simp] theorem Regs.getG_setB (m : BitVec 2) (x : Word) (n : BitVec 3) : (r.setB m x).getG n = r.getG n := rfl
@[simp] theorem Regs.getS_setH (m : BitVec 3) (x : Word) (n : BitVec 6) : (r.setH m x).getS n = r.getS n := rfl
@[simp] theorem Regs.getV_setH (m : BitVec 3) (x : Word) (n : BitVec 5) : (r.setH m x).getV n = r.getV n := rfl
@[simp] theorem Regs.getK_setH (m : BitVec 3) (x : Word) (n : BitVec 3) : (r.setH m x).getK n = r.getK n := rfl
@[simp] theorem Regs.getC_setH (m : BitVec 3) (x : Word) (n : BitVec 4) : (r.setH m x).getC n = r.getC n := rfl
@[simp] theorem Regs.getB_setH (m : BitVec 3) (x : Word) (n : BitVec 2) : (r.setH m x).getB n = r.getB n := rfl
@[simp] theorem Regs.getG_setH (m : BitVec 3) (x : Word) (n : BitVec 3) : (r.setH m x).getG n = r.getG n := rfl
@[simp] theorem Regs.getS_setG (m : BitVec 3) (x : Agu) (n : BitVec 6) : (r.setG m x).getS n = r.getS n := rfl
@[simp] theorem Regs.getV_setG (m : BitVec 3) (x : Agu) (n : BitVec 5) : (r.setG m x).getV n = r.getV n := rfl
@[simp] theorem Regs.getK_setG (m : BitVec 3) (x : Agu) (n : BitVec 3) : (r.setG m x).getK n = r.getK n := rfl
@[simp] theorem Regs.getC_setG (m : BitVec 3) (x : Agu) (n : BitVec 4) : (r.setG m x).getC n = r.getC n := rfl
@[simp] theorem Regs.getB_setG (m : BitVec 3) (x : Agu) (n : BitVec 2) : (r.setG m x).getB n = r.getB n := rfl
@[simp] theorem Regs.getH_setG (m : BitVec 3) (x : Agu) (n : BitVec 3) : (r.setG m x).getH n = r.getH n := rfl

/-! ### The trap routine (R358, R369) -/

section
variable (c : Ctx) (pc : Word) (slot cause : Nat) (info : Word)
@[simp] theorem Ctx.enterTrap_priv : (c.enterTrap pc slot cause info).priv = true := rfl
@[simp] theorem Ctx.enterTrap_pc : (c.enterTrap pc slot cause info).pc = c.trap.vec := rfl
@[simp] theorem Ctx.enterTrap_phase : (c.enterTrap pc slot cause info).phase = c.phase := rfl
@[simp] theorem Ctx.enterTrap_launch : (c.enterTrap pc slot cause info).launch = c.launch := rfl
@[simp] theorem Ctx.enterTrap_r : (c.enterTrap pc slot cause info).r = c.r := rfl
@[simp] theorem Ctx.enterTrap_csr : (c.enterTrap pc slot cause info).csr = c.csr := rfl
@[simp] theorem Ctx.enterTrap_log : (c.enterTrap pc slot cause info).log = c.log := rfl
@[simp] theorem Ctx.enterTrap_flow : (c.enterTrap pc slot cause info).flow = c.flow := rfl
@[simp] theorem Ctx.enterTrap_trap_pc : (c.enterTrap pc slot cause info).trap.pc = pc &&& ~~~0xF#64 := rfl
@[simp] theorem Ctx.enterTrap_trap_slot : (c.enterTrap pc slot cause info).trap.slot = BitVec.ofNat 2 slot := rfl
@[simp] theorem Ctx.enterTrap_trap_cause : (c.enterTrap pc slot cause info).trap.cause = BitVec.ofNat 8 cause := rfl
@[simp] theorem Ctx.enterTrap_trap_info : (c.enterTrap pc slot cause info).trap.info = info := rfl
@[simp] theorem Ctx.enterTrap_trap_status : (c.enterTrap pc slot cause info).trap.status = c.r.f := rfl
@[simp] theorem Ctx.enterTrap_trap_vec : (c.enterTrap pc slot cause info).trap.vec = c.trap.vec := rfl
@[simp] theorem Ctx.enterTrap_trap_scratch0 : (c.enterTrap pc slot cause info).trap.scratch0 = c.trap.scratch0 := rfl
@[simp] theorem Ctx.enterTrap_trap_scratch1 : (c.enterTrap pc slot cause info).trap.scratch1 = c.trap.scratch1 := rfl
@[simp] theorem Ctx.returnFromTrap_priv : c.returnFromTrap.priv = false := rfl
@[simp] theorem Ctx.returnFromTrap_pc : c.returnFromTrap.pc = c.trap.pc &&& ~~~0xF#64 := rfl
@[simp] theorem Ctx.returnFromTrap_phase : c.returnFromTrap.phase = c.phase := rfl
@[simp] theorem Ctx.returnFromTrap_launch : c.returnFromTrap.launch = c.launch := rfl
@[simp] theorem Ctx.returnFromTrap_r : c.returnFromTrap.r = c.r := rfl
@[simp] theorem Ctx.returnFromTrap_csr : c.returnFromTrap.csr = c.csr := rfl
@[simp] theorem Ctx.returnFromTrap_log : c.returnFromTrap.log = c.log := rfl
@[simp] theorem Ctx.returnFromTrap_trap : c.returnFromTrap.trap = c.trap := rfl
end
end Sys2Proof.Machine
end

