-- ==== Sys2Proof/Laws/Ops.lean ====
section
/-!
SUPPORT. One lemma per shared operation that says everything it can do: what it answers when it goes on, and every way it can
stop short.
-/
namespace Sys2Proof.Machine

/-! ### Numbers -/

theorem bit_eq_testBit (x n : Nat) : bit x n = x.testBit n := by
  unfold bit; simp [Nat.testBit_eq_decide_div_mod_eq]; rfl

/-- Reading `w` bits as a signed number is the bit vector's own reading. -/
theorem toInt_signed (w x : Nat) (h : x < 2 ^ w) : toInt w true x = (BitVec.ofNat w x).toInt := by
  unfold toInt
  rw [bit_eq_testBit]
  cases w with
  | zero => simp at h; subst h; simp
  | succ w =>
    have e : (BitVec.ofNat (w + 1) x).toNat = x := by simp [Nat.mod_eq_of_lt h]
    rw [BitVec.toInt_eq_msb_cond, e, BitVec.msb_eq_getLsbD_last, BitVec.getLsbD, e]
    simp

/-! ### Lent bits (R57, R58) -/

theorem lent_zero (s : State) (h : s.lentWidth = 0) : s.lent = 0 := by
  unfold State.lentWidth at h
  unfold State.lent
  split at h
  · next h' => simp [h']
  · split at h <;> omega

theorem signedField_eq (s : State) {n : Nat} (x : BitVec n) (h : s.lent < 2 ^ s.lentWidth) :
    s.signedField x = (BitVec.ofNat (n + s.lentWidth) (s.lent * 2 ^ n + x.toNat)).toInt := by
  refine toInt_signed _ _ ?_
  have := x.isLt
  rw [Nat.pow_add, Nat.mul_comm (2 ^ n)]
  refine Nat.lt_of_lt_of_le (?_ : _ < (s.lent + 1) * 2 ^ n) (Nat.mul_le_mul_right _ h)
  rw [Nat.succ_mul]; omega

theorem lentOffset_eq (s : State) (h : s.lent < 2 ^ s.lentWidth) :
    s.lentOffset = (BitVec.ofNat s.lentWidth s.lent).toInt := by
  unfold State.lentOffset
  split
  · next h0 => rw [lent_zero s h0]; simp
  · exact toInt_signed _ _ h

/-- Lent bits that are not zero are an illegal instruction, and nothing else stops here. -/
theorem noLent_eq (s : State) (k : Out) : noLent s k = if s.lent = 0 then k else .next s.illegal := rfl

theorem scalar_eq (s : State) (n : Nat) (d : BitVec 6) (x : Word) :
    scalar s n d x = if s.lent = 0 then .next (s.queue n (.s d x)) else .next s.illegal := rfl

theorem withDue_go (s : State) (n : Nat) (k : Nat → Out) (h : 1 ≤ n) (h' : n ≤ 1023) : withDue s n k = k n := by
  simp [withDue, h, h']

theorem withDue_stop (s : State) (n : Nat) (k : Nat → Out) (h : n = 0 ∨ 1023 < n) :
    withDue s n k = .next s.illegal := by
  unfold withDue; rw [if_neg (by omega)]

theorem withRounding_cases (s : State) (k : Rnd → Bool → Out) :
    (s.rounding = none ∧ withRounding s k = .next s.illegal) ∨
      ∃ c sat, s.rounding = some (c, sat) ∧ withRounding s k = k (s.modeOf c) sat := by
  unfold withRounding
  cases h : s.rounding with
  | none => exact .inl ⟨rfl, rfl⟩
  | some x => exact .inr ⟨x.1, x.2, rfl, rfl⟩

/-! ### Holding and trapping -/

@[simp] theorem hold_held (s : State) : s.hold.cur.held = true := rfl
@[simp] theorem hold_trap (s : State) : s.hold.cur.trap = s.cur.trap := rfl
@[simp] theorem hold_ctxs (s : State) : s.hold.ctxs = s.ctxs := rfl
@[simp] theorem hold_mem (s : State) : s.hold.mem = s.mem := rfl
@[simp] theorem takeTrap_trap (s : State) (cause : Nat) (info : Word) :
    (s.takeTrap cause info).cur.trap = some ⟨cause, info, s.cur.slot⟩ := rfl
@[simp] theorem takeTrap_mem (s : State) (cause : Nat) (info : Word) : (s.takeTrap cause info).mem = s.mem := rfl
@[simp] theorem takeTrap_outside (s : State) (cause : Nat) (info : Word) :
    (s.takeTrap cause info).outside = s.outside := rfl
@[simp] theorem takeTrap_cores (s : State) (cause : Nat) (info : Word) : (s.takeTrap cause info).cores = s.cores := rfl

/-- A trap changes only its own context: the entry of R358 in user mode, a double fault in privileged mode (R359). -/
theorem takeTrap_ctxAt (s : State) (cause : Nat) (info : Word) (x : Nat) :
    (s.takeTrap cause info).ctxAt x =
      if x = s.cur.ctx then
        (if s.ctx.priv then { s.ctx with phase := .retiring } else s.ctx.enterTrap s.cur.pc s.cur.slot cause info)
      else s.ctxAt x := by
  unfold State.takeTrap
  rw [State.ctxAt_modCur, State.ctxAt_modCtx]

/-! ### Translation and landings (R86, R187, R188) -/

theorem withXlate_ok (s : State) (l : List Piece) (k : List Piece → Out) : withXlate s (.ok l) k = k l := rfl
theorem withXlate_wait (s : State) (va : Nat) (k : List Piece → Out) :
    withXlate s (.error (.wait va)) k = .next (s.waitWalk va) := rfl
theorem withXlate_fault (s : State) (c x va : Nat) (k : List Piece → Out) :
    withXlate s (.error (.fault c x va)) k = .next (s.takeTrap c (faultInfo x va)) := rfl
theorem withEntry_free (s : State) (k : Out) (h : s.ctx.flow.landings.length < 16) : withEntry s k = k := by
  simp [withEntry]; omega
/-- With the landing buffer full an operation holds, unless its own checks find a precise trap (R52, R86). -/
theorem withEntry_full (s : State) (k : Out) (h : 16 ≤ s.ctx.flow.landings.length) : withEntry s k = holdUnlessTrapped k := by
  simp [withEntry, h]
theorem holdUnlessTrapped_next (t : State) :
    holdUnlessTrapped (.next t) = .next (if t.cur.trap.isSome then t else t.hold) := by
  unfold holdUnlessTrapped; dsimp only; split <;> rfl

/-- What an access at levels `level` waits for before it is served: an SO access not performed, a line leaving the cache, a dirty copy to be
written back, claimed DRAM (R172, R199, R315). -/
structure LinesFree (s : State) (level : Piece → Nat) (l : List Piece) : Prop where
  so : ((l.any fun p => leafOrd p.leaf == 0) && s.owesSo s.cur.ctx) = false
  leaving : (l.any fun p => s.lineLeaving s.coreId p.pa p.n) = false
  copies : s.copiesLate (piecesSig (l.filter fun p => level p == 2)) = false
  queues : l.find? (s.pieceQueues level) = none

/-- An access none of whose pieces waits goes on, with its DRAM segments served. -/
theorem withLinesAt_go (s : State) (level : Piece → Nat) (l : List Piece) (k : State → Out) (h : LinesFree s level l) :
    withLinesAt s level l k = k ((l.filter fun p => !s.cachedAt (level p) p).foldl (fun s p => s.dramTake p.pa p.n) s) := by
  simp only [withLinesAt, h.so, h.leaving, h.copies, h.queues, Bool.false_eq_true, if_false]

theorem withLinesAt_queue (s : State) (level : Piece → Nat) (l : List Piece) (k : State → Out) (p : Piece)
    (hs : ((l.any fun p => leafOrd p.leaf == 0) && s.owesSo s.cur.ctx) = false)
    (h : (l.any fun p => s.lineLeaving s.coreId p.pa p.n) = false)
    (hc : s.copiesLate (piecesSig (l.filter fun p => level p == 2)) = false) (hq : l.find? (s.pieceQueues level) = some p) :
    withLinesAt s level l k = .next (s.holdDram p.pa p.n) := by
  simp only [withLinesAt, hs, h, hc, hq, Bool.false_eq_true, if_false]

theorem withFlush_go (s : State) (scope : Nat) (own : Bool) (g : Sig) (k : Out) (h : scope < 4 ∨ s.flushWaits s.coreId own g = false) :
    withFlush s scope own g k = k := by
  unfold withFlush
  rw [if_neg]
  rintro ⟨h1, h2⟩
  cases h with
  | inl h => omega
  | inr h => simp [h] at h2

/-! ### Releases, requests, tiles -/

theorem withAcked_go (s : State) (scope : Nat) (k : Out) (h : s.owesRelease scope = false) : withAcked s scope k = k := by
  simp [withAcked, h]

theorem withAcked_hold (s : State) (scope : Nat) (k : Out) (h : s.owesRelease scope = true) :
    withAcked s scope k = .next s.holdAcked := by simp [withAcked, h]

theorem withReads_go (s : State) (k : Out) (h : s.owesReads s.cur.ctx = false) : withReads s k = k := by simp [withReads, h]

theorem withReply_replied (s : State) (e : Event) (late : Bool) (k : Nat → Out) (x : Nat)
    (h : Store.get (.requested 0) s.ctx.flow.waits s.cur.slot = .replied x) : withReply s e late k = k x := by
  unfold withReply; simp only [h]

theorem withTile_go (s : State) (a : BitVec 2) (k : Out) (h : s.ownsTile a.toNat = true) : withTile s a k = k := by
  simp [withTile, h]

theorem withTile_stop (s : State) (a : BitVec 2) (k : Out) (h : s.ownsTile a.toNat = false) :
    withTile s a k = matrixFault s 2 0 a.toNat := by simp [withTile, h]

/-! ### Delta runs (R313, R316) -/

theorem withRun_some (s : State) (w : BitVec 6) (k : Run → Nat → Out) (r : Run)
    (h : s.runOf s.cur.stack = some r) : withRun s w k = k (r.settle (r.issueAt w.toNat)) (r.issueAt w.toNat) := by
  unfold withRun; simp only [h]

theorem withRun_none (s : State) (w : BitVec 6) (k : Run → Nat → Out) (h : s.runOf s.cur.stack = none) :
    withRun s w k = .next s := by
  unfold withRun; simp only [h]

/-! ### The first-event log (R39 to R41) -/

theorem bestEntry_none (l : List LogEntry) : bestEntry l = none ↔ l = [] := by
  cases l with
  | nil => simp [bestEntry]
  | cons e es => simp only [bestEntry, reduceCtorEq, iff_false]; split <;> simp

@[simp] theorem EvLog.record_nil (l : EvLog) (stamp : Nat) (pc : Word) : l.record stamp pc [] = l := rfl

end Sys2Proof.Machine
end

