-- ==== Sys2Proof/Laws/Step.lean ====
section
/-!
SUPPORT. Everything one step can be, so that a proof about every step starts from a case analysis and never unfolds the
step itself.
-/
namespace Sys2Proof.Machine

/-- A step that answers a next state does one of five things, and leaves no write where nothing is. -/
theorem step_cases {s t : State} (h : step s = .next t) :
    t.badAccess = false ∧
    ((∃ core rest, s.order = core :: rest ∧ { s with order := rest }.turn core = .next t) ∨
     (∃ e rest, s.order = [] ∧ s.agenda = e :: rest ∧ exec e.i { s with agenda := rest, arg := e } = .next t) ∨
     (∃ k, s.order = [] ∧ s.agenda = [] ∧ s.deltaDue = some k ∧ s.deltaTurn k = .next t) ∨
     (s.order = [] ∧ s.agenda = [] ∧ s.deltaDue = none ∧ s.ran = true ∧ t = s.tick) ∨
     (s.order = [] ∧ s.agenda = [] ∧ s.deltaDue = none ∧ s.ran = false ∧
       t = { s with order := s.liveCores, ran := true })) := by
  unfold step stopOnBad at h
  split at h
  · next t' ha =>
    split at h
    · cases h
    · next hb =>
      cases h
      refine ⟨by simpa using hb, ?_⟩
      unfold State.act at ha
      split at ha
      · next core rest e => exact .inl ⟨core, rest, e, ha⟩
      · next ho =>
        split at ha
        · next e rest he => exact .inr (.inl ⟨e, rest, ho, he, ha⟩)
        · next he =>
          split at ha
          · next k hk => exact .inr (.inr (.inl ⟨k, ho, he, hk, ha⟩))
          · next hk =>
            split at ha
            · next hr => cases ha; exact .inr (.inr (.inr (.inl ⟨ho, he, hk, hr, rfl⟩)))
            · next hr => cases ha; exact .inr (.inr (.inr (.inr ⟨ho, he, hk, by simpa using hr, rfl⟩)))
  · next hn => exact (hn _ h).elim

/-- A step stops with a fault only where an engine has written where the memory map places nothing, or where the step it takes
does. -/
theorem stopOnBad_fault {o : Out} {f : Fault} (h : stopOnBad o = .fault f) :
    (∃ s, o = .next s ∧ s.badAccess = true ∧ f = .reservedAddress) ∨ o = .fault f := by
  unfold stopOnBad at h
  split at h
  · next s =>
    split at h
    · next hb => cases h; exact .inl ⟨s, rfl, hb, rfl⟩
    · cases h
  · exact .inr h

/-- What the next cycle starts from. -/
@[simp] theorem tick_mem (s : State) : s.tick.mem = s.settle.mem := rfl
@[simp] theorem tick_now (s : State) : s.tick.now = s.settle.now + 1 := rfl
@[simp] theorem tick_order (s : State) : s.tick.order = s.settle.order := rfl
@[simp] theorem tick_ran (s : State) : s.tick.ran = false := rfl
@[simp] theorem tick_agenda (s : State) :
    s.tick.agenda = s.settle.agenda ++ (s.settle.timers.filter fun t => decide (t.1 ≤ s.settle.now + 1)).map (·.2) := rfl

/-- What placing a slot word leaves alone. -/
theorem withFetchWord_mem (s : State) (nbits w : Nat) : (s.withFetchWord nbits w).mem = s.mem := by
  unfold State.withFetchWord; split <;> rfl

end Sys2Proof.Machine
end

