-- ==== Sys2Proof/Tests/Slice0.lean ====
section
/-!
SUPPORT. Tests of single operations against the spec's worked examples and encodings, the checks of WellFormed, and for each
statement states and operands that meet its hypotheses.
-/
namespace Sys2Proof.Tests

open Sys2Proof Sys2Proof.Machine Sys2Proof.Claims

set_option Elab.async false

/-! ### Words, from the encodings of R45, R63 to R67 and R316: one for every constructor that has a word -/

theorem test_decode_slots_1 :
    decodeTableWord 32 0x00000000 = some .nop ∧
    decodeTableWord 32 0x00000001 = some .halt ∧
    decodeTableWord 32 0x00000002 = some .yield ∧
    decodeTableWord 32 0x00000203 = some (.prio 2) ∧
    decodeTableWord 32 0x000C0004 = some (.jmpi 48) ∧
    decodeTableWord 32 0x00024005 = some (.calli 9) ∧
    decodeTableWord 32 0x00000006 = some .ret ∧
    decodeTableWord 32 0x00000B08 = some (.trap 11) ∧
    decodeTableWord 32 0x00000009 = some .eret ∧
    decodeTableWord 32 0x0000340A = some (.brk 52) := by decide

theorem test_decode_slots_2 :
    decodeTableWord 32 0x0000000B = some .ctxQuiesce ∧
    decodeTableWord 32 0x0120030C = some (.evlogRd 18 3) ∧
    decodeTableWord 32 0x0000000D = some .evlogClr ∧
    decodeTableWord 32 0x03892410 = some (.fset 57929) ∧
    decodeTableWord 32 0x006B9411 = some (.fclr 6885) ∧
    decodeTableWord 32 0x02611712 = some (.fwait 38981 1 1) ∧
    decodeTableWord 32 0x05DD9C18 = some (.jmp 31300632) ∧
    decodeTableWord 32 0x0910F61F = some (.call 17888799) ∧
    decodeTableWord 32 0x0EB1467F = some (.brC 10 1 1132159) ∧
    decodeTableWord 32 0x13319BFF = some (.brTree 51 6 27 63 3) := by decide

theorem test_decode_slots_3 :
    decodeTableWord 32 0x1531D100 = some (.add 19 7 17) ∧
    decodeTableWord 32 0x16BA9D01 = some (.sub 43 42 29) ∧
    decodeTableWord 32 0x15D0BA02 = some (.mul 29 2 58) ∧
    decodeTableWord 32 0x144EF703 = some (.mulh 4 59 55) ∧
    decodeTableWord 32 0x1730C804 = some (.mulhn 51 3 8) ∧
    decodeTableWord 32 0x16B0D005 = some (.div 43 3 16) ∧
    decodeTableWord 32 0x179EFB06 = some (.divn 57 59 59) ∧
    decodeTableWord 32 0x16FACF07 = some (.rem 47 43 15) ∧
    decodeTableWord 32 0x147B7308 = some (.remn 7 45 51) ∧
    decodeTableWord 32 0x14266609 = some (.and 2 25 38) := by decide

theorem test_decode_slots_4 :
    decodeTableWord 32 0x17E4E90A = some (.or 62 19 41) ∧
    decodeTableWord 32 0x1487940B = some (.xor 8 30 20) ∧
    decodeTableWord 32 0x17540D0C = some (.andn 53 16 13) ∧
    decodeTableWord 32 0x14F6130D = some (.shl 15 24 19) ∧
    decodeTableWord 32 0x17EC8A0E = some (.shr 62 50 10) ∧
    decodeTableWord 32 0x1427DF0F = some (.sra 2 31 31) ∧
    decodeTableWord 32 0x144D0210 = some (.rotl 4 52 2) ∧
    decodeTableWord 32 0x15F7DD11 = some (.min 31 31 29) ∧
    decodeTableWord 32 0x14FCEA12 = some (.max 15 51 42) ∧
    decodeTableWord 32 0x173C1713 = some (.minn 51 48 23) := by decide

theorem test_decode_slots_5 :
    decodeTableWord 32 0x1696BD14 = some (.maxn 41 26 61) ∧
    decodeTableWord 32 0x15964015 = some (.clz 25 25) ∧
    decodeTableWord 32 0x146CC016 = some (.ctz 6 51) ∧
    decodeTableWord 32 0x16BB0017 = some (.popc 43 44) ∧
    decodeTableWord 32 0x15910018 = some (.mov 25 4) ∧
    decodeTableWord 32 0x16600619 = some (.cset 38 6) ∧
    decodeTableWord 32 0x155435F9 = some (.sel 21 16 53 9) ∧
    decodeTableWord 32 0x18D0C043 = some (.addi 13 3 67) ∧
    decodeTableWord 32 0x1C590FA5 = some (.andi 5 36 4005) ∧
    decodeTableWord 32 0x1CFE1B81 = some (.ori 15 56 2945) := by decide

theorem test_decode_slots_6 :
    decodeTableWord 32 0x1CB12A10 = some (.xori 11 4 2576) ∧
    decodeTableWord 32 0x2215C268 = some (.cmp 8 5 7 2 26) ∧
    decodeTableWord 32 0x253D47FC = some (.cmpi 4 15 5 7 252) ∧
    decodeTableWord 32 0x2A65ECD8 = some (.li 38 388312) ∧
    decodeTableWord 32 0x2EECF453 = some (.lih 46 3 62547) ∧
    decodeTableWord 32 0x30F4502C = some (.extr 15 17 16 11) ∧
    decodeTableWord 32 0x3303DD81 = some (.extrs 48 15 29 32) ∧
    decodeTableWord 32 0x3149C82A = some (.ins 20 39 8 10) ∧
    decodeTableWord 32 0x3075A5C7 = some (.fsh 7 22 37 49) ∧
    decodeTableWord 32 0x341F8D00 = some (.csrRd 1 3981) := by decide

theorem test_decode_slots_7 :
    decodeTableWord 32 0x36809601 = some (.csrWr 40 150) ∧
    decodeTableWord 32 0x39539FC2 = some (.setbLabel 1 5480386) ∧
    decodeTableWord 32 0x3AD00000 = some (.setbReg 2 40) ∧
    decodeTableWord 32 0xE30DC700 = some (.syncHeader 50033 1 1) ∧
    decodeTableWord 32 0xE5186A3A = some (.lendHeader 140 106 58) ∧
    decodeTableWord 32 0xEAA6213C = some (.treeHeader 10 9 8 8 9 28) ∧
    decodeTableWord 32 0x43DD9628 = some (.vadd 30 29 18 6 5) ∧
    decodeTableWord 32 0x40A99541 = some (.vsub 5 9 18 5 8) ∧
    decodeTableWord 32 0x42035F4A = some (.vmul 16 3 11 7 9) ∧
    decodeTableWord 32 0x4039AB0B = some (.vmin 1 25 21 3 1) := by decide

theorem test_decode_slots_8 :
    decodeTableWord 32 0x42F15B54 = some (.vmax 23 17 11 3 10) ∧
    decodeTableWord 32 0x42DD0155 = some (.vabs 22 29 1 10) ∧
    decodeTableWord 32 0x4187062E = some (.vneg 12 7 6 5) ∧
    decodeTableWord 32 0x475B3348 = some (.vfma 26 27 6 3 9) ∧
    decodeTableWord 32 0x44549959 = some (.vfms 2 20 19 1 11) ∧
    decodeTableWord 32 0x46FD4352 = some (.vfnma 23 29 8 3 10) ∧
    decodeTableWord 32 0x4AAD0240 = some (.vrcp 21 13 2 8) ∧
    decodeTableWord 32 0x48FA0559 = some (.vrsqrt 7 26 5 11) ∧
    decodeTableWord 32 0x4B870442 = some (.vsqrt 28 7 4 8) ∧
    decodeTableWord 32 0x4907065B = some (.vexp2 8 7 6 11) := by decide

theorem test_decode_slots_9 :
    decodeTableWord 32 0x4B6C0344 = some (.vlog2 27 12 3 8) ∧
    decodeTableWord 32 0x4C2AB108 = some (.vand 1 10 22 1 1) ∧
    decodeTableWord 32 0x4F6DBA31 = some (.vor 27 13 23 2 6) ∧
    decodeTableWord 32 0x4E847532 = some (.vxor 20 4 14 5 6) ∧
    decodeTableWord 32 0x4D446E2B = some (.vandn 10 4 13 6 5) ∧
    decodeTableWord 32 0x4F3AE23C = some (.vshl 25 26 28 2 7) ∧
    decodeTableWord 32 0x4D7A9C35 = some (.vshr 11 26 19 4 6) ∧
    decodeTableWord 32 0x4F304B2E = some (.vsra 25 16 9 3 5) ∧
    decodeTableWord 32 0x4E730237 = some (.vpopc 19 19 2 6) ∧
    decodeTableWord 32 0x51297D12 = some (.vcmp 2 5 5 30 4 9) := by decide

theorem test_decode_slots_10 :
    decodeTableWord 32 0x566D9A50 = some (.vsel 19 13 19 2 10) ∧
    decodeTableWord 32 0x57A70629 = some (.vmov 29 7 6 5) ∧
    decodeTableWord 32 0x57560332 = some (.vbcast 26 44 3 6) ∧
    decodeTableWord 32 0x5928FF58 = some (.vperm 9 8 31 7 11) ∧
    decodeTableWord 32 0x5B610251 = some (.vredAdd 27 1 2 10) ∧
    decodeTableWord 32 0x5947022A = some (.vredMax 10 7 2 5) ∧
    decodeTableWord 32 0x5833062B = some (.vscanAdd 1 19 6 5) ∧
    decodeTableWord 32 0x5EAA0000 = some (.kand 5 2 5) ∧
    decodeTableWord 32 0x5EAC0001 = some (.kor 5 2 6) ∧
    decodeTableWord 32 0x5CD60002 = some (.kxor 1 5 3) := by decide

theorem test_decode_slots_11 :
    decodeTableWord 32 0x5D900003 = some (.knot 3 1) ∧
    decodeTableWord 32 0x5CA00004 = some (.kmovKk 1 2) ∧
    decodeTableWord 32 0x5D004805 = some (.kmovKs 2 9) ∧
    decodeTableWord 32 0x5C31D806 = some (.kmovSk 3 59) ∧
    decodeTableWord 32 0x61652F50 = some (.vcvt 11 5 5 7 10) ∧
    decodeTableWord 32 0x60F64229 = some (.vcvtSr 7 22 8 2 5) ∧
    decodeTableWord 32 0x61620642 = some (.vclass 11 2 6 8) ∧
    decodeTableWord 32 0x640D0230 = some (.vbmax 13 2 6) ∧
    decodeTableWord 32 0x66925589 = some (.vquant 20 18 10 5 17) ∧
    decodeTableWord 32 0x651FD772 = some (.vdeq 8 31 26 7 14) := by decide

theorem test_decode_slots_12 :
    decodeTableWord 32 0x65929F53 = some (.vpack 12 18 19 7 10) ∧
    decodeTableWord 32 0x64750744 = some (.vunpack 3 21 7 8) ∧
    decodeTableWord 32 0x6B481508 = some (.vextr 26 8 2 5 1) ∧
    decodeTableWord 32 0x6CA00558 = some (.vrng 5 5 11) ∧
    decodeTableWord 32 0x81486A40 = some (.mma 1 9 1 42 8) ∧
    decodeTableWord 32 0x815A5649 = some (.mmaZ 1 11 9 22 9) ∧
    decodeTableWord 32 0x82849442 = some (.mmaSp 2 16 18 20 8) ∧
    decodeTableWord 32 0x85640058 = some (.mpack 11 8 11) ∧
    decodeTableWord 32 0x8A700080 = some (.mdrain 2 28 16) ∧
    decodeTableWord 32 0x8B000071 = some (.mdrainByp 3 14) := by decide

theorem test_decode_slots_13 :
    decodeTableWord 32 0x8AD40052 = some (.mdrainAcc 2 53 10) ∧
    decodeTableWord 32 0x8B000003 = some (.mzero 3) ∧
    decodeTableWord 32 0x89B40090 = some (.mdrainA80 1 45) ∧
    decodeTableWord 32 0x89E40093 = some (.mzeroA80 1 57) ∧
    decodeTableWord 32 0x8C900008 = some (.mtrPut 9 1) ∧
    decodeTableWord 32 0x8E500029 = some (.mtrGet 37 5) ∧
    decodeTableWord 32 0xA21C52A8 = some (.ld 33 49 298 4) ∧
    decodeTableWord 32 0xA2FD6757 = some (.st 47 53 629 3) ∧
    decodeTableWord 32 0xA5EAC4B0 = some (.vld 15 43 75) ∧
    decodeTableWord 32 0xA689C861 = some (.vst 20 39 134) := by decide

theorem test_decode_slots_14 :
    decodeTableWord 32 0xA56D4002 = some (.bankRole 11 13 1) ∧
    decodeTableWord 32 0xA5B20003 = some (.bankFlush 13 18) ∧
    decodeTableWord 32 0xA88E5DD8 = some (.ldg 8 57 477 4) ∧
    decodeTableWord 32 0xA8335C13 = some (.stg 3 13 449 1) ∧
    decodeTableWord 32 0xAEE4B390 = some (.vldg 23 18 825) ∧
    decodeTableWord 32 0xAE2BD451 = some (.vstg 17 47 325) ∧
    decodeTableWord 32 0xAC2FCAF2 = some (.pref 1 63 175) ∧
    decodeTableWord 32 0xAC1723E3 = some (.vldcb 1 28 574) ∧
    decodeTableWord 32 0xB0BD37BC = some (.vldFmt 5 7 19 30 60) ∧
    decodeTableWord 32 0xB478F5DC = some (.vstFmt 3 6 15 23 3 1) := by decide

theorem test_decode_slots_15 :
    decodeTableWord 32 0xBAED57AF = some (.vgather 23 26 21 7 47) ∧
    decodeTableWord 32 0xBBC30E40 = some (.vscatter 30 6 3 4) ∧
    decodeTableWord 32 0xBCB36E40 = some (.ldAcq 11 13 92 4) ∧
    decodeTableWord 32 0xBF178021 = some (.stRel 49 30 2) ∧
    decodeTableWord 32 0xBC000032 = some (.fenceAcq 3) ∧
    decodeTableWord 32 0xBC000053 = some (.fenceRel 5) ∧
    decodeTableWord 32 0xBC000044 = some (.fenceFull 4) ∧
    decodeTableWord 32 0xC6C6FAF0 = some (.amoAdd 1 44 27 943) ∧
    decodeTableWord 32 0xC6010AA1 = some (.amoAnd 1 32 4 170) ∧
    decodeTableWord 32 0xC7C86E32 = some (.amoOr 1 60 33 739) := by decide

theorem test_decode_slots_16 :
    decodeTableWord 32 0xC493DED3 = some (.amoXor 1 9 15 493) ∧
    decodeTableWord 32 0xC62CBC84 = some (.amoMinSigned 1 34 50 968) ∧
    decodeTableWord 32 0xC6F3CA95 = some (.amoMaxSigned 1 47 15 169) ∧
    decodeTableWord 32 0xC7449D96 = some (.amoXchg 1 52 18 473) ∧
    decodeTableWord 32 0xC6A08A87 = some (.amoCas 1 42 2 168) ∧
    decodeTableWord 32 0xC5D68308 = some (.amoFadd 1 29 26 48) ∧
    decodeTableWord 32 0xC632A4C9 = some (.amoFmin 1 35 10 588) ∧
    decodeTableWord 32 0xC77D366A = some (.amoFmax 1 55 52 870) ∧
    decodeTableWord 32 0xC69112EB = some (.amoMinUnsigned 1 41 4 302) ∧
    decodeTableWord 32 0xC45F04BC = some (.amoMaxUnsigned 1 5 60 75) := by decide

theorem test_decode_slots_17 :
    decodeTableWord 32 0xC8046000 = some (.sig 17 8) ∧
    decodeTableWord 32 0xCAA48001 = some (.barInit 42 18) ∧
    decodeTableWord 32 0xC800C002 = some (.barArrive 3) ∧
    decodeTableWord 32 0xC80C4003 = some (.barWait 49) ∧
    decodeTableWord 32 0xCB562C04 = some (.waitw 53 24 11) ∧
    decodeTableWord 32 0xCBC48005 = some (.roundWait 60 18) ∧
    decodeTableWord 32 0xC85C0006 = some (.roundPin 5 48) ∧
    decodeTableWord 32 0xCB6509E7 = some (.ntile 54 20 158) ∧
    decodeTableWord 32 0xC8FC73C8 = some (.basinQ 15 49 828) ∧
    decodeTableWord 32 0xCF640000 = some (.ringDef 54 2) := by decide

theorem test_decode_slots_18 :
    decodeTableWord 32 0xCC080001 = some (.ringPut 4) ∧
    decodeTableWord 32 0xCC0A0002 = some (.ringTake 5) ∧
    decodeTableWord 32 0xCFB76003 = some (.ringPtr 59 3 11) ∧
    decodeTableWord 32 0xCC8D2004 = some (.aguSet 8 6 9) ∧
    decodeTableWord 32 0xD0A7CF38 = some (.ringLd 10 3 14 243 4) ∧
    decodeTableWord 32 0xD14271B5 = some (.ringSt 20 1 3 283 2) ∧
    decodeTableWord 32 0xD608AFD0 = some (.ringVld 16 4 5 253) ∧
    decodeTableWord 32 0xD5A6B141 = some (.ringVst 13 3 5 276) ∧
    decodeTableWord 32 0xDADBA2CE = some (.accw 22 55 1113 1 1) ∧
    decodeTableWord 32 0xDACD3E49 = some (.rsscat 22 26 15 4 9) := by decide

theorem test_decode_slots_19 :
    decodeTableWord 32 0xDD78F326 = some (.rsld 11 49 28 6 4 6) := by decide

theorem test_decode_delta_1 :
    decodeTableWord 64 0x013C0F003D7C0000 = some (.dadd 15 ⟨0, 15, 0, 0, 3, 1, 5, 0, 3, 14⟩) ∧
    decodeTableWord 64 0x021946483FBE0000 = some (.dsub 6 ⟨10, 6, 9, 0, 3, 1, 7, 1, 1, 15⟩) ∧
    decodeTableWord 64 0x03C5EEE03D460000 = some (.dmul 49 ⟨15, 14, 28, 0, 3, 1, 5, 0, 2, 3⟩) ∧
    decodeTableWord 64 0x041C12AE774A0000 = some (.dfma 7 ⟨0, 18, 21, 25, 3, 0, 7, 0, 2, 5⟩) ∧
    decodeTableWord 64 0x0577867039200000 = some (.dmin 29 ⟨28, 6, 14, 0, 3, 1, 1, 0, 1, 0⟩) ∧
    decodeTableWord 64 0x06383A00072A0000 = some (.dmax 14 ⟨1, 26, 0, 0, 0, 0, 7, 0, 1, 5⟩) ∧
    decodeTableWord 64 0x071FB700180A0000 = some (.dabs 7 ⟨29, 23, 0, 0, 1, 1, 0, 0, 0, 5⟩) ∧
    decodeTableWord 64 0x087DC50008020000 = some (.dneg 31 ⟨14, 5, 0, 0, 0, 1, 0, 0, 0, 1⟩) ∧
    decodeTableWord 64 0x09241B001A500000 = some (.drcp 9 ⟨0, 27, 0, 0, 1, 1, 2, 0, 2, 8⟩) ∧
    decodeTableWord 64 0x0AED6000179E0000 = some (.drsqrt 59 ⟨11, 0, 0, 0, 1, 0, 7, 1, 0, 15⟩) := by decide

theorem test_decode_delta_2 :
    decodeTableWord 64 0x0BD0140012C00000 = some (.dsqrt 52 ⟨0, 20, 0, 0, 1, 0, 2, 1, 2, 0⟩) ∧
    decodeTableWord 64 0x0C02216827220000 = some (.dsel 0 ⟨17, 1, 13, 0, 2, 0, 7, 0, 1, 1⟩) ∧
    decodeTableWord 64 0x0DD61572A8000000 = some (.dcmp 53 2 21 14 5 2 1) ∧
    decodeTableWord 64 0x0E009E7802420000 = some (.dcvtTo 0 4 30 15 2 0 2 1) ∧
    decodeTableWord 64 0x0E4FA65400460000 = some (.dcvtFrom 19 29 6 10 0 0 2 3) ∧
    decodeTableWord 64 0x0F25C000301E0000 = some (.drng 9 ⟨14, 0, 0, 0, 3, 0, 0, 0, 0, 15⟩) ∧
    decodeTableWord 64 0x1094910002E00000 = some (.dsum 37 ⟨4, 17, 0, 0, 0, 0, 2, 1, 3, 0⟩) ∧
    decodeTableWord 64 0x11A45B0018800000 = some (.dsq 41 ⟨2, 27, 0, 0, 1, 1, 0, 1, 0, 0⟩) ∧
    decodeTableWord 64 0x1202E00004180000 = some (.dbcast 0 ⟨23, 0, 0, 0, 0, 0, 4, 0, 0, 12⟩) ∧
    decodeTableWord 64 0x209C948000000000 = some (.eadd 39 2 5 2 0 0) := by decide

theorem test_decode_delta_3 :
    decodeTableWord 64 0x21631426E48C1320 = some (.emul 24 12 5 0 1 925130905) ∧
    decodeTableWord 64 0x22E0C051EDF08153 = some (.eli 56 3 351884312915) ∧
    decodeTableWord 64 0x23714D0000001B64 = some (.ebr 28 5 3 4 7012) ∧
    decodeTableWord 64 0x245C00000000147C = some (.ejmp 23 5244) ∧
    decodeTableWord 64 0x2543C00000001C5B = some (.eloop 16 15 7259) ∧
    decodeTableWord 64 0x2633E00000000000 = some (.eld 12 15 8) ∧
    decodeTableWord 64 0x3068BA6800000000 = some (.dld 26 5 13 3 2) ∧
    decodeTableWord 64 0x31CE7EAC00000000 = some (.dldb 51 19 15 5 3) ∧
    decodeTableWord 64 0x3227EEEC00000000 = some (.dst 9 31 7 7 3) ∧
    decodeTableWord 64 0x336C000000000000 = some (.dwait 27) := by decide

theorem test_decode_delta_4 :
    decodeTableWord 64 0x33127F4300000000 = some (.dwaitExt 4 32579) ∧
    decodeTableWord 64 0x345813C800000000 = some (.dlock 22 9 14 2) ∧
    decodeTableWord 64 0x3534124800000000 = some (.dunlock 13 9 2 2) ∧
    decodeTableWord 64 0x403D080000000000 = some (.dpub 15 4 2) ∧
    decodeTableWord 64 0x4157932C00000000 = some (.dpush 21 28 9 9 3) ∧
    decodeTableWord 64 0x41E163AE00000000 = some (.dpushAcc 56 11 1 13 3) ∧
    decodeTableWord 64 0x42614F6000000000 = some (.dsig 24 10 7 11) ∧
    decodeTableWord 64 0x42AA316000000000 = some (.dsigSt 42 1 8 11) ∧
    decodeTableWord 64 0x43C8000000000000 = some (.dhalt 50) := by decide

/-! ### The words that the spec's examples write out -/

theorem test_example_words_0 :
    decodeTableWord 32 0x14108300 = some (.add 1 2 3) ∧
    decodeTableWord 32 0x141083F3 = some (.sel 1 2 3 3) ∧
    decodeTableWord 32 0x14100319 = some (.cset 1 3) ∧
    decodeTableWord 32 0x14414605 = some (.div 4 5 6) ∧
    decodeTableWord 32 0x18927FFF = some (.addi 9 9 0x3fff) ∧
    decodeTableWord 32 0x1C515ABC = some (.ori 5 5 2748) ∧
    decodeTableWord 32 0x28300000 = some (.li 3 0) ∧
    decodeTableWord 32 0x2C5C0123 = some (.lih 5 3 291) ∧
    decodeTableWord 32 0x30108313 = some (.fsh 1 2 3 4) ∧
    decodeTableWord 32 0x3060441C = some (.extr 6 1 4 7) := by decide

theorem test_example_words_1 :
    decodeTableWord 32 0x3070441D = some (.extrs 7 1 4 7) ∧
    decodeTableWord 32 0x30807C0E = some (.ins 8 1 60 3) ∧
    decodeTableWord 32 0x20498310 = some (.cmp 1 2 6 3 4) ∧
    decodeTableWord 32 0x254007FD = some (.cmpi 5 0 0 7 253) ∧
    decodeTableWord 32 0x00028004 = some (.jmpi 10) ∧
    decodeTableWord 32 0x00028005 = some (.calli 10) ∧
    decodeTableWord 32 0x398A0000 = some (.setbReg 1 5) ∧
    decodeTableWord 32 0x0FC00005 = some (.brC 15 0 5) ∧
    decodeTableWord 32 0x07FFFFFC = some (.jmp 0x3fffffc) ∧
    decodeTableWord 32 0x00000508 = some (.trap 5) := by decide

theorem test_example_words_2 :
    decodeTableWord 32 0x0000010A = some (.brk 1) ∧
    decodeTableWord 32 0x0050030C = some (.evlogRd 5 3) ∧
    decodeTableWord 32 0x00002810 = some (.fset 10) ∧
    decodeTableWord 32 0x00001011 = some (.fclr 4) ∧
    decodeTableWord 32 0x00008712 = some (.fwait 33 1 1) ∧
    decodeTableWord 32 0x54850031 = some (.vmov 4 5 0 6) ∧
    decodeTableWord 32 0x54853330 = some (.vsel 4 5 6 3 6) ∧
    decodeTableWord 32 0x5506004A = some (.vbcast 8 12 0 9) ∧
    decodeTableWord 32 0x58E84830 = some (.vperm 7 8 9 0 6) ∧
    decodeTableWord 32 0x58010149 = some (.vredAdd 0 1 1 9) := by decide

theorem test_example_words_3 :
    decodeTableWord 32 0x5841014B = some (.vscanAdd 2 1 1 9) ∧
    decodeTableWord 32 0x50908612 = some (.vcmp 1 2 2 3 0 9) ∧
    decodeTableWord 32 0x40A63A14 = some (.vmax 5 6 7 2 2) ∧
    decodeTableWord 32 0x44611048 = some (.vfma 3 1 2 0 9) ∧
    decodeTableWord 32 0x49290049 = some (.vrsqrt 9 9 0 9) ∧
    decodeTableWord 32 0x4C221814 = some (.vshl 1 2 3 0 2) ∧
    decodeTableWord 32 0x5D940000 = some (.kand 3 1 2) ∧
    decodeTableWord 32 0x5E100003 = some (.knot 4 1) ∧
    decodeTableWord 32 0x5F003805 = some (.kmovKs 6 7) ∧
    decodeTableWord 32 0x5C104806 = some (.kmovSk 1 9) := by decide

theorem test_example_words_4 :
    decodeTableWord 32 0x105F6001 = some (.brTree 5 61 32 0 1) ∧
    decodeTableWord 32 0xC8C50407 = some (.ntile 12 20 64) ∧
    decodeTableWord 32 0x81850050 = some (.mma 1 16 20 0 10) ∧
    decodeTableWord 32 0x81850651 = some (.mmaZ 1 16 20 6 10) ∧
    decodeTableWord 32 0x828E0062 = some (.mmaSp 2 17 24 0 12) ∧
    decodeTableWord 32 0x86040050 = some (.mpack 16 8 10) ∧
    decodeTableWord 32 0x89240048 = some (.mdrain 1 9 9) ∧
    decodeTableWord 32 0x89000051 = some (.mdrainByp 1 10) ∧
    decodeTableWord 32 0x8928004A = some (.mdrainAcc 1 10 9) ∧
    decodeTableWord 32 0x88B00090 = some (.mdrainA80 0 44) := by decide

theorem test_example_words_5 :
    decodeTableWord 32 0x88C40093 = some (.mzeroA80 0 49) ∧
    decodeTableWord 32 0x8CC00050 = some (.mtrPut 12 10) ∧
    decodeTableWord 32 0x8CD00051 = some (.mtrGet 13 10) ∧
    decodeTableWord 32 0xA871428C = some (.ldg 7 5 40 6) ∧
    decodeTableWord 32 0xA8718027 = some (.stg 7 6 2 3) ∧
    decodeTableWord 32 0xA9550007 = some (.stg 21 20 0 3) ∧
    decodeTableWord 32 0xA051802C = some (.ld 5 6 2 6) ∧
    decodeTableWord 32 0xA4618001 = some (.vst 3 6 0) ∧
    decodeTableWord 32 0xA4400002 = some (.bankRole 2 0 0) ∧
    decodeTableWord 32 0xAC414010 = some (.vldg 2 5 1) := by decide

theorem test_example_words_6 :
    decodeTableWord 32 0xB883248C = some (.vgather 4 6 9 1 12) ∧
    decodeTableWord 32 0xB02010C8 = some (.vldFmt 1 0 1 3 8) ∧
    decodeTableWord 32 0x68854018 = some (.vextr 4 5 8 0 3) ∧
    decodeTableWord 32 0xBC518A40 = some (.ldAcq 5 6 20 4) ∧
    decodeTableWord 32 0xBC000054 = some (.fenceFull 5) ∧
    decodeTableWord 32 0xC8018C00 = some (.sig 6 3) ∧
    decodeTableWord 32 0xC8920001 = some (.barInit 9 8) ∧
    decodeTableWord 32 0xC8B28C04 = some (.waitw 11 10 3) ∧
    decodeTableWord 32 0xC8940004 = some (.waitw 9 16 0) ∧
    decodeTableWord 32 0xC85183C8 = some (.basinQ 5 6 60) := by decide

theorem test_example_words_7 :
    decodeTableWord 32 0xC8518006 = some (.roundPin 5 6) ∧
    decodeTableWord 32 0xC8908005 = some (.roundWait 9 2) ∧
    decodeTableWord 32 0xCD000004 = some (.aguSet 16 0 0) ∧
    decodeTableWord 32 0xCD420000 = some (.ringDef 20 1) ∧
    decodeTableWord 32 0xCC020001 = some (.ringPut 1) ∧
    decodeTableWord 32 0xCC020002 = some (.ringTake 1) ∧
    decodeTableWord 32 0xCC522003 = some (.ringPtr 5 1 1) ∧
    decodeTableWord 32 0xD0742104 = some (.ringLd 7 2 1 16 2) ∧
    decodeTableWord 32 0xD0800017 = some (.ringSt 8 0 0 1 3) ∧
    decodeTableWord 32 0xD4624020 = some (.ringVld 3 1 2 2) := by decide

theorem test_example_words_8 :
    decodeTableWord 32 0xD8650000 = some (.accw 3 10 0 0 0) ∧
    decodeTableWord 32 0xD8850016 = some (.accw 4 10 2 1 1) ∧
    decodeTableWord 32 0xD98A0081 = some (.rsscat 12 20 0 1 0) ∧
    decodeTableWord 32 0xDD0A000D = some (.rsld 8 20 0 0 1 5) ∧
    decodeTableWord 32 0xC48241E0 = some (.amoAdd 1 8 9 30) ∧
    decodeTableWord 32 0x40611048 = some (.vadd 3 1 2 0 9) ∧
    decodeTableWord 32 0x60A65048 = some (.vcvt 5 6 10 0 9) ∧
    decodeTableWord 32 0x65415871 = some (.vquant 10 1 11 0 14) ∧
    decodeTableWord 32 0x6D800030 = some (.vrng 12 0 6) ∧
    decodeTableWord 32 0x34501000 = some (.csrRd 5 16) := by decide

theorem test_example_words_9 :
    decodeTableWord 32 0x34501001 = some (.csrWrFpctl 5) ∧
    decodeTableWord 64 0x0101000807000000 = some (.dadd 0 { dd := 8, da := 0, db := 1, dc := 0, q := 0, qn := 0, rnd := 7, sat := 0, m := 0, ei := 0 }) ∧
    decodeTableWord 64 0x0105884807000000 = some (.dadd 1 { dd := 12, da := 8, db := 9, dc := 0, q := 0, qn := 0, rnd := 7, sat := 0, m := 0, ei := 0 }) ∧
    decodeTableWord 64 0x3000026000000000 = some (.dld 0 0 1 3 0) ∧
    decodeTableWord 64 0x320DC86000000000 = some (.dst 3 14 4 3 0) ∧
    decodeTableWord 64 0x3300000000000000 = some (.dwait 0) ∧
    decodeTableWord 64 0x2002048000000000 = some (.eadd 0 8 1 2 0 0) ∧
    decodeTableWord 64 0x4202AC0000000000 = some (.dsigSt 0 5 6 0) ∧
    decodeTableWord 64 0x2602540000000000 = some (.eld 0 9 5) ∧
    decodeTableWord 64 0x1202800007120000 = some (.dbcast 0 { dd := 20, da := 0, db := 0, dc := 0, q := 0, qn := 0, rnd := 7, sat := 0, m := 0, ei := 9 }) := by decide

theorem test_example_words_10 :
    decodeTableWord 64 0x4300000000000000 = some (.dhalt 0) := by decide


/-! ### Ill-formed terms, one for each check -/

theorem test_ill_formed_masks : (Instr.fset 0).wf = false ∧ (Instr.fclr 0).wf = false ∧ (Instr.fwait 0 0 0).wf = false ∧
    (Instr.syncHeader 0 0 0).wf = false := by decide

theorem test_ill_formed_scalar : (Instr.cmp 1 2 12 3 4).wf = false ∧ (Instr.cmp 1 1 0 3 4).wf = false ∧
    (Instr.cmpi 1 1 0 3 4).wf = false ∧ (Instr.cmpi 1 2 13 3 4).wf = false ∧ (Instr.extr 1 2 60 4).wf = false ∧
    (Instr.extrs 1 2 1 63).wf = false ∧ (Instr.ins 1 2 32 32).wf = false ∧ (Instr.csrWr 1 0x010).wf = false ∧
    (Instr.csrWr 1 0x003).wf = false ∧ (Instr.csrWr 1 0x015).wf = false ∧ (Instr.csrWr 1 0x016).wf = false := by decide

theorem test_ill_formed_types : (Instr.vadd 1 2 3 0 12).wf = false ∧ (Instr.vrcp 1 2 0 7).wf = false ∧
    (Instr.vand 1 2 3 0 8).wf = false ∧ (Instr.vcmp 1 6 2 3 0 9).wf = false ∧ (Instr.vcmp 1 12 2 3 0 2).wf = false ∧
    (Instr.vcvt 1 2 14 0 9).wf = false ∧ (Instr.vcvtSr 1 2 9 0 14).wf = false ∧ (Instr.vclass 1 2 0 7).wf = false ∧
    (Instr.vbmax 1 0 9).wf = false ∧ (Instr.vquant 1 2 3 0 13).wf = false ∧ (Instr.vdeq 1 2 3 0 18).wf = false ∧
    (Instr.vpack 1 2 3 0 14).wf = false ∧ (Instr.vextr 1 2 16 0 16).wf = false ∧ (Instr.vrng 1 0 3).wf = false := by decide

theorem test_ill_formed_matrix : (Instr.mma 1 2 3 0 7).wf = false ∧ (Instr.mma 1 2 0 0 10).wf = false ∧
    (Instr.mma 1 2 3 9 10).wf = false ∧ (Instr.mmaZ 1 2 3 25 9).wf = false ∧ (Instr.mmaSp 1 0 3 0 10).wf = false ∧
    (Instr.mmaSp 1 2 29 0 10).wf = false ∧ (Instr.mpack 0 1 10).wf = false ∧ (Instr.mdrain 1 2 18).wf = false ∧
    (Instr.mdrainByp 1 7).wf = false ∧ (Instr.mdrainAcc 1 2 8).wf = false ∧ (Instr.mtrPut 1 8).wf = false ∧
    (Instr.mtrGet 1 0).wf = false := by decide

theorem test_ill_formed_memory : (Instr.ld 1 2 0 7).wf = false ∧ (Instr.st 1 2 0 4).wf = false ∧
    (Instr.bankRole 31 1 0).wf = false ∧ (Instr.bankRole 1 0 3).wf = false ∧ (Instr.bankFlush 16 16).wf = false ∧
    (Instr.ldg 1 2 0 0).wf = false ∧ (Instr.ldg 1 2 8 7).wf = false ∧ (Instr.stg 1 2 0 5).wf = false ∧
    (Instr.vldg 1 2 0).wf = false ∧ (Instr.pref 2 1 0).wf = false ∧ (Instr.vldcb 0 1 0).wf = false ∧
    (Instr.vstFmt 1 0 1 1 5 0).wf = false ∧ (Instr.vstFmt 1 0 1 1 6 0).wf = false ∧ (Instr.ringLd 1 0 0 0 7).wf = false ∧
    (Instr.ringSt 1 0 0 0 4).wf = false ∧ (Instr.aguSet 1 0 5).wf = false ∧ (Instr.aguSet 1 0 13).wf = false ∧
    (Instr.ringPtr 1 0 6).wf = false ∧ (Instr.ringPtr 1 0 7).wf = false := by decide

theorem test_ill_formed_ordering : (Instr.ldAcq 1 2 8 6).wf = false ∧ (Instr.stRel 1 2 6).wf = false ∧
    (Instr.fenceAcq 6).wf = false ∧ (Instr.fenceRel 7).wf = false ∧ (Instr.fenceFull 6).wf = false ∧
    (Instr.amoAdd 0 1 2 0).wf = false ∧ (Instr.amoCas 0 1 2 8).wf = false ∧ (Instr.waitw 1 2 12).wf = false ∧
    (Instr.ntile 1 2 0).wf = false ∧ (Instr.basinQ 1 2 0).wf = false := by decide

theorem test_ill_formed_delta : (Instr.dadd 0 ⟨1, 2, 3, 1, 0, 0, 0, 0, 0, 0⟩).wf = false ∧
    (Instr.dfma 0 ⟨1, 2, 3, 1, 0, 0, 6, 0, 0, 0⟩).wf = false ∧ (Instr.dmin 0 ⟨1, 2, 3, 0, 0, 0, 5, 0, 0, 0⟩).wf = false ∧
    (Instr.dabs 0 ⟨1, 2, 3, 0, 0, 0, 0, 0, 0, 0⟩).wf = false ∧ (Instr.dsel 0 ⟨1, 2, 3, 0, 0, 0, 0, 1, 0, 0⟩).wf = false ∧
    (Instr.dcmp 0 1 2 3 6 0 0).wf = false ∧ (Instr.dcvtTo 0 1 2 9 0 0 0 0).wf = false ∧
    (Instr.dcvtFrom 0 1 2 9 0 0 0 0).wf = false ∧ (Instr.drng 0 ⟨1, 2, 0, 0, 0, 0, 0, 0, 0, 0⟩).wf = false ∧
    (Instr.dsum 0 ⟨1, 2, 0, 0, 0, 0, 5, 0, 0, 0⟩).wf = false ∧ (Instr.dbcast 0 ⟨1, 0, 0, 0, 0, 0, 0, 0, 1, 0⟩).wf = false ∧
    (Instr.eadd 0 1 2 3 1 0).wf = false ∧ (Instr.emul 0 1 2 3 0 1).wf = false ∧ (Instr.ebr 0 1 2 10 0).wf = false ∧
    (Instr.dld 0 1 2 3 6).wf = false ∧ (Instr.dldb 0 1 2 3 1).wf = false ∧ (Instr.dst 0 1 2 3 7).wf = false ∧
    (Instr.dwaitExt 0 0).wf = false ∧ (Instr.dlock 0 1 2 6).wf = false ∧ (Instr.dpush 0 1 2 3 6).wf = false := by decide

/-! ### Words that no instruction has (R53, R63) -/

theorem test_reserved_words_refused : decodeTableWord 32 0x0000000F = none ∧ decodeTableWord 32 0xFC000000 = none ∧
    decodeTableWord 32 0x5094861A = none ∧ decodeTableWord 32 0x40611060 = none ∧
    decodeTableWord 64 0xFF00000000000000 = none ∧ decodeTableWord 64 0x0101000847000000 = none := by decide

/-! ### The spec's worked examples: number formats (R28 to R37), conversions, blocks -/

/-- R28's example: 1 + 2^-8 to BF16, and R29's to E4M3. -/
theorem test_rounding_examples :
    (bf16.round (fp32.decode 0x3F808000) .rne false 0).1 = 0x3F80 ∧ (bf16.round (fp32.decode 0x3F808000) .rtz false 0).1 = 0x3F80 ∧
    (bf16.round (fp32.decode 0x3F808000) .rdn false 0).1 = 0x3F80 ∧ (bf16.round (fp32.decode 0x3F808000) .rna false 0).1 = 0x3F81 ∧
    (bf16.round (fp32.decode 0x3F808000) .rup false 0).1 = 0x3F81 ∧
    (bf16.round (fp32.decode 0x3F808000) .sr false 0x9A3C1F07).1 = 0x3F81 ∧
    (bf16.round (fp32.decode 0x3F808000) .sr false 0x7FFFFFFF).1 = 0x3F80 ∧
    (e4m3.round (Val.ofInt 300) .rne false 0).1 = 0x79 ∧ e4m3.round (Val.ofInt 464) .rne false 0 = (0x7E, []) ∧
    (e4m3.round (Val.ofInt 500) .rne true 0).1 = 0x7E ∧ (e4m3.round (Val.ofInt 500) .rne false 0).1 = 0x7F := by decide

/-- R33's example: 3.0 and 0.1 in an mx8e4 block. -/
theorem test_mx_example : mxScale 14 [fp32.decode 0x40400000, fp32.decode 0x3DCCCCCD] = 0x78 ∧
    (mxElement 14 0x78 (fp32.decode 0x40400000) .rne false 0).1 = 0x7C ∧
    (mxElement 14 0x78 (fp32.decode 0x3DCCCCCD) .rne false 0).1 = 0x55 := by decide

/-- R35's examples: DB8 of 10.0, 0.3, -0.01 and 0.0, and DB4 of 6.0, 1.0, 0.05 and -0.2. -/
theorem test_duplex_examples :
    dbExps 6 [fp32.decode 0x41200000, fp32.decode 0x3E99999A, fp32.decode 0xBC23D70A, .zero false] = (0x78, 0x82) ∧
    dbElement 6 0x78 0x82 (fp32.decode 0x41200000) = (0x68, []) ∧ dbElement 6 0x78 0x82 (fp32.decode 0x3E99999A) = (0x41, []) ∧
    dbElement 6 0x78 0x82 (fp32.decode 0xBC23D70A) = (0xA9, []) ∧ dbElement 6 0x78 0x82 (.zero false) = (0x40, []) ∧
    dbExps 2 [fp32.decode 0x40C00000, fp32.decode 0x3F800000, fp32.decode 0x3D4CCCCD, fp32.decode 0xBE4CCCCD] = (127, 129) ∧
    (dbElement 2 127 129 (fp32.decode 0x40C00000)).1 = 7 ∧ (dbElement 2 127 129 (fp32.decode 0x3F800000)).1 = 2 ∧
    dbElement 2 127 129 (fp32.decode 0x3D4CCCCD) = (4, [.underflow]) ∧
    dbElement 2 127 129 (fp32.decode 0xBE4CCCCD) = (0xC, [.underflow]) := by decide +kernel

/-- R149's and R150's examples: 1000 to E4M3, and the second element of the `vcvt.sr`. -/
theorem test_conversion_examples : convertElem 12 6 .rne false 0 1000 = (0x7F, [.overflow, .nangen]) ∧
    (convertElem 10 9 .sr false 0x10000000 0x40490FDB).1 = 0x4049 := by decide

/-- R151's examples. -/
theorem test_class_examples : classOf fp32 0x7F800001 = 0 ∧ classOf fp32 1 = 7 := by decide

/-- R138's examples: the reciprocal of 2^-149 and 2^128 overflow. -/
theorem test_function_examples : (fp32.round (unaryVal 0 (fp32.decode 1)).1 .rne false 0).1 = 0x7F800000 ∧
    (fp32.round (unaryVal 3 (fp32.decode 0x43000000)).1 .rne false 0).1 = 0x7F800000 := by decide

/-! ### Addresses (R178, R179, R194) -/

/-- R179's example: one byte under its two names, its stack, bank, pseudo-channel and row. -/
theorem test_address_example : home 0x03456ABC = 0x017000345ABC ∧ stackOf 0x03456ABC = 7 ∧ rowOf 0x345ABC = 0 ∧ bankOf 0x345ABC = 52 ∧
    pchOf 0x345ABC = 22 := by decide

/-- R249's example: BF16 0x3FB5 as element (0, 0) of a packed bank. -/
theorem test_pack_example : packByte 10 (fun k => if k = 0 then 0xB5 else if k = 1 then 0x3F else 0) 0 % 2 = 0 ∧
    packByte 10 (fun k => if k = 0 then 0xB5 else if k = 1 then 0x3F else 0) 0x2000 = 0x7F ∧
    (List.range 8).map (fun q => packByte 10 (fun k => if k = 0 then 0xB5 else if k = 1 then 0x3F else 0) (0x80 + 128 * q) % 2) =
      [1, 0, 1, 1, 0, 1, 0, 1] := by decide

/-! ### Single operations, from the spec's worked examples -/

/-- Context 0 of core 0 in user mode with these registers, whose bundle is being tried. -/
def user (r : Regs) : State :=
  { (State.reset.setCtxAt 0 { placedCtx with r := r }).modCore 0 (fun _ => placedCore 0) with agenda := [] }

/-- The same in privileged mode. -/
def privileged (r : Regs) : State := (user r).modCtx fun c => { c with priv := true }

/-- What an operation queues. -/
def queued (o : Machine.Out) : List RegWrite := match o with
  | .next s => s.ctx.flow.pending.map (·.w)
  | _ => []

/-- The trap that an operation finds. -/
def trapOf (o : Machine.Out) : Option TrapRec := match o with
  | .next s => s.cur.trap
  | _ => none

/-- Positions 0, 1, 2 … of a vector register. -/
def vec (l : List Nat) : VWord := BitVec.ofNat 1024 (joinNat 32 l)

/-- R121's example. -/
theorem test_bit_fields :
    queued (exec (.fsh 1 2 3 4) (user { s := [(2, 0xA5), (3, 0xF000000000000000), (4, 60)] })) = [.s 1 0xA5F] ∧
    queued (exec (.extr 6 1 4 7) (user { s := [(1, 0xA5F)] })) = [.s 6 0xA5] ∧
    queued (exec (.extrs 7 1 4 7) (user { s := [(1, 0xA5F)] })) = [.s 7 0xFFFFFFFFFFFFFFA5] ∧
    queued (exec (.ins 8 1 60 3) (user { s := [(1, 0xA5F)] })) = [.s 8 0xF000000000000000] := by decide

/-- R117: quotients truncate toward zero; a zero divisor gives all ones, and the dividend as remainder. -/
theorem test_division :
    queued (exec (.div 4 5 6) (user { s := [(5, 0xFFFFFFFFFFFFFFF9), (6, 2)] })) = [.s 4 0xFFFFFFFFFFFFFFFD] ∧
    queued (exec (.rem 4 5 6) (user { s := [(5, 0xFFFFFFFFFFFFFFF9), (6, 2)] })) = [.s 4 0xFFFFFFFFFFFFFFFF] ∧
    queued (exec (.div 4 5 6) (user { s := [(5, 9)] })) = [.s 4 0xFFFFFFFFFFFFFFFF] ∧
    queued (exec (.remn 4 5 6) (user { s := [(5, 9)] })) = [.s 4 9] := by decide

/-- The registers of R144's example. -/
def sumRegs : Regs :=
  { v := [(1, vec [0x4B800000, 0x3F800000, 0x3F800000, 0x3F800000, 0x7F800001])], k := [(1, 0xF)] }

/-- R143 and R144's example: the pair tree of 2^24, 1, 1, 1. -/
theorem test_reduction :
    queued (exec (.vredAdd 0 1 1 9) (user sumRegs)) = [.v 0 0xFFFFFFFF (vec [0x4B800001])] := by decide +kernel

theorem test_scan :
    queued (exec (.vscanAdd 2 1 1 9) (user sumRegs)) = [.v 2 0xFFFFFFFF (vec ([0x4B800000, 0x4B800000, 0x4B800000] ++ List.replicate 29 0x4B800001))] := by
  decide +kernel

/-- R140's example: a mask bit of two 16-bit elements needs both. -/
theorem test_compare :
    queued (exec (.vcmp 2 5 1 2 0 10) (user { v := [(1, vec [0x40403F80]), (2, vec [0x40403F00])] })) = [.k 2 0] := by
  decide +kernel

/-- R145's example. -/
theorem test_lane_field : queued (exec (.vextr 4 5 8 0 3) (user { v := [(5, vec [0xA50])] })) =
    [.v 4 0xFFFFFFFF (vec [0xA])] := by decide +kernel

/-- R159's example: the block of 3.0 and 0.1 and its scale shift into the tops of `v10` and `v11`. -/
theorem test_quant : (quantBlock 14 (vec [0x40400000, 0x3DCCCCCD]) 0xFFFFFFFF .rne false 0 0 0x78 0 0).1 =
      BitVec.ofNat 1024 (0x557C * 2 ^ 768) ∧
    (quantBlock 14 (vec [0x40400000, 0x3DCCCCCD]) 0xFFFFFFFF .rne false 0 0 0x78 0 0).2.1 = BitVec.ofNat 1024 (0x78 * 2 ^ 1016) := by
  decide +kernel

/-- R194's example: block 4 of the tensor, whose 32 elements the access covers. -/
theorem test_tensor_example :
    ((({ bstride := 3, config := 9 * 8 + 2, extent := 0x0000004000000040 } : Agu).plan 1 6 13).map fun e => (e.1, e.2.1)) =
      (List.range 32).map fun j => (4, j) := by decide +kernel

/-! ### Whole steps: fetch, decode, run, and the writes at the end of the cycle -/

/-- The context's own bundle in one step. -/
def after (w : Nat) : Option Ctx := match step (State.reset.withFetchWord 32 w) with
  | .next s => some (s.ctxAt 0)
  | _ => none

/-- `addi s9, s9, -1` (R118): the register at the end of its cycle, and the PC 16 bytes on (R45). -/
theorem test_step_addi : (after 0x18927FFF).map (fun c => (c.r.getS 9, c.pc, c.csr.issueCount)) =
    some (0xFFFFFFFFFFFFFFFF, 16, 1) := by decide +kernel

/-- `jmp` by 26 signed bits of bundles (R47, R89). -/
theorem test_step_jump : (after 0x07FFFFFC).map (fun c => c.pc) = some 0xFFFFFFFFFFFFFFC0 := by decide +kernel

/-- `trap 5` in user mode (R358, R367): cause 0x09, its code, and the address of the next bundle. -/
theorem test_step_trap : (after 0x00000508).map (fun c => (c.priv, c.trap.cause, c.trap.info, c.trap.pc)) =
    some (true, 0x09, 5, 16) := by decide +kernel

/-- `brk 1` (R368) is precise: TRAP_PC is its own bundle. -/
theorem test_step_break : (after 0x0000010A).map (fun c => (c.priv, c.trap.cause, c.trap.info, c.trap.pc)) =
    some (true, 0x0A, 1, 0) := by decide +kernel

/-- An `eret` in user mode is an illegal instruction (R369); TRAP_INFO is its word (R357). -/
theorem test_step_illegal : (after 0x00000009).map (fun c => (c.priv, c.trap.cause, c.trap.info, c.pc)) =
    some (true, 0x01, 9, 0) := by decide +kernel

/-- `eadd e8, e1, e2` of a delta program (R329): the run goes on to the next word. -/
theorem test_step_delta : (match step (State.reset.withFetchWord 64 0x2002048000000000) with
    | .next s => (s.runOf 0).map fun r => (r.pc, r.pending.length)
    | _ => none) = some (1, 1) := by decide +kernel

/-- The first step from reset is the module controller's start (R380). -/
theorem test_step_reset : (match step State.reset with
    | .next s => some (s.mc.stage, s.mc.powered, s.agenda)
    | _ => none) = some (0, true, []) := by decide +kernel

/-! ### Witnesses: encodings, steps, scalars, flags, control flow, traps -/

theorem witness_DecodeOfEncode : (Instr.add 1 2 3).wf = true ∧ encode (.add 1 2 3) = some (32, 0x14108300) := by decide

theorem witness_EncodeOfDecode : 0x14108300 < 2 ^ 32 ∧ decodeSlot 0x14108300 = .ok (.add 1 2 3) ∧
    0x4300000000000000 < 2 ^ 64 ∧ decodeDelta 0x4300000000000000 = .ok (.dhalt 0) := ⟨by decide, rfl, by decide, rfl⟩

/-- The state whose next step runs `addi s9, s9, -1`. -/
def placed : State := State.reset.withFetchWord 32 0x18927FFF

theorem witness_StepTakesABundle_fetch : (placed.ctxAt 0).priv = false ∧
    (placed.ctxAt 0).pc.toNat < (placed.ctxAt 0).csr.codeLimit.toNat ∧
    placed.translate 0 (placed.ctxAt 0).pc.toNat (placed.ctxAt 0).pc.toNat { kind := .fetch } false = .ok 0 0x1F ∧
    Store.get none (placed.core (coreOf 0)).icache (0 / 128) = some (bundleLine [0x18927FFF, 0, 0, 0]) := by
  decide +kernel

theorem oneBundle_addi : OneBundle (turnOf placed []) 0 0 [0x18927FFF, 0, 0, 0] :=
  ⟨by decide, by decide, by decide, by decide, by decide, by decide, by decide, by decide, by decide, by decide +kernel, by decide⟩

theorem oneBundle_brk : OneBundle (turnOf (State.reset.withFetchWord 32 0x10A) []) 0 0 ([] ++ 0x10A :: [0, 0, 0]) :=
  ⟨by decide, by decide, by decide, by decide, by decide, by decide, by decide, by decide, by decide, by decide +kernel, by decide⟩

theorem witness_StepTakesABundle : OneBundle (turnOf placed []) 0 0 [0x18927FFF, 0, 0, 0] ∧ placed.order = 0 :: [] ∧
    ∃ t, SlotsRun (trying (turnOf placed []) 0) 0 [0x18927FFF, 0, 0, 0] t ∧ t.cur.held = false ∧
      ((turnOf placed []).ctxAt 0).flagSigs t.cur.passed = 0 := by
  refine ⟨oneBundle_addi, rfl, _,
    ⟨.addi 9 9 0x3FFF, _, ⟨by decide, rfl, by decide, by decide⟩, rfl, rfl, .nop, _, ⟨by decide, rfl, by decide, by decide⟩, rfl,
      rfl, .nop, _, ⟨by decide, rfl, by decide, by decide⟩, rfl, rfl, .nop, _, ⟨by decide, rfl, by decide, by decide⟩, rfl, rfl,
      rfl⟩, by decide, by decide +kernel⟩

/-- The state whose next step runs `fwait.any.consume f0, f5`, with flag 0 set by a release that carried signature 4. -/
def placedWait : State := (State.reset.withFetchWord 32 0x8712).setCtxAt 0
  { placedCtx with r := { f := 1 }, flow := { flagSig := [(0, 4)] } }

/-- The state that an answer goes on in. -/
def goesOn (o : Machine.Out) : State := match o with
  | .next t => t
  | _ => State.reset

theorem goesOn_eq {o : Machine.Out} (h : (match o with | .next _ => true | _ => false) = true) : o = .next (goesOn o) := by
  cases o <;> simp_all [goesOn]

/-- `fwait.any.consume f0, f5` and three empty slots run from `s`. -/
def afterWait (s : State) : State :=
  [(1, Instr.nop), (2, .nop), (3, .nop)].foldl (fun t e => goesOn (exec ((atSlot t e.1 0).refine e.2) (atSlot t e.1 0)))
    (goesOn (exec ((atSlot s 0 0x8712).refine (.fwait 0x21 1 1)) (atSlot s 0 0x8712)))

theorem slotsRun_wait {s : State} (hs : s ∈ [trying (turnOf placedWait []) 0, acquired (turnOf placedWait []) 0 4]) :
    SlotsRun s 0 [0x8712, 0, 0, 0] (afterWait s) := by
  have h : ∀ n w t, t.ctx.flow.skip = 0 → t.ctx.flow.parity = [] → (atSlot t n w).cur.commits = true →
      ∀ i, decodeSlot w = .ok i → RunsIn t n w i := fun n w t h0 h1 h2 i h3 => ⟨by simp [h0], h3, h2, by simp [h1]⟩
  simp only [List.mem_cons, List.not_mem_nil, or_false] at hs
  rcases hs with rfl | rfl
  all_goals
    refine ⟨.fwait 0x21 1 1, _, h _ _ _ (by decide +kernel) (by decide +kernel) (by decide +kernel) _ rfl, goesOn_eq (by decide +kernel),
      by decide +kernel, .nop, _, h _ _ _ (by decide +kernel) (by decide +kernel) (by decide +kernel) _ rfl, goesOn_eq (by decide +kernel),
      by decide +kernel, .nop, _, h _ _ _ (by decide +kernel) (by decide +kernel) (by decide +kernel) _ rfl, goesOn_eq (by decide +kernel),
      by decide +kernel, .nop, _, h _ _ _ (by decide +kernel) (by decide +kernel) (by decide +kernel) _ rfl, goesOn_eq (by decide +kernel),
      by decide +kernel, by simp only [SlotsRun, afterWait, List.foldl_cons, List.foldl_nil]⟩

theorem witness_StepTakesABundle_acquire : OneBundle (turnOf placedWait []) 0 0 [0x8712, 0, 0, 0] ∧ placedWait.order = 0 :: [] ∧
    (∃ t, SlotsRun (trying (turnOf placedWait []) 0) 0 [0x8712, 0, 0, 0] t ∧ t.cur.held = false ∧
      ((turnOf placedWait []).ctxAt 0).flagSigs t.cur.passed = 4) ∧
    ∃ u, SlotsRun (acquired (turnOf placedWait []) 0 4) 0 [0x8712, 0, 0, 0] u ∧ u.cur.held = false :=
  ⟨⟨by decide, by decide, by decide, by decide, by decide, by decide, by decide, by decide, by decide, by decide +kernel, by decide⟩,
    rfl, ⟨_, slotsRun_wait (.head _), by decide +kernel, by decide +kernel⟩,
    ⟨_, slotsRun_wait (.tail _ (.head _)), by decide +kernel⟩⟩

theorem witness_StepTakesABundle_trap : OneBundle (turnOf (State.reset.withFetchWord 32 0x10A) []) 0 0 ([] ++ 0x10A :: [0, 0, 0]) ∧
    (State.reset.withFetchWord 32 0x10A).order = 0 :: [] ∧
    ∃ t u r, SlotsRun (trying (turnOf (State.reset.withFetchWord 32 0x10A) []) 0) 0 [] t ∧ RunsIn t 0 0x10A (.brk 1) ∧
      t.cur.waiting = false ∧ exec ((atSlot t 0 0x10A).refine (.brk 1)) (atSlot t 0 0x10A) = .next u ∧ u.cur.trap = some r := by
  refine ⟨oneBundle_brk, rfl, _, _, _, rfl,
    ⟨by decide, rfl, by decide, by decide⟩, by decide, rfl, rfl⟩

/-- The state whose next step runs `eadd e8, e1, e2` on stack 0. -/
def placedDelta : State := State.reset.withFetchWord 64 0x2002048000000000

theorem witness_StepTakesOtherSteps_delta : placedDelta.order = [] ∧ placedDelta.agenda = [] ∧ placedDelta.deltaDue = some 0 ∧
    (∃ r, placedDelta.runOf 0 = some r ∧ r.pushLost = false ∧ r.pc < r.words ∧
      decodeDelta (Store.get 0 r.program r.pc).toNat = .ok (.eadd 0 8 1 2 0 0) ∧
      ∀ x ∈ deltaReads (.eadd 0 8 1 2 0 0), x ∉ r.parity) :=
  ⟨by decide, by decide, by decide +kernel, _, rfl, by decide, by decide, rfl, by decide⟩

theorem witness_StepTakesOtherSteps_agenda : State.reset.order = [] ∧ State.reset.agenda = [{ i := .powerGood }] := ⟨rfl, rfl⟩

/-- Nothing left to do in the cycle. -/
def idle : State := { State.reset with agenda := [], ran := true }

theorem witness_StepTakesOtherSteps_clock : idle.order = [] ∧ idle.agenda = [] ∧ idle.deltaDue = none ∧ idle.ran = true ∧
    idle.badAccess = false ∧ idle.settle.badAccess = false ∧ idle.walker.sent = [] ∧ idle.dramQueue = [] ∧
    idle.act = .next idle.tick := by
  exact ⟨by decide, by decide, by decide, by decide, by decide, by decide +kernel, by decide, by decide, rfl⟩

/-- Slot 1 with nine lent bits, all ones; slot 3 with eight. -/
def lending : State := (user { s := [(2, 5)] }).modCur fun c => { c with slot := 1, lend := some (0x1FF, 0, 0) }
def lending3 : State := (user {}).modCur fun c => { c with slot := 3, lend := some (0, 0, 0xFF) }

theorem witness_scalars : (user {}).lent = 0 ∧ (user { s := [(2, 5)] }).rS 2 ≠ 0 ∧ (user {}).rS 2 = 0 ∧
    (9 = lending.lentWidth ∧ lending.lent < 2 ^ 9) ∧ (8 = lending3.lentWidth ∧ lending3.lent < 2 ^ 8) ∧
    (0 = (user {}).lentWidth ∧ (user {}).lent < 2 ^ 0) ∧ (63#6).toNat + (0#6).toNat < 64 ∧ (0#6).toNat + (63#6).toNat < 64 ∧
    (11#4).toNat ≤ 11 := by decide +kernel

theorem witness_FlagOperations : WaitMet (user { f := 5 }).ctx.r.f 5 0 ∧ WaitMet (user { f := 4 }).ctx.r.f 5 1 ∧
    (user { f := 5 }).ctx.flagSigs 5 = 0 ∧ ¬ WaitMet (user { f := 4 }).ctx.r.f 5 0 ∧ ¬ WaitMet (user { f := 8 }).ctx.r.f 5 1 := by
  simp only [WaitMet]; decide +kernel

theorem witness_TransfersAndControl : ((user {}).modCur fun c => { c with leaf := some (4, 2, 5) }).cur.leaf = some (4, 2, 5) ∧
    ((user {}).modCur fun c => { c with leaf := some (0, 2, 5) }).cur.leaf = some (0, 2, 5) ∧
    ({ clearLog := true } : Cur).clearLog = true ∧ lending.lent ≠ 0 := by decide

theorem witness_IssueAdvancesTheContext : (user {}).cur.after = none := by decide

/-- Translating data to pieces, as a witness states it. -/
theorem ok_of {α : Type} [DecidableEq α] {x : Except Xlate α} {l : α}
    (h : (match x with | .ok m => decide (m = l) | .error _ => false) = true) : x = .ok l := by
  cases x with
  | error _ => simp at h
  | ok m => simpa using h

/-- That nothing of an access waits, as one evaluation. -/
theorem noWait_iff {s : State} {level : Piece → Nat} {l : List Piece} : NoWaitAt s level l ↔
    ((!(l.any fun p => leafOrd p.leaf == 0) || !s.owesSo s.cur.ctx) && !(l.any fun p => s.lineLeaving s.coreId p.pa p.n) &&
      !s.copiesLate (piecesSig (l.filter fun p => level p == 2)) && (l.find? (s.pieceQueues level)).isNone) = true := by
  simp only [Bool.and_eq_true, Bool.or_eq_true, Bool.not_eq_true', Option.isNone_iff_eq_none]
  constructor
  · rintro ⟨a, b, c, d⟩
    refine ⟨⟨⟨?_, b⟩, c⟩, d⟩
    cases h : l.any fun p => leafOrd p.leaf == 0
    · exact .inl rfl
    · exact .inr (a h)
  · rintro ⟨⟨⟨a, b⟩, c⟩, d⟩
    refine ⟨fun h => ?_, b, c, d⟩
    rcases a with a | a
    · rw [a] at h; cases h
    · exact a

/-- A shadow stack of 64 bytes at 0x100 on page 0. -/
def shadowed (top : Word) : State := (user {}).modCtx fun c =>
  { c with csr := { c.csr with shadowBase := 0x100, shadowTop := top, shadowLimit := 0x140 } }

theorem witness_ShadowStack_push : (shadowed 0x138).ctx.csr.shadowTop.toNat + 8 ≤ (shadowed 0x138).ctx.csr.shadowLimit.toNat ∧
    ∃ l, (shadowed 0x138).translateAll (shadowed 0x138).cur.ctx (shadowed 0x138).ctx.csr.shadowTop.toNat { kind := .shadow } true
      ((shadowed 0x138).accessPieces (shadowed 0x138).ctx.csr.shadowTop.toNat 8) = .ok l ∧ NoWait (shadowed 0x138) l :=
  ⟨by decide, [⟨0x138, 8, 0, 0x1F⟩], ok_of (by decide +kernel), noWait_iff.2 (by decide +kernel)⟩

theorem witness_ShadowStack_bounds :
    (shadowed 0x139).ctx.csr.shadowLimit.toNat < (shadowed 0x139).ctx.csr.shadowTop.toNat + 8 ∧
    (shadowed 0x107).ctx.csr.shadowTop.toNat < (shadowed 0x107).ctx.csr.shadowBase.toNat + 8 := by decide

/-- The engines have answered the slot's request with `x`. -/
def repliedWith (s : State) (x : Nat) : State := s.modCtx fun c => { c with flow := { c.flow with
  waits := Store.set (.requested 0) c.flow.waits s.cur.slot (.replied x) } }

theorem witness_ShadowStack_pop : 0x100 = (shadowed 0x108).ctx.csr.shadowTop.toNat - 8 ∧
    (shadowed 0x108).ctx.csr.shadowBase.toNat + 8 ≤ (shadowed 0x108).ctx.csr.shadowTop.toNat ∧
    (∀ s ∈ [shadowed 0x108, repliedWith (shadowed 0x108) 0],
      (match s.translateAll s.cur.ctx 0x100 { kind := .shadow } true (s.accessPieces 0x100 8) with
        | .ok m => decide (m = [⟨0x100, 8, 0, 0x1F⟩])
        | .error _ => false) = true ∧
      NoWait s [⟨0x100, 8, 0, 0x1F⟩]) ∧
    (∀ x, ¬ Replied (served (shadowed 0x108) [⟨0x100, 8, 0, 0x1F⟩]) x) ∧
    Replied (served (repliedWith (shadowed 0x108) 0) [⟨0x100, 8, 0, 0x1F⟩]) 0 ∧
    ((served (repliedWith (shadowed 0x108) 0) [⟨0x100, 8, 0, 0x1F⟩]).readPieces [⟨0x100, 8, 0, 0x1F⟩]).1 =
      ((shadowed 0x108).rS 63).toNat := by
  refine ⟨by decide, by decide, by simp only [noWait_iff]; decide +kernel, ?_, by simp only [Replied]; decide +kernel, by decide +kernel⟩
  intro x h
  simp only [Replied] at h
  exact absurd (h.symm.trans (by decide +kernel : _ = Wait.requested 0)) (by simp)

/-- The same with another return address in `s63`. -/
def strayReturn : State := repliedWith ((shadowed 0x108).modCtx fun c => { c with r := { c.r with s := [(63, 0x40)] } }) 0

theorem witness_ShadowStack_mismatch : ∃ l, strayReturn.translateAll strayReturn.cur.ctx 0x100 { kind := .shadow } true
      (strayReturn.accessPieces 0x100 8) = .ok l ∧ NoWait strayReturn l ∧ Replied (served strayReturn l) 0 ∧
      ((served strayReturn l).readPieces l).1 ≠ (strayReturn.rS 63).toNat :=
  ⟨[⟨0x100, 8, 0, 0x1F⟩], ok_of (by decide +kernel), noWait_iff.2 (by decide +kernel), by simp only [Replied]; decide +kernel,
    by decide +kernel⟩

theorem witness_ControlRegisters_numbers : userReads 0x010 ∧ ¬ userReads 0x030 ∧ privReads 0x037 ∧ ¬ privReads 0x038 ∧
    userWrites 0x012 ∧ ¬ userWrites 0x013 ∧ privWrites 0x037 ∧ ¬ privWrites 0x004 := by
  unfold privWrites privReads userReads userWrites; omega

theorem witness_ControlRegisters : (user {}).ctx.priv = false ∧ (privileged {}).ctx.priv = true ∧
    wellFormedRoles ((privileged { s := [(1, 0x8000000000000000)] }).rS 1) = true ∧
    wellFormedRoles ((privileged { s := [(1, 3)] }).rS 1) = false ∧ storedBits 0x020 = some (~~~0xF) := by decide +kernel

theorem witness_ControlRegisters_free :
    (∀ t < 4, ∀ c < 4, ((privileged { s := [(1, 1)] }).core (privileged {}).coreId).accOwn.getLsbD (4 * c + t) ≠
      ((privileged { s := [(1, 1)] }).rS 1).getLsbD (4 * c + t) →
      ((privileged { s := [(1, 1)] }).core (privileged {}).coreId).isBusy 0 (.tile t) = false) ∧
    (∀ j < 32, roleOf ((privileged { s := [(1, 4)] }).core (privileged {}).coreId).bankRole j ≠ roleOf ((privileged { s := [(1, 4)] }).rS 1) j →
      ((privileged { s := [(1, 4)] }).core (privileged {}).coreId).isChanging 0 j = false) := by decide +kernel

/-- Privileged, with a saved cause and TRAP_INFO. -/
def inRoutine (cause : BitVec 8) (info : Word) : State :=
  (privileged {}).modCtx fun c => { c with trap := { c.trap with cause := cause, info := info } }

theorem witness_TrapsAndReturns : (user {}).ctx.priv = false ∧ (inRoutine 0x20 0x100).ctx.priv = true ∧
    (inRoutine 0x20 0x100).ctx.trap.cause = 0x20 ∧ (inRoutine 0x20 0x100).ctx.trap.info.getLsbD 8 = true ∧
    (inRoutine 0x20 0).ctx.trap.info.getLsbD 8 = false ∧ (inRoutine 0x21 0).ctx.trap.cause ≠ 0x20 ∧
    (privileged {}).settled (privileged {}).cur.ctx = true ∧
    ((privileged {}).modCtx fun c => { c with flow := { c.flow with landings := [⟨0, 5, 0, 0, [], [], none, none⟩] } }).settled 0 = false := by
  decide +kernel

/-! ### Witnesses: vectors, the local store, the matrix engine -/

theorem roundingLegal_none : RoundingLegal (user {}) := fun _ h => by cases h
/-- The largest legal rounding selection: code 7 with saturation. -/
def rounded : State := (user {}).modCur fun c => { c with slot := 1, lend := some (15, 0, 0) }
theorem roundingLegal_lent : RoundingLegal rounded := fun _ h => by cases h; decide

theorem witness_vectorTypes : (13#5).toNat ≤ 13 ∧ 8 = typeWidth 13 ∧ 8 ≤ (8#5).toNat ∧ (11#5).toNat ≤ 11 ∧ (7#5).toNat ≤ 7 ∧
    64 = typeWidth 7 ∧ (0#5).toNat + (31#5).toNat < 32 ∧ (31#5).toNat + (0#5).toNat < 32 := by decide

theorem witness_VectorArithmetic : (user {}).lentOpt = none ∧ Rnd.rne = Rnd.ofCode (if 7 = 7 then (user {}).ctx.csr.fpctl.toNat else 7) ∧
    (∃ l, rounded.lentOpt = some l ∧ l < 16 ∧ l % 8 ≠ 6 ∧ 7 = l % 8 ∧ true = decide (8 ≤ l)) ∧ (11#5).toNat = 11 ∧ 16 = typeWidth 11 ∧
    rounded.rounding = some (7, true) ∧ Rnd.rne = rounded.modeOf 7 := ⟨rfl, rfl, ⟨15, rfl, by decide⟩, rfl, rfl, rfl, rfl⟩

theorem witness_VectorComparesAndMasks : (if (7 : Nat) ≤ 7 then (11#4).toNat ≤ 11 else False) ∧
    (if (11 : Nat) ≤ 7 then False else (5#4).toNat ≤ 5 ∨ (5#4).toNat = 12 ∨ (5#4).toNat = 13) ∧
    (if (8 : Nat) ≤ 7 then False else (13#4).toNat ≤ 5 ∨ (13#4).toNat = 12 ∨ (13#4).toNat = 13) := by decide

theorem witness_ReductionsAndScans : 2 ^ 4 * 64 = 1024 ∧ 64 = typeWidth 8 ∧ 2 ^ 7 * 8 = 1024 ∧ 8 = typeWidth 0 ∧
    SumRoundingLegal (user {}) ∧ (∀ n, (user {}).lentOpt = some n → n < 8) ∧ present (user {}) 0 1 8 128 = [] ∧
    present (user { k := [(1, 1)] }) 0 1 8 128 ≠ [] := by
  refine ⟨by decide, by decide, by decide, by decide, (fun _ h => by cases h), (fun _ h => by cases h), ?_, ?_⟩ <;> decide +kernel

theorem witness_VectorConversionsAndScales : max (typeWidth 10) (typeWidth 9) = 32 ∧ (user {}).rounding = some (7, false) ∧
    ((user {}).lentOpt = none ∧ false = false) ∧ ((user {}).modCur fun c => { c with slot := 1, lend := some (8, 0, 0) }).lentOpt = some 8 ∧
    4 ≤ (4#5).toNat ∧ (11#5).toNat ≤ 11 ∧ 14 ≤ (14#5).toNat ∧ (17#5).toNat ≤ 17 ∧ (1#5) ≠ 2 := by decide

/-- Core 0 with bank 0 as scratchpad and bank 31 as an operand bank. -/
def banked (r : Regs) : State := (user r).modCore 0 fun c => { c with bankRole := 0x8000000000000001 }

theorem witness_LocalStoreAndBankRoles_served : LocalServed (banked {}) 0x3FF8 8 false ∧ LocalServed (banked {}) 0x3FF8 8 true ∧
    LocalServed (banked {}) 0x3F80 128 false ∧ LocalServed (banked {}) 0x3F80 128 true ∧ LocalServed (banked {}) 0x7FFF8 8 true ∧
    0x3FF8 = ((banked { s := [(6, 0x3FF8)] }).rS 6 + BitVec.ofInt 64 (0 * 8)).toNat := by
  refine ⟨?_, ?_, ?_, ?_, ?_, by decide +kernel⟩ <;> simp only [LocalServed] <;> decide +kernel

theorem witness_LocalStoreAndBankRoles_outside : 2 ^ 19 ≤ 0x80000 ∧ 0x7FFFF < 2 ^ 19 ∧
    roleOf ((banked {}).core (banked {}).coreId).bankRole ((0x4000 - 0x4000 % 8) / 2 ^ 14) = 0 := by decide +kernel

theorem witness_LocalStoreAndBankRoles_roles : (0#5).toNat + (31#5).toNat < 32 ∧
    (∀ p ∈ (banked {}).ctx.flow.pending, p.stamp ≠ (banked {}).ctx.flow.stamp) ∧
    (∀ j < 32, roleOf 0x8000000000000005 j = if (1#5).toNat ≤ j ∧ j ≤ (1#5).toNat + (0#5).toNat then (1#2).toNat
      else roleOf ((banked {}).core (banked {}).coreId).bankRole j) ∧
    (∀ j, (1#5).toNat ≤ j → j ≤ (1#5).toNat + (0#5).toNat → ((banked {}).core (banked {}).coreId).isChanging 0 j = false) ∧
    wellFormedRoles 0x8000000000000005 = true ∧ ((banked {}).core 0).exceedsGrant 0x8000000000000005 = true ∧
    (((banked {}).modCore 0 fun c => { c with grant := (2, 1) }).core 0).exceedsGrant 0x8000000000000005 = false ∧
    roleOf ((banked {}).core 0).bankRole 1 ≠ roleOf 0x8000000000000005 1 := by
  refine ⟨by decide, by decide, by decide +kernel, fun j h1 h2 => ?_, by decide +kernel, by decide +kernel, by decide +kernel,
    by decide +kernel⟩
  have h : j = 1 := by simp at h1 h2; omega
  subst h; decide +kernel

/-- The same with a line in cache bank 5 whose sector 1 holds one written byte. -/
def dirtied : State := (banked {}).modCore 0 fun c =>
  c.setLine 5 3 { line := some 0x183, have_ := 2, dirty := 2, bytes := 2 ^ 40, data := 7 * 2 ^ 320 }

theorem witness_LocalStoreAndBankRoles_flush : dirtied.lent = 0 ∧ (5#5).toNat + (1#5).toNat < 32 ∧
    (∀ p ∈ dirtied.ctx.flow.pending, p.stamp ≠ dirtied.ctx.flow.stamp) ∧
    (∀ j < 32, (dirtied.core dirtied.coreId).isChanging dirtied.now j = false) ∧
    (dirtied.die (dieOf dirtied.coreId)).l2.length + (dirtied.core dirtied.coreId).lines.length ≤ l2Lines ∧
    ((dirtied.core dirtied.coreId).line 5 3).line = some 0x183 ∧ roleOf (dirtied.core dirtied.coreId).bankRole 5 = 0 ∧
    ((dirtied.core dirtied.coreId).line 5 3).dirty.getLsbD (40 / 32) = true ∧ ((dirtied.core dirtied.coreId).line 5 3).bytes.getLsbD 40 = true ∧
    (dirtied.core dirtied.coreId).lines.length = 1 ∧
    (((banked {}).changeRoles 0 0x8000000000000401).core 0).isChanging 0 5 = true := by decide +kernel

theorem witness_LocalStoreAndBankRoles_two : wellFormedRoles 0x8000000000000015 = true ∧
    (∀ j < 32, roleOf 0x8000000000000015 j = if (2#5).toNat ≤ j ∧ j ≤ (2#5).toNat + (0#5).toNat then (1#2).toNat else roleOf 0x8000000000000005 j) ∧
    (((banked {}).modCore 0 fun c => { c with grant := (3, 1) }).core 0).exceedsGrant 0x8000000000000015 = false := by decide +kernel

/-- R166, R171: flushing it leaves its byte in the L2, dirty, and the line valid and clean. -/
theorem test_bank_flush : (match exec (.bankFlush 5 1) dirtied with
    | .next t => decide (lineBytes (t.l2Line 0 0x183).data 40 1 = 7 ∧ (t.l2Line 0 0x183).dirty = 2 ∧ ((t.core 0).line 5 3).dirty = 0 ∧
        ((t.core 0).line 5 3).have_ = 2 ∧ (t.core 0).changing = [])
    | _ => false) = true := by decide +kernel

/-- Core 0 with scratchpad banks 0 to 15 and operand banks 16 to 31, whose context 0 owns every tile and whose engine is warm. -/
def engine (r : Regs) : State := (user r).modCore 0 fun c =>
  { c with bankRole := 0xAAAAAAAA55555555, accOwn := 0xF, token := true, bypassTag := some (10, 0) }

theorem witness_MatrixProducts_ready : Owns (engine {}) 1 ∧ ¬ Owns (user {}) 1 ∧ EngineReady (engine {}) 1 ∧
    OperandsReady (engine {}) 16 10 [17] ∧ OperandsReady (engine {}) 0 10 [17] ∧ OperandsReady (engine {}) 16 12 [28, 29, 30, 31] := by
  refine ⟨?_, ?_, ?_, ?_, ?_, ?_⟩ <;> simp only [Owns, EngineReady, OperandsReady] <;> decide +kernel

theorem witness_MatrixProducts_faults : roleOf ((engine {}).core (engine {}).coreId).bankRole (15#5).toNat ≠ 2 ∧
    roleOf ((engine {}).core (engine {}).coreId).bankRole (17#5).toNat = 2 ∧
    ((engine {}).core (engine {}).coreId).bypassTag ≠ some ((9#5).toNat, (engine {}).cur.ctx) ∧
    2 ^ 19 ≤ ((engine { s := [(1, 0x80000)] }).rS 1).toNat := by decide +kernel

theorem imageReady_zero (n : Nat) (w : Bool) (h : n ≤ 16384) : ImageReady (engine {}) 1 0 n w := by
  refine ⟨by decide, by omega, fun i hi => ?_⟩
  have : i < 128 := by omega
  have all : ∀ i < 128, roleOf ((engine {}).core (engine {}).coreId).bankRole ((0 + 128 * i) / 2 ^ 14) = 1 ∧
      (∀ w, ((engine {}).core (engine {}).coreId).lineHeld (engine {}).now (0 / 128 + i) w true = false) ∧
      ((engine {}).core (engine {}).coreId).isChanging (engine {}).now ((0 + 128 * i) / 2 ^ 14) = false := by decide +kernel
  exact ⟨(all i this).1, (all i this).2.1 w, (all i this).2.2⟩

theorem witness_PackDrainZeroAndTranspose : roleOf ((engine {}).core (engine {}).coreId).bankRole (20#5).toNat = 2 ∧
    ((engine {}).core (engine {}).coreId).operandBusy 0 (20#5).toNat = false ∧
    ((engine {}).core (engine {}).coreId).isChanging 0 (20#5).toNat = false ∧ imageBytes 8 ≤ 16384 ∧
    ((engine {}).core (engine {}).coreId).isBusy 0 (.tile 3) = false ∧ (engine {}).rounding = some (7, false) ∧
    Rnd.rne = (if (engine {}).modeOf 7 = .sr then .rne else (engine {}).modeOf 7) := by decide +kernel

/-- A queue of the transpose engine: a ready tile of context 0; and a full queue. -/
def transposed : State := (engine {}).modCore 0 fun c =>
  { c with transposes := [⟨0, 16, List.replicate 1024 7, 0, 0⟩] }
def transposeFull : State := (engine {}).modCore 0 fun c =>
  { c with transposes := List.replicate 4 ⟨1, 16, [], 5000, 3⟩ }

theorem witness_PackDrainZeroAndTranspose_queue : ((engine {}).core (engine {}).coreId).transposes.length < 4 ∧
    (transposed.core transposed.coreId).transposes.find? (fun x => x.ctx == transposed.cur.ctx) =
      some ⟨0, 16, List.replicate 1024 7, 0, 0⟩ ∧ (List.replicate 1024 7).length = 1024 ∧
    4 ≤ (transposeFull.core transposeFull.coreId).transposes.length ∧
    (transposeFull.core transposeFull.coreId).transposes.find? (fun x => x.ctx == transposeFull.cur.ctx) = none ∧
    (∀ i < 16, roleOf ((engine {}).core (engine {}).coreId).bankRole ((0 + 128 * i) / 2 ^ 14) = 1) ∧
    transposed.now < 48 ∧ (0 ≤ transposed.now ∧ 16 ≠ 32) := by
  refine ⟨by decide, by rfl, List.length_replicate .., by decide, by decide, by decide +kernel, by decide, by decide⟩

/-- The same queues as `transposeExpire` meets them, before and after their 4096 cycles. -/
def expiring (now : Nat) : State := { transposeFull with now := now, arg := { i := .transposeExpire, a := 0, b := 3 } }

theorem witness_PackDrainZeroAndTranspose_expire :
    ((expiring 9096).core (expiring 9096).arg.a).transposes.find? (fun x => x.op == (expiring 9096).arg.b) = some ⟨1, 16, [], 5000, 3⟩ ∧
    (expiring 9096).now ≤ 5000 + 4096 ∧ 5000 + 4096 < (expiring 9097).now := by decide

/-! ### Witnesses: global memory, ordering -/

theorem error_of {α : Type} {x : Except Xlate α} {e : Xlate}
    (h : (match x with | .ok _ => false | .error f => decide (f = e)) = true) : x = .error e := by
  cases x with
  | error f => simpa using h
  | ok _ => simp at h

/-- Context 0 whose page 0 has this leaf entry. -/
def mapped (leaf : Nat) (r : Regs) : State := (user r).modCore 0 fun c => { c with tlb := [⟨0, 1, leaf⟩] }

/-- The leaf of die 0's sync page at the start of its SRAM: class 3, read and written by users. -/
def syncLeaf : Nat := syncBase * 4 + 3 * 2 ^ 13 + 0x17

/-- A leaf of format page class `f`. -/
def fmtLeaf (f : Nat) : Nat := f * 2 ^ 9 + 0x17

/-- One context with every landing entry taken. -/
def landingsFull : State := (user {}).modCtx fun c =>
  { c with flow := { c.flow with landings := List.replicate 16 ⟨0, 5, 0, 0, [], [], none, none⟩ } }

theorem witness_GlobalLoadsAndStores : (user {}).lent < 2 ^ (user {}).lentWidth ∧ 8 = 2 ^ ((3#3).toNat % 4) ∧ (3#10) ≠ 0 ∧
    (user {}).ctx.flow.landings.length < 16 ∧ landingsFull.ctx.flow.landings.length = 16 ∧
    0x100 = ((user { s := [(2, 0x100)] }).rS 2 + BitVec.ofInt 64 ((BitVec.ofNat 0 (user {}).lent).toInt * 8)).toNat := by decide +kernel

theorem witness_GlobalLoadsAndStores_served :
    (user {}).xlate 0x100 8 { kind := .load, plain := true } = .ok [⟨0x100, 8, 0, 0x1F⟩] ∧ Goes (user {}) [⟨0x100, 8, 0, 0x1F⟩] false ∧
    (user {}).xlate 0x100 128 { kind := .vload, plain := true } = .ok [⟨0x100, 128, 0, 0x1F⟩] ∧
    Goes (user {}) [⟨0x100, 128, 0, 0x1F⟩] false ∧
    (user {}).xlate 0x100 16 { kind := .table } = .ok [⟨0x100, 16, 0, 0x1F⟩] ∧
    NoWait (user {}) [⟨0x100, 16, 0, 0x1F⟩] ∧
    (user {}).xlate 0xFFF8 8 { kind := .store, size3 := true, plain := true } = .ok [⟨0xFFF8, 8, 0, 0x1F⟩] ∧
    Goes (user {}) [⟨0xFFF8, 8, 0, 0x1F⟩] true ∧
    (user {}).xlate 0xFF80 128 { kind := .vstore, plain := true } = .ok [⟨0xFF80, 128, 0, 0x1F⟩] ∧
    Goes (user {}) [⟨0xFF80, 128, 0, 0x1F⟩] true := by
  refine ⟨ok_of ?_, ?_, ok_of ?_, ?_, ok_of ?_, ?_, ok_of ?_, ?_, ok_of ?_, ?_⟩ <;> (try simp only [Goes, noWait_iff]) <;> decide +kernel

theorem witness_GlobalLoadsAndStores_faults :
    (user {}).xlate (2 ^ 57) 8 { kind := .load, plain := true } = .error (.fault 4 1 (2 ^ 57)) ∧
    (mapped 0x15 {}).xlate 8 8 { kind := .load, plain := true } = .error (.fault 5 9 8) ∧
    (user {}).xlate (2 ^ 57) 128 { kind := .vload, plain := true } = .error (.fault 4 1 (2 ^ 57)) ∧
    (user {}).xlate (2 ^ 57) 16 { kind := .table } = .error (.fault 4 1 (2 ^ 57)) ∧
    (mapped 0x13 {}).xlate 8 8 { kind := .store, size3 := true, plain := true } = .error (.fault 5 10 8) ∧
    (mapped 0x13 {}).xlate 0 128 { kind := .vstore, plain := true } = .error (.fault 5 10 0) :=
  ⟨error_of (by decide +kernel), error_of (by decide +kernel), error_of (by decide +kernel), error_of (by decide +kernel),
    error_of (by decide +kernel), error_of (by decide +kernel)⟩

/-- Page 0 is the aperture page of cluster `k`'s BXE; channel 15 holds `n` copies. -/
def aperture (k n : Nat) : State := (mapped ((apertureBase + k * 2 ^ 16) * 4 + 0x17) {}).modBxe k fun b =>
  b.setChannel 15 (List.replicate n ⟨0, none, 0, none, none, false, 0, 0, 0⟩)

/-- A piece of the channel's page. -/
def aperturePiece (k : Nat) : Piece := ⟨apertureBase + k * 2 ^ 16 + 0xF000, 8, 0, (apertureBase + k * 2 ^ 16) * 4 + 0x17⟩

theorem witness_GlobalLoadsAndStores_aperture :
    (∀ s ∈ [aperture 0 7, aperture 0 8, aperture 11 0], s.lent = 0) ∧
    (aperture 0 7).xlate 0xF000 8 { kind := .store, size3 := true, plain := true } = .ok [aperturePiece 0] ∧
    (aperture 0 8).xlate 0xF000 8 { kind := .store, size3 := true, plain := true } = .ok [aperturePiece 0] ∧
    (aperture 11 0).xlate 0xF000 8 { kind := .store, size3 := true, plain := true } = .ok [aperturePiece 11] ∧
    region (aperturePiece 0).pa = .aperture 0 ∧ region (aperturePiece 11).pa = .aperture 11 ∧ bits (aperturePiece 0).pa 15 12 = 15 ∧
    clusterOf (aperture 0 7).coreId = 0 ∧ ((aperture 0 7).bxe 0 |>.channel 15).length < 8 ∧ 8 ≤ ((aperture 0 8).bxe 0 |>.channel 15).length ∧
    (aperture 0 7).owesRelease 2 = false ∧ ((aperture 0 7).modCore 3 fun c => { c with bankReqs :=
      [{ bank := 0, from_ := 1, left := 1, op := some ⟨0, 0, true, 0, 0, 8, some 5, .landing 0 0⟩ }] }).owesRelease 2 = true := by
  refine ⟨by decide, ok_of ?_, ok_of ?_, ok_of ?_, ?_, ?_, ?_, ?_, ?_, ?_, ?_, ?_⟩ <;> decide +kernel

/-- R262: the ninth copy of a channel waits, the eighth enters it. -/
theorem test_aperture_depth :
    (match exec (.stg 1 2 0x200 3) ((aperture 0 8).modCtx fun c => { c with r := { c.r with s := [(2, 0x10000)] } }) with
      | .next t => t.cur.held | _ => false) = true ∧
    (match exec (.stg 1 2 0x200 3) ((aperture 0 7).modCtx fun c => { c with r := { c.r with s := [(2, 0x10000)] } }) with
      | .next t => decide (((t.bxe 0).channel 15).length = 8) && !t.cur.held | _ => false) = true := by decide +kernel

/-- A landing whose bytes a bank has yet to bring: the only part, or one of two. -/
def awaiting (left : Nat) : State := { (user {}).modCtx fun c => { c with flow := { c.flow with
    landings := [⟨0, 5, 0, 0, [.s 3 0], [], none, some ⟨.scalar 3 0, 0, left⟩⟩] } } with arg := { i := .landing, a := 0, b := 0 } }

theorem witness_Landings_owed : ∃ l, ((awaiting 1).ctxAt (awaiting 1).arg.a).flow.landings.find? (fun x => x.id == (awaiting 1).arg.b) = some l ∧
    l.owed = some ⟨.scalar 3 0, 0, 1⟩ ∧ l.owed ≠ none ∧ (awaiting 1).now < l.due ∧ l.poison = none := ⟨_, rfl, rfl, by decide, by decide, rfl⟩

/-- R86: a byte of 0x80 brought for a signed byte load sets the register to its extension; nothing is written before. -/
theorem test_bring : (match ((awaiting 1).ctxAt 0).flow.landings.head? with
    | some l => decide ((l.bring 0 0x80 none).ws = [.s 3 0x80] ∧ (l.bring 0 0x80 none).owed = none)
    | none => false) = true := by decide +kernel

/-- A landing of context 0. -/
def landed : State := { (user {}).modCtx fun c => { c with flow := { c.flow with landings := [⟨0, 5, 0, 0, [.s 3 7], [], none, none⟩] } } with
  arg := { i := .landing, a := 0, b := 0 } }

theorem witness_Landings : (landed.ctxAt landed.arg.a).flow.landings.find? (fun x => x.id == landed.arg.b) = some ⟨0, 5, 0, 0, [.s 3 7], [], none, none⟩ ∧
    (landed.ctxAt landed.arg.a).flow.recent = [] ∧
    (((user {}).ctxAt 0).flow.landings.find? fun x => x.id == 0) = none := by decide +kernel

theorem witness_OwnWritesAreRead_own : (∀ j, ((user {}).core 0).findLine 0 2 = some j → (((user {}).core 0).line j 2).dirty = 0) ∧
    NothingOwn (user {}) 0 0x1FF := by
  have h : ((user {}).core 0).findLine 0 2 = none ∧ ((user {}).core 0).findLine (user {}).now 0x1FF = none := by decide +kernel
  exact ⟨fun _ e => (Option.some_ne_none _ (e.symm.trans h.1)).elim, fun _ e => (Option.some_ne_none _ (e.symm.trans h.2)).elim,
    by decide +kernel⟩

theorem witness_OwnWritesAreRead : region 0x100 = .hbm ∧ 0x100 % 128 + 128 ≤ 128 ∧ region 0x17F = .hbm ∧ 0x17F % 128 + 1 ≤ 128 := by decide

theorem witness_StrongAccessesReachMemory : region 0xFFF8 = .hbm ∧ leafOrd 0x1F = 0 ∧ 0xFFF8 % 128 + 8 ≤ 128 ∧ home 0xFFFF < hostBase ∧
    (∀ i < 8, home 0xFFF7 ≠ home (0xFFF8 + i)) := by decide +kernel

/-- Lanes 0 and 31 of `v1` name the first and last words of page 0. -/
def gathering : State := user { k := [(1, 0x80000001)], v := [(1, vec ([0] ++ List.replicate 30 0x123456 ++ [0xFFFC]))] }

theorem witness_GathersAndFormats_lanes : 1 ≤ gathering.lent * 64 + (63#6).toNat ∧
    gathering.xlateLanes { kind := .gather, plain := true } (gathering.lanesOf 0 1 1) =
      .ok [(0, 0, [⟨0, 4, 0, 0x1F⟩]), (31, 0xFFFC, [⟨0xFFFC, 4, 0, 0x1F⟩])] ∧
    (∀ e ∈ [(0, 0, [(⟨0, 4, 0, 0x1F⟩ : Piece)]), (31, 0xFFFC, [⟨0xFFFC, 4, 0, 0x1F⟩])], gathering.windowWaits false e.2.2 = false ∧
      gathering.windowWaits true e.2.2 = false) ∧
    NoWait gathering ([(0, 0, [(⟨0, 4, 0, 0x1F⟩ : Piece)]), (31, 0xFFFC, [⟨0xFFFC, 4, 0, 0x1F⟩])].flatMap (·.2.2)) ∧ gathering.lent = 0 ∧
    gathering.ctx.flow.landings.length < 16 ∧
    gathering.xlateLanes { kind := .scatter, plain := true } (gathering.lanesOf 0 1 1) =
      .ok [(0, 0, [⟨0, 4, 0, 0x1F⟩]), (31, 0xFFFC, [⟨0xFFFC, 4, 0, 0x1F⟩])] := by
  refine ⟨by decide, ok_of ?_, ?_, ?_, ?_, ?_, ok_of ?_⟩ <;> (try simp only [noWait_iff]) <;> decide +kernel

/-- A tensor of two by two elements of type 10 in format page class 1, one block wide. -/
def tensorG : Agu := { extent := 0x0000000200000002, bstride := 1, config := 10 * 8 }
def formatted : State := mapped (fmtLeaf 1) { s := [(4, 1)], g := [(1, tensorG)] }

theorem witness_GathersAndFormats_agu : (user {}).lent = 0 ∧ configOk ((user { s := [(3, 10 * 8)] }).rS 3) = true ∧
    configOk ((user { s := [(3, 31 * 8)] }).rS 3) = false ∧ ((user {}).ctx.r.getG 1).stated = false ∧
    (formatted.ctx.r.getG 1).stated = true := by decide +kernel

theorem witness_GathersAndFormats_blocks : canonical (formatted.versionRewrite 0 (formatted.ctx.r.getG 1).base.toNat) = true ∧
    formatted.lookup 0 (formatted.versionRewrite 0 (formatted.ctx.r.getG 1).base.toNat) = some (.leaf (fmtLeaf 1)) ∧
    leafFmt (fmtLeaf 1) = 1 ∧ ((user {}).ctx.r.getG 1).base = 0 ∧ (mapped (fmtLeaf 1) {}).lookup 0 0 = some (.leaf (fmtLeaf 1)) ∧
    ((mapped (fmtLeaf 1) {}).ctx.r.getG 1).stated = false ∧ (formatted.ctx.r.getG 1).base.toNat % 2 ^ 16 % blockBytes 1 = 0 ∧ 0 < blocksPerPage 1 := by decide +kernel

/-- A tensor of one row. -/
def formattedRow : State := mapped (fmtLeaf 1) { g := [(1, { tensorG with extent := 0x0000000200000001 })] }

theorem witness_GathersAndFormats_store :
    formatted.xlateBlocks (formatted.ctx.r.getG 1) { kind := .fmtLoad } 1 0 (insideBlocks ((formatted.ctx.r.getG 1).plan 1 0 0)) =
      .ok [⟨0, 0, 0, fmtLeaf 1⟩, ⟨1, 1, 32, fmtLeaf 1⟩] ∧
    formattedRow.xlateBlocks (formattedRow.ctx.r.getG 1) { kind := .fmtStore } 1 0 (insideBlocks ((formattedRow.ctx.r.getG 1).plan 1 0 0)) =
      .ok [⟨0, 0, 0, fmtLeaf 1⟩] ∧
    formattedRow.xlateBlocks (formattedRow.ctx.r.getG 1) { kind := .fmtStore } 1 0 (insideBlocks ((formattedRow.ctx.r.getG 1).plan 1 9 9)) =
      .ok [] ∧
    NoWait formatted ([(⟨0, 0, 0, fmtLeaf 1⟩ : BlockAt), ⟨1, 1, 32, fmtLeaf 1⟩].flatMap (·.pieces 1)) ∧
    NoWait formattedRow ([(⟨0, 0, 0, fmtLeaf 1⟩ : BlockAt)].flatMap (·.pieces 1)) := by
  refine ⟨ok_of ?_, ok_of ?_, ok_of ?_, ?_, ?_⟩ <;> (try simp only [noWait_iff]) <;> decide +kernel

theorem witness_AtomicsReadAndStore : 8 = (if (1#1) = 1 then 8 else 4) ∧
    0x108 = ((user { s := [(2, 0x10F)] }).rS 2).toNat - ((user { s := [(2, 0x10F)] }).rS 2).toNat % 8 ∧
    (user { s := [(2, 0x10F)] }).xlate 0x108 8 { kind := .amo } = .ok [⟨0x108, 8, 0, 0x1F⟩] ∧
    NoWait (user {}) [⟨0x108, 8, 0, 0x1F⟩] ∧ 0x108 % 8 = 0 ∧ region 0x108 = .hbm ∧
    AmoStores (.amoCas 1 4 2 5) 64 7 7 9 (some (9 % 2 ^ 64)) ∧ AmoStores (.amoCas 1 4 2 5) 64 7 8 9 none ∧
    AmoStores (.amoFmin 0 4 2 5) 32 0x3F800000 0x40000000 0 (some 0x3F800000) := by
  refine ⟨by decide, by decide, ok_of (by decide +kernel), noWait_iff.2 (by decide +kernel), by decide, by decide, ?_, ?_, .fmin _ _ _ _ _ _ _ _ _ ?_⟩
  · exact AmoStores.cas 1 4 2 5 64 7 7 9
  · exact AmoStores.cas 1 4 2 5 64 7 8 9
  · simp only [Extreme]; decide +kernel

/-- A context that owes an acknowledgement: one of its packets is under way. -/
def owing : State := { user {} with packets := [⟨0, some 0, 0, none, 0, 0, 0, 0, 0, 0, false, false, 0, 0, 0, 1, 0, false, false⟩] }

theorem witness_AcquiresAndReleases : (user {}).xlate 0x100 8 { kind := .load } = .ok [⟨0x100, 8, 0, 0x1F⟩] ∧
    (user {}).xlate 0x100 8 { kind := .store } = .ok [⟨0x100, 8, 0, 0x1F⟩] ∧ NoWait (user {}) [⟨0x100, 8, 0, 0x1F⟩] ∧
    NoWaitAt (user {}) (accessLevel 4) [⟨0x100, 8, 0, 0x1F⟩] ∧
    (served (user {}) [⟨0x100, 8, 0, 0x1F⟩]).flushWaits 0 false ((served (user {}) [⟨0x100, 8, 0, 0x1F⟩]).acquireSig 4 [⟨0x100, 8, 0, 0x1F⟩]) = false ∧
    (served (user {}) [⟨0x100, 8, 0, 0x1F⟩]).flushWaits 0 true (served (user {}) [⟨0x100, 8, 0, 0x1F⟩]).fullSig = false ∧
    (user {}).flushWaits 0 true 0 = false ∧ (user {}).flushWaits 0 false (user {}).ctx.flow.acqSig = false ∧
    (user {}).flushWaits 0 true (user {}).fullSig = false := by
  refine ⟨ok_of ?_, ok_of ?_, ?_, ?_, ?_, ?_, ?_, ?_, ?_⟩ <;> (try simp only [noWait_iff]) <;> decide +kernel

theorem witness_AcquiresAndReleases_fences : (user {}).lent = 0 ∧ (user {}).owesReads 0 = false ∧ (∀ p < 8, (user {}).owesRelease p = false) ∧
    4 ≤ (4#3).toNat ∧ owing.lent = 0 ∧ owing.owesRelease 4 = true ∧ owing.owesRelease 3 = false := by decide +kernel

/-- Context 0 has a load and a store through a cluster window under way, and an acknowledgement outstanding; a sector of stack 0 stands dirty
in its die's L2 while a run claims its channel, on which accesses wait. -/
def underWay : State := { (user {}).modCore 3 fun c => { c with bankReqs :=
    [{ bank := 0, from_ := 1, left := 1, op := some ⟨0, 0, true, 0, 0, 8, none, .landing 0 0⟩ }] } with acks := [⟨0, 0, some 0⟩] }
def storing : State := (user {}).modCore 3 fun c => { c with bankReqs :=
    [{ bank := 0, from_ := 1, left := 1, op := some ⟨0, 0, true, 0, 0, 8, some 5, .landing 0 0⟩ }] }

theorem witness_AcquiresAndReleases_owed : underWay.owesReads underWay.cur.ctx = true ∧ underWay.owesRelease 0 = true ∧
    storing.owesRelease 1 = false ∧ storing.owesRelease 2 = true ∧
    ({ user {} with acks := [⟨0, 0, some 0⟩] } : State).acks.any (fun a => a.core == 0) = true := by decide +kernel

/-! ### Witnesses: the sync engine, queues, rings -/

/-- Slot 0 of context 0's bundle has been answered with `x`. -/
def answered (s : State) (x : Nat) : State := s.modCtx fun c => { c with flow := { c.flow with waits := [(0, .replied x)] } }

/-- Slot 0 waits for the answer to its first request. -/
def asked (s : State) : State := s.modCtx fun c => { c with flow := { c.flow with waits := [(0, .requested 1)] } }

/-- Context 0 with the sync page of die 0 as its page 0. -/
def synced (r : Regs) : State := mapped syncLeaf r

theorem witness_SignalsRelease : (user {}).lent = 0 ∧ (user { s := [(1, 767)] }).targetHere ((user { s := [(1, 767)] }).rS 1) = true ∧
    ((user { s := [(1, 767)] }).rS 1).toNat % 2 ^ 12 / 768 = (user {}).cur.ctx / 768 ∧
    ((user { s := [(1, 768)] }).rS 1).toNat % 2 ^ 12 / 768 ≠ (user {}).cur.ctx / 768 ∧
    (user { s := [(1, 0x7F000)] }).targetHere ((user { s := [(1, 0x7F000)] }).rS 1) = false ∧ (user {}).owes (user {}).cur.ctx = false := by
  decide +kernel

theorem witness_EngineOperationsWait_config : ¬ LegalConfig ((synced {}).rS 1).toNat ∧ ¬ LegalConfig ((synced { s := [(1, 0x100001)] }).rS 1).toNat ∧
    ¬ LegalConfig ((synced { s := [(1, 0x10000001)] }).rS 1).toNat ∧ LegalConfig ((synced { s := [(1, 0xF0FFFFF)] }).rS 1).toNat ∧
    LegalConfig ((synced { s := [(1, 1)] }).rS 1).toNat := by
  unfold LegalConfig; decide +kernel

theorem witness_EngineOperationsWait : (synced {}).xlate 0 16 { kind := .engine } = .ok [⟨syncBase, 16, 0, syncLeaf⟩] ∧
    (synced { s := [(2, 0xFFFF)] }).xlate 0xFFF0 16 { kind := .engine } = .ok [⟨syncBase + 0xFFF0, 16, 0, syncLeaf⟩] ∧
    Unasked (synced {}) ∧ Answered (answered (synced {}) 0) 0 ∧ Answered (answered (synced {}) 1) 1 ∧
    Answered (answered (synced {}) 31) (16 + 15) ∧ (synced { f := 0x8000 }).ctx.r.f.getLsbD 15 = true ∧
    (synced {}).ctx.r.f.getLsbD 0 = false ∧ (synced {}).xlate 8 8 { kind := .waitw, plain := true } = .ok [⟨syncBase + 8, 8, 0, syncLeaf⟩] ∧
    atSync (syncBase + 8) = true ∧ (user {}).xlate 8 8 { kind := .waitw, plain := true } = .ok [⟨8, 8, 0, 0x1F⟩] ∧ atSync 8 = false ∧
    (4, 15) ∉ (synced {}).ctx.flow.parity ∧ (synced {}).syncAhead = false ∧ (synced {}).cur.senders = [] := by
  refine ⟨ok_of ?_, ok_of ?_, ?_, ?_, ?_, ?_, ?_, ?_, ok_of ?_, ?_, ok_of ?_, ?_, ?_, ?_, ?_⟩ <;> (try unfold Unasked) <;> (try unfold Answered) <;>
    decide +kernel

/-- Slot 1 of a bundle whose slot 0 asks, or stores. -/
def following : State := (synced {}).modCur fun c => { c with slot := 1, requests := [{ i := .engineReply, a := 0, b := 0, c := 16 * syncBase }] }
def afterStore : State := (synced {}).modCur fun c => { c with slot := 1, senders := [0] }

theorem witness_EngineOperationsWait_order : Unasked following ∧ following.syncAhead = true ∧
    following.xlate 0 16 { kind := .engine } = .ok [⟨syncBase, 16, 0, syncLeaf⟩] ∧ afterStore.cur.senders ≠ [] ∧
    afterStore.xlate 0 16 { kind := .engine } = .ok [⟨syncBase, 16, 0, syncLeaf⟩] := by
  refine ⟨?_, ?_, ok_of ?_, ?_, ok_of ?_⟩ <;> (try unfold Unasked) <;> decide +kernel

/-- Two version sets, whose records stand at 0x10000 (R342). -/
def versioned (r : Regs) : State := { user r with mgmt := [(0xA00, 0x10000), (0xA08, 2)] }

theorem witness_EngineOperationsWait_sets : (versioned { s := [(2, 1)] }).setCount ≤ 2 ∧ 1 < (versioned {}).setCount ∧
    1 = ((versioned { s := [(2, 0x10001)] }).rS 2).toNat % 2 ^ 16 := by decide +kernel

/-- A queue record at the start of die 0's sync page. -/
def queueAt (i n w : Nat) : State := (((synced {}).memWrite syncBase 8 i).memWrite (syncBase + 8) 4 n).memWrite (syncBase + 12) 4 w

theorem witness_QueuesAndQueries : (queueAt 4 5 0).xlate 0 16 { kind := .engine } = .ok [⟨syncBase, 16, 0, syncLeaf⟩] ∧
    4 = (queueAt 4 5 0).memRead syncBase 8 ∧ 5 = (queueAt 4 5 3).memRead (syncBase + 8) 4 ∧ 0 = (queueAt 4 5 0).memRead (syncBase + 12) 4 ∧
    3 = (queueAt 4 5 3).memRead (syncBase + 12) 4 ∧ 5 = (queueAt 5 5 3).memRead syncBase 8 ∧
    ((queueAt 4 5 0).notePoison 2 syncBase 16).plainMemory syncBase = true := by
  refine ⟨ok_of ?_, ?_, ?_, ?_, ?_, ?_, ?_⟩ <;> decide +kernel

/-- Page 0 is the sync page of package 1, to which a port leads. -/
def remoteTile : State := { mapped ((remoteBase + 2 ^ 45 + syncBase) * 4 + 3 * 2 ^ 13 + 0x17) {} with
  mgmt := [(0xE08, 1)] }

theorem witness_QueuesAndQueries_remote : remoteTile.xlate 0 16 { kind := .engine } =
      .ok [⟨remoteBase + 2 ^ 45 + syncBase, 16, 0, (remoteBase + 2 ^ 45 + syncBase) * 4 + 3 * 2 ^ 13 + 0x17⟩] ∧
    region (remoteBase + 2 ^ 45 + syncBase) = .remote 1 ∧ remoteTile.reachable 1 = true ∧
    ((remoteTile.ask 1 reqTile (remoteBase + 2 ^ 45 + syncBase) 16 0 0).notePoison 2 (remoteBase + 2 ^ 45 + syncBase) 16).plainMemory
      (remoteBase + 2 ^ 45 + syncBase) = true := by
  refine ⟨ok_of ?_, ?_, ?_, ?_⟩ <;> decide +kernel

/-- R94, R220: drawing a tile there sends the owner's engine one request. -/
theorem test_remote_tile : ((remoteTile.ask 1 reqTile (remoteBase + 2 ^ 45 + syncBase) 16 0 0).port 0).replay.length = 1 := by decide +kernel

/-- A basin window: page 0 is of class 2. -/
def windowed (r : Regs) : State := mapped (0x1F + 2 * 2 ^ 13) r

theorem witness_QueuesAndQueries_basin : (windowed {}).xlate 0 1 { kind := .query } = .ok [⟨0, 1, 0, 0x1F + 2 * 2 ^ 13⟩] ∧
    (windowed {}).basinOf 0 = none ∧ region 0 = .hbm ∧ ((windowed {}).stack (stackOf 0)).basins = [] := by
  refine ⟨ok_of ?_, ?_, ?_, ?_⟩ <;> decide +kernel

theorem witness_QueuesAndQueries_covered : ((windowed {}).modStack 0 fun x =>
    { x with basins := [(7, { phase := .armed, result := hbmBase, elems := 32, n := 2, arm := 1 })] }).basinOf 0 ≠ none := by decide +kernel

/-- A barrier record of two arrivals at the start of die 0's SRAM, `n` of which have come. -/
def barrierAt (n e : Nat) : State := ((user {}).memWrite syncBase 8 (3 * 2 ^ 24 + e)).memWrite (syncBase + 8) 4 n

theorem witness_BarrierRecords : RecordAt syncBase 0 ∧ RecordAt (syncBase + 3 * 2 ^ 22 + 0x37FFF0) 3 ∧
    0 = (barrierAt 0 2).memRead (syncBase + 8) 4 ∧ 2 = (barrierAt 0 2).memRead syncBase 8 % 2 ^ 20 ∧
    (∀ w ∈ ((barrierAt 0 2).die 0).watches, w.ctx < peerCtx) ∧ 1 = (barrierAt 1 2).memRead (syncBase + 8) 4 ∧ ¬ (1 < (1 : Word).toNat % 2 ^ 20) ∧ 1 < (2 : Word).toNat % 2 ^ 20 := by
  unfold RecordAt; decide +kernel

/-- An engine's step for the request of context 0's slot 0. -/
def replying (s : State) (c : Nat) (v : Word) : State := { asked s with arg := { i := .engineReply, a := 0, b := 0, c := c, d := 0, v := v } }

theorem witness_EngineAnswers : (user {}).awaited { i := .engineReply } = false ∧
    (replying (barrierAt 0 2) (16 * syncBase) 2).awaited (replying (barrierAt 0 2) (16 * syncBase) 2).arg = true ∧
    (replying (barrierAt 0 2) 0 0).memRead syncBase 8 % 2 ^ 20 ≠ 0 ∧ (replying (user {}) 0 0).memRead syncBase 8 % 2 ^ 20 = 0 ∧
    (∀ p < 6, (replying (barrierAt 0 2) 0 0).releaseOwes 0 p = false ∧ (replying owing 0 0).releaseOwes 0 4 = true) ∧
    (replying (barrierAt 0 2) 0 0).flushWaits 0 true 0 = false ∧
    (barrierAt 1 2).memRead syncBase 8 % 2 ^ 20 ≤ (barrierAt 1 2).memRead (syncBase + 8) 4 + 1 ∧
    (replying (barrierAt 0 2) 0 0).entriesFull (syncDie syncBase) = false ∧
    intCond 64 0 ((replying (barrierAt 0 2) 0 0).memRead syncBase 8) 0 ≠ intCond 64 1 ((replying (barrierAt 0 2) 0 0).memRead syncBase 8) 0 := by
  decide +kernel

theorem witness_EngineAnswers_rounds : countDiff ((versioned {}).setRound 1) (0 % 2 ^ 32) < 2 ^ 31 ∧
    ¬ countDiff ((versioned {}).setRound 1) (1 % 2 ^ 32) < 2 ^ 31 ∧ (0x8000000000000000 : Word).getLsbD 63 = true ∧
    (replying (versioned {}) 0 0).entriesFull (syncDie ((replying (versioned {}) 0 0).setAt 1)) = false ∧
    Store.get (.requested 0) ((asked (user {})).ctxAt 0).flow.waits 0 = .requested (0 + 1) ∧ (asked (user {})).arg.l = [] ∧
    (asked (user {})).dramWaits (.step (asked (user {})).arg) 0x100 8 = false := by decide +kernel

/-- A delivery of flag 15 to context 5 of generation 1, sent by `sig`. -/
def delivering (s : State) (x gen c : Nat) : State := { s with arg := { i := .signalDelivery, a := 0, b := 15, c := c, v := BitVec.ofNat 64 (gen * 2 ^ 32 + x) } }

/-- The directory entry of context 5: live, or an alias. -/
def liveEntry : State := ((user {}).memWrite (dirEntry 5) 4 1).memWrite (dirEntry 5 + 4) 1 1
def aliasEntry (state word : Nat) : State :=
  (((user {}).memWrite (dirEntry 5 + 5) 1 state).memWrite (dirEntry 5 + 8) 4 1).memWrite (dirEntry 5 + 16) 8 word

theorem witness_SignalDeliveries : (delivering liveEntry 5 1 0).targetHere (delivering liveEntry 5 1 0).arg.v = true ∧
    5 = (delivering liveEntry 5 1 0).arg.v.toNat % 2 ^ 12 ∧ 1 = (delivering liveEntry 5 1 0).arg.v.toNat / 2 ^ 32 ∧
    (isLive (delivering liveEntry 5 1 0) 5 ∧ liveGen (delivering liveEntry 5 1 0) 5 = 1) ∧
    ¬ (isLive (delivering liveEntry 5 2 0) 5 ∧ liveGen (delivering liveEntry 5 2 0) 5 = 2) ∧ aliasGen (delivering liveEntry 5 2 0) 5 ≠ 2 ∧
    (aliasState (delivering (aliasEntry 2 0) 5 1 1) 5 = 2 ∧ aliasGen (delivering (aliasEntry 2 0) 5 1 1) 5 = 1) ∧
    (aliasState (delivering (aliasEntry 1 (syncBase + 64)) 5 1 1) 5 = 1 ∧ GoodWord 5 (aliasWord (delivering (aliasEntry 1 (syncBase + 64)) 5 1 1) 5)) ∧
    3072 ≤ (delivering liveEntry 3072 1 1).arg.v.toNat % 2 ^ 12 := by
  simp only [isLive, liveGen, aliasState, aliasGen, aliasWord, GoodWord]; decide +kernel

/-- Cores 1 and 5 of die 0 want a start token; core 1 had the last one. -/
def wanting (now : Nat) : State := { (user {}).modDie 0 fun d =>
  { d with tokenWants := [1, 5], tokenLast := some 10, tokenCore := 1, rampLimit := 255 } with now := now, arg := { i := .tokenGrant } }

theorem witness_SyncRegistersAndTokens_stage : ((user {}).mc.stage ≠ 1 ∧ (user {}).mc.stage ≠ 2) ∧
    ({ user {} with mc := { (user {}).mc with stage := 1 } }).mc.stage = 1 := by decide

theorem witness_SyncRegistersAndTokens : 5 ∈ ((wanting 5000).die 0).tokenWants ∧ 0 < (wanting 5000).now ∧
    10 + ((wanting 5000).die 0).tokenGap ≤ (wanting 5000).now - 1 ∧ (wanting 11).now - 1 < 10 + ((wanting 11).die 0).tokenGap ∧
    ((user {}).die (user {}).arg.a).tokenWants = [] ∧
    (∀ w ∈ ((wanting 5000).die 0).tokenWants,
      if ((wanting 5000).die 0).tokenLast.isSome = true ∧ ((wanting 5000).die 0).tokenCore < 5 then w ≤ ((wanting 5000).die 0).tokenCore ∨ 5 ≤ w
      else 5 ≤ w ∧ ¬ (((wanting 5000).die 0).tokenLast.isSome = true ∧ ((wanting 5000).die 0).tokenCore < w)) := by decide +kernel

/-- A ring of two stages of 256 bytes at local address 0 of core `home`, bound to handle 1 on `side`. -/
def ringed (side home puts takes filled drained : Nat) (r : Regs) : State :=
  ((user { r with h := [(1, BitVec.ofNat 64 (2 ^ 31 + side * 2 ^ 8 + 3))] }).modCluster 0 fun c => { c with rings := [(3, some
    { launch := none, key := 0x400, home := home, stageLog2 := 8, stages := 2, prod := 1, cons := 1, consH := 1, filled := filled, drained := drained
      puts := [(0, puts)], takes := [(0, takes)] })] }).modCore home fun c => { c with bankRole := 1 }

theorem witness_RingCounts : (∃ r, Bound (ringed 1 0 1 0 0 0 {}) 1 3 r 1 ∧ (ringed 1 0 1 0 0 0 {}).engineOwes true = false ∧
      Store.get 0 r.puts 0 + Store.get 0 r.newPuts 0 < r.drained + r.stages) ∧
    (∃ r, Bound (ringed 1 0 2 0 0 0 {}) 1 3 r 1 ∧ r.drained + r.stages ≤ Store.get 0 r.puts 0 + Store.get 0 r.newPuts 0) ∧
    (∃ r, Bound (ringed 2 0 1 1 1 0 {}) 1 3 r 2 ∧ r.filled ≤ Store.get 0 r.takes 0 + Store.get 0 r.newTakes 0) ∧
    (∃ r, Bound (ringed 2 0 1 0 1 0 {}) 1 3 r 2 ∧ (ringed 2 0 1 0 1 0 {}).engineOwes false = false ∧
      Store.get 0 r.takes 0 + Store.get 0 r.newTakes 0 < r.filled) ∧
    (∃ r, Bound (ringed 0 0 1 0 1 0 {}) 1 3 r 0) ∧ ((ringed 1 0 1 0 0 0 {}).ctx.r.getH 0).toNat / 2 ^ 31 % 2 = 0 ∧
    ((ringed 1 0 0 0 0 0 {}).cluster (clusterOf (ringed 1 0 0 0 0 0 {}).coreId)).findRing none 0x400 ≠ none := by
  refine ⟨⟨_, ⟨by decide, by decide, by decide, rfl⟩, by decide, by decide⟩, ⟨_, ⟨by decide, by decide, by decide, rfl⟩, by decide⟩,
    ⟨_, ⟨by decide, by decide, by decide, rfl⟩, by decide⟩,
    ⟨_, ⟨by decide, by decide, by decide, rfl⟩, by decide, by decide⟩, ⟨_, by decide, by decide, by decide, rfl⟩, by decide, by decide +kernel⟩

/-- An engine image that context 0's write of cycle 0 has yet to finish. -/
def owingEngine : State := { (ringed 1 0 0 0 0 0 {}).modCore 0 fun c => { c with images := [⟨1, 0, 0, 4, 3, 0, true, 0⟩] } with now := 4 }

/-- The drain of the same image reads for a consumer; and a store of context 0 to core 3 waits at its bank. -/
def owingRead : State := { (ringed 2 0 0 0 0 0 {}).modCore 0 fun c => { c with images := [⟨1, 0, 0, 4, 3, 0, false, 0⟩] } with now := 4 }
def owingStore : State := (ringed 1 0 0 0 0 0 {}).modCore 3 fun c => { c with bankReqs :=
    [{ bank := 0, from_ := 1, left := 1, op := some ⟨0, 0, false, 0, 0, 8, some 5, .landing 0 0⟩ }] }

theorem witness_RingCounts_engine : owingEngine.engineOwes true = true ∧ owingRead.engineOwes false = true ∧
    owingStore.owesWindow owingStore.cur.ctx = true ∧ (ringed 1 0 1 0 0 0 {}).owesWindow 0 = false := by decide +kernel

theorem witness_RingCounts_new : ((user {}).rS 0).toNat % 16 = 0 ∧ ((user { s := [(1, 8)] }).rS 1).toNat % 16 ≠ 0 ∧
    (∀ s ∈ [user {}, answered (user {}) 0, answered (user {}) 6],
      (s.cluster (clusterOf s.coreId)).findRing s.ctx.launch (s.rS 0) = none ∧ NoWait s [⟨0, 80, 0, 0x1F⟩]) ∧
    (user {}).xlate 0 80 { kind := .load } = .ok [⟨0, 80, 0, 0x1F⟩] ∧
    (answered (user {}) 0).xlate 0 80 { kind := .load } = .ok [⟨0, 80, 0, 0x1F⟩] ∧
    Unasked (user {}) ∧ Answered (answered (user {}) 0) 0 ∧ Answered (answered (user {}) 6) 6 ∧
    ((user {}).cluster 0).ringRoom ≠ 0 ∧ ((user {}).cluster 0).freeRing = some 0 ∧
    ringValid 0 = false ∧ ringValid (2 ^ 384 + 2 ^ 128 + 2 ^ 72 + 2 * 2 ^ 48 + 8 * 2 ^ 40) = true := by
  refine ⟨?_, ?_, ?_, ok_of ?_, ok_of ?_, ?_, ?_, ?_, ?_, ?_, ?_, ?_⟩ <;> (try simp only [Unasked, Answered, noWait_iff]) <;> decide +kernel

/-- A ring of two stages of 256 bytes whose record stands at 0x800. -/
def ringRecorded (x : Nat) : State := (answered (ringed 1 0 0 0 0 0 { s := [(1, 0x800)] }) x).memWrite 0x800 80 (2 ^ 384 + 2 ^ 128 + 2 ^ 72 + 2 * 2 ^ 48 + 8 * 2 ^ 40)

theorem witness_RingCounts_issues : Answered (ringRecorded 0) 0 ∧ NoWait (ringRecorded 0) [⟨0x800, 80, 0, 0x1F⟩] ∧
    (ringRecorded 0).xlate ((ringRecorded 0).rS 1).toNat 80 { kind := .load } = .ok [⟨0x800, 80, 0, 0x1F⟩] ∧
    ((ringRecorded 0).cluster 0).findRing (ringRecorded 0).ctx.launch ((ringRecorded 0).rS 1) = none ∧
    ringValid (((served (ringRecorded 0) [⟨0x800, 80, 0, 0x1F⟩]).readPieces [⟨0x800, 80, 0, 0x1F⟩])).1 = true ∧
    ((((served (ringRecorded 0) [⟨0x800, 80, 0, 0x1F⟩]).readPieces [⟨0x800, 80, 0, 0x1F⟩])).2.cluster 0).ringRoom ≠ 0 ∧
    ((((served (ringRecorded 0) [⟨0x800, 80, 0, 0x1F⟩]).readPieces [⟨0x800, 80, 0, 0x1F⟩])).2.cluster 0).freeRing = some 0 ∧
    ({ asked (user {}) with arg := { i := .engineReply, a := 0, b := 0, c := 7 + 16 * 1 } } : State).awaited { i := .engineReply, a := 0, b := 0, c := 7 + 16 * 1 } = true := by
  refine ⟨?_, ?_, ok_of ?_, ?_, ?_, ?_, ?_, ?_⟩ <;> (try simp only [Answered, noWait_iff]) <;> decide +kernel

theorem witness_RingAccesses : (∃ r, StageOpen (ringed 1 0 0 0 0 0 {}) 1 3 r 1 0 8 ∧ StageOpen (ringed 1 0 0 0 0 0 {}) 1 3 r 1 1 256 ∧
      0 = clusterOf (ringed 1 0 0 0 0 0 {}).coreId * 64 + r.home ∧ r.base % 128 = 0 ∧ 7 ≤ r.stageLog2) ∧
    LocalServed (ringed 1 0 0 0 0 0 {}) 0xF8 8 true ∧ LocalServed (ringed 1 0 0 0 0 0 {}) 0x180 128 false ∧
    (∃ r, StageOpen (ringed 2 5 1 0 2 0 {}) 1 3 r 2 0 8 ∧ 5 = clusterOf (ringed 2 5 1 0 2 0 {}).coreId * 64 + r.home) ∧
    roleOf ((ringed 2 5 1 0 2 0 {}).core 5).bankRole (8 / 2 ^ 14) = 1 ∧ ((ringed 2 5 1 0 2 0 {}).core 5).isChanging 0 0 = false ∧
    ((ringed 2 5 1 0 2 0 {}).core 5).lineHeld 0 0 false false = false ∧ ((ringed 2 5 1 0 2 0 {}).core 5).lineHeld 0 0 true false = false ∧
    (∃ r, Bound (ringed 2 0 0 0 0 0 {}) 1 3 r 2 ∧ r.forbids 2 (useOf (ringed 2 0 0 0 0 0 {}) r 2 0) = true) := by
  refine ⟨⟨_, ⟨⟨by decide, by decide, by decide, rfl⟩, by decide⟩, ⟨⟨by decide, by decide, by decide, rfl⟩, by decide⟩, by decide, by decide, by decide⟩,
    ?_, ?_, ⟨_, ⟨⟨by decide, by decide, by decide, rfl⟩, by decide⟩, by decide⟩, ?_, ?_, ?_, ?_, ⟨_, ⟨by decide, by decide, by decide, rfl⟩, by decide⟩⟩ <;> (try simp only [LocalServed]) <;> decide +kernel

/-! ### Witnesses: accumulate-writes, tiles, the réseau unit -/

/-- An armed basin of one half, whose results stand at the start of stack 0, and page 0 as its window. -/
def basined (r : Regs) : State := (windowed r).modStack 0 fun x =>
  { x with basins := [(7, { phase := .armed, result := hbmBase, elems := 32, n := 2, mode := 1, arm := 1 })] }

/-- What the engine answers when it grants one half of that basin. -/
def oneHalf : Granted := ⟨0, 7, 1, 0⟩

theorem witness_AccumulateWrites : (∀ s ∈ [basined {}, answered (basined {}) 7, answered (basined {}) (packGrant [some oneHalf])],
      (match s.xlate 0 128 { kind := .confluence } with
        | .ok m => decide (m = [⟨0, 128, 0, 0x1F + 2 * 2 ^ 13⟩])
        | .error _ => false) = true ∧ s.cur.reserving = false) ∧ region 0 = .hbm ∧
    ((basined {}).modCur fun c => { c with reserving := true }).cur.reserving = true ∧
    Unasked (basined {}) ∧ Answered (answered (basined {}) 7) 7 ∧
    Answered (answered (basined {}) (packGrant [some oneHalf])) (packGrant [some oneHalf]) ∧ 8 ≤ packGrant [some oneHalf] ∧
    grantAt (packGrant [some oneHalf]) 0 = some oneHalf := by
  refine ⟨?_, ?_, ?_, ?_, ?_, ?_, ?_, ?_⟩ <;> (try unfold Unasked) <;> (try unfold Answered) <;> decide +kernel

/-- The same with a basin of 32 halves, for a tile of type 7, and every tile owned. -/
def basinedTile : State := ((basined {}).modStack 0 fun x =>
  { x with basins := [(7, { phase := .armed, result := hbmBase, elems := 1024, n := 2, mode := 1, arm := 1 })] }).modCore 0 fun c =>
    { c with accOwn := 0xF }

theorem witness_TilesToBasins : basinedTile.rounding = some (7, false) ∧ Owns basinedTile 3 ∧ 4096 = imageBytes 9 ∧
    basinedTile.xlate 0 4096 { kind := .confluence } = .ok [⟨0, 4096, 0, 0x1F + 2 * 2 ^ 13⟩] ∧
    (basinedTile.core basinedTile.coreId).isBusy 0 (.tile 3) = false ∧
    ((basinedTile.modCore 0 fun c => { c with busy := [{ kind := .tile 3, ctx := 0, last := 9 }] }).core 0).isBusy 1 (.tile 3) = true ∧
    Unasked basinedTile ∧ basinedTile.cur.reserving = false ∧ Grants (packGrant (List.replicate 32 (some oneHalf))) (4096 / 128) ∧
    Answered (answered basinedTile (packGrant (List.replicate 32 (some oneHalf)))) (packGrant (List.replicate 32 (some oneHalf))) := by
  refine ⟨?_, ?_, ?_, ok_of ?_, ?_, ?_, ?_, ?_, ?_, ?_⟩ <;> (try unfold Owns) <;> (try unfold Unasked) <;> (try unfold Answered) <;>
    (try unfold Grants) <;> decide +kernel

/-- A grid of one dimension and one level on page 0 of class 1, its table at 0x2000, its gradients in the basin window at 0x10000. -/
def grid (r : Regs) : State :=
  let leaf1 := 0x1F + 2 ^ 13
  let leaf2 := 2 ^ 18 + 0x1F + 2 * 2 ^ 13
  let s := (user r).modCore 0 fun c => { c with tlb := [⟨0, 1, leaf1⟩, ⟨1, 1, leaf2⟩] }
  (s.memWrite 0 16 (1 + 2 ^ 8)).memWrite 16 32 (4 + 4 * 2 ^ 32 + 2 ^ 39 + 0x2000 * 2 ^ 64 + 0x10000 * 2 ^ 128)

/-- Its level record, as read. -/
def gridG : Grid := gridOf (1 + 2 ^ 8) (4 + 4 * 2 ^ 32 + 2 ^ 39 + 0x2000 * 2 ^ 64 + 0x10000 * 2 ^ 128)

def gridHeader : List Piece := [⟨0, 16, 0, 0x1F + 2 ^ 13⟩]
def gridRecord : List Piece := [⟨16, 32, 0, 0x1F + 2 ^ 13⟩]

/-- The state after the header and record are read. -/
def gridRead (s : State) : State := (((served s (gridHeader ++ gridRecord)).readPieces gridHeader).2.readPieces gridRecord).2

/-- Lane 0 at 0.5 in `v1`, its gradient term 1.0 in `v2`; no lane enabled by `k2`. -/
def gridRegs : Regs := { k := [(1, 1)], v := [(1, vec [0x3F000000]), (2, vec [0x3F800000])] }

/-- The same once a basin of one half has granted a reservation. -/
def gridGranted : State := (answered (grid gridRegs) (packGrant [some oneHalf])).modStack 0 fun x =>
  { x with basins := [(7, { phase := .armed, result := home 0x10000, elems := 32, n := 2, mode := 1, arm := 1 })] }

/-- The same while the unit's answer is the last one; and with two operations in the unit. -/
def gridEntered : State := (answered (grid gridRegs) 20).modCtx fun c => { c with flow := { c.flow with waitOps := [(0, opUnit)] } }
def gridFull : State := (grid gridRegs).modCore 0 fun c => { c with reseau := [(0, 7), (8, 9)] }

theorem gridRead_ok (s : State) (hs : s = grid gridRegs ∨ s = gridGranted) (scat : Bool) (last : Grid → Nat) (h : last gridG ≤ 31) :
    GridRead s 0 0 scat last gridG (gridRead s) := by
  rcases hs with rfl | rfl
  · refine ⟨gridHeader, gridRecord, 1 + 2 ^ 8, 4 + 4 * 2 ^ 32 + 2 ^ 39 + 0x2000 * 2 ^ 64 + 0x10000 * 2 ^ 128,
      ((served (grid gridRegs) (gridHeader ++ gridRecord)).readPieces gridHeader).2, ok_of (by decide +kernel), ok_of (by decide +kernel),
      noWait_iff.2 (by decide +kernel),
      Prod.ext (by decide +kernel) rfl, Prod.ext (by decide +kernel) rfl, by decide +kernel, by decide +kernel, ?_, rfl, h⟩
    cases scat <;> decide +kernel
  · refine ⟨gridHeader, gridRecord, 1 + 2 ^ 8, 4 + 4 * 2 ^ 32 + 2 ^ 39 + 0x2000 * 2 ^ 64 + 0x10000 * 2 ^ 128,
      ((served gridGranted (gridHeader ++ gridRecord)).readPieces gridHeader).2, ok_of (by decide +kernel), ok_of (by decide +kernel),
      noWait_iff.2 (by decide +kernel),
      Prod.ext (by decide +kernel) rfl, Prod.ext (by decide +kernel) rfl, by decide +kernel, by decide +kernel, ?_, rfl, h⟩
    cases scat <;> decide +kernel

theorem witness_GridLoads : GridRead (grid gridRegs) 0 0 false (fun g => max (1 + g.dims - 1) (4 + g.feats - 1)) gridG (gridRead (grid gridRegs)) ∧
    (gridRead (grid gridRegs)).xlate gridG.table 1 { kind := .reseau } = .ok [⟨0x2000, 1, 0, 0x1F + 2 ^ 13⟩] ∧
    leavesPage ⟨0x2000, 1, 0, 0x1F + 2 ^ 13⟩ (2 ^ gridG.tlog2 * (gridG.feats * gridG.featBytes)) = false ∧
    leavesPage ⟨0xFFF0, 1, 0, 0x1F + 2 ^ 13⟩ (2 ^ gridG.tlog2 * (gridG.feats * gridG.featBytes)) = true ∧
    NoWait (gridRead (grid gridRegs)) (((gridRead (grid gridRegs)).entriesOf gridG 1 ((gridRead (grid gridRegs)).rK 1)).map fun e =>
      { (⟨0x2000, 1, 0, 0x1F + 2 ^ 13⟩ : Piece) with pa := 0x2000 + e * (gridG.feats * gridG.featBytes), n := gridG.feats * gridG.featBytes }) ∧
    (∀ r ∈ groupRegs 1 gridG.dims ++ groupRegs 2 gridG.feats, r ∉ (gridRead (grid gridRegs)).ctx.flow.parity) ∧
    ((grid {}).core 0).reseauFull 0 = false ∧ (gridRead (grid gridRegs)).hasEntered = false ∧ (gridRead gridEntered).hasEntered = true ∧
    (((grid {}).modCore 0 fun c => { c with reseau := [(0, 7), (8, 9)] }).core 0).reseauFull 3 = true ∧
    headerOk 0 = false ∧ (1 + 2 ^ 8) / 2 ^ 8 % 32 ≤ (1#4).toNat := by
  refine ⟨gridRead_ok _ (.inl rfl) _ _ (by decide), ok_of ?_, ?_, ?_, ?_, ?_, ?_, ?_, ?_, ?_, ?_, ?_⟩ <;> (try simp only [noWait_iff]) <;> decide +kernel

theorem witness_GridScatters : GridRead (grid gridRegs) 0 0 true (fun g => max (1 + g.dims - 1) (2 + g.feats - 1)) gridG (gridRead (grid gridRegs)) ∧
    GridRead (grid gridRegs) 0 0 true (fun g => 1 + g.dims - 1) gridG (gridRead (grid gridRegs)) ∧
    (gridRead (grid gridRegs)).xlate gridG.grad 1 { kind := .confluence } = .ok [⟨0x10000, 1, 0, 2 ^ 18 + 0x1F + 2 * 2 ^ 13⟩] ∧
    leavesPage ⟨0x10000, 1, 0, 2 ^ 18 + 0x1F + 2 * 2 ^ 13⟩ (2 ^ gridG.tlog2 * gridG.feats * 4) = false ∧ region 0x10000 = .hbm ∧
    (gridRead (grid gridRegs)).ctx.flow.writesAny 2 gridG.feats = false ∧ (gridRead (grid gridRegs)).ctx.flow.writesAny 1 gridG.dims = false ∧
    halvesOf gridG (byCorner gridG.dims ((gridRead (grid gridRegs)).allTerms gridG 2 1 ((gridRead (grid gridRegs)).rK 1)).1) = [0] ∧
    halvesOf gridG (byCorner gridG.dims ((gridRead (grid gridRegs)).allTerms gridG 2 1 ((gridRead (grid gridRegs)).rK 2)).1) = [] ∧
    (gridRead (grid gridRegs)).owesPackets 0 = false ∧ owing.owesPackets 0 = true ∧ region (0x10000 + 128 * 0) = .hbm ∧
    Unasked (gridRead (grid gridRegs)) ∧ (grid gridRegs).lent = 0 ∧ (gridRead (grid gridRegs)).cur.reserving = false ∧
    ((gridRead (grid gridRegs)).core (gridRead (grid gridRegs)).coreId).reseauFull 0 = false ∧
    (gridRead (grid gridRegs)).reseauSoFar.reseauFull 0 = false ∧ (gridRead (grid gridRegs)).cur.units = [] ∧
    (gridRead gridFull).reseauSoFar.reseauFull 3 = true ∧ Answered (gridRead gridEntered) 20 ∧ (gridRead gridEntered).cur.reserving = false ∧
    (gridRead gridGranted).hasEntered = false := by
  refine ⟨gridRead_ok _ (.inl rfl) _ _ (by decide), gridRead_ok _ (.inl rfl) _ _ (by decide), ok_of ?_, ?_, ?_, ?_, ?_, ?_, ?_, ?_, ?_, ?_, ?_,
    ?_, ?_, ?_, ?_, ?_, ?_, ?_, ?_, ?_⟩ <;> (try unfold Unasked) <;> (try unfold Answered) <;> decide +kernel

theorem witness_GridScatters_granted :
    GridRead gridGranted 0 0 true (fun g => max (1 + g.dims - 1) (2 + g.feats - 1)) gridG (gridRead gridGranted) ∧
    GridRead gridGranted 0 0 true (fun g => 1 + g.dims - 1) gridG (gridRead gridGranted) ∧
    Answered (gridRead gridGranted) (packGrant [some oneHalf]) ∧ Grants (packGrant [some oneHalf]) 1 ∧
    (gridRead gridGranted).owesPackets (gridRead gridGranted).cur.ctx = false ∧ (gridRead gridGranted).cur.reserving = false ∧
    halvesOf gridG (byCorner gridG.dims ((gridRead gridGranted).allTerms gridG 2 1 ((gridRead gridGranted).rK 1)).1) = [0] := by
  refine ⟨gridRead_ok _ (.inr rfl) _ _ (by decide), gridRead_ok _ (.inr rfl) _ _ (by decide), ?_, ?_, ?_, ?_, ?_⟩ <;> (try unfold Answered) <;>
    (try unfold Grants) <;> decide +kernel

/-! ### Witnesses: delta processors -/

/-- Stack 0's processor executes the run `r` in cycle 100 of the module. -/
def running (r : Run) : State := { State.reset with agenda := [], now := 100 }.setRun 0 (some r)

/-- A run in execution whose program starts with a word of zeros. -/
def someRun : Run := { placedRun 0 with pchMask := 0xF }

theorem issues_running (r : Run) (w : BitVec 6) : Issues (running r) w r (r.settle (max (r.next + w.toNat) r.held)) (max (r.next + w.toNat) r.held) :=
  ⟨by show (0 : Nat) < 16; decide, rfl, rfl, rfl⟩

theorem witness_DeltaResultsLand : someRun.pending = [] ∧ (3#4) ≠ 2 ∧ (0 : Nat) < 1024 ∧ (1023 : Nat) < 1024 := by decide

theorem witness_DeltaLanes : Issues (running someRun) 63 someRun (someRun.settle (max (0 + 63) 0)) (max (0 + 63) 0) ∧
    (true = true ∧ Instr.dmin 63 ⟨1, 2, 3, 0, 0, 0, 0, 0, 0, 0⟩ = .dmin 63 ⟨1, 2, 3, 0, 0, 0, 0, 0, 0, 0⟩) := ⟨issues_running someRun 63, rfl, rfl⟩

theorem witness_DeltaComparesAndConversions : Issues (running someRun) 0 someRun (someRun.settle 0) 0 ∧ 13 = (13#5).toNat ∧ 13 ≤ 13 ∧
    14 ≤ (14#5).toNat ∧ (15#5).toNat ≤ 15 ∧ 31 < 32 ∧ 8 = typeWidth 13 := ⟨issues_running someRun 0, by decide⟩

/-- `e1` is 1, `e2` an odd address, `e3` 1024, `e4` the stride 1024 past the claimed channels. -/
def deltaE : Run := { someRun with e := [(1, 1), (2, 5), (3, 1024), (4, 0x10000), (6, 8)] }

theorem witness_DeltaScalars : Issues (running deltaE) 0 deltaE (deltaE.settle 0) 0 ∧ (deltaE.settle 0).getE 1 = 1 ∧ (deltaE.settle 0).getE 0 ≠ 1 ∧
    intCond 64 0 ((deltaE.settle 0).getE 0).toNat ((deltaE.settle 0).getE 0).toNat ≠
      intCond 64 1 ((deltaE.settle 0).getE 0).toNat ((deltaE.settle 0).getE 0).toNat ∧
    (((deltaE.settle 0).getE 2).toNat % 8 ≠ 0 ∧ ((deltaE.settle 0).getE 6).toNat % 8 = 0) :=
  ⟨issues_running deltaE 0, by decide +kernel⟩

/-- A run that claims no channel loads eight bytes. -/
def unclaimed : Run := { placedRun 0 with e := [(6, 8)] }

theorem witness_DeltaScalars_load : Issues (running unclaimed) 0 unclaimed (unclaimed.settle 0) 0 ∧ region ((unclaimed.settle 0).getE 6).toNat = .hbm ∧
    (unclaimed.settle 0).claims 0 8 8 = false ∧ (running unclaimed).memPoisoned 8 8 = false ∧
    moduleMemory (2 ^ 51) = false ∧ someRun.claims 0 0 8 = true ∧
    (running unclaimed).dramWaits (.run 0) 8 8 = false := ⟨issues_running unclaimed 0, by decide +kernel⟩

/-- The run of stack 0 loads from a channel that a run of stack 1 claims. -/
def contended : Run := { placedRun 0 with e := [(6, BitVec.ofNat 64 (hbmBase + 2 ^ 36))] }
def contending : State := (running contended).setRun 1 (some someRun)

theorem witness_DeltaScalars_queues : Issues contending 0 contended (contended.settle 0) 0 ∧
    (contending.dramWaits (.run contending.cur.stack) (hbmBase + 2 ^ 36) 8 = true ∧ ((contended.settle 0).getE 6).toNat = hbmBase + 2 ^ 36 ∧
      region (hbmBase + 2 ^ 36) = .hbm ∧ (contended.settle 0).claims 0 (hbmBase + 2 ^ 36) 8 = false) :=
  ⟨⟨by decide, rfl, rfl, rfl⟩, by decide +kernel⟩

theorem placed_of {x : Except Nat (Run × Nat)} {y : Run × Nat}
    (h : (match x with | .ok m => decide (m = y) | .error _ => false) = true) : x = .ok y := by
  cases x with
  | error _ => simp at h
  | ok m => simpa using h

theorem witness_DeltaMemory_placed : ∃ (q' : Run) (e : Nat), SegsPlaced (running deltaE) (deltaE.settle 0) 0 0 3 0 q' e ∧
    (∀ x ∈ segsOf (deltaE.settle 0) 0 3 4, (running deltaE).memPoisoned (segPa 0 x) 1024 = false) ∧
    (∀ i j, i < j → j < 4 → ∀ x y, (segsOf (deltaE.settle 0) 0 3 4)[i]? = some x → (segsOf (deltaE.settle 0) 0 3 4)[j]? = some y →
      segPa 0 x + 1024 ≤ segPa 0 y ∨ segPa 0 y + 1024 ≤ segPa 0 x) := by
  have hs : segsOf (deltaE.settle 0) 0 3 4 = [0, 1024, 2048, 3072] := by decide +kernel
  refine ⟨_, 40, ⟨by decide +kernel, by decide +kernel, placed_of (y := ({ deltaE with
    rowStart := [(0, 1), (64, 1), (128, 1), (192, 1)], pchEnd := [(0, 40), (1, 40), (2, 40), (3, 40)] }, 40)) (by decide +kernel)⟩,
    by decide +kernel, ?_⟩
  intro i j hij hj x y hx hy
  rw [hs] at hx hy
  have : i < 4 := by omega
  have key : ∀ i < 4, ∀ j < 4, i < j → segPa 0 ([0, 1024, 2048, 3072].getD i 0) + 1024 ≤ segPa 0 ([0, 1024, 2048, 3072].getD j 0) := by decide +kernel
  have hx' : [0, 1024, 2048, 3072].getD i 0 = x := by rw [List.getD_eq_getElem?_getD, hx]; rfl
  have hy' : [0, 1024, 2048, 3072].getD j 0 = y := by rw [List.getD_eq_getElem?_getD, hy]; rfl
  have := key i this j hj hij
  rw [hx', hy'] at this
  exact .inl this

/-- A run with a load of all banks under way. -/
def loadingAll : Run := { someRun with dldb := some ⟨1, [0, 1024, 2048, 3072], 1024, 4, none, false, false, 0, 0⟩ }

theorem witness_DeltaMemory : Issues (running loadingAll) 0 loadingAll (loadingAll.settle 0) 0 ∧
    ((loadingAll.settle 0).dldb.any fun x => !x.waited) = true ∧ ((deltaE.settle 0).dldb.any fun x => !x.waited) = false ∧
    (∃ x ∈ segsOf (deltaE.settle 0) 2 3 4, (running deltaE).segOk 0 1024 x = false) ∧ (deltaE.settle 0).dramDone ≤ 0 ∧
    (∀ x ∈ segsOf (deltaE.settle 0) 0 3 (4096 / 1024), (running deltaE).segOk 0 1024 x = true) ∧
    (∀ x ∈ segsOf (deltaE.settle 0) 0 3 (4096 / 1024), x.testBit 36 = true ∨ (deltaE.settle 0).pchMask.getLsbD (pchOf x) = true) ∧
    (∀ x ∈ segsOf (deltaE.settle 0) 0 3 (4096 / 1024), (running deltaE).memPoisoned (segPa 0 x) 1024 = false) :=
  ⟨issues_running loadingAll 0, by decide +kernel⟩

/-- Three runs that break a rule of R320 with that access: its channel is another's, is busy still, has read its row 20 cycles before. -/
def breaking (mask : BitVec 64) (ends rows : Store Nat) : Run := { deltaE with pchMask := mask, pchEnd := ends, rowStart := rows }

theorem witness_DeltaMemory_breaks :
    (∀ e ∈ [(breaking 0 [] [], 0, 4), (breaking 0xF [(0, 60)] [], 50, 3), (breaking 0xF [] [(0, 31)], 50, 2)],
      (match e.1.place e.2.1 1024 (segsOf e.1 0 3 4) [] 0 with
        | .error x => decide (x = e.2.2)
        | .ok _ => false) = true ∧ ∀ x ∈ segsOf e.1 0 3 4, (running e.1).segOk 0 1024 x = true) ∧
    (0 : Nat).testBit 36 = false ∧ pchOf 0 = 0 ∧ bankOf 0 = 0 := by decide +kernel

/-- The last wave is under way, and the load lands in cycle 50; and a run that exits between waves. -/
def landing50 : Run := { loadingAll with dldb := some ⟨1, [0, 1024, 2048, 3072], 1024, 4, some 50, false, false, 0, 0⟩ }
def exitingRun : Run := { loadingAll with phase := .exiting }

theorem witness_AllBankLoadsLand : (running landing50).runOf (running landing50).arg.a = some landing50 ∧
    { running landing50 with arg := { i := .dldbComplete, a := 0, b := 50 } }.arg.b = 50 ∧ (running landing50).arg.a = (running landing50).cur.stack ∧
    landing50.dldb = some ⟨1, [0, 1024, 2048, 3072], 1024, 4, some 50, false, false, 0, 0⟩ ∧ loadingAll.phase = .running ∧ exitingRun.phase ≠ .running ∧
    (∀ y ∈ [0, 1024, 2048, 3072], (running landing50).memPoisoned (segPa 0 y) 1024 = false) ∧ landing50.phase = .running ∧
    (∃ y ∈ [0, 1024, 2048, 3072], State.memPoisoned { running landing50 with poison := [.mem (hbmBase / 32)] } (segPa 0 y) 1024 = true) :=
  ⟨rfl, rfl, rfl, rfl, rfl, by decide, by decide +kernel, rfl, by decide +kernel⟩

/-- Sixty rows locked, and a window of the spec's longest length. -/
def locking : Run := { deltaE with locks := (List.range 60).map fun i => (0, 0, i) }

theorem witness_DeltaWaitsAndLocks : Issues (running locking) 0 locking (locking.settle 0) 0 ∧ (locking.settle 0).locks.length ≤ 60 ∧
    ((locking.settle 0).dldb.any fun x => x.lands.isNone) = false ∧ ((loadingAll.settle 0).dldb.any fun x => x.lands.isNone) = true ∧
    (∀ x ∈ segsOf (locking.settle 0) 0 3 4, x.testBit 36 = false ∧ (running locking).segOk 0 1024 x = true) ∧
    (∀ x ∈ segsOf (locking.settle 0) 0 3 4, (locking.settle 0).pchMask.getLsbD (pchOf x) = true) ∧
    (∀ x ∈ segsOf (locking.settle 0) 3 3 4, x.testBit 36 = false ∧ (running locking).segOk 0 1024 x = true) ∧
    (∃ x ∈ segsOf (locking.settle 0) 3 3 4, (locking.settle 0).pchMask.getLsbD (pchOf x) = false) :=
  ⟨issues_running locking 0, by decide +kernel⟩

theorem witness_DeltaMessages : Issues (running unclaimed) 0 unclaimed (unclaimed.settle 0) 0 ∧ 4096 = 4096 / 2 ^ (0#3).toNat ∧
    ((unclaimed.settle 0).getE 0).toNat % 4096 = 0 ∧ (unclaimed.settle 0).pushes.length < 64 ∧ region 0 = .hbm ∧
    (unclaimed.settle 0).claims 0 0 4096 = false ∧ ((unclaimed.settle 0).getE 6).toNat % (4096 / 2 ^ (0#3).toNat) ≠ 0 ∧
    ((running unclaimed).serveReserve 0 (upTo (4096 / 128)) (reserveWord 0 0 false reserveEach)).1 = some 1 ∧
    (unclaimed.settle 0).pushes = [] ∧ (unclaimed.settle 0).dstDone ≤ 0 ∧ (running unclaimed).dramWaits (.run 0) 0 8 = false ∧ (unclaimed.settle 0).claims 0 0 8 = false ∧
    (unclaimed.settle 0).finished 0 = true ∧ (running unclaimed).setCount ≤ ((unclaimed.settle 0).getE 0).toNat % 2 ^ 16 ∧
    (loadingAll.settle 0).finished 0 = false := ⟨issues_running unclaimed 0, by decide +kernel⟩

/-- The same stack with a basin that takes the push, and with version sets. -/
def runningBasin : State := (running unclaimed).modStack 0 fun x =>
  { x with basins := [(7, { phase := .armed, result := hbmBase, elems := 1024, n := 2, mode := 1, arm := 1 })] }
def runningSets : State := { running unclaimed with mgmt := [(0xA00, 0x10000), (0xA08, 2)] }

theorem witness_DeltaMessages_granted : runningBasin.runOf 0 = some unclaimed ∧
    (∃ c, (runningBasin.serveReserve 0 (upTo (4096 / 128)) (reserveWord 0 0 false reserveEach)).1 = some c ∧ 8 ≤ c) ∧
    runningSets.runOf 0 = some unclaimed ∧ 0 < runningSets.setCount :=
  ⟨rfl, ⟨_, rfl, by decide +kernel⟩, rfl, by decide +kernel⟩

/-- A run with a push under way. -/
def pushing : Run := { unclaimed with pushes := [⟨0, false, 0, 1024, 7, 0, 0⟩] }

theorem witness_DeltaMessages_waits : Issues (running pushing) 0 pushing (pushing.settle 0) 0 ∧ (pushing.settle 0).pushes ≠ [] :=
  ⟨issues_running pushing 0, by decide⟩

/-! ### Witnesses: translation, contexts, graphs, launches -/

/-- Tables whose walk for address 0 ends in the leaf entry `w`, at the last level. -/
def paged (s : State) (w : Nat) : State :=
  { ((((s.memWrite 0x10000 8 0x11001).memWrite 0x11000 8 0x12001).memWrite 0x12000 8 0x13001).memWrite 0x13000 8 0x14001).memWrite 0x14000 8 w with
    ptRoot := 0x10000 }

/-- The table of level `i` on the walk for address 0. -/
def tableOf (s : State) : Nat → Nat
  | 0 => bits s.ptRoot.toNat 51 12 * 2 ^ 12
  | i + 1 => bits (s.readTable 0 (tableOf s i + 8 * levelIndex i 0)) 51 12 * 2 ^ 12

def entryOf (s : State) (i : Nat) : Nat := s.readTable 0 (tableOf s i + 8 * levelIndex i 0)

theorem witness_TranslationAndRights (w : Nat) : tableOf (paged (user {}) w) 0 = bits (paged (user {}) w).ptRoot.toNat 51 12 * 2 ^ 12 ∧
    (∀ i, entryOf (paged (user {}) w) i = (paged (user {}) w).readTable 0 (tableOf (paged (user {}) w) i + 8 * levelIndex i 0)) ∧
    (∀ i, tableOf (paged (user {}) w) (i + 1) = bits (entryOf (paged (user {}) w) i) 51 12 * 2 ^ 12) := ⟨rfl, fun _ => rfl, fun _ => rfl⟩

theorem witness_TranslationAndRights_walk : (∀ i ≤ 4, region (tableOf (paged (user {}) 0x1F) i) = .hbm) ∧
    (∀ i < 4, bit (entryOf (paged (user {}) 0x1F) i) 0 = true ∧ bits (entryOf (paged (user {}) 0x1F) i) 3 1 = 0 ∧
      bits (entryOf (paged (user {}) 0x1F) i) 11 4 = 0 ∧ bits (entryOf (paged (user {}) 0x1F) i) 63 52 = 0) ∧
    bit (entryOf (paged (user {}) 0x1F) 4) 0 = true ∧ bits (entryOf (paged (user {}) 0x1F) 4) 3 1 ≠ 0 ∧
    leafSize (entryOf (paged (user {}) 0x1F) 4) = 4 - 4 ∧ leafLegal (entryOf (paged (user {}) 0x1F) 4) = true ∧
    (∀ i ≤ 4, (paged (user {}) 0x1F).dramBlocked (tableOf (paged (user {}) 0x1F) i + 8 * levelIndex i 0) 8 = false) ∧
    bit (entryOf (paged (user {}) 0) 4) 0 = false ∧ leafSize (entryOf (paged (user {}) 0x3F) 4) ≠ 4 - 4 := by decide +kernel

theorem witness_TranslationAndRights_leaf : canonical 0xFFFF = true ∧ canonical (2 ^ 57) = false ∧ (user {}).lookup 0 0xFFFF = some (.leaf 0x1F) ∧
    leafFmt 0x1F = 0 ∧ leafClass 0x1F = 0 ∧ region (leafFrame 0x1F) = .hbm ∧ region (leafFrame 0x1F + leafBytes 0x1F - 1) = .hbm ∧
    (user {}).lookup 0 0x10000 = none := by decide +kernel

/-- Context 0 waits for the walk of page 0, which no TLB holds. -/
def walking (w : Nat) : State := { (paged (user {}) w).modCore 0 fun c => { c with tlb := [] } with arg := { i := .tlbWalkDone, a := 0, b := 0 } }

theorem witness_TlbMaintenance : (walking 0x1F).outerTlb 0 (pageOf 0) = none ∧ (walking 0x1F).walk 0 0 = .leaf 0x1F ∧ (walking 0).walk 0 0 = .failed 2 ∧
    tlbLookup ((walking 0).core 0).tlb (pageOf 0) = none ∧
    (walking 0x1F).firstWaiting (.step (walking 0x1F).arg) [] ((walking 0x1F).walkAccesses (walking 0x1F).arg) = none := by decide +kernel

/-- The same while a run of stack 1 claims the channel of its top table. -/
def walkingLate : State := (walking 0x1F).setRun 1 (some { placedRun 0 with pchMask := BitVec.allOnes 64 })

theorem witness_TlbMaintenance_late :
    (walkingLate.firstWaiting (.step walkingLate.arg) [] (walkingLate.walkAccesses walkingLate.arg)).isSome = true := by decide +kernel

/-- The state in which the management processor runs. -/
def managed (s : State) : State := { s with mc := { s.mc with stage := 2 } }

/-- A context whose bundle waits for a walk begun in cycle 3. -/
def walksFrom : State := { user {} with now := 9, timers := [(20, { i := .tlbWalkDone, c := 3 })], arg := { i := .tlbInvalDone, c := 5 } }

theorem witness_TlbMaintenance_managed : Managed (managed (user {})) ∧ ¬ Managed (user {}) ∧
    (user {}).walksSince (user {}).arg.c = false ∧ walksFrom.walksSince walksFrom.arg.c = true := by
  simp only [Managed]; decide +kernel

/-- Context 0 with a pre-emption request and an error of its copies pending. -/
def interrupted : State := { (user {}).modCtx fun c => { c with flow := { c.flow with preempt := some true, copyError := some 5 } } with
  arg := { i := .asyncTrap, a := 0 } }

theorem witness_ContextSteps : (interrupted.ctxAt 0).phase = .active ∧ (interrupted.ctxAt 0).priv = false ∧
    firstCause (interrupted.ctxAt 0).flow = some (0x21, 5 ||| BitVec.ofNat 64 ((interrupted.ctxAt 0).flow.heldInfo + 0)) ∧
    firstCause ((user {}).ctxAt 0).flow = none ∧ ((user {}).core 0).running < 4 ∧ bit 0b1010 3 = true ∧ (∀ j < 4, bit 0 j = false) := by
  decide +kernel

/-- A context that retires, with nothing outstanding or with a landing on its way. -/
def retiring : State := (user {}).modCtx fun c => { c with phase := .retiring }
def retiringLate : State := landingsFull.modCtx fun c => { c with phase := .retiring }

theorem witness_ContextSteps_end : (retiring.ctxAt 0).phase = .retiring ∧ retiring.mayFree 0 = true ∧ (retiringLate.ctxAt 0).phase = .retiring ∧
    retiringLate.mayFree 0 = false ∧
    (∀ i < 4, (((State.reset).ctxAt (4 * 0 + i)).phase = .free) ∧ (State.reset.ctxAt (4 * 0 + i)).flow.landings = []) ∧
    (State.reset.core 0).busy = [] ∧ (State.reset.core 0).transposes = [] ∧ (landingsFull.ctxAt (4 * 0 + 0)).flow.landings ≠ [] ∧
    (user {}).dramWaits (.step (user {}).arg) (1 * 128) 128 = false ∧ retiring.flushWaits 0 true 0 = false ∧
    (user {}).firstWaiting (.step (user {}).arg) [] [(1 * 128, 128)] = none ∧
    ({ State.reset.core 0 with lastActive := none } : CoreSt).cold 5 = true := by decide +kernel

/-- A launch of context 0 alone: live, or parked. -/
def oneLaunch : Launch := { graph := 0, node := 1, record := 0, places := [0], rings := [], pinTable := [], dispatched := true }
def launched (l : Launch) (p : Phase) : State := { (user {}).modCtx fun c => { c with phase := p, launch := some 2 } with
  walker := { launches := [(2, some l)] } }

theorem witness_ParkingAndResuming : (launched { oneLaunch with live := [0] } .parking).launch 2 = some { oneLaunch with live := [0] } ∧
    (launched { oneLaunch with live := [0] } .parking).fillsTaken 2 = false ∧ (launched { oneLaunch with live := [0] } .parking).settled 0 = true ∧
    ((launched { oneLaunch with live := [0] } .parking).ctxAt 0).launch = some 2 ∧
    (launched { oneLaunch with parked := [0] } .free).parkedIn 0 = some 2 ∧ (user {}).parkedIn 0 = none ∧
    (oneLaunch.places.find? fun p => placeCore p == coreOf 0) = some 0 ∧ (launched { oneLaunch with parked := [0] } .free).coreFreeFor 2 0 = true ∧
    ((user {}).ctxAt 0).phase = .active ∧ ((user {}).ctxAt 1).phase ≠ .active ∧ ((user {}).ctxAt 1).phase ≠ .prologue ∧
    (launched { oneLaunch with live := [0] } .parking).owesPackets 0 = false := by decide +kernel

theorem witness_ParkingAndResuming_late :
    (landingsFull.modCtx fun c => { c with phase := .parking, launch := some 2 }).settled 0 = false ∧
    ((landingsFull.modCtx fun c => { c with phase := .parking, launch := some 2 }).ctxAt 0).phase = .parking := by decide +kernel

/-- The state in which a step's accesses have been served, as the statements name it. -/
def readsTo (s : State) (l : List (Nat × Nat)) : State :=
  ((s.walkerAccesses l).foldl (fun s x => s.dramTake x.1 x.2) s).dramLeave (.step s.arg)

theorem reads_of {s : State} {l : List (Nat × Nat)} (h : s.firstWaiting (.step s.arg) [] (s.walkerAccesses l) = none) : Reads s l (readsTo s l) :=
  ⟨h, rfl⟩

/-- A submitted graph of one JOIN node, whose descriptor stands at 0x400, its nodes at 0x440 and its status word at 0x500. -/
def submitted (nodes count : Nat) : State :=
  { ((paged State.reset 0x1F).memWrite 0x400 32 (nodes + count * 2 ^ 64 + 0x500 * 2 ^ 128)).memWrite 0x440 64
      (8 + (2 ^ 128 - 1) * 2 ^ 256) with
    mc := { stage := 2 }, walker := { graphs := [(0, some { addr := 0x400 })] }, arg := { i := .graphValidation, a := 0, v := 0x400 } }

theorem witness_GraphSubmission : (submitted 0x440 1).walker.credits ≠ 0 ∧ (submitted 0x440 1).walker.frozen = false ∧
    (submitted 0x440 1).arg.v.toNat % 64 = 0 ∧ (submitted 0x440 1).mc.stage = 2 ∧ (submitted 0x440 1).graph 0 = some { addr := 0x400 } ∧
    (submitted 0x440 1).walkerRead 0x400 32 = some (0x440 + 1 * 2 ^ 64 + 0x500 * 2 ^ 128) ∧ statusOk 0x500 = true ∧
    Reads (submitted 0x440 1) ((0x400, 32) :: [(0x440, 64 * min 1 65535)]) (readsTo (submitted 0x440 1) [(0x400, 32), (0x440, 64)]) ∧
    WritesNow (readsTo (submitted 0x440 1) [(0x400, 32), (0x440, 64)]) 0x500 ∧
    (match (readsTo (submitted 0x440 1) [(0x400, 32), (0x440, 64)]).readNodes 0x440 1 with | some ns => nodesOk ns && ns.length == 1 | none => false) = true ∧
    (submitted 0x441 1).walkerRead 0x400 32 = some (0x441 + 1 * 2 ^ 64 + 0x500 * 2 ^ 128) ∧ statusOk 0x504 = false ∧
    State.reset.mc.stage ≠ 2 ∧ State.reset.walker.sent = [] := by
  refine ⟨?_, ?_, ?_, ?_, ?_, ?_, ?_, reads_of ?_, ?_, ?_, ?_, ?_, ?_, ?_⟩ <;> (try unfold WritesNow) <;> decide +kernel

/-- A graph whose node 1 has come this far. -/
def graphed (x : GraphNode) : State := { paged (user {}) 0x1F with
  walker := { graphs := [(0, some { count := 2, accepted := true, status := 0x508, nodes := [(0, { kind := 8, phase := .done }), (1, x)] })] }
  arg := { i := .nodeResolve, a := 0, b := 1 } }

theorem witness_GraphNodes_marks : (∃ gr, (graphed { kind := 8, deps := 1, left := 1 }).graph 0 = some gr) ∧
    ((graphed { kind := 8, deps := 1, left := 1 }).node 0 1).kind ≠ 7 ∧ ((graphed { kind := 8, nstatus := 0x510 }).node 0 1).nstatus ≠ 0 ∧
    statusOk 0x510 = true ∧ home 0x508 ≠ home 0x510 ∧ 0x508 % 8 = 0 ∧ WritesNow (graphed { kind := 8, nstatus := 0x510 }) 0x510 :=
  ⟨⟨_, rfl⟩, by unfold WritesNow; decide +kernel⟩

/-- Two marks sent in one cycle, by senders 3 and then 0. -/
def twoSent : State := { graphed { kind := 8, deps := 2, left := 2 } with
  walker := { (graphed { kind := 8, deps := 2, left := 2 }).walker with sent := [⟨0, 3, 1, .skip, 3, 0⟩, ⟨0, 0, 1, .run, 0, 0⟩] } }

theorem witness_GraphNodes_sent : (∃ gr, twoSent.graph 0 = some gr ∧ 1 < gr.count) ∧ (twoSent.node 0 1).kind ≠ 7 ∧ (twoSent.node 0 1).left = 2 ∧
    twoSent.walker.sent = [⟨0, 3, 1, .skip, 3, 0⟩, ⟨0, 0, 1, .run, 0, 0⟩] :=
  ⟨⟨_, rfl, by decide⟩, by decide, by decide, rfl⟩

theorem witness_GraphNodes_ready :
    ([(Mark.run, 0), (Mark.error, 3)].find? fun m => m.1 == .error) = some (.error, 3) ∧
    ((graphed { kind := 8, phase := .ready, marks := [(.run, 0), (.error, 3)] }).node 0 1).phase = .ready ∧
    (∀ m ∈ [(Mark.skip, 0), (Mark.skip, 3)], m.1 = .skip) ∧ (∃ m ∈ [(Mark.skip, 0), (Mark.run, 3)], m.1 = .run) ∧
    (∀ k : Nat, 1 ≤ k → k ≤ 8 → ((graphed { kind := k, phase := .ready }).node 0 1).kind = k ∧
      ((graphed { kind := k, phase := .ready }).node 0 1).marks = []) := by
  refine ⟨by decide, by decide, by decide, by decide, fun k _ _ => ⟨rfl, rfl⟩⟩

/-- A READY node of each kind, with its body record at 0x800 and its word at 0x600. -/
def readyNode (k : Nat) : GraphNode := { kind := k, phase := .ready, body := 0x800, cond := 0x600 }

theorem witness_GraphNodes_reads (k : Nat) (hk : k < 9) : Reads (graphed (readyNode k)) ((graphed (readyNode k)).nodeRanges (readyNode k))
    (readsTo (graphed (readyNode k)) ((graphed (readyNode k)).nodeRanges (readyNode k))) := by
  have h : ∀ k < 9, (graphed (readyNode k)).firstWaiting (.step (graphed (readyNode k)).arg) []
      ((graphed (readyNode k)).walkerAccesses ((graphed (readyNode k)).nodeRanges (readyNode k))) = none := by decide +kernel
  exact reads_of (h k hk)

theorem witness_GraphNodes_words_read :
    Reads (graphed { kind := 7, phase := .running, cond := 0x600 }) [(0x600, 4)] (readsTo (graphed { kind := 7, phase := .running, cond := 0x600 }) [(0x600, 4)]) ∧
    (readsTo (graphed { kind := 7, phase := .running, cond := 0x600 }) [(0x600, 4)]).walkerRead 0x600 4 = some 0 :=
  ⟨reads_of (by decide +kernel), by decide +kernel⟩

theorem witness_GraphNodes_launch : (graphed { kind := 1, phase := .ready, body := 1 }).checkLaunchRecord 0 1 1 = .error 4 := rfl

/-- A record of one placement of context 0 on core 0, at 0x800, its table at 0x900. -/
def recorded : State := ((graphed { kind := 1, phase := .ready, body := 0x800 }).memWrite 0x800 64
    (0x1000 + 0x1000 * 2 ^ 64 + 1 * 2 ^ 128 + 0x900 * 2 ^ 256)).memWrite 0x900 16 (1 * 2 ^ 16)

theorem witness_GraphNodes_words : (graphed {}).walkerRead 0x600 4 = some 0 ∧ ((graphed {}).memWrite 0x600 4 5).walkerRead 0x600 4 = some 5 ∧
    (graphed {}).walkerRead 0x10000000 4 = none ∧
    (({ kind := 7, phase := .running, maxIter := 4, iter := 3, bodyFirst := 0, bodyLast := 0 } : GraphNode).iter < 4) ∧
    ((0 : Nat) < 1 ∨ False) ∧ 1 ∉ [0, 0xFFFF] ∧
    (∃ gr, (graphed { kind := 7, phase := .looping, back := some (.error, 0) }).graph 0 = some gr) ∧
    ((graphed { kind := 7, phase := .looping, back := some (.run, 0), bodyFirst := 0, bodyLast := 0 }).graph 0).any (fun gr =>
      gr.bodyFinal { kind := 7, phase := .looping, back := some (.run, 0), bodyFirst := 0, bodyLast := 0 }) = true := by
  refine ⟨by decide +kernel, by decide +kernel, by decide +kernel, by decide, by decide, by decide, ⟨_, rfl⟩, by decide +kernel⟩

theorem witness_GraphNodes_recorded : ∃ l, recorded.checkLaunchRecord 0 1 0x800 = .ok l :=
  match h : recorded.checkLaunchRecord 0 1 0x800 with
  | .ok l => ⟨l, rfl⟩
  | .error _ => absurd (show (match recorded.checkLaunchRecord 0 1 0x800 with | .ok _ => true | .error _ => false) = true by decide +kernel) (by simp [h])

/-- Node 1 is DISPATCHING launch 2 of core 0. -/
def dispatching (l : Launch) : State := { graphed { kind := 1, phase := .dispatching, seq := 2 } with
  walker := { (graphed { kind := 1, phase := .dispatching, seq := 2 }).walker with launches := [(2, some l)], dispatching := [2] }
  arg := { i := .launchDispatch, a := 0, b := 1 } }

/-- The same with context 0 free; and while it belongs to another launch. -/
def dispatchable (l : Launch) : State := (dispatching l).modCtx fun c => { c with phase := .free }

theorem witness_Launches_dispatch : ((dispatchable oneLaunch).node 0 1).phase = .dispatching ∧ ((dispatchable oneLaunch).node 0 1).seq = 2 ∧
    (dispatchable oneLaunch).launch 2 = some oneLaunch ∧ (dispatchable oneLaunch).resourcesFree 2 oneLaunch = true ∧
    (dispatching oneLaunch).resourcesFree 2 oneLaunch = false ∧ oneLaunch.dispatched = true ∧ oneLaunch.graph = 0 ∧ oneLaunch.node = 1 ∧
    Reads (dispatchable oneLaunch) [] (readsTo (dispatchable oneLaunch) []) ∧
    (State.takePins (readsTo (dispatchable oneLaunch) []) 2 oneLaunch (oneLaunch.pinTable.drop oneLaunch.pins.length)).1 = .granted ∧
    (∃ gr, (dispatchable oneLaunch).graph 0 = some gr) := by
  refine ⟨by decide +kernel, by decide +kernel, by decide +kernel, by decide +kernel, by decide +kernel, rfl, rfl, rfl, reads_of (by decide +kernel),
    by decide +kernel, ⟨_, rfl⟩⟩

/-- A launch with COUNT_ADDR 0x600, where no count stands. -/
def countLaunch : Launch := { oneLaunch with dispatched := false, record := 2 * 2 ^ (8 * 22) + 0x600 * 2 ^ (8 * 104) }
/-- A launch whose pin table asks for a round that is not open yet. -/
def pinLaunch : Launch := { oneLaunch with pinTable := [9 * 2 ^ 64] }

theorem witness_Launches_waits : bit countLaunch.flags 1 = true ∧ (dispatchable countLaunch).walkerRead (fieldAt countLaunch.record 104 8) 4 = some 0 ∧
    (dispatchable countLaunch).resourcesFree 2 countLaunch = true ∧ fieldAt countLaunch.record 104 8 = 0x600 ∧
    Reads (dispatchable countLaunch) [(0x600, 4)] (readsTo (dispatchable countLaunch) [(0x600, 4)]) ∧
    (readsTo (dispatchable countLaunch) [(0x600, 4)]).walkerRead (fieldAt countLaunch.record 104 8) 4 = some 0 ∧
    (State.takePins { dispatchable pinLaunch with mgmt := [(0xA00, 0x10000), (0xA08, 2)] } 2 pinLaunch (pinLaunch.pinTable.drop pinLaunch.pins.length)).1 = .waits := by
  refine ⟨?_, ?_, ?_, ?_, reads_of ?_, ?_, ?_⟩ <;> decide +kernel

theorem witness_Launches_complete :
    ((dispatchable oneLaunch).walker.launches.find? fun e => match e.2 with
      | some x => x.graph == 0 && x.node == 1 && !(([] : List Nat).contains e.1)
      | none => false) = some (2, some oneLaunch) ∧
    oneLaunch.live = [] ∧ oneLaunch.parked = [] ∧ oneLaunch.resuming = [] ∧ (dispatchable oneLaunch).launchCopies 2 = false := by decide +kernel

/-! ### Witnesses: copies, basins, runs, links, limits, resets -/

/-- A request of channel 0 of cluster 0 by context 0. -/
def request0 : CopyReq := ⟨4, some 0, 0, none, none, false, 0, 0, 0⟩

/-- Cluster 0 with that request, page 0 in its TLB, and templates from address 0 on: of 64 bytes from 0x2000 to 0x3000. -/
def copying : State := { ((user {}).modCluster 0 fun c => { c with tlb := [⟨0, 1, 0x1F⟩], bxe := { channels := [(0, [request0])] } }).memWrite 0 64
    (1 * 2 ^ 32 + 64 * 2 ^ 64 + 0x2000 * 2 ^ 128 + 0x3000 * 2 ^ 256) with arg := { i := .copyTake, a := 0, b := 0 } }

/-- What a take finds: the copy and the state after the reads. -/
def parsed (s : State) (r : CopyReq) : Option (Copy × State) :=
  match s.parseCopy 0 0 r with
  | .ok x => some x
  | .error _ => none

/-- The copy as taken, whose first chunk may start. -/
def taken : Copy := ((parsed copying request0).map (·.1)).getD (templateCopy request0 0 0)
def chunking : State := copying.modBxe 0 fun _ => { classes := [(taken.cls, [taken])], count := 5 }

theorem ok_any {ε α : Type} {x : Except ε α} (p : α → Bool) (h : (match x with | .ok m => p m | .error _ => false) = true) :
    ∃ m, x = .ok m ∧ p m = true := by
  cases x with
  | error _ => simp at h
  | ok m => exact ⟨m, rfl, h⟩

theorem witness_Copies_take : (copying.bxe 0).channel 0 = request0 :: [] ∧
    (∃ x, copying.parseCopy 0 0 request0 = .ok x ∧ decide (x.1.err = none ∧ x.1.ring = none ∧ x.1.rowBytes = 64 ∧ x.1.cls = 0) = true) ∧
    ((copying.bxe 0).cls request0.cls).length < 16 ∧
    (∃ x, (copying.modCluster 0 fun c => { c with tlb := [] }).parseCopy 0 0 request0 = .ok x ∧ x.1.err.isSome = true) ∧
    request0.legal = true ∧ ({ request0 with word := 0x400 } : CopyReq).legal = false :=
  ⟨by decide +kernel, ok_any _ (by decide +kernel), by decide +kernel, ok_any _ (by decide +kernel), by decide +kernel, by decide +kernel⟩

theorem some_of {α : Type} {x : Option α} {p : α → Prop} [DecidablePred p] (h : (x.any fun b => decide (p b)) = true) : ∃ b, x = some b ∧ p b := by
  cases x with
  | none => simp at h
  | some b => exact ⟨b, rfl, by simpa using h⟩

theorem witness_Copies_chunk_good : (chunking.modBxe 0 fun b => { b with armed := false }).chunkFails 0 taken = none ∧
    ((chunking.modBxe 0 fun b => { b with armed := false }).modCluster 0 fun c => { c with tlb := [⟨0, 1, 0x1B⟩] }).chunkFails 0 taken = some kindProtection ∧
    taken.total ≤ 2048 * (taken.next + 1) ∧ 2048 * (({ taken with rows := 64 } : Copy).next + 1) < ({ taken with rows := 64 } : Copy).total := by
  decide +kernel

theorem witness_Copies_chunk : ∃ b, Bxe.serve (chunking.quantum 0) 9 ((chunking.modBxe 0 fun b => { b with armed := false }).bxe 0) = some b ∧
    b.cls b.turn = taken :: [] := some_of (by decide +kernel)

/-- A ring of two stages that copies fill, and the request and template of such a copy: 64 bytes from 0x2000 to the start of its stage; with
reserved bits of the request set the copy fails. -/
def fillRing : Ring := { key := 0x400, stageLog2 := 8, stages := 2, fills := 1, cons := 1, consH := 1 }
def fillImage : Nat := 8 + 3 * 2 ^ 24 + 1 * 2 ^ 32 + 64 * 2 ^ 64 + 0x2000 * 2 ^ 128
def fillReq (word : Word) : CopyReq := { request0 with word := word }
def filling (word : Word) : State := { (copying.memWrite 0 64 fillImage).modCluster 0 fun c => { c with
    rings := [(3, some fillRing)], bxe := { channels := [(0, [fillReq word])] } } with arg := copying.arg }

theorem witness_Copies_fill (w : Word) (hw : w = 0 ∨ w = 0x400) : ((filling w).bxe 0).channel 0 = fillReq w :: [] ∧
    (∃ x, (filling w).parseCopy 0 0 (fillReq w) = .ok x ∧ decide (x.1.ring = some (3, 0) ∧ ((x.2).cluster 0).ring 3 = some fillRing ∧
      x.2.ringFrozen fillRing = false ∧ x.1.err = (if w = 0 then none else some 1) ∧
      x.1.dst.addr + 1 * 64 ≤ 2 ^ fillRing.stageLog2) = true) ∧
    fillRing.fills ≠ 0 ∧ fillRing.takeFill = some (0, { fillRing with newTaken := 1 }) := by
  rcases hw with rfl | rfl <;> exact ⟨by decide +kernel, ok_any _ (by decide +kernel), by decide, by decide +kernel⟩

theorem witness_Copies_read : copying.readTemplate 0 { request0 with node := some (0, 1), image := fillImage } = .ok (fillImage, copying) ∧
    templateOk fillImage = true ∧ templateOk 0 = false :=
  ⟨rfl, by decide +kernel, by decide +kernel⟩

/-- A copy whose chunks have all started, or whose bytes have all been written. -/
def ending (c : Copy) : State := { copying with arg := { i := .copyComplete, a := 0, b := 4 } }.modBxe 0 fun _ => { ending := [c] }

theorem witness_Copies_payload : (((ending taken).bxe 0).ending.find? fun c => c.req.id == 4) = some taken ∧ taken.moved = false ∧ taken.ring = none ∧
    (ending taken).dramIdle = true ∧ taken.asked = false ∧
    ∃ m : List (Nat × Nat) × State, (ending taken).payloadData 0 taken 0 taken.total = .ok m ∧
      (m.1.map (·.1) == (List.range 64).map (0x3000 + ·) && (((ending taken).sources 0 taken ++ m.1.map (·.1)).all fun x => !atHome x) &&
        (payloadLines ((ending taken).sources 0 taken) m.1).all fun x => region (128 * x) == .hbm) = true :=
  ⟨by decide +kernel, by decide +kernel, by decide +kernel, by decide +kernel, by decide +kernel, ok_any _ (by decide +kernel)⟩

/-- A copy to a scratchpad bank of core 0, which page 2 maps through the cluster window: before it asks its bank, while it waits for it, and when
that is granted. -/
def toWindow (asked owed : Bool) : Copy × State :=
  let c : Copy := { taken with dst := { taken.dst with addr := 0x20000 }, asked := asked }
  (c, (((copying.modCluster 0 fun x => { x with tlb := [⟨0, 1, 0x1F⟩, ⟨2, 1, windowBase * 4 + 0x17⟩] }).modCore 0 fun x =>
    { x with bankRole := 1, bankReqs := if owed then [{ bank := 0, from_ := 1, left := 1, copy := (0, 4) }] else [] }).modBxe 0
      fun _ => { ending := [c] }))

theorem witness_Copies_banks : (toWindow false false).1.asked = false ∧ (toWindow true true).1.asked = true ∧
    (toWindow true true).2.banksOwed 0 4 = true ∧ (toWindow true false).2.banksOwed 0 4 = false ∧
    ∃ m : List (Nat × Nat) × State, (toWindow true true).2.payloadData 0 (toWindow true true).1 0 64 = .ok m ∧
      ((payloadLines ((toWindow true true).2.sources 0 (toWindow true true).1) m.1).any fun x => region (128 * x) == .window 0) = true :=
  ⟨by decide +kernel, by decide +kernel, by decide +kernel, by decide +kernel, ok_any _ (by decide +kernel)⟩

theorem error_any {ε α : Type} {x : Except ε α} (p : ε → Bool) (h : (match x with | .ok _ => false | .error e => p e) = true) :
    ∃ e, x = .error e ∧ p e = true := by
  cases x with
  | error e => exact ⟨e, rfl, h⟩
  | ok _ => simp at h

/-- A take whose template lies in DRAM that a run claims; a payload that meets a page without rights, and one that meets a CHANGING bank. -/
theorem witness_Copies_stopped :
    (∃ e, (copying.setRun 0 (some { placedRun 0 with pchMask := BitVec.allOnes 64 })).parseCopy 0 0 request0 = .error e ∧ (match e with
      | .dram _ _ => true
      | _ => false) = true) ∧
    (∃ e, ((ending taken).modCluster 0 fun c => { c with tlb := [⟨0, 1, 0x1B⟩] }).payloadData 0 taken 0 taken.total = .error e ∧ (match e with
      | .kind x => x == kindProtection
      | _ => false) = true) ∧
    (∃ e, ((toWindow false false).2.changeRoles 0 5).payloadData 0 { (toWindow false false).1 with dst := { taken.dst with addr := 0x24000 } } 0 64 =
      .error e ∧ (match e with
      | .bank => true
      | _ => false) = true) :=
  ⟨error_any _ (by decide +kernel), error_any _ (by decide +kernel), error_any _ (by decide +kernel)⟩

theorem witness_Copies_complete : (((ending { taken with moved := true }).bxe 0).ending.find? fun c => c.req.id == 4) = some { taken with moved := true } ∧
    ((ending { taken with moved := true }).bxe 0).earlier { taken with moved := true } = false ∧
    ({ ending := [{ taken with req := { request0 with id := 3 } }, taken] } : Bxe).earlier taken = true ∧ taken.comp = 0 ∧ taken.err = none ∧
    taken.req.node = none := by decide +kernel

theorem witness_Copies_word : copying.copyXlate 0 0x800 .store false false = .ok 0x800 ∧ region 0x800 = .hbm ∧ 0x800 % 8 = 0 ∧
    copying.dramIdle = true ∧ copying.carrying (.copy 0 4) = false :=
  ⟨rfl, by decide, by decide, by decide +kernel, by decide +kernel⟩

/-- Ways 0 and 1 of stack 0, of which a basin uses way 0. -/
def sided : State := { (user {}).modStack 0 fun x => { x with
  sideWays := 3, sideStatus := 3, basins := [(7, { phase := .armed, result := sideBase, elems := 32, n := 2, arm := 1 })] } with
  arg := { i := .sideWaysWrite, a := 0, v := 2 } }

theorem witness_SideStore : ((user {}).stack 0).converting = false ∧ (sided.stack 0).sideWays.getLsbD 0 = true ∧ sided.arg.v.getLsbD 0 = false ∧
    sided.wayInUse 0 0 = true ∧ sided.wayInUse 0 1 = false ∧ (3 : Word).setWidth 16 ≠ ((user {}).stack 0).sideWays ∧
    (∀ w < 16, ((user {}).stack 0).sideWays.getLsbD w = true → (3 : Word).getLsbD w = false → (user {}).wayInUse 0 w = false) ∧
    Managed (managed sided) ∧ ¬ Managed sided := by simp only [Managed]; decide +kernel

/-- A declaration at 0x800 for entry 7 of stack 0: 32 elements, two contributors, mode 1. -/
def declaring (staging : Nat) : State := { (graphed { kind := 3, phase := .running, body := 0x800 }).memWrite 0x800 64
    (hbmBase + 31 * 2 ^ 64 + 2 * 2 ^ 96 + 7 * 2 ^ 112 + 1 * 2 ^ 128 + (hbmBase + 0x10000) * 2 ^ 192 + staging * 2 ^ 256) with
  arg := { i := .basinDeclare, a := 0, b := 1 } }

/-- The same once its declaration has been read. -/
def declarationRead : State := readsTo (declaring 0x10000) [(0x800, 64)]

theorem witness_Basins_declare : Reads (declaring 0x10000) [(0x800, 64)] declarationRead ∧ declarationRead.walkerRead 0x800 64 =
      some (hbmBase + 31 * 2 ^ 64 + 2 * 2 ^ 96 + 7 * 2 ^ 112 + 1 * 2 ^ 128 + (hbmBase + 0x10000) * 2 ^ 192 + 0x10000 * 2 ^ 256) ∧
    ((declaring 0x10000).node 0 1).phase = .running ∧ ((declaring 0x10000).node 0 1).body = 0x800 ∧
    (declarationOk (hbmBase + 31 * 2 ^ 64 + 2 * 2 ^ 96 + 7 * 2 ^ 112 + 1 * 2 ^ 128 + (hbmBase + 0x10000) * 2 ^ 192 + 0x10000 * 2 ^ 256) = true) ∧
    (declaring 0x10000).declarable 0 7 (declared (hbmBase + 31 * 2 ^ 64 + 2 * 2 ^ 96 + 7 * 2 ^ 112 + 1 * 2 ^ 128 +
      (hbmBase + 0x10000) * 2 ^ 192 + 0x10000 * 2 ^ 256) {}) = true ∧
    ((declaring 0x10000).basin 0 7).live = false ∧ (sided.basin 0 7).live = true ∧ declarationOk (hbmBase + 64) = false := by
  refine ⟨reads_of ?_, ?_, ?_, ?_, ?_, ?_, ?_, ?_, ?_⟩ <;> decide +kernel

/-- A packet of contributor 1 for half 0 of that basin, and the basin it meets. -/
def packet1 : Packet := ⟨0, some 0, 0, none, 0, 7, 0, 1, 0, 1, false, false, vec [0x3F800000], 0, 0, 1, 0, false, false⟩
def meeting (b : Basin) (p : Packet) : State := { (user {}).modStack 0 fun x => { x with basins := [(7, b)] } with
  now := 1, packets := [p], arg := { i := .basinPacket, a := 0 } }
def armed : Basin := { phase := .armed, result := hbmBase, elems := 32, n := 2, mode := 1, arm := 1, staging := hbmBase + 0x10000, stagingSize := 0x10000 }

/-- A basin of 48 halves, whose close by contributor 1 is made. -/
def closing : Basin := { armed with elems := 32 * 48, closes := [(1, 16)] }

theorem witness_Basins : (meeting armed packet1).packet 0 = some packet1 ∧ (meeting armed packet1).deltaGoesOn = false ∧
    { meeting armed packet1 with now := 0 }.deltaGoesOn = true ∧
    (∀ h < armed.halves, (meeting armed packet1).dramWaits (.step (meeting armed packet1).arg) (armed.result + 4 * armed.halfElems * h) (4 * armed.halfElems) = false) ∧
    armed.staleFor packet1 = false ∧ { armed with arm := 2 }.staleFor packet1 = true ∧ { armed with round := 5 }.staleFor packet1 = true ∧
    armed.hasBit 0 1 = false ∧ { armed with accepted := [(0, 2)] }.hasBit 0 1 = true ∧ closing.hasBit 40 1 = true ∧
    { armed with accepted := [(0, 1)] }.bitsOf 0 + 2 ^ 1 = armed.fullMask ∧ armed.mode ≠ 0 ∧ hbmBase ≤ armed.result ∧
    armed.result + 4 * armed.elems ≤ sideBase ∧ (meeting armed packet1).poison = [] ∧ armed.spoilt = [] ∧
    (meeting armed packet1).outranked packet1 = false ∧
    (meeting armed packet1).firstWaiting (.step (meeting armed packet1).arg) [] ([0].map fun h => (armed.result + 4 * armed.halfElems * h, 4 * armed.halfElems)) = none ∧
    { meeting armed packet1 with packets := [packet1, { packet1 with id := 1, k := 0 }], agenda := [{ i := .basinPacket, a := 1 }] }.outranked packet1 =
      true := by decide +kernel

theorem witness_Basins_close : closing.staleFor packet1 = false ∧ (∃ c ∈ closing.closes, c.1 = packet1.k) ∧
    (closing.closes.find? fun c => c.1 == packet1.k) = some (packet1.k, 16) ∧ (armed.closes.find? fun c => c.1 == packet1.k) = none ∧
    (meeting closing packet1).firstWaiting (.step { (meeting closing packet1).arg with c := 2 }) []
      (((List.range closing.halves).filter fun h => 16 ≤ h ∧ h < 16 + 16).map fun h =>
        (closing.result + 4 * closing.halfElems * h, 4 * closing.halfElems)) = none ∧ closing.halves = 48 ∧
    ({ (meeting closing packet1).arg with c := 3 } : Event).c = 3 := by decide +kernel

theorem witness_Basins_acks : packet1.done = false ∧ packet1.push = none ∧ { packet1 with done := true }.done = true ∧ packet1.sends < 8 ∧
    8 ≤ { packet1 with sends := 8 }.sends ∧ { packet1 with push := some (0, 3) }.push = some (0, 3) ∧
    (∀ q ∈ (meeting armed packet1).packets, q.id ≠ 0 → q.done = true) := by decide +kernel

/-- A start request of stack 0 whose header names a program of one word. -/
def starting (words : Nat) : State := { ((user {}).memWrite 0x800 128 (0x1000 + words * 2 ^ 64)).modStack 0 fun x =>
  { x with delta := { queue := [⟨0x800, none⟩] } } with arg := { i := .deltaRunSelect, a := 0 } }

theorem witness_DeltaRuns_select : ((starting 1).stack 0).delta.run = none ∧ ((starting 1).stack 0).delta.queue = ⟨0x800, none⟩ :: [] ∧
    (starting 1).headerOf ⟨0x800, none⟩ = some (0x1000 + 1 * 2 ^ 64) ∧ ((starting 1).prerequisites (0x1000 + 1 * 2 ^ 64)).isSome = true ∧
    (starting 0).headerOf ⟨0x800, none⟩ = none ∧ (starting 1).dramBlocked 0x800 128 = false ∧ (starting 0).dramBlocked 0x800 128 = false ∧
    ((starting 1).prerequisites (0x1000 + 1 * 2 ^ 64 + 0x10000 * 2 ^ 384)).isSome = false ∧
    (starting 1).dramWaits (.step { (starting 1).arg with b := 1 }) 0x800 128 = false ∧
    (starting 0).dramWaits (.step { (starting 0).arg with b := 1 }) 0x800 128 = false ∧
    ((starting 1).setRun 2 (some { placedRun 0 with pchMask := BitVec.allOnes 64 })).dramWaits (.step { (starting 1).arg with b := 1 })
      (0x800 + 2 * 0x1000) 128 = true := by decide +kernel

/-- Set 1 with three slots, of which slot 2 is pinned. -/
def pinned : State := (((versioned {}).memWrite ((versioned {}).setAt 1) 8 3).memWrite ((versioned {}).setAt 1 + 44) 2 1)

/-- R345: a run that would open round 2, which writes slot 2 of three, waits for the pin of round 2 - 3. -/
theorem witness_DeltaRuns_pins : pinned.setV 1 = 3 ∧ pinned.setPins 1 (2 % pinned.setV 1) ≠ 0 := by decide +kernel

def entering : Run := { unclaimed with phase := .entering, code := 0x1000, words := 1, status := 0x500 }
def ended : Run := { unclaimed with phase := .exiting, status := 0x500 }

theorem witness_DeltaRuns : (running entering).runOf 0 = some entering ∧ (running entering).memPoisoned 0x1000 8 = false ∧ entering.param = 0 ∧
    { running entering with poison := [.mem (home 0x1000 / 32)] }.memPoisoned 0x1000 8 = true ∧ region 0x500 = .hbm ∧ ended.pushes = [] ∧
    ended.dramDone ≤ (running ended).runNow ended ∧ pushing.pushes ≠ [] ∧ (running unclaimed).dramWaits (.step (running unclaimed).arg) 0 1024 = false ∧
    ended.pubs = 0 ∧ ended.signalling = false ∧ WritesNow (running ended) 0x500 ∧
    (running entering).firstWaiting (.step (running entering).arg) [] entering.entryReads = none ∧
    (running unclaimed).firstWaiting (.step (running unclaimed).arg) [] [(0, 1024)] = none ∧
    (running pushing).push 0 0 = some ⟨0, false, 0, 1024, 7, 0, 0⟩ ∧ 0 < runningSets.setCount ∧ runningSets.roundFits 0 2 = true ∧
    runningSets.roundFits 0 3 = false := by
  refine ⟨rfl, ?_⟩; simp only [WritesNow]; decide +kernel

/-- A port that has one flit unacknowledged and has replayed it sixteen times. -/
def waitingPort : Port := { replay := [⟨5, 1, none, 17, 16⟩], nextSeq := 6, expected := 7 }

/-- The data flit that a port expects; the same with the next SEQ; a NAK; and an idle flit. -/
def goodFlit : Nat := flitImage 7 4 1 3 0x55
def aheadFlit : Nat := flitImage 8 4 1 0 0x55

/-- The published check value of the CRC of IEEE 802.3: the digits 1 to 9 in ASCII (log entry 94). -/
theorem test_crc : crc32 9 0x393837363534333231 = 0xCBF43926 := by decide +kernel

theorem witness_Flits : waitingPort.down = false ∧ waitingPort.waiting = [] ∧ SeqsApart waitingPort ∧ waitingPort.replay.length < 512 ∧
    (∀ g ∈ waitingPort.replay, g.seq ≠ waitingPort.nextSeq) ∧
    crc32 252 (goodFlit % 2 ^ 2016) = bits goodFlit 2047 2016 ∧ bits goodFlit 27 24 = 1 ∧ bits goodFlit 11 0 = waitingPort.expected ∧
    crc32 252 ((goodFlit + 2 ^ 64) % 2 ^ 2016) ≠ bits (goodFlit + 2 ^ 64) 2047 2016 ∧
    bits aheadFlit 27 24 = 1 ∧ bits aheadFlit 11 0 ≠ waitingPort.expected ∧ bits (flitImage 7 4 2 0 0) 27 24 = 2 ∧ bits (flitImage 7 4 2 0 0) 11 0 = waitingPort.expected ∧
    crc32 252 (flitImage 7 4 2 0 0 % 2 ^ 2016) = bits (flitImage 7 4 2 0 0) 2047 2016 ∧ bits (flitImage 7 4 0 1 0) 27 24 = 0 ∧
    (waitingPort.acked 5).replay = [] ∧ (∃ f ∈ (waitingPort.acked 4).replay, 16 ≤ f.replays) ∧ (∀ f ∈ (waitingPort.acked 5).replay, f.replays < 16) ∧
    (∀ f ∈ ({ replay := [⟨5, 1, none, 16, 15⟩] } : Port).replay, f.replays < 16) ∧
    (waitingPort.replay.filter (beyond 5)).length < waitingPort.replay.length := by
  simp only [SeqsApart]; decide +kernel

theorem witness_Flits_full : 512 ≤ ({ replay := List.replicate 512 ⟨0, 0, none, 1, 0⟩ } : Port).replay.length := by decide +kernel

/-- A context with a remote error pending. -/
def withError : State := (user {}).modCtx fun c => { c with flow := { c.flow with remoteError := some 1 } }

/-- A peer's request numbered 9 for eight bytes at 0x100, new or repeated. -/
def peered (w : Nat) : State := { user {} with arg := { i := .remoteTransaction, a := 2, b := 9, c := 0x100 * 16 + w, d := 8, l := [7] } }
def repeated : State := { peered 0 with remoteReplies := [((2, 9), 0x55)] }

theorem witness_RequestsFromOutside : (repeated.remoteReplies.find? fun r => r.1 == (repeated.arg.a, repeated.arg.b)) = some ((2, 9), 0x55) ∧
    ((peered 0).remoteReplies.find? fun r => r.1 == ((peered 0).arg.a, (peered 0).arg.b)) = none ∧ region ((peered 1).arg.c / 16) = .hbm ∧
    (peered 0).firstWaiting (.step (peered 0).arg) [] [(0x100, max 1 8)] = none ∧ 8 ∣ 4096 ∧ moduleMemory 0x30000000000 = false ∧
    ((user {}).ctxAt 0).phase = .active ∧ ((user {}).ctxAt 0).flow.remoteError = none ∧ (interrupted.ctxAt 1).phase ≠ .active ∧
    (State.reset.mc.stage ≠ 1 ∧ State.reset.mc.stage ≠ 2) ∧ ((user {}).ctxAt 0).csr.gen.toNat = 0 ∧
    (withError.ctxAt 0).flow.remoteError ≠ none ∧ (amoFn 0 9 64 5 7).1 ≠ (amoFn 0 9 64 7 7).1 ∧ (submitted 0x440 1).mc.stage = 2 ∧ 0x100 + 8 ≤ hbmBase := by decide +kernel

/-- Package 2 draws from the queue record at the start of die 0's SRAM: a tile is left, or none is. -/
def drawing (i : Nat) : State := { queueAt i 5 0 with arg := { i := .remoteTransaction, a := 2, b := 9, c := 15 + 16 * syncBase } }

theorem witness_RequestsFromOutside_tile : (drawing 4).drawTile syncBase = some 4 ∧ (drawing 5).drawTile syncBase = none ∧ region syncBase = .sync 0 ∧
    ((drawing 4).remoteReplies.find? fun r => r.1 == ((drawing 4).arg.a, (drawing 4).arg.b)) = none ∧
    ((running pushing).runOf 0).any (fun r => r.pushes.any fun p => p.id == 0) = true := by decide +kernel

theorem witness_LimitsAndTelemetry : (0x1FF : Word).toNat % 256 ≠ 0 ∧ (0x100 : Word).toNat % 256 = 0 ∧ 4 ≤ (4 : Word).toNat ∧ (64 : Word).toNat ≤ 64 ∧
    (3 : Word).toNat < 4 ∧ 64 < (65 : Word).toNat ∧ State.reset.mc.powered = true ∧ { State.reset.mc with powered := false }.powered = false ∧
    State.reset.mgmtReg 0x1208 = 0 ∧ { State.reset with mgmt := [(0x1200, 0x10000), (0x1208, 4)] }.mgmtReg 0x1208 ≠ 0 ∧
    reading 1840 ≤ 1840 ∧ 1840 < reading 1841 ∧ reading 1600 ≤ 1600 ∧ 1600 < reading 1601 ∧ region 0x10000 = .hbm ∧ region (0x10000 + 8) = .hbm ∧
    State.reset.dramIdle = true ∧ (91 : Word).toNat * 100 < 92 * 100 := by decide +kernel

theorem witness_ErrorsAndRegisters : mgmtMask 0x400 = some 0x01FFFFFFFFFFFFF0 ∧ isQuanta 0x400 = false ∧ isQuanta 0x668 = true ∧
    mgmtMask 0x404 = none ∧ 0x508 + 0x20 * 11 = 0x668 ∧ (running unclaimed).runOf 0 = some unclaimed ∧ 0x100 / 32 ≠ 0x200 / 32 ∧
    Managed (managed (user {})) ∧ ¬ Managed (user {}) ∧ (0x400 < 0x1000) ∧ State.reset.mc.attestBusy = false ∧
    ({ State.reset.mc with attestBusy := true } : Mc).attestBusy = true := by
  refine ⟨by decide, by decide, by decide, by decide, by decide, rfl, by decide, ?_, ?_, by decide, by decide, by decide⟩ <;>
    simp only [Managed] <;> decide

/-- A live basin of stack 0 with 32 elements; a transpose of context 0; a run: the units of R386 whose values a soft error may change. -/
theorem witness_ErrorsAndRegisters_units : (basined {}).basin 0 7 = { phase := .armed, result := hbmBase, elems := 32, n := 2, mode := 1, arm := 1 } ∧
    ((basined {}).basin 0 7).live = true ∧ hbmBase ≤ ((basined {}).basin 0 7).result ∧
    ((basined {}).basin 0 7).result + 4 * ((basined {}).basin 0 7).elems ≤ sideBase ∧
    (∃ q, (transposed.core 0).transposes[0]? = some q) ∧ (running unclaimed).runOf 0 = some unclaimed :=
  ⟨by decide +kernel, by decide +kernel, by decide +kernel, by decide +kernel, ⟨_, rfl⟩, rfl⟩

/-- A graph under way as the reset finds it: node 0 DONE, node 1 RUNNING, node 2 WAITING for it and for another mark. -/
def midway : State := { graphed {} with
  walker := { graphs := [(0, some { count := 3, accepted := true, status := 0x508, nodes := [(0, { kind := 8, phase := .done }),
    (1, { kind := 8, phase := .running, succ := [2] }), (2, { kind := 8, deps := 2, left := 2 })] })] }
  mc := { (State.reset).mc with stage := 2 } }

theorem witness_ResetsAndStartUp_engines : midway.mc.resetting = none ∧ midway.mc.stage = 2 ∧ midway.walker.sent = [] ∧ midway.wild = [] ∧
    (∀ e ∈ midway.hbmStacks, ∀ b ∈ e.2.basins, b.2.acting ≠ 1) ∧ (∃ gr, midway.graph 0 = some gr ∧ gr.accepted = true) ∧
    (midway.node 0 0).phase = .done ∧ (midway.node 0 1).phase = .running ∧ region (syncBase + 8) = .sync 0 ∧
    (∀ e ∈ ((barrierAt 1 2).die 0).barriers, e.2.arrivals ≠ []) ∧ (versioned {}).setCount = 2 ∧ syncOffset (dirEntry 5) ≥ 0x3FA000 ∧
    (syncOffset (dirEntry 5 + 4) - 0x3FA000) % 32 = 4 :=
  ⟨by decide, by decide, by decide, by decide, by decide +kernel, ⟨_, rfl, by decide⟩, by decide, by decide, by decide, by decide +kernel,
    by decide +kernel, by decide, by decide⟩

/-- R388, R389: a warm reset ends the RUNNING node FAILED with RESET once the walker has read its journal, and leaves the DONE one; it clears LIVE
of a directory entry that no context of this module made. -/
theorem test_warm_reset : (match exec .walkerReset midway with
    | .next t => decide ((t.node 0 1).phase = .failed ∧ (t.node 0 1).cause = 0xD ∧ (t.node 0 0).phase = .done)
    | _ => false) = true ∧
  (match exec .warmReset { liveEntry with mc := midway.mc } with
    | .next t => decide (t.memRead (dirEntry 5 + 4) 1 = 0)
    | _ => false) = true := by decide +kernel

theorem witness_ResetsAndStartUp : { State.reset.mc with resetting := some 2 }.resetting = some 2 ∧ State.reset.mc.resetting = none ∧
    State.reset.mc.powered = true ∧ State.reset.mc.stage ≠ 0xF ∧ (submitted 0x440 1).mc.stage = 2 ∧ (submitted 0x440 1).mc.resetting = none ∧
    State.reset.mc.stage = 0 ∧ { State.reset.mc with flash := some (3, 9) }.flash = some (3, 9) ∧ 3 < { State.reset.mc with fwMin := 4 }.fwMin ∧
    State.reset.mc.flashTorn = false ∧ { State.reset.mc with flashTorn := true }.flashTorn = true ∧
    (∃ g v d, State.reset.flashImage = (g, v, d)) ∧
    { State.reset with mc := { State.reset.mc with flash := some (3, 9) } }.flashImage = (true, 3, 9) ∧ State.reset.walker.sent = [] ∧
    { State.reset.mc with stage := 1 }.stage = 1 ∧ State.reset.mc.fwStatus ≠ 3 ∧ { State.reset.mc with fwStatus := 3 }.fwStatus = 3 ∧
    State.reset.arg.a = State.reset.mc.attesting ∧ 1 ≠ State.reset.mc.attesting := by
  refine ⟨by decide, by decide, by decide, by decide, by decide, by decide, by decide, by decide, by decide, by decide, by decide, ⟨_, _, _, rfl⟩,
    by decide, by decide, by decide, by decide, by decide, by decide, by decide⟩

theorem next_of {σ φ ρ : Type} {o : Host.Outcome σ φ ρ} (h : (match o with | .next _ => true | _ => false) = true) : ∃ t, o = .next t := by
  cases o with
  | next t => exact ⟨t, rfl⟩
  | fault _ => simp at h
  | refused _ => simp at h

/-- The premise of the memory invariant on a state with memory. -/
theorem witness_StepKeepsMemoryCanonical : MemoryOk copying ∧ (∃ t, step placed = .next t) ∧ MemoryOk placed := by
  refine ⟨?_, ?_, ?_⟩
  · unfold MemoryOk; decide +kernel
  · exact next_of (by decide +kernel)
  · unfold MemoryOk; decide +kernel

end Sys2Proof.Tests
end

/-!
The bytes of a line: what a run of them holds after other bytes are replaced, what byte masks name, which sectors a run touches.
-/
namespace Sys2Proof.Machine

/-! ### Bytes, masks and sectors of a line (R3, R169, R204) -/

/-- Bit `k` of a line of which some bytes were replaced. -/
theorem getLsbD_setLineBytes (d : VWord) (off n x k : Nat) (h : off + n ≤ 128) :
    (setLineBytes d off n x).getLsbD k =
      if 8 * off ≤ k ∧ k < 8 * (off + n) then x.testBit (k - 8 * off) else d.getLsbD k := by
  have hd : 1024 ≤ k → d.getLsbD k = false := d.getLsbD_of_ge k
  simp only [setLineBytes, BitVec.getLsbD_or, BitVec.getLsbD_and, BitVec.getLsbD_not, BitVec.getLsbD_ofNat,
    Nat.testBit_mul_two_pow, Nat.testBit_two_pow_sub_one, Nat.testBit_mod_two_pow]
  by_cases h1 : 8 * off ≤ k <;> by_cases h2 : k < 8 * (off + n)
  · have h3 : k - 8 * off < 8 * n := by omega
    have h4 : k < 1024 := by omega
    simp [h1, h2, h3, h4]
  · have h3 : ¬ k - 8 * off < 8 * n := by omega
    by_cases h4 : k < 1024
    · simp [h1, h2, h3, h4]
    · simp [h1, h2, h3, hd (by omega)]
  · by_cases h4 : k < 1024
    · simp [h1, h4]
    · simp [h1, hd (by omega)]
  · omega

/-- Bit `k` of the number that some bytes of a line are. -/
theorem testBit_lineBytes (d : VWord) (off n k : Nat) :
    (lineBytes d off n).testBit k = (decide (k < 8 * n) && d.getLsbD (8 * off + k)) := by
  rw [lineBytes, Nat.testBit_mod_two_pow, Nat.testBit_div_two_pow, Nat.add_comm]; rfl

/-- Bytes `off` to `off + n - 1` of a line are the low bytes of `x`, little-endian. -/
def LineHolds (d : VWord) (off n x : Nat) : Prop := lineBytes d off n = x % 256 ^ n

theorem lineHolds_iff (d : VWord) (off n x : Nat) :
    LineHolds d off n x ↔ ∀ k < 8 * n, d.getLsbD (8 * off + k) = x.testBit k := by
  have e : 256 ^ n = 2 ^ (8 * n) := by rw [Nat.pow_mul]
  unfold LineHolds
  rw [e]
  constructor
  · intro h k hk
    simpa [testBit_lineBytes, Nat.testBit_mod_two_pow, hk] using congrArg (Nat.testBit · k) h
  · intro h
    refine Nat.eq_of_testBit_eq fun k => ?_
    rw [testBit_lineBytes, Nat.testBit_mod_two_pow]
    by_cases hk : k < 8 * n
    · simp [hk, h k hk]
    · simp [hk]

theorem lineHolds_setLineBytes (d : VWord) (off n x : Nat) (h : off + n ≤ 128) :
    LineHolds (setLineBytes d off n x) off n x := by
  refine (lineHolds_iff _ _ _ _).mpr fun k hk => ?_
  rw [getLsbD_setLineBytes _ _ _ _ _ h, if_pos (by omega), Nat.add_sub_cancel_left]

/-- A line that agrees on the bits of a run of bytes holds the same number there. -/
theorem LineHolds.of_agree {d d' : VWord} {off n x : Nat} (h : LineHolds d off n x)
    (ha : ∀ k, 8 * off ≤ k → k < 8 * (off + n) → d'.getLsbD k = d.getLsbD k) : LineHolds d' off n x :=
  (lineHolds_iff _ _ _ _).mpr fun k hk => (ha _ (by omega) (by omega)).trans ((lineHolds_iff _ _ _ _).mp h k hk)

/-- Two runs of bytes of a line have none in common. -/
def Apart (off n off' n' : Nat) : Prop := off + n ≤ off' ∨ off' + n' ≤ off

theorem LineHolds.setLineBytes_apart {d : VWord} {off n x off' n' : Nat} (y : Nat) (h : LineHolds d off n x)
    (ha : Apart off n off' n') (hl : off' + n' ≤ 128) : LineHolds (setLineBytes d off' n' y) off n x := by
  refine h.of_agree fun k h1 h2 => ?_
  rw [getLsbD_setLineBytes _ _ _ _ _ hl, if_neg (by unfold Apart at ha; omega)]

/-- A mask of a line's bytes names none of those from `off` to `off + n - 1`. -/
def Avoids (b : BitVec 128) (off n : Nat) : Prop := ∀ i, off ≤ i → i < off + n → b.getLsbD i = false

theorem getLsbD_byteRange (off n i : Nat) : (byteRange off n).getLsbD i = decide (i < 128 ∧ off ≤ i ∧ i < off + n) := by
  rw [byteRange, BitVec.getLsbD_ofNat, Nat.testBit_mul_two_pow, Nat.testBit_two_pow_sub_one]
  by_cases h : off ≤ i
  · simp [h, Nat.sub_lt_iff_lt_add h, Nat.add_comm]
  · simp [h]

theorem avoids_without_byteRange (b : BitVec 128) (off n : Nat) (h : off + n ≤ 128) :
    Avoids (b &&& ~~~byteRange off n) off n := by
  intro i h1 h2
  rw [BitVec.getLsbD_and, BitVec.getLsbD_not, getLsbD_byteRange, decide_eq_true (p := _ ∧ _) ⟨by omega, h1, h2⟩]
  simp

theorem testBit_sectorMask (b : BitVec 128) (k j : Nat) :
    (sectorMask b k).testBit j = (decide (j < 32) && b.getLsbD (32 * k + j)) := by
  have e : 32 * k + 31 + 1 - 32 * k = 32 := by omega
  rw [sectorMask, bits, e, Nat.testBit_mod_two_pow, Nat.testBit_div_two_pow, Nat.add_comm]; rfl

/-- Where a mask names every byte of a sector but none of a run, the sector is apart from the run. -/
theorem Avoids.apart_of_full {b : BitVec 128} {off n k : Nat} (h : Avoids b off n) (hn : 0 < n)
    (hf : sectorMask b k = 2 ^ 32 - 1) : Apart off n (32 * k) 32 := by
  have full : ∀ j < 32, b.getLsbD (32 * k + j) = true := fun j hj => by
    have e := testBit_sectorMask b k j
    rw [hf, Nat.testBit_two_pow_sub_one] at e
    simpa [hj] using e.symm
  by_contra ha
  unfold Apart at ha
  have h1 := h (max off (32 * k)) (by omega) (by omega)
  have h2 := full (max off (32 * k) - 32 * k) (by omega)
  rw [show 32 * k + (max off (32 * k) - 32 * k) = max off (32 * k) by omega] at h2
  exact absurd (h1.symm.trans h2) (by decide)

/-- The low `n` bytes that a byte mask governs, below a number `a` that begins at byte `n`. -/
theorem testBit_governed (m k n a : Nat) :
    ((List.range n).foldr (fun j acc => (if bit m j then 255 * 2 ^ (8 * j) else 0) + acc) (2 ^ (8 * n) * a)).testBit k =
      if k < 8 * n then m.testBit (k / 8) else a.testBit (k - 8 * n) := by
  induction n generalizing a with
  | zero => simp
  | succ n ih =>
    have e : (if bit m n then 255 * 2 ^ (8 * n) else 0) + 2 ^ (8 * (n + 1)) * a =
        2 ^ (8 * n) * (2 ^ 8 * a + if bit m n then 255 else 0) := by
      rw [Nat.mul_add 8, Nat.pow_add]; split <;> ring
    rw [List.range_succ, List.foldr_append, List.foldr_cons, List.foldr_nil, e, ih,
      Nat.testBit_two_pow_mul_add _ (by split <;> decide)]
    by_cases h1 : k < 8 * n
    · rw [if_pos h1, if_pos (by omega)]
    · rw [if_neg h1]
      by_cases h2 : k < 8 * (n + 1)
      · have h3 : k / 8 = n := by omega
        rw [if_pos (by omega), if_pos h2, h3, bit_eq_testBit]
        split
        · next hb => rw [hb, show (255 : Nat) = 2 ^ 8 - 1 by rfl, Nat.testBit_two_pow_sub_one]; simp; omega
        · next hb => simp [hb]
      · rw [if_neg (by omega), if_neg h2, Nat.sub_sub, Nat.mul_add, Nat.mul_one]

/-- The bits that a byte mask governs, one bit at a time. -/
theorem testBit_byteBits (m k : Nat) : (byteBits m).testBit k = (decide (k < 256) && m.testBit (k / 8)) := by
  have h := testBit_governed m k 32 0
  rw [Nat.mul_zero] at h
  rw [byteBits, upTo, h]
  by_cases hk : k < 256 <;> simp [hk]

/-- Merging bytes into a sector leaves the bits of the other bytes as they were. -/
theorem testBit_mergeBytes_other (old new m k : Nat) (hk : k < 256) (h : m.testBit (k / 8) = false) :
    (mergeBytes old new m).testBit k = old.testBit k := by
  have hm : m ≠ 2 ^ 32 - 1 := by
    rintro rfl
    rw [Nat.testBit_two_pow_sub_one] at h
    exact absurd h (by simp; omega)
  rw [mergeBytes, if_neg hm]
  simp [testBit_byteBits, h]

/-- Writing back the bytes of a mask into a sector leaves a run of bytes alone that the mask does not name. -/
theorem LineHolds.merge {d : VWord} {b : BitVec 128} {off n x k : Nat} (v : Nat) (h : LineHolds d off n x) (hb : Avoids b off n)
    (hk : k < 4) :
    LineHolds (setLineBytes d (32 * k) 32 (mergeBytes (lineBytes d (32 * k) 32) v (sectorMask b k))) off n x := by
  refine h.of_agree fun i h1 h2 => ?_
  rw [getLsbD_setLineBytes _ _ _ _ _ (by omega)]
  split
  · next hi =>
    have ho : b.getLsbD (i / 8) = false := hb _ (by omega) (by omega)
    have hm : (sectorMask b k).testBit ((i - 8 * (32 * k)) / 8) = false := by
      rw [testBit_sectorMask, show 32 * k + (i - 8 * (32 * k)) / 8 = i / 8 by omega, ho, Bool.and_false]
    rw [testBit_mergeBytes_other _ _ _ _ (by omega) hm, testBit_lineBytes, decide_eq_true (by omega), Bool.true_and,
      show 8 * (32 * k) + (i - 8 * (32 * k)) = i by omega]
  · rfl

/-- Four bits put together from a condition on their numbers. -/
theorem getLsbD_fourBits (p : Nat → Prop) [DecidablePred p] (k : Nat) (hk : k < 4) :
    (BitVec.ofNat 4 ((upTo 4).foldr (fun k acc => (if p k then 2 ^ k else 0) + acc) 0)).getLsbD k = decide (p k) := by
  have key : ∀ (q : Fin 4 → Bool) (i : Fin 4), (BitVec.ofNat 4 ((if q 0 then 1 else 0) + ((if q 1 then 2 else 0) +
      ((if q 2 then 4 else 0) + ((if q 3 then 8 else 0) + 0))))).getLsbD i = q i := by decide
  simpa [upTo, List.range_succ] using key (fun i => decide (p i)) ⟨k, hk⟩

theorem getLsbD_sectorsTouched (off n k : Nat) (hn : 0 < n) (hk : k < 4) :
    (sectorsTouched off n).getLsbD k = decide (off / 32 ≤ k ∧ k ≤ (off + n - 1) / 32) := by
  rw [sectorsTouched, if_neg (by omega)]
  exact getLsbD_fourBits _ _ hk

/-- Sectors `t` are all among the sectors `h`. -/
def Within (t h : BitVec 4) : Prop := ∀ k < 4, t.getLsbD k = true → h.getLsbD k = true

/-- No sector of `t` is missing where all are among `h`. -/
theorem within_iff (t h : BitVec 4) : Within t h ↔ t &&& ~~~h = 0 := by
  constructor
  · intro w
    ext k hk
    have := w k hk
    simp_all
  · intro e k hk ht
    have hz : (t &&& ~~~h).getLsbD k = false := by rw [e]; exact BitVec.getLsbD_zero
    rw [BitVec.getLsbD_and, BitVec.getLsbD_not, ht, decide_eq_true hk, Bool.true_and, Bool.true_and] at hz
    simpa using hz

theorem within_or_self (t h : BitVec 4) : Within t (h ||| t) := fun k _ ht => by simp [ht]

theorem Within.or {t h : BitVec 4} (w : Within t h) (b : BitVec 4) : Within t (h ||| b) := fun k hk ht => by simp [w k hk ht]

/-- A sector that a line lacks is apart from a run of bytes all of whose sectors it has. -/
theorem Within.apart_of_missing {off n k : Nat} {h : BitVec 4} (w : Within (sectorsTouched off n) h) (hn : 0 < n) (hk : k < 4)
    (hm : h.getLsbD k = false) : Apart off n (32 * k) 32 := by
  have ht : ¬ (off / 32 ≤ k ∧ k ≤ (off + n - 1) / 32) := fun ht =>
    absurd ((w k hk ((getLsbD_sectorsTouched off n k hn hk).trans (decide_eq_true ht))).symm.trans hm) (by decide)
  unfold Apart
  omega

/-- A line that has what a run of bytes touches is not empty. -/
theorem Within.ne_zero {off n : Nat} {h : BitVec 4} (w : Within (sectorsTouched off n) h) (hn : 0 < n) (hl : off + n ≤ 128) :
    h ≠ 0 := by
  rintro rfl
  have ha := w.apart_of_missing hn (k := off / 32) (by omega) (by simp)
  unfold Apart at ha
  omega

/-- The sectors of a list are numbers of four, and it names them. -/
theorem mem_sectorList {b : BitVec 4} {k : Nat} : k ∈ sectorList b ↔ k < 4 ∧ b.getLsbD k = true := by
  simp [sectorList, upTo]

theorem missing_of_mem_sectorList {b h : BitVec 4} {k : Nat} (hk : k ∈ sectorList (b &&& ~~~h)) : k < 4 ∧ h.getLsbD k = false := by
  obtain ⟨h4, hb⟩ := mem_sectorList.mp hk
  rw [BitVec.getLsbD_and, BitVec.getLsbD_not, Bool.and_eq_true, Bool.and_eq_true, Bool.not_eq_true'] at hb
  exact ⟨h4, hb.2.2⟩

end Sys2Proof.Machine

/-!
What memory-side operations and the L2 leave alone: the cache banks, the L2s, and the bytes that an L2 line holds.
-/
namespace Sys2Proof.Machine
variable (s : State)

/-! ### What leaves the caches alone -/

/-- The cache banks of every core are as they were, and so is what decides which of them serve (R169, R172). -/
structure KeepsBanks (s t : State) : Prop where
  now : t.now = s.now
  lines : ∀ i, (t.core i).lines = (s.core i).lines
  role : ∀ i, (t.core i).bankRole = (s.core i).bankRole
  changing : ∀ i, (t.core i).changing = (s.core i).changing

/-- The L2s too are as they were. -/
structure KeepsCaches (s t : State) : Prop extends KeepsBanks s t where
  l2 : ∀ d, (t.die d).l2 = (s.die d).l2

variable {s}

theorem KeepsBanks.trans {t u : State} (h : KeepsBanks s t) (h' : KeepsBanks t u) : KeepsBanks s u :=
  ⟨h'.now.trans h.now, fun i => (h'.lines i).trans (h.lines i), fun i => (h'.role i).trans (h.role i),
    fun i => (h'.changing i).trans (h.changing i)⟩

theorem KeepsCaches.trans {t u : State} (h : KeepsCaches s t) (h' : KeepsCaches t u) : KeepsCaches s u :=
  ⟨h.toKeepsBanks.trans h'.toKeepsBanks, fun d => (h'.l2 d).trans (h.l2 d)⟩

theorem keepsBanks_of_eq {t : State} (hn : t.now = s.now) (hc : t.cores = s.cores) : KeepsBanks s t := by
  constructor <;> simp [State.core, hn, hc]

theorem keepsCaches_of_eq {t : State} (hn : t.now = s.now) (hc : t.cores = s.cores) (hd : t.dies = s.dies) : KeepsCaches s t :=
  ⟨keepsBanks_of_eq hn hc, fun d => by simp [State.die, hd]⟩

variable (s)

theorem KeepsBanks.refl : KeepsBanks s s := keepsBanks_of_eq rfl rfl
theorem KeepsCaches.refl : KeepsCaches s s := keepsCaches_of_eq rfl rfl rfl

theorem keepsBanks_foldl {β : Type} (f : State → β → State) (l : List β) (hf : ∀ t b, KeepsBanks t (f t b)) :
    KeepsBanks s (l.foldl f s) :=
  foldl_keeps (KeepsBanks s) f l (fun t b h => h.trans (hf t b)) s (.refl s)

theorem keepsCaches_foldl {β : Type} (f : State → β → State) (l : List β) (hf : ∀ t b, KeepsCaches t (f t b)) :
    KeepsCaches s (l.foldl f s) :=
  foldl_keeps (KeepsCaches s) f l (fun t b h => h.trans (hf t b)) s (.refl s)

variable {s} in
theorem KeepsCaches.l2Line_eq {t : State} (h : KeepsCaches s t) (d line : Nat) : t.l2Line d line = s.l2Line d line := by
  rw [State.l2Line, h.l2, State.l2Line]

/-! ### The memory side (R197) keeps the caches -/

theorem putBytes_keepsCaches (pa n x : Nat) : KeepsCaches s (s.putBytes pa n x) := by
  rw [putBytes_eq]; exact keepsCaches_of_eq rfl rfl rfl

theorem cureMem_keepsCaches (pa n : Nat) : KeepsCaches s (s.cureMem pa n) := by
  unfold State.cureMem; split <;> exact keepsCaches_of_eq rfl rfl rfl

theorem markPoison_keepsCaches (p : PoisonAt) : KeepsCaches s (s.markPoison p) := by
  unfold State.markPoison; split <;> exact keepsCaches_of_eq rfl rfl rfl

theorem clearPoison_keepsCaches (p : PoisonAt) : KeepsCaches s (s.clearPoison p) := by
  unfold State.clearPoison; split <;> exact keepsCaches_of_eq rfl rfl rfl

theorem carryPoison_keepsCaches (p q : PoisonAt) : KeepsCaches s (s.carryPoison p q) := by
  unfold State.carryPoison
  split
  · exact markPoison_keepsCaches _ _
  · exact clearPoison_keepsCaches _ _

theorem backPoison_keepsCaches (m : Nat) (p q : PoisonAt) : KeepsCaches s (s.backPoison m p q) := by
  unfold State.backPoison
  split
  · exact carryPoison_keepsCaches _ _ _
  · exact .refl s

theorem keepLine_keepsCaches (pa : Nat) (b : Bool) : KeepsCaches s (s.keepLine pa b) := by
  unfold State.keepLine; split <;> exact keepsCaches_of_eq rfl rfl rfl

theorem dramTake_keepsCaches (pa n : Nat) : KeepsCaches s (s.dramTake pa n) := by
  unfold State.dramTake
  refine keepsCaches_foldl s _ _ fun t x => ?_
  dsimp only
  split
  · exact .refl t
  · split <;> exact keepsCaches_of_eq rfl rfl rfl

/-- A reply un-gates its core and touches no line of it. -/
theorem reply_keepsCaches (x slot id v : Nat) : KeepsCaches s (s.reply x slot id v) := by
  unfold State.reply
  refine ⟨⟨rfl, ?_, ?_, ?_⟩, fun d => rfl⟩ <;> intro i <;> rw [State.core_modCore, State.core_modCtxAt] <;> split <;> simp [*]

theorem watchMet_keepsCaches (w : Watch) : KeepsCaches s (s.watchMet w) := by
  unfold State.watchMet
  split
  · exact reply_keepsCaches _ _ _ _ _
  · exact keepsCaches_of_eq rfl rfl rfl

theorem modDie_keepsCaches (d : Nat) (f : Die → Die) (h : (f (s.die d)).l2 = (s.die d).l2) : KeepsCaches s (s.modDie d f) := by
  refine ⟨keepsBanks_of_eq rfl rfl, fun i => ?_⟩
  rw [State.die_modDie]
  split
  · next e => rw [e, h]
  · rfl

theorem testWatches_keepsCaches (d lo hi : Nat) : KeepsCaches s (s.testWatches d lo hi) := by
  unfold State.testWatches
  refine keepsCaches_foldl s _ _ fun t w => ?_
  split
  · exact .refl t
  · split
    · exact (watchMet_keepsCaches t w).trans (modDie_keepsCaches _ _ _ rfl)
    · exact .refl t

theorem memWrite_keepsCaches (pa n x : Nat) : KeepsCaches s (s.memWrite pa n x) := by
  have hp : KeepsCaches s ((s.putBytes pa n x).cureMem pa n) := (putBytes_keepsCaches s pa n x).trans (cureMem_keepsCaches _ _ _)
  have hw : KeepsCaches s (if (((s.putBytes pa n x).cureMem pa n).die (syncDie pa)).watches.isEmpty then (s.putBytes pa n x).cureMem pa n
      else ((s.putBytes pa n x).cureMem pa n).testWatches (syncDie pa) pa (pa + n)) := by
    split
    · exact hp
    · exact hp.trans (testWatches_keepsCaches _ _ _ _)
  unfold State.memWrite
  split
  · exact keepsCaches_of_eq rfl rfl rfl
  · exact keepsCaches_of_eq rfl rfl rfl
  · exact keepsCaches_of_eq rfl rfl rfl
  · exact hw
  · exact hw
  · exact hp

theorem memWriteMasked_keepsCaches (pa n x m : Nat) : KeepsCaches s (s.memWriteMasked pa n x m) := by
  unfold State.memWriteMasked
  split
  · exact memWrite_keepsCaches _ _ _ _
  · refine keepsCaches_foldl s _ _ fun t j => ?_
    split
    · exact memWrite_keepsCaches _ _ _ _
    · exact .refl t

theorem memLand_keepsCaches (pa n x m : Nat) (bad : Bool) : KeepsCaches s (s.memLand pa n x m bad) := by
  have h : KeepsCaches s ((s.dramTake pa n).memWriteMasked pa n x m) :=
    (dramTake_keepsCaches s pa n).trans (memWriteMasked_keepsCaches _ _ _ _ _)
  unfold State.memLand
  split
  · exact h.trans (markPoison_keepsCaches _ _)
  · exact h

theorem memPost_keepsCaches (pa n x m : Nat) (c : Option Nat) (bad : Bool) : KeepsCaches s (s.memPost pa n x m c bad) := by
  unfold State.memPost
  dsimp only
  split
  · unfold State.dramJoin
    split <;> exact keepsCaches_of_eq rfl rfl rfl
  · exact memLand_keepsCaches _ _ _ _ _ _

/-- A request to another package touches no cache (R353). -/
theorem putRequest_keepsCaches (r : Request) : KeepsCaches s (s.putRequest r) := by
  unfold State.putRequest
  split
  · unfold State.sendFlit
    dsimp only
    split <;> exact keepsCaches_of_eq rfl rfl rfl
  · unfold State.failRequest
    dsimp only
    split <;> exact keepsCaches_of_eq rfl rfl rfl

theorem sendRequest_keepsCaches (p op pa n : Nat) (v : Word) (x : Nat) (o : Requester) (g : Sig) :
    KeepsCaches s (s.sendRequest p op pa n v x o g) := by
  unfold State.sendRequest
  refine KeepsCaches.trans ?_ (putRequest_keepsCaches _ _)
  exact keepsCaches_of_eq rfl rfl rfl

theorem memWriteBack_keepsCaches (core pa v m : Nat) (bad : Bool) : KeepsCaches s (s.memWriteBack core pa v m bad) := by
  unfold State.memWriteBack
  split
  · refine KeepsCaches.trans (t := if s.reachable _ then s.memLand pa 32 v m bad else s) ?_
      ((sendRequest_keepsCaches _ _ _ _ _ _ _ _ _).trans (keepsCaches_of_eq rfl rfl rfl))
    split
    · exact memLand_keepsCaches _ _ _ _ _ _
    · exact .refl s
  · exact memPost_keepsCaches _ _ _ _ _ _ _

/-! ### The L2 keeps the cache banks -/

theorem setL2Line_keepsBanks (d line : Nat) (l : L2Line) : KeepsBanks s (s.setL2Line d line l) := keepsBanks_of_eq rfl rfl

theorem l2Clean_keepsBanks (d line : Nat) (b : BitVec 4) : KeepsBanks s (s.l2Clean d line b) := by
  have hf : ∀ (t : State) (l : List Nat) (x : L2Line), KeepsBanks t (l.foldl (fun s k =>
      s.memWriteBack (x.writers.getD k 0) (line * 128 + 32 * k) (lineBytes x.data (32 * k) 32) (sectorMask x.bytes k)
        (s.poison.contains (.l2 d (4 * line + k)))) t) := fun t l x =>
    keepsBanks_foldl t _ _ fun u k => (memWriteBack_keepsCaches u _ _ _ _ _).toKeepsBanks
  unfold State.l2Clean
  dsimp only
  split
  · exact hf _ _ _
  · exact ((keepLine_keepsCaches s _ _).toKeepsBanks.trans (hf _ _ _)).trans (setL2Line_keepsBanks _ _ _ _)

theorem l2Drop_keepsBanks (d line : Nat) : KeepsBanks s (s.l2Drop d line) := by
  unfold State.l2Drop
  exact ((l2Clean_keepsBanks s d line _).trans (setL2Line_keepsBanks _ _ _ _)).trans
    (keepsBanks_foldl _ _ _ fun t k => (clearPoison_keepsCaches t _).toKeepsBanks)

theorem l2Room_keepsBanks (d line : Nat) : KeepsBanks s (s.l2Room d line) := by
  unfold State.l2Room
  dsimp only
  split
  · split
    · exact l2Drop_keepsBanks _ _ _
    · exact .refl s
  · exact .refl s

theorem l2FillPoison_keepsCaches (d line : Nat) (ks : List Nat) : KeepsCaches s (s.l2FillPoison d line ks) := by
  unfold State.l2FillPoison
  split
  · exact .refl s
  · exact keepsCaches_foldl s _ _ fun t k => carryPoison_keepsCaches t _ _

theorem l2Fill_keepsBanks (d line : Nat) (b : BitVec 4) : KeepsBanks s (s.l2Fill d line b) := by
  unfold State.l2Fill
  dsimp only
  split
  · exact .refl s
  · exact (((l2Room_keepsBanks s d line).trans (keepLine_keepsCaches _ _ _).toKeepsBanks).trans (setL2Line_keepsBanks _ _ _ _)).trans
      (l2FillPoison_keepsCaches _ _ _ _).toKeepsBanks

theorem l2Write_keepsBanks (d core line off n x : Nat) : KeepsBanks s (s.l2Write d core line off n x) := by
  unfold State.l2Write
  exact (((l2Room_keepsBanks s d line).trans (l2Fill_keepsBanks _ _ _ _)).trans
    (keepsBanks_foldl _ _ _ fun t k => (clearPoison_keepsCaches t _).toKeepsBanks)).trans (setL2Line_keepsBanks _ _ _ _)

theorem l2WriteBack_keepsBanks (d core line k v m : Nat) : KeepsBanks s (s.l2WriteBack d core line k v m) := by
  unfold State.l2WriteBack
  split
  · exact l2Write_keepsBanks _ _ _ _ _ _ _
  · exact (l2Fill_keepsBanks _ _ _ _).trans (setL2Line_keepsBanks _ _ _ _)

/-! ### What the L2 holds of a line -/

/-- The L2 of a die holds the low `n` bytes of `x` in bytes `off` to `off + n - 1` of a line. -/
structure L2Holds (s : State) (d line off n x : Nat) : Prop where
  within : Within (sectorsTouched off n) (s.l2Line d line).have_
  bytes : LineHolds (s.l2Line d line).data off n x

@[simp] theorem l2Line_setL2Line_same (d line : Nat) (l : L2Line) : (s.setL2Line d line l).l2Line d line = l := by
  simp [State.l2Line, State.setL2Line]

/-- A line that the L2 has needs no room (R14). -/
theorem l2Room_of_held (d line : Nat) (h : (s.l2Line d line).have_ ≠ 0) : s.l2Room d line = s := by
  unfold State.l2Room
  exact if_neg fun e => h e.2

theorem l2Fill_of_within (d line : Nat) (b : BitVec 4) (h : Within b (s.l2Line d line).have_) : s.l2Fill d line b = s := by
  unfold State.l2Fill
  exact if_pos ((within_iff _ _).mp h)

variable {s} {d line off n x : Nat}

theorem KeepsCaches.l2Holds {t : State} (k : KeepsCaches s t) (h : L2Holds s d line off n x) : L2Holds t d line off n x :=
  ⟨by rw [k.l2Line_eq]; exact h.within, by rw [k.l2Line_eq]; exact h.bytes⟩

/-- Sectors brought from the memory side leave a run of bytes alone that touches none of them. -/
theorem LineHolds.fetchSectors {v : VWord} (h : LineHolds v off n x) (line' : Nat) (l : List Nat)
    (hl : ∀ k ∈ l, k < 4 ∧ Apart off n (32 * k) 32) : LineHolds (s.fetchSectors line' l v) off n x := by
  unfold State.fetchSectors
  refine List.foldlRecOn (motive := fun w => LineHolds w off n x) l _ h fun w hw k hk => ?_
  obtain ⟨h4, ha⟩ := hl k hk
  exact hw.setLineBytes_apart _ ha (by omega)

/-- Filling other sectors of a line leaves what it holds. -/
theorem L2Holds.l2Fill (h : L2Holds s d line off n x) (hn : 0 < n) (hl : off + n ≤ 128) (b : BitVec 4) :
    L2Holds (s.l2Fill d line b) d line off n x := by
  unfold State.l2Fill
  dsimp only
  split
  · exact h
  · rw [l2Room_of_held s d line (h.within.ne_zero hn hl)]
    have e := (keepLine_keepsCaches s (line * 128) false).l2Line_eq d line
    refine (l2FillPoison_keepsCaches _ d line _).l2Holds ⟨?_, ?_⟩
    · rw [l2Line_setL2Line_same, e]
      exact h.within.or _
    · rw [l2Line_setL2Line_same, e]
      refine h.bytes.fetchSectors line _ fun k hk => ?_
      obtain ⟨h4, hm⟩ := missing_of_mem_sectorList hk
      exact ⟨h4, h.within.apart_of_missing hn h4 hm⟩

variable (s) in
/-- What the L2 takes it holds. -/
theorem l2Holds_l2Write (d core line off n x : Nat) (hl : off + n ≤ 128) : L2Holds (s.l2Write d core line off n x) d line off n x := by
  unfold State.l2Write
  refine ⟨?_, ?_⟩ <;> rw [l2Line_setL2Line_same]
  · exact within_or_self _ _
  · exact lineHolds_setLineBytes _ _ _ _ hl

/-- A write of other bytes of a line leaves what it holds. -/
theorem L2Holds.l2Write_apart {off' n' : Nat} (h : L2Holds s d line off n x) (hn : 0 < n) (hl : off + n ≤ 128) (core y : Nat)
    (ha : Apart off n off' n') (hl' : off' + n' ≤ 128) : L2Holds (s.l2Write d core line off' n' y) d line off n x := by
  unfold State.l2Write
  rw [l2Room_of_held s d line (h.within.ne_zero hn hl)]
  have hf := h.l2Fill hn hl (sectorsTouched off' n' &&& ~~~sectorsWhole off' n')
  have hc := (keepsCaches_foldl (s.l2Fill d line (sectorsTouched off' n' &&& ~~~sectorsWhole off' n'))
    (fun s k => s.clearPoison (.l2 d (4 * line + k))) (sectorList (sectorsWhole off' n')) fun t k => clearPoison_keepsCaches t _).l2Holds hf
  refine ⟨?_, ?_⟩ <;> rw [l2Line_setL2Line_same]
  · exact hc.within.or _
  · exact hc.bytes.setLineBytes_apart y ha hl'

/-- Bytes that a core writes back leave those of the line that its mask does not name (R204). -/
theorem L2Holds.l2WriteBack (h : L2Holds s d line off n x) (hn : 0 < n) (hl : off + n ≤ 128) (core v k : Nat) {b : BitVec 128}
    (hb : Avoids b off n) (hk : k < 4) : L2Holds (s.l2WriteBack d core line k v (sectorMask b k)) d line off n x := by
  unfold State.l2WriteBack
  split
  · next hf => exact h.l2Write_apart hn hl core v (hb.apart_of_full hn hf) (by omega)
  · have hf := h.l2Fill hn hl (1#4 <<< k)
    refine ⟨?_, ?_⟩ <;> rw [l2Line_setL2Line_same]
    · exact hf.within
    · exact hf.bytes.merge v hb hk

theorem L2Holds.l2Read_eq (h : L2Holds s d line off n x) : (s.l2Read d line off n).1 = x % 256 ^ n := by
  unfold State.l2Read
  rw [l2Fill_of_within s d line _ h.within]
  exact h.bytes

end Sys2Proof.Machine

/-!
Which cache bank holds a line, what keeps it there, and which bank takes a line that none holds.
-/
namespace Sys2Proof.Machine

/-! ### Which bank holds a line (R169, R172) -/

/-- The same banks of a core serve as cache. -/
structure KeepsServing (core : Nat) (s t : State) : Prop where
  now : t.now = s.now
  role : (t.core core).bankRole = (s.core core).bankRole
  changing : (t.core core).changing = (s.core core).changing

/-- The same banks serve, and each entry of them is of the line that it was of. -/
structure KeepsTags (core : Nat) (s t : State) : Prop extends KeepsServing core s t where
  tag : ∀ j k, ((t.core core).line j k).line = ((s.core core).line j k).line

/-- The same banks serve, and in a set every entry but that of one bank is of the line that it was of. -/
structure Retags (core bank set : Nat) (s t : State) : Prop extends KeepsServing core s t where
  tag : ∀ j, j ≠ bank → ((t.core core).line j set).line = ((s.core core).line j set).line

section
variable {s t u : State} {core line : Nat}

theorem KeepsServing.trans (h : KeepsServing core s t) (h' : KeepsServing core t u) : KeepsServing core s u :=
  ⟨h'.now.trans h.now, h'.role.trans h.role, h'.changing.trans h.changing⟩

theorem KeepsServing.cacheBanks_eq (h : KeepsServing core s t) : (t.core core).cacheBanks t.now = (s.core core).cacheBanks s.now := by
  unfold CoreSt.cacheBanks CoreSt.isChanging
  rw [h.now, h.role, h.changing]

theorem KeepsTags.trans (h : KeepsTags core s t) (h' : KeepsTags core t u) : KeepsTags core s u :=
  ⟨h.toKeepsServing.trans h'.toKeepsServing, fun j k => (h'.tag j k).trans (h.tag j k)⟩

theorem KeepsTags.retags {bank set : Nat} (h : KeepsTags core s t) : Retags core bank set s t :=
  ⟨h.toKeepsServing, fun j _ => h.tag j set⟩

theorem Retags.trans {bank set : Nat} (h : Retags core bank set s t) (h' : Retags core bank set t u) : Retags core bank set s u :=
  ⟨h.toKeepsServing.trans h'.toKeepsServing, fun j hj => (h'.tag j hj).trans (h.tag j hj)⟩

theorem KeepsBanks.line_eq (h : KeepsBanks s t) (core j k : Nat) : (t.core core).line j k = (s.core core).line j k := by
  rw [CoreSt.line, h.lines, CoreSt.line]

theorem KeepsBanks.keepsTags (h : KeepsBanks s t) (core : Nat) : KeepsTags core s t :=
  ⟨⟨h.now, h.role core, h.changing core⟩, fun j k => by rw [h.line_eq]⟩

theorem KeepsTags.refl (s : State) (core : Nat) : KeepsTags core s s := (KeepsBanks.refl s).keepsTags core

theorem KeepsTags.findLine_eq (h : KeepsTags core s t) (line : Nat) :
    (t.core core).findLine t.now line = (s.core core).findLine s.now line := by
  unfold CoreSt.findLine
  rw [h.cacheBanks_eq]
  simp only [h.tag]

/-- A bank found for a line holds it. -/
theorem line_of_findLine {c : CoreSt} {now j : Nat} (h : c.findLine now line = some j) : (c.line j (line % 128)).line = some line := by
  simpa using List.find?_some h

theorem keepsTags_foldl {β : Type} (s : State) (f : State → β → State) (l : List β) (hf : ∀ t b, KeepsTags core t (f t b)) :
    KeepsTags core s (l.foldl f s) :=
  foldl_keeps (KeepsTags core s) f l (fun t b h => h.trans (hf t b)) s (.refl s core)

theorem line_of_set {c c' : CoreSt} {b k : Nat} {y : CacheLine} (hl : c'.lines = Store.set {} c.lines (b * 128 + k) y) (j i : Nat) :
    c'.line j i = if j * 128 + i = b * 128 + k then y else c.line j i := by
  rw [CoreSt.line, hl, Store.get_set, CoreSt.line]

@[simp] theorem line_setLine_same (c : CoreSt) (b k : Nat) (y : CacheLine) : (c.setLine b k y).line b k = y := by
  rw [line_of_set rfl, if_pos rfl]

/-- A change of one entry that leaves it with its line keeps the tags. -/
theorem keepsTags_modCore (s : State) {f : CoreSt → CoreSt} {b k : Nat} {y : CacheLine}
    (hr : (f (s.core core)).bankRole = (s.core core).bankRole) (hc : (f (s.core core)).changing = (s.core core).changing)
    (hl : (f (s.core core)).lines = Store.set {} (s.core core).lines (b * 128 + k) y)
    (hy : y.line = ((s.core core).line b k).line) : KeepsTags core s (s.modCore core f) := by
  refine ⟨⟨rfl, ?_, ?_⟩, fun j i => ?_⟩ <;> rw [State.core_modCore, if_pos rfl]
  · exact hr
  · exact hc
  · rw [line_of_set hl]
    split
    · next e => rw [hy, CoreSt.line, CoreSt.line, e]
    · rfl

theorem carryBytes_keepsBanks (s : State) (core line off n : Nat) : KeepsBanks s (s.carryBytes core line off n) := by
  unfold State.carryBytes
  refine ⟨rfl, ?_, ?_, ?_⟩ <;> intro i <;> rw [State.core_modCore] <;> split <;> simp [*]

theorem touchLine_keepsTags (s : State) (core b k : Nat) : KeepsTags core s (s.touchLine core b k) :=
  keepsTags_modCore s rfl rfl rfl rfl

theorem fillLine_keepsTags (s : State) (core bank line : Nat) (b : BitVec 4) : KeepsTags core s (s.fillLine core bank line b) := by
  unfold State.fillLine
  refine keepsTags_foldl s _ _ fun t k => ?_
  have h : KeepsBanks t ((t.l2Read (dieOf core) line (32 * k) 32).2.carryPoison (.l2 (dieOf core) (4 * line + k))
      (.cache core (4 * line + k))) := (l2Fill_keepsBanks t _ _ _).trans (carryPoison_keepsCaches _ _ _).toKeepsBanks
  exact (h.keepsTags core).trans (keepsTags_modCore _ rfl rfl rfl rfl)

/-- What a write-back of a cache line does at the L2 (R169). -/
def State.writeSectors (s : State) (core line : Nat) (x : CacheLine) : State :=
  (sectorList x.dirty).foldl (fun s k =>
    (s.l2WriteBack (dieOf core) core line k (lineBytes x.data (32 * k) 32) (sectorMask x.bytes k)).backPoison
      (sectorMask x.bytes k) (.cache core (4 * line + k)) (.l2 (dieOf core) (4 * line + k))) s

/-- A line that is clean, or of nothing, is not written back; another is, and stays. -/
theorem cleanLine_cases (s : State) (core bank set : Nat) (carry : Bool) :
    s.cleanLine core bank set carry = s ∨
    ∃ line, ((s.core core).line bank set).line = some line ∧
      s.cleanLine core bank set carry = (s.writeSectors core line ((s.core core).line bank set)).modCore core fun c =>
        { c.setLine bank set { (s.core core).line bank set with dirty := 0, bytes := 0 } with
          carried := if carry then sigAddSectors c.carried line ((s.core core).line bank set).dirty else c.carried } := by
  unfold State.cleanLine
  dsimp only
  split
  · exact .inl rfl
  · next line h =>
    split
    · exact .inl rfl
    · exact .inr ⟨line, h, rfl⟩

theorem cleanLine_of_clean (s : State) (core bank set : Nat) (carry : Bool) (h : ((s.core core).line bank set).dirty = 0) :
    s.cleanLine core bank set carry = s := by
  unfold State.cleanLine
  dsimp only
  split
  · rfl
  · exact if_pos h

theorem writeSectors_keepsBanks (s : State) (core line : Nat) (x : CacheLine) : KeepsBanks s (s.writeSectors core line x) := by
  unfold State.writeSectors
  exact keepsBanks_foldl s _ _ fun t k => (l2WriteBack_keepsBanks t _ _ _ _ _ _).trans (backPoison_keepsCaches _ _ _ _).toKeepsBanks

theorem cleanLine_keepsTags (s : State) (core bank set : Nat) (carry : Bool) : KeepsTags core s (s.cleanLine core bank set carry) := by
  obtain e | ⟨line, hl, e⟩ := cleanLine_cases s core bank set carry <;> rw [e]
  · exact .refl s core
  · have h := writeSectors_keepsBanks s core line ((s.core core).line bank set)
    refine (h.keepsTags core).trans (keepsTags_modCore _ rfl rfl rfl ?_)
    rw [h.line_eq]

/-- Writing a line back to the L2 leaves the bytes there that it does not name as written. -/
theorem L2Holds.writeSectors {off n x : Nat} (h : L2Holds s (dieOf core) line off n x) (hn : 0 < n) (hl : off + n ≤ 128) (y : CacheLine)
    (hy : Avoids y.bytes off n) : L2Holds (s.writeSectors core line y) (dieOf core) line off n x := by
  unfold State.writeSectors
  refine List.foldlRecOn (motive := fun t : State => L2Holds t (dieOf core) line off n x) _ _ h fun t ht k hk => ?_
  exact (backPoison_keepsCaches _ _ _ _).l2Holds (ht.l2WriteBack hn hl core _ k hy (mem_sectorList.mp hk).1)

/-! ### The bank that takes a line (R169) -/

/-- Where exactly one entry of a list meets a condition, it is the one found. -/
theorem find?_eq_of_unique {l : List Nat} {p : Nat → Bool} {j : Nat} (hj : j ∈ l) (hp : ∀ k ∈ l, p k = true ↔ k = j) :
    l.find? p = some j := by
  cases e : l.find? p with
  | none => exact absurd ((hp j hj).mpr rfl) (List.find?_eq_none.mp e j hj)
  | some k => rw [(hp k (List.mem_of_find?_eq_some e)).mp (List.find?_some e)]

theorem leastUsed_mem (c : CoreSt) (set : Nat) (l : List Nat) {j : Nat} (h : leastUsed c set l = some j) : j ∈ l := by
  induction l generalizing j with
  | nil => simp [leastUsed] at h
  | cons a l ih =>
    unfold leastUsed at h
    split at h
    · cases h; exact List.mem_cons_self
    · next k hk =>
      cases h
      split
      · exact List.mem_cons_of_mem _ (ih hk)
      · exact List.mem_cons_self

theorem leastUsed_eq_none (c : CoreSt) (set : Nat) (l : List Nat) : leastUsed c set l = none ↔ l = [] := by
  cases l with
  | nil => simp [leastUsed]
  | cons a l => simp only [leastUsed, reduceCtorEq, iff_false]; split <;> simp

theorem dropLine_tags (s : State) (core bank set : Nat) :
    KeepsTags core ((s.cleanLine core bank set true).modCore core fun c => c.setLine bank set {}) (s.dropLine core bank set) := by
  unfold State.dropLine
  dsimp only
  split
  · exact (keepsBanks_foldl _ _ _ fun t k => (clearPoison_keepsCaches t _).toKeepsBanks).keepsTags core
  · exact .refl _ core

theorem retags_setLine (s : State) (core bank set : Nat) (y : CacheLine) :
    Retags core bank set s (s.modCore core fun c => c.setLine bank set y) := by
  refine ⟨⟨rfl, ?_, ?_⟩, fun j hj => ?_⟩ <;> rw [State.core_modCore, if_pos rfl]
  · rfl
  · rfl
  · rw [line_of_set rfl, if_neg (by omega)]

theorem dropLine_retags (s : State) (core bank set : Nat) : Retags core bank set s (s.dropLine core bank set) :=
  ((cleanLine_keepsTags s core bank set true).retags.trans (retags_setLine _ _ _ _ _)).trans (dropLine_tags s core bank set).retags

/-- A line given to a serving bank where none held it is found there. -/
theorem findLine_of_given {j : Nat} (h : Retags core j (line % 128) s t) (hm : j ∈ (s.core core).cacheBanks s.now)
    (hf : (s.core core).findLine s.now line = none) (y : CacheLine) (hy : y.line = some line) :
    ((t.modCore core fun c => c.setLine j (line % 128) y).core core).findLine t.now line = some j := by
  have r := h.trans (retags_setLine t core j (line % 128) y)
  have hb : ((t.modCore core fun c => c.setLine j (line % 128) y).core core).cacheBanks t.now = (s.core core).cacheBanks s.now :=
    r.cacheBanks_eq
  unfold CoreSt.findLine
  rw [hb]
  refine find?_eq_of_unique hm fun k hk => ?_
  constructor
  · intro e
    by_contra hne
    rw [r.tag k hne] at e
    exact List.find?_eq_none.mp hf k hk e
  · rintro rfl
    simp [hy]

/-- A line allocated is found in the bank that took it. -/
theorem findLine_of_allocLine {j : Nat} (hf : (s.core core).findLine s.now line = none) (h : s.allocLine core line = some (j, t)) :
    (t.core core).findLine t.now line = some j := by
  unfold State.allocLine at h
  dsimp only at h
  split at h
  · next i hi =>
    cases h
    exact findLine_of_given (KeepsTags.refl s core).retags (List.mem_of_find?_eq_some hi) hf _ rfl
  · split at h
    · cases h
    · next i hi =>
      cases h
      exact findLine_of_given (dropLine_retags s core j _) (leastUsed_mem _ _ _ hi) hf _ rfl

/-- A core that has a line after a miss finds it in the bank that took it. -/
theorem findLine_of_ensureLine {j : Nat} (h : s.ensureLine core line = some (j, t)) : (t.core core).findLine t.now line = some j := by
  unfold State.ensureLine at h
  split at h
  · next hf => cases h; exact hf
  · next hf => exact findLine_of_allocLine hf h

theorem ensureLine_of_findLine {j : Nat} (h : (s.core core).findLine s.now line = some j) : s.ensureLine core line = some (j, s) := by
  unfold State.ensureLine
  rw [h]

/-- A core takes no line only where no bank of it serves as cache. -/
theorem ensureLine_eq_none : s.ensureLine core line = none ↔ (s.core core).cacheBanks s.now = [] := by
  unfold State.ensureLine
  split
  · next hf =>
    refine ⟨by simp, fun hb => ?_⟩
    rw [CoreSt.findLine, hb] at hf
    simp at hf
  · unfold State.allocLine
    dsimp only
    split
    · next hi => exact ⟨by simp, fun hb => absurd (List.mem_of_find?_eq_some hi) (by simp [hb])⟩
    · split
      · next hl => simpa using (leastUsed_eq_none _ _ _).mp hl
      · next j hl => exact ⟨by simp, fun hb => absurd (leastUsed_mem _ _ _ hl) (by simp [hb])⟩

end

end Sys2Proof.Machine

/-!
A read after a write within one line, through the cache banks and through the L2.
-/
namespace Sys2Proof.Machine

/-! ### An access within one line (R198, R200) -/

theorem readPa_of_oneLine (s : State) (core level pa n : Nat) (h : pa % 128 + n ≤ 128) :
    s.readPa core level pa n = s.readSpan core level (pa / 128) (pa % 128) n := by
  simp [State.readPa, lineSpans, h]

theorem writePa_of_oneLine (s : State) (core level pa n x : Nat) (h : pa % 128 + n ≤ 128) :
    s.writePa core level pa n x = s.writeSpan core level (pa / 128) (pa % 128) n x := by
  simp [State.writePa, lineSpans, h]

section
variable {s t : State} {core line off n x : Nat}

/-! ### Through the cache banks -/

/-- A cache bank of the core holds the low `n` bytes of `x` in bytes `off` to `off + n - 1` of a line. -/
structure BankHolds (s : State) (core line j off n x : Nat) : Prop where
  found : (s.core core).findLine s.now line = some j
  within : Within (sectorsTouched off n) ((s.core core).line j (line % 128)).have_
  bytes : LineHolds ((s.core core).line j (line % 128)).data off n x

theorem BankHolds.readSpan_eq {j : Nat} (h : BankHolds s core line j off n x) : (s.readSpan core 0 line off n).1 = x % 256 ^ n := by
  have hf : s.fillLine core j line (sectorsTouched off n) = s := by
    unfold State.fillLine
    dsimp only
    rw [if_pos ((within_iff _ _).mp h.within)]
    rfl
  have hr : s.raiseOwn core 0 line = s := if_pos rfl
  have hd : (((s.touchLine core j (line % 128)).core core).line j (line % 128)).data = ((s.core core).line j (line % 128)).data := by
    rw [State.touchLine, State.core_modCore, if_pos rfl, line_of_set rfl, if_pos rfl]
  simp only [State.readSpan, hr, ensureLine_of_findLine h.found, hf, hd]
  exact h.bytes

/-- A write through the cache banks, where one takes the line. -/
theorem bankHolds_writeSpan {j : Nat} (hl : off + n ≤ 128) (he : s.ensureLine core line = some (j, t)) :
    BankHolds (s.writeSpan core 0 line off n x) core line j off n x := by
  have hk : ∀ (ks : List Nat) (b : BitVec 4), KeepsTags core t (ks.foldl (fun s k => s.clearPoison (.cache core (4 * line + k)))
      ((t.fillLine core j line b).touchLine core j (line % 128))) := fun ks b =>
    ((fillLine_keepsTags t core j line b).trans (touchLine_keepsTags _ _ _ _)).trans
      ((keepsBanks_foldl _ _ _ fun u k => (clearPoison_keepsCaches u _).toKeepsBanks).keepsTags core)
  simp only [State.writeSpan, if_true, he]
  constructor
  · refine KeepsTags.findLine_eq ((hk _ _).trans (keepsTags_modCore _ rfl rfl rfl ?_)) line |>.trans (findLine_of_ensureLine he)
    rfl
  · rw [State.core_modCore, if_pos rfl, line_setLine_same]
    exact within_or_self _ _
  · rw [State.core_modCore, if_pos rfl, line_setLine_same]
    exact lineHolds_setLineBytes _ _ _ _ hl

/-- Where no bank serves as cache a write goes to the L2. -/
theorem l2Holds_writeSpan_uncached (hl : off + n ≤ 128) (he : s.ensureLine core line = none) :
    L2Holds (s.writeSpan core 0 line off n x) (dieOf core) line off n x ∧ (s.writeSpan core 0 line off n x).ensureLine core line = none := by
  simp only [State.writeSpan, if_true, he]
  have hc := carryBytes_keepsBanks (s.l2Write (dieOf core) core line off n x) core line off n
  constructor
  · exact KeepsCaches.l2Holds ⟨hc, fun d => rfl⟩ (l2Holds_l2Write s _ _ _ _ _ _ hl)
  · rw [ensureLine_eq_none] at he ⊢
    exact (((l2Write_keepsBanks s _ _ _ _ _ _).trans hc).keepsTags core).cacheBanks_eq.trans he

theorem L2Holds.readSpan_uncached (h : L2Holds s (dieOf core) line off n x) (he : s.ensureLine core line = none) :
    (s.readSpan core 0 line off n).1 = x % 256 ^ n := by
  have hr : s.raiseOwn core 0 line = s := if_pos rfl
  simp only [State.readSpan, hr, he]
  exact h.l2Read_eq

/-- R198, R200: a core reads what it wrote through its cache banks. -/
theorem readSpan_writeSpan_banks (s : State) (core line off n x : Nat) (hl : off + n ≤ 128) :
    ((s.writeSpan core 0 line off n x).readSpan core 0 line off n).1 = x % 256 ^ n := by
  cases he : s.ensureLine core line with
  | some r => exact (bankHolds_writeSpan hl he).readSpan_eq
  | none =>
    obtain ⟨hw, hn⟩ := l2Holds_writeSpan_uncached (x := x) hl he
    exact hw.readSpan_uncached hn

/-! ### Copies below a write that goes past them (R200) -/

/-- The core's own cache line follows a write past the cache banks. -/
def State.updateBank (s : State) (core line off n x : Nat) : State :=
  match (s.core core).findLine s.now line with
  | some j => s.modCore core fun c => c.setLine j (line % 128)
      { c.line j (line % 128) with
        data := setLineBytes (c.line j (line % 128)).data off n x
        bytes := (c.line j (line % 128)).bytes &&& ~~~byteRange off n }
  | none => s

/-- The line of a die's L2 follows a write past it. -/
def State.updateL2 (s : State) (d line off n x : Nat) : State :=
  if (s.l2Line d line).have_ ≠ 0 ∨ (s.l2Line d line).dirty ≠ 0 then
    s.setL2Line d line { s.l2Line d line with
      data := setLineBytes (s.l2Line d line).data off n x
      bytes := (s.l2Line d line).bytes &&& ~~~byteRange off n }
  else s

theorem updateCopies_one (s : State) (core line off n x : Nat) :
    s.updateCopies core 1 line off n x = s.updateBank core line off n x := by
  unfold State.updateCopies State.updateBank
  cases (s.core core).findLine s.now line <;> rfl

theorem updateCopies_two (s : State) (core line off n x : Nat) :
    s.updateCopies core 2 line off n x = (s.updateBank core line off n x).updateL2 (dieOf core) line off n x := by
  unfold State.updateCopies State.updateBank State.updateL2
  cases (s.core core).findLine s.now line <;> simp

theorem updateBank_cases (s : State) (core line off n x : Nat) :
    ((s.core core).findLine s.now line = none ∧ s.updateBank core line off n x = s) ∨
    ∃ j, (s.core core).findLine s.now line = some j ∧ s.updateBank core line off n x = s.modCore core fun c => c.setLine j (line % 128)
      { c.line j (line % 128) with
        data := setLineBytes (c.line j (line % 128)).data off n x
        bytes := (c.line j (line % 128)).bytes &&& ~~~byteRange off n } := by
  unfold State.updateBank
  cases h : (s.core core).findLine s.now line with
  | none => exact .inl ⟨rfl, rfl⟩
  | some j => exact .inr ⟨j, rfl, rfl⟩

theorem updateBank_keepsTags (s : State) (core line off n x : Nat) : KeepsTags core s (s.updateBank core line off n x) := by
  obtain ⟨-, e⟩ | ⟨j, -, e⟩ := updateBank_cases s core line off n x <;> rw [e]
  · exact .refl s core
  · exact keepsTags_modCore s rfl rfl rfl rfl

theorem updateBank_dies (s : State) (core line off n x : Nat) : (s.updateBank core line off n x).dies = s.dies := by
  obtain ⟨-, e⟩ | ⟨j, -, e⟩ := updateBank_cases s core line off n x
  · rw [e]
  · rw [e, State.modCore_dies]

/-- The bytes that the core's own line has as written are then none of those of the write. -/
theorem updateBank_avoids (s : State) (core line x : Nat) (hl : off + n ≤ 128) {j : Nat}
    (hj : ((s.updateBank core line off n x).core core).findLine (s.updateBank core line off n x).now line = some j) :
    Avoids (((s.updateBank core line off n x).core core).line j (line % 128)).bytes off n ∧
      (((s.updateBank core line off n x).core core).line j (line % 128)).dirty = ((s.core core).line j (line % 128)).dirty := by
  rw [(updateBank_keepsTags s core line off n x).findLine_eq] at hj
  obtain ⟨hn, -⟩ | ⟨i, hi, e⟩ := updateBank_cases s core line off n x
  · rw [hn] at hj; cases hj
  · rw [hi] at hj
    cases hj
    rw [e, State.core_modCore, if_pos rfl, line_setLine_same]
    exact ⟨avoids_without_byteRange _ _ _ hl, rfl⟩

/-! ### Through the L2 -/

theorem updateBank_keepsL2Line (s : State) (core line off n x d line' : Nat) :
    (s.updateBank core line off n x).l2Line d line' = s.l2Line d line' := by
  simp [State.l2Line, State.die, updateBank_dies]

/-- What a core's write-back of its own line does to the rest: what the L2 holds in bytes not named as written stays (R169, R204). -/
theorem L2Holds.cleanLine (h : L2Holds s (dieOf core) line off n x) (hn : 0 < n) (hl : off + n ≤ 128) {j : Nat}
    (hj : (s.core core).findLine s.now line = some j) (ha : Avoids ((s.core core).line j (line % 128)).bytes off n) :
    L2Holds (s.cleanLine core j (line % 128) true) (dieOf core) line off n x := by
  obtain e | ⟨line', ht, e⟩ := cleanLine_cases s core j (line % 128) true <;> rw [e]
  · exact h
  · have hll : line' = line := by rw [line_of_findLine hj] at ht; exact (Option.some.inj ht).symm
    subst hll
    have hw := h.writeSectors hn hl _ ha
    exact ⟨hw.within, hw.bytes⟩

/-- What a core has written of a line in its own banks, as a read past them finds it written back. -/
def State.raiseBank (s : State) (core line : Nat) : State :=
  match (s.core core).findLine s.now line with
  | some j => s.cleanLine core j (line % 128) true
  | none => s

theorem raiseOwn_one (s : State) (core line : Nat) : s.raiseOwn core 1 line = s.raiseBank core line := by
  unfold State.raiseOwn State.raiseBank
  cases (s.core core).findLine s.now line <;> simp

theorem L2Holds.raiseBank (h : L2Holds s (dieOf core) line off n x) (hn : 0 < n) (hl : off + n ≤ 128)
    (ha : ∀ j, (s.core core).findLine s.now line = some j → Avoids ((s.core core).line j (line % 128)).bytes off n) :
    L2Holds (s.raiseBank core line) (dieOf core) line off n x := by
  unfold State.raiseBank
  split
  · next j hj => exact h.cleanLine hn hl hj (ha j hj)
  · exact h

/-- R198, R200: a core reads what it wrote through the L2. -/
theorem readSpan_writeSpan_l2 (s : State) (core line off n x : Nat) (hn : 0 < n) (hl : off + n ≤ 128) :
    ((s.writeSpan core 1 line off n x).readSpan core 1 line off n).1 = x % 256 ^ n := by
  have hw : s.writeSpan core 1 line off n x =
      ((s.carryBytes core line off n).l2Write (dieOf core) core line off n x).updateBank core line off n x :=
    updateCopies_one _ _ _ _ _ _
  have h2 : L2Holds (s.writeSpan core 1 line off n x) (dieOf core) line off n x := by
    have h := l2Holds_l2Write (s.carryBytes core line off n) (dieOf core) core line off n x hl
    rw [hw]
    exact ⟨by rw [updateBank_keepsL2Line]; exact h.within, by rw [updateBank_keepsL2Line]; exact h.bytes⟩
  have hr := h2.raiseBank hn hl fun j hj => by
    rw [hw] at hj ⊢
    exact (updateBank_avoids _ _ _ _ hl hj).1
  simp only [State.readSpan, raiseOwn_one]
  exact hr.l2Read_eq

end

end Sys2Proof.Machine

/-!
Bytes of HBM at the memory side: where they are held, what a write puts there, what a write-back leaves alone.
-/
namespace Sys2Proof.Machine

/-! ### HBM addresses (R177 to R179) -/

/-- The two views of HBM are the addresses below the side store. -/
theorem region_eq_hbm (pa : Nat) : region pa = .hbm ↔ pa < sideBase := by
  have hl : localRegion pa = .hbm ↔ pa < sideBase := by
    unfold localRegion sideBase
    repeat' split
    all_goals simp_all
  unfold region
  split
  · next h =>
    have hn : ¬ pa < sideBase := by unfold sideBase; unfold remoteBase at h; omega
    simp only [hn, iff_false]
    repeat' split
    all_goals simp
  · split
    · next h => simp only [reduceCtorEq, false_iff]; unfold sideBase; unfold hostBase at h; omega
    · exact hl

theorem atSync_eq_false_of_hbm {pa : Nat} (h : region pa = .hbm) : atSync pa = false := by
  simp [atSync, h]

/-- The bytes of a line stand side by side at home. -/
theorem home_line_add (line o : Nat) (h : o < 128) : home (line * 128 + o) = home (line * 128) + o := by
  unfold home hbmBase
  by_cases hb : line * 128 < 0x010000000000
  · have e1 : bits (line * 128 + o) 15 12 = bits (line * 128) 15 12 := by unfold bits; omega
    have e2 : bits (line * 128 + o) 19 16 = bits (line * 128) 19 16 := by unfold bits; omega
    have e3 : bits (line * 128 + o) 23 20 = bits (line * 128) 23 20 := by unfold bits; omega
    have e4 : bits (line * 128 + o) 39 16 = bits (line * 128) 39 16 := by unfold bits; omega
    have e5 : bits (line * 128 + o) 11 0 = bits (line * 128) 11 0 + o := by unfold bits; omega
    rw [if_pos (by omega), if_pos hb, e1, e2, e3, e4, e5]
    exact (Nat.add_assoc _ _ _).symm
  · rw [if_neg (by omega), if_neg hb]

/-- Inside the module a byte is held at its home address. -/
theorem heldAt_of_lt {pa : Nat} (h : pa < hostBase) : heldAt pa = (false, home pa) := if_neg (by omega)

theorem heldAt_of_ge {pa : Nat} (h : hostBase ≤ pa) : heldAt pa = (true, pa) := if_pos h

/-- The bytes of a line of HBM are each held elsewhere. -/
theorem heldAt_line_inj {line o o' : Nat} (hr : line * 128 < sideBase) (h : o < 128) (h' : o' < 128)
    (e : heldAt (line * 128 + o) = heldAt (line * 128 + o')) : o = o' := by
  have hb : line * 128 + 128 ≤ hostBase := by unfold sideBase at hr; unfold hostBase; omega
  rw [heldAt_of_lt (by omega), heldAt_of_lt (by omega), home_line_add _ _ h, home_line_add _ _ h'] at e
  simpa using e

/-- All of a line of HBM is HBM. -/
theorem region_line {line o : Nat} (hr : line * 128 < sideBase) (h : o < 128) : region (line * 128 + o) = .hbm :=
  (region_eq_hbm _).mpr (by unfold sideBase at *; omega)

/-! ### Bytes at the memory side (R3) -/

/-- The two memories, and which bytes are unpredictable, decide every byte. -/
theorem memByte_congr {s t : State} (hm : t.mem = s.mem) (hw : t.wild = s.wild) (ho : t.outside = s.outside) (b : Nat) :
    t.memByte b = s.memByte b := by rw [memByte_eq, memByte_eq, hm, hw, ho]

theorem memByte_cureMem (s : State) (pa n b : Nat) : (s.cureMem pa n).memByte b = s.memByte b := by
  unfold State.cureMem; split <;> exact memByte_congr rfl rfl rfl _

theorem memWrite_of_hbm {pa : Nat} (h : region pa = .hbm) (s : State) (n x : Nat) :
    s.memWrite pa n x = (s.putBytes pa n x).cureMem pa n := by simp [State.memWrite, h]

/-- Bytes written at a run of addresses that are each held elsewhere are the bytes read, by every address that names them. -/
theorem memByte_putBytes_run (s : State) (pa n x : Nat) (hd : ∀ i < n, ∀ j < n, heldAt (pa + i) = heldAt (pa + j) → i = j)
    {i b : Nat} (hi : i < n) (hb : heldAt b = heldAt (pa + i)) : (s.putBytes pa n x).memByte b = BitVec.ofNat 8 (x / 256 ^ i) := by
  induction n generalizing s pa x i with
  | zero => omega
  | succ n ih =>
    rw [State.putBytes]
    cases i with
    | zero =>
      rw [memByte_putBytes_other, memByte_setMemByte, if_pos (by simpa using hb), Nat.pow_zero, Nat.div_one]
      · intro j hj e
        rw [hb, show pa + 1 + j = pa + (j + 1) by omega] at e
        exact absurd (hd 0 (by omega) (j + 1) (by omega) e) (by omega)
    | succ i =>
      rw [ih (pa := pa + 1) (i := i) (hi := by omega) (hb := by rw [hb]; congr 1; omega), Nat.div_div_eq_div_mul, Nat.pow_succ']
      intro i hi j hj e
      have := hd (i + 1) (by omega) (j + 1) (by omega) (by rwa [show pa + (i + 1) = pa + 1 + i by omega, show pa + (j + 1) = pa + 1 + j by omega])
      omega

/-- Bytes at the memory side that are those of a number read as that number. -/
theorem memRead_of_bytes (s : State) (pa n x : Nat) (h : ∀ i < n, s.memByte (pa + i) = BitVec.ofNat 8 (x / 256 ^ i)) :
    s.memRead pa n = x % 256 ^ n := by
  induction n generalizing pa x with
  | zero => simp [State.memRead, Nat.mod_one]
  | succ n ih =>
    have h0 := h 0 (by omega)
    rw [State.memRead, ih (pa + 1) (x / 256) fun i hi => ?_, Nat.pow_succ', Nat.mod_mul, ← Nat.add_zero pa, h0]
    · simp
    · rw [show pa + 1 + i = pa + (i + 1) by omega, h (i + 1) (by omega), Nat.div_div_eq_div_mul, Nat.pow_succ']

section
variable (s : State)

/-- A masked write to HBM leaves every byte alone that it does not name. -/
theorem memByte_memWriteMasked (pa n x m b : Nat) (hn : 0 < n) (hr : ∀ j < n, region (pa + j) = .hbm)
    (hb : ∀ j < n, m.testBit j = true → heldAt b ≠ heldAt (pa + j)) : (s.memWriteMasked pa n x m).memByte b = s.memByte b := by
  unfold State.memWriteMasked
  split
  · next hm =>
    have hf : ∀ j < n, heldAt b ≠ heldAt (pa + j) := fun j hj => hb j hj (by rw [hm, Nat.testBit_two_pow_sub_one]; simpa using hj)
    have h0 : region pa = .hbm := hr 0 hn
    rw [memWrite_of_hbm h0, memByte_cureMem, memByte_putBytes_other _ _ _ _ _ hf]
  · refine List.foldlRecOn (motive := fun t : State => t.memByte b = s.memByte b) _ _ rfl fun t ht j hj => ?_
    have hj' : j < n := by simpa [upTo] using hj
    split
    · next hm =>
      rw [bit_eq_testBit] at hm
      rw [memWrite_of_hbm (hr j hj'), memByte_cureMem, memByte_putBytes_other, ht]
      intro i hi
      rw [Nat.lt_one_iff.mp hi]
      exact hb j hj' hm
    · exact ht

theorem memByte_dramTake (pa n b : Nat) : (s.dramTake pa n).memByte b = s.memByte b := by
  unfold State.dramTake
  refine foldl_keeps (fun t : State => t.memByte b = s.memByte b) _ _ (fun t x ht => ?_) s rfl
  dsimp only
  split
  · exact ht
  · split <;> exact ht

theorem memByte_keepLine (pa : Nat) (d : Bool) (b : Nat) : (s.keepLine pa d).memByte b = s.memByte b := by
  unfold State.keepLine; split <;> exact memByte_congr rfl rfl rfl _

theorem memByte_markPoison (p : PoisonAt) (b : Nat) : (s.markPoison p).memByte b = s.memByte b := by
  unfold State.markPoison; split <;> exact memByte_congr rfl rfl rfl _

/-- Written bytes of a sector that reach HBM, or queue there, leave every byte alone that their mask does not name (R197, R204, R315). -/
theorem memByte_memWriteBack (core pa v m : Nat) (bad : Bool) (b : Nat) (hr : ∀ j < 32, region (pa + j) = .hbm)
    (hb : ∀ j < 32, m.testBit j = true → heldAt b ≠ heldAt (pa + j)) : (s.memWriteBack core pa v m bad).memByte b = s.memByte b := by
  have h0 : region pa = .hbm := hr 0 (by omega)
  have hw := (memByte_memWriteMasked (s.dramTake pa 32) pa 32 v m b (by decide) hr hb).trans (memByte_dramTake s pa 32 b)
  simp only [State.memWriteBack, h0]
  unfold State.memPost
  dsimp only
  split
  · unfold State.dramJoin
    split <;> exact memByte_congr rfl rfl rfl _
  · unfold State.memLand
    dsimp only
    split
    · rw [memByte_markPoison, hw]
    · exact hw

/-- Writing an L2 line of HBM back leaves a byte at the memory side that the line does not have as written. -/
theorem memByte_l2Clean (d line : Nat) (b : BitVec 4) {off n i : Nat} (hr : line * 128 < sideBase) (hl : off + n ≤ 128)
    (ha : Avoids (s.l2Line d line).bytes off n) (hi : i < n) :
    (s.l2Clean d line b).memByte (line * 128 + off + i) = s.memByte (line * 128 + off + i) := by
  have step : ∀ (t : State), ∀ k < 4, ∀ (core v : Nat) (bad : Bool), (t.memWriteBack core (line * 128 + 32 * k) v
      (sectorMask (s.l2Line d line).bytes k) bad).memByte (line * 128 + off + i) = t.memByte (line * 128 + off + i) := by
    intro t k hk core v bad
    refine memByte_memWriteBack t _ _ _ _ _ _ (fun j hj => ?_) fun j hj hm e => ?_
    · rw [Nat.add_assoc]; exact region_line hr (by omega)
    · rw [Nat.add_assoc, Nat.add_assoc] at e
      have ho := heldAt_line_inj hr (by omega) (by omega) e
      rw [testBit_sectorMask, ← ho, ha _ (by omega) (by omega)] at hm
      simp at hm
  have fold : ∀ (t : State) (core : Nat → Nat) (v : Nat → Nat) (bad : State → Nat → Bool), ((sectorList ((s.l2Line d line).dirty &&& b)).foldl
      (fun s' k => s'.memWriteBack (core k) (line * 128 + 32 * k) (v k) (sectorMask (s.l2Line d line).bytes k) (bad s' k)) t).memByte
        (line * 128 + off + i) = t.memByte (line * 128 + off + i) := fun t core v bad =>
    List.foldlRecOn (motive := fun u : State => u.memByte (line * 128 + off + i) = t.memByte (line * 128 + off + i)) _ _ rfl
      fun u hu k hk => (step u k (mem_sectorList.mp hk).1 _ _ _).trans hu
  unfold State.l2Clean
  dsimp only
  split
  · exact fold s _ _ _
  · exact (fold _ _ _ _).trans (memByte_keepLine s _ _ _)

end

end Sys2Proof.Machine

/-!
A read after a write at the memory side, accesses of strongly ordered pages of HBM, and what they settle.
-/
namespace Sys2Proof.Machine

/-! ### Past the caches to the memory side (R198 to R200) -/

section
variable {s : State} {core line off n x : Nat}

/-- The copy in the L2 then has none of the bytes of the write as written, where it has any. -/
theorem updateL2_avoids (s : State) (d line x : Nat) (hl : off + n ≤ 128) :
    ((s.updateL2 d line off n x).l2Line d line).dirty = 0 ∨ Avoids ((s.updateL2 d line off n x).l2Line d line).bytes off n := by
  unfold State.updateL2
  split
  · rw [l2Line_setL2Line_same]
    exact .inr (avoids_without_byteRange _ _ _ hl)
  · next h => exact .inl (not_not.mp fun hd => h (.inr hd))

theorem updateL2_keepsBanks (s : State) (d line off n x : Nat) : KeepsBanks s (s.updateL2 d line off n x) := by
  unfold State.updateL2
  split
  · exact setL2Line_keepsBanks _ _ _ _
  · exact .refl s

theorem writeSpan_two (s : State) (core line off n x : Nat) : s.writeSpan core 2 line off n x =
    (((s.carryBytes core line off n).memWrite (line * 128 + off) n x).updateBank core line off n x).updateL2 (dieOf core) line off n x :=
  updateCopies_two _ _ _ _ _ _

theorem memByte_updateBank (s : State) (core line off n x b : Nat) : (s.updateBank core line off n x).memByte b = s.memByte b := by
  obtain ⟨-, e⟩ | ⟨j, -, e⟩ := updateBank_cases s core line off n x
  · rw [e]
  · rw [e]; exact memByte_congr rfl rfl rfl b

theorem memByte_updateL2 (s : State) (d line off n x b : Nat) : (s.updateL2 d line off n x).memByte b = s.memByte b := by
  unfold State.updateL2; split <;> exact memByte_congr rfl rfl rfl b

/-- A write at the memory side puts its bytes there, whatever becomes of the copies. -/
theorem memByte_writeSpan_two (s : State) (core x b : Nat) (hr : region (line * 128 + off) = .hbm) :
    (s.writeSpan core 2 line off n x).memByte b = ((s.carryBytes core line off n).putBytes (line * 128 + off) n x).memByte b := by
  rw [writeSpan_two, memByte_updateL2, memByte_updateBank, memWrite_of_hbm hr, memByte_cureMem]

theorem memByte_writeSpan_two_same (s : State) (core x : Nat) (hr : line * 128 < sideBase) (hl : off + n ≤ 128) {i b : Nat} (hi : i < n)
    (hb : heldAt b = heldAt (line * 128 + off + i)) : (s.writeSpan core 2 line off n x).memByte b = BitVec.ofNat 8 (x / 256 ^ i) := by
  rw [memByte_writeSpan_two s core x b (region_line hr (by omega))]
  refine memByte_putBytes_run _ _ _ _ (fun i hi j hj e => ?_) hi hb
  rw [Nat.add_assoc, Nat.add_assoc] at e
  have := heldAt_line_inj hr (by omega) (by omega) e
  omega

theorem memByte_writeSpan_two_other (s : State) (core x : Nat) (hr : region (line * 128 + off) = .hbm) {b : Nat}
    (hb : ∀ i < n, heldAt b ≠ heldAt (line * 128 + off + i)) : (s.writeSpan core 2 line off n x).memByte b = s.memByte b := by
  rw [memByte_writeSpan_two s core x b hr, memByte_putBytes_other _ _ _ _ _ hb]
  exact memByte_congr rfl rfl rfl b

theorem raiseOwn_two (s : State) (core line : Nat) : s.raiseOwn core 2 line =
    if ((s.raiseBank core line).l2Line (dieOf core) line).dirty = 0 then s.raiseBank core line
    else ((s.raiseBank core line).l2Clean (dieOf core) line ((s.raiseBank core line).l2Line (dieOf core) line).dirty).modCore core fun c =>
      { c with carried := sigAddSectors c.carried line ((s.raiseBank core line).l2Line (dieOf core) line).dirty } := by
  unfold State.raiseOwn State.raiseBank
  cases (s.core core).findLine s.now line <;> simp

/-- Cache banks that hold nothing of a line as written have nothing to write back. -/
theorem raiseBank_of_clean (h : ∀ j, (s.core core).findLine s.now line = some j → ((s.core core).line j (line % 128)).dirty = 0) :
    s.raiseBank core line = s := by
  unfold State.raiseBank
  split
  · next j hj => exact cleanLine_of_clean s core j _ true (h j hj)
  · rfl

/-- After a write at the memory side a core's banks have as little of the line to write back as before. -/
theorem writeSpan_two_clean (s : State) (core x : Nat) (hl : off + n ≤ 128)
    (h : ∀ j, (s.core core).findLine s.now line = some j → ((s.core core).line j (line % 128)).dirty = 0) {j : Nat}
    (hj : ((s.writeSpan core 2 line off n x).core core).findLine (s.writeSpan core 2 line off n x).now line = some j) :
    (((s.writeSpan core 2 line off n x).core core).line j (line % 128)).dirty = 0 := by
  have k1 := (carryBytes_keepsBanks s core line off n).trans
    (memWrite_keepsCaches (s.carryBytes core line off n) (line * 128 + off) n x).toKeepsBanks
  have k2 := updateL2_keepsBanks (((s.carryBytes core line off n).memWrite (line * 128 + off) n x).updateBank core line off n x)
    (dieOf core) line off n x
  rw [writeSpan_two] at hj ⊢
  rw [(k2.keepsTags core).findLine_eq] at hj
  rw [k2.line_eq, (updateBank_avoids _ core line x hl hj).2, k1.line_eq]
  refine h j ?_
  rwa [(updateBank_keepsTags _ core line off n x).findLine_eq, (k1.keepsTags core).findLine_eq] at hj

/-- R198, R200: a core reads what it wrote at the memory side, where its banks hold no other bytes of the line that it has written. -/
theorem readSpan_writeSpan_memory (s : State) (core x : Nat) (hr : line * 128 < sideBase) (hl : off + n ≤ 128)
    (h : ∀ j, (s.core core).findLine s.now line = some j → ((s.core core).line j (line % 128)).dirty = 0) :
    ((s.writeSpan core 2 line off n x).readSpan core 2 line off n).1 = x % 256 ^ n := by
  have hc : (s.writeSpan core 2 line off n x).raiseBank core line = s.writeSpan core 2 line off n x :=
    raiseBank_of_clean fun j hj => writeSpan_two_clean s core x hl h hj
  have hb : ∀ i < n, (s.writeSpan core 2 line off n x).memByte (line * 128 + off + i) = BitVec.ofNat 8 (x / 256 ^ i) := fun i hi =>
    memByte_writeSpan_two_same s core x hr hl hi rfl
  refine memRead_of_bytes _ _ n x fun i hi => ?_
  rw [raiseOwn_two, hc]
  split
  · exact hb i hi
  · next hd =>
    have ha : Avoids ((s.writeSpan core 2 line off n x).l2Line (dieOf core) line).bytes off n := by
      rw [writeSpan_two] at hd ⊢
      exact (updateL2_avoids _ _ _ _ hl).resolve_left hd
    exact (memByte_congr rfl rfl rfl _).trans ((memByte_l2Clean _ _ _ _ hr hl ha hi).trans (hb i hi))

/-- R3, R182, R198, R200: at any level a core reads the bytes of one line that it wrote. -/
theorem readPa_writePa (s : State) (core level pa n x : Nat) (hv : level ≤ 2) (hr : region pa = .hbm) (hn : 0 < n)
    (hl : pa % 128 + n ≤ 128) (hc : level = 2 → ∀ j, (s.core core).findLine s.now (pa / 128) = some j →
      ((s.core core).line j (pa / 128 % 128)).dirty = 0) :
    ((s.writePa core level pa n x).readPa core level pa n).1 = x % 256 ^ n := by
  rw [writePa_of_oneLine _ _ _ _ _ _ hl, readPa_of_oneLine _ _ _ _ _ hl]
  match level, hv with
  | 0, _ => exact readSpan_writeSpan_banks s core _ _ n x hl
  | 1, _ => exact readSpan_writeSpan_l2 s core _ _ n x hn hl
  | 2, _ =>
    have hs := (region_eq_hbm pa).mp hr
    exact readSpan_writeSpan_memory s core x (by omega) hl (hc rfl)

end

/-! ### Strongly ordered pages of HBM (R182, R199) -/

section
variable {s : State} {p : Piece}

theorem level_of_strong (hr : region p.pa = .hbm) (ho : leafOrd p.leaf = 0) : p.level = 2 := by
  simp [Piece.level, levelOf, hr, ho]

/-- A line whose copies in the core's banks and its die's L2 are clean has nothing to be raised. -/
theorem raiseOwn_two_of_nothingOwn {core line : Nat} (h : Claims.NothingOwn s core line) : s.raiseOwn core 2 line = s := by
  obtain ⟨hb, hl2⟩ := h
  rw [raiseOwn_two, raiseBank_of_clean hb, if_pos hl2]

theorem readPiece_of_strong (hr : region p.pa = .hbm) (ho : leafOrd p.leaf = 0) (hl : p.pa % 128 + p.n ≤ 128)
    (h : Claims.NothingOwn s s.coreId (p.pa / 128)) : s.readPiece p = (s.memRead p.pa p.n, s.carryRecord p.leaf p.pa p.n) := by
  have hs : s.readSpan s.coreId 2 (p.pa / 128) (p.pa % 128) p.n = (s.memRead p.pa p.n, s) := by
    simp only [State.readSpan, raiseOwn_two_of_nothingOwn h, Nat.div_add_mod']
  simp only [State.readPiece, hr, State.readAt, atSync_eq_false_of_hbm hr, level_of_strong hr ho, readPa_of_oneLine _ _ _ _ _ hl, hs,
    Bool.false_eq_true, if_false]

theorem carryRecord_mem (s : State) (leaf pa n : Nat) : (s.carryRecord leaf pa n).mem = s.mem := by
  unfold State.carryRecord; split <;> rfl

theorem carryRecord_keepsContexts (s : State) (leaf pa n : Nat) : Claims.KeepsContexts s (s.carryRecord leaf pa n) := by
  intro x
  unfold State.carryRecord
  split
  · rw [State.ctxAt_modCtx]
    split
    · next e => rw [e]; exact ⟨rfl, rfl, rfl, rfl, rfl, rfl, rfl⟩
    · exact ⟨rfl, rfl, rfl, rfl, rfl, rfl, rfl⟩
  · exact ⟨rfl, rfl, rfl, rfl, rfl, rfl, rfl⟩

/-- Nothing that a program sees of memory and of its contexts changes. -/
structure KeepsView (s t : State) : Prop where
  mem : t.mem = s.mem
  wild : t.wild = s.wild
  outside : t.outside = s.outside
  ctxs : t.ctxs = s.ctxs

theorem recordMem_keepsView (s : State) (pa : Nat) (g : Sig) : KeepsView s (s.recordMem pa g) := by
  unfold State.recordMem; split <;> exact ⟨rfl, rfl, rfl, rfl⟩

theorem recordBytes_keepsView (s : State) (pa n : Nat) (g : Sig) : KeepsView s (s.recordBytes pa n g) := by
  unfold State.recordBytes
  refine foldl_keeps (KeepsView s) _ _ (fun t i ht => ?_) s ⟨rfl, rfl, rfl, rfl⟩
  have k := recordMem_keepsView t (128 * (pa / 128 + i)) g
  exact ⟨k.mem.trans ht.mem, k.wild.trans ht.wild, k.outside.trans ht.outside, k.ctxs.trans ht.ctxs⟩

theorem noteRelease_keepsView (s : State) (leaf pa n : Nat) : KeepsView s (s.noteRelease leaf pa n) := by
  unfold State.noteRelease
  split
  · exact recordBytes_keepsView _ _ _ _
  · exact ⟨rfl, rfl, rfl, rfl⟩

theorem writePiece_of_strong (va x : Nat) (hr : region p.pa = .hbm) (ho : leafOrd p.leaf = 0) (hl : p.pa % 128 + p.n ≤ 128) :
    s.writePiece va p x = (s.writeSpan s.coreId 2 (p.pa / 128) (p.pa % 128) p.n x).noteRelease p.leaf p.pa p.n := by
  simp only [State.writePiece, hr, State.writeAt, atSync_eq_false_of_hbm hr, level_of_strong hr ho, writePa_of_oneLine _ _ _ _ _ _ hl,
    State.awaitStore, Bool.false_eq_true, if_false]

theorem memByte_writePiece_of_strong (va x b : Nat) (hr : region p.pa = .hbm) (ho : leafOrd p.leaf = 0) (hl : p.pa % 128 + p.n ≤ 128) :
    (s.writePiece va p x).memByte b = (s.writeSpan s.coreId 2 (p.pa / 128) (p.pa % 128) p.n x).memByte b := by
  have k := noteRelease_keepsView (s.writeSpan s.coreId 2 (p.pa / 128) (p.pa % 128) p.n x) p.leaf p.pa p.n
  rw [writePiece_of_strong va x hr ho hl]
  exact memByte_congr k.mem k.wild k.outside b

theorem writeSpan_two_ctxs (s : State) (core line off n x : Nat) (hr : region (line * 128 + off) = .hbm) :
    (s.writeSpan core 2 line off n x).ctxs = s.ctxs := by
  have h1 : ((s.carryBytes core line off n).memWrite (line * 128 + off) n x).ctxs = s.ctxs := by
    rw [memWrite_of_hbm hr, putBytes_eq]
    unfold State.cureMem
    split <;> rfl
  have h2 : ∀ t : State, (t.updateBank core line off n x).ctxs = t.ctxs := fun t => by
    obtain ⟨-, e⟩ | ⟨j, -, e⟩ := updateBank_cases t core line off n x
    · rw [e]
    · rw [e, State.modCore_ctxs]
  rw [writeSpan_two]
  unfold State.updateL2
  split
  · exact (h2 _).trans h1
  · exact (h2 _).trans h1

theorem writePiece_ctxs_of_strong (va x : Nat) (hr : region p.pa = .hbm) (ho : leafOrd p.leaf = 0) (hl : p.pa % 128 + p.n ≤ 128) :
    (s.writePiece va p x).ctxs = s.ctxs := by
  rw [writePiece_of_strong va x hr ho hl]
  exact (noteRelease_keepsView _ _ _ _).ctxs.trans (writeSpan_two_ctxs _ _ _ _ _ _ (by rwa [Nat.div_add_mod']))

theorem keepsContexts_of_ctxs {t : State} (h : t.ctxs = s.ctxs) : Claims.KeepsContexts s t := fun x => by
  have e : t.ctxAt x = s.ctxAt x := by rw [State.ctxAt, h, State.ctxAt]
  simp [e]

end

end Sys2Proof.Machine

namespace Sys2Proof.Claims
open Sys2Proof.Machine

/-- Settles O27: at each level the copies that a later read could take instead either hold the write's bytes or do not count them as
written, so that no write-back and no fill changes them. -/
theorem memoryAndItsCopies : Obligations.MemoryAndItsCopies := by
  refine ⟨readPa_writePa, fun s va x p hr ho hl => ?_⟩
  have hs := (region_eq_hbm p.pa).mp hr
  have hh : ∀ i < p.n, p.pa + i < hostBase := fun i hi => by unfold sideBase at hs; unfold hostBase; omega
  refine ⟨fun hown => ?_, fun i hi b hb hlt => ?_, fun b hb => ?_, keepsContexts_of_ctxs (writePiece_ctxs_of_strong va x hr ho hl)⟩
  · rw [readPiece_of_strong hr ho hl hown]
    exact ⟨rfl, carryRecord_mem _ _ _ _, carryRecord_keepsContexts _ _ _ _⟩
  · rw [memByte_writePiece_of_strong va x b hr ho hl]
    refine memByte_writeSpan_two_same s s.coreId x (by omega) hl hi ?_
    rw [Nat.div_add_mod', heldAt_of_lt hlt, heldAt_of_lt (hh i hi), hb]
  · unfold sameByte
    rw [memByte_writePiece_of_strong va x b hr ho hl]
    refine memByte_writeSpan_two_other s s.coreId x (by rwa [Nat.div_add_mod']) fun i hi e => ?_
    rw [Nat.div_add_mod', heldAt_of_lt (hh i hi)] at e
    by_cases hlt : b < hostBase
    · rw [heldAt_of_lt hlt] at e
      exact (hb.resolve_left (by omega)) i hi (Prod.mk.inj e).2
    · rw [heldAt_of_ge (by omega)] at e
      exact absurd (Prod.mk.inj e).1 (by decide)

end Sys2Proof.Claims

/-!
Recording the events of a slot (R39, R40): no event changes nothing, and events change only the record of the bundle being tried.
-/
namespace Sys2Proof.Machine
variable (s : State)

theorem State.logEvs_nil : s.logEvs [] = s := by simp [State.logEvs]
theorem State.logEvs_core (evs : List (EvKind × Nat)) (i : Nat) : (s.logEvs evs).core i = s.core i := by unfold State.logEvs; split <;> rfl
theorem State.logEvs_ctxs (evs : List (EvKind × Nat)) : (s.logEvs evs).ctxs = s.ctxs := by unfold State.logEvs; split <;> rfl
theorem State.logEvs_mem (evs : List (EvKind × Nat)) : (s.logEvs evs).mem = s.mem := by unfold State.logEvs; split <;> rfl

end Sys2Proof.Machine

/-!
The elements of a vector register (R127, R128): what the model's lists of elements hold in terms of the lanes that the statements name.
-/
namespace Sys2Proof.Claims
open Sys2Proof.Machine

theorem lane_lt (w : Nat) (x : VWord) (n : Nat) : lane w x n < 2 ^ w := Nat.mod_lt _ (Nat.two_pow_pos w)

theorem enabled_eq_on (m : Mask) (w n : Nat) : enabled m w n = on m w n := by
  have h : position w n = w * n / 32 := by
    unfold position
    split
    · next h => subst h; omega
    · rw [Nat.mul_comm]
  rw [enabled, on, h]

theorem typeWidth_le {t : Nat} (h : t ≤ 11) : typeWidth t ≤ 64 := by revert t; decide

theorem two_pow_logElems {t : Nat} (h : t ≤ 11) : 2 ^ logElems (typeWidth t) * typeWidth t = 1024 := by revert t; decide

/-- A width with `2 ^ l` elements has depth `l` (R131). -/
theorem logElems_eq {t l : Nat} (h : t ≤ 11) (hl : 2 ^ l * typeWidth t = 1024) : logElems (typeWidth t) = l := by
  have hpos : 0 < typeWidth t := Nat.pos_of_mul_pos_left (by omega : 0 < 2 ^ l * typeWidth t)
  exact Nat.pow_right_injective (Nat.le_refl 2) (Nat.eq_of_mul_eq_mul_right hpos ((two_pow_logElems h).trans hl.symm))

theorem getD_elemsOf (w n : Nat) : ∀ x i, i < n → (elemsOf w n x).getD i 0 = x / 2 ^ (w * i) % 2 ^ w := by
  induction n with
  | zero => intro x i h; omega
  | succ n ih =>
    intro x i h
    cases i with
    | zero => simp [elemsOf]
    | succ i =>
      rw [elemsOf, List.getD_cons_succ, ih _ _ (by omega), Nat.div_div_eq_div_mul, ← Nat.pow_add, Nat.mul_succ, Nat.add_comm w]

theorem length_elemsOf (w n : Nat) : ∀ x, (elemsOf w n x).length = n := by
  induction n with
  | zero => intro x; rfl
  | succ n ih => intro x; rw [elemsOf, List.length_cons, ih]

/-- The list of a register's elements holds its lanes; both read as zero past the register's end. -/
theorem at'_elems {w : Nat} (hw : w * (1024 / w) = 1024) (x : VWord) (n : Nat) : at' (elems w x) n = lane w x n := by
  unfold at' elems
  by_cases h : n < 1024 / w
  · exact getD_elemsOf w _ _ n h
  · have hn : 1024 ≤ w * n := hw ▸ Nat.mul_le_mul_left w (Nat.le_of_not_lt h)
    have hx : x.toNat < 2 ^ (w * n) := BitVec.toNat_lt_twoPow_of_le hn
    rw [List.getD_eq_default _ _ (by rw [length_elemsOf]; omega), lane, Nat.div_eq_of_lt hx, Nat.zero_mod]

theorem joinNat_lt (w : Nat) (l : List Nat) : joinNat w l < 2 ^ (w * l.length) := by
  induction l with
  | nil => simp [joinNat]
  | cons e es ih =>
    rw [joinNat, List.length_cons, Nat.mul_succ, Nat.add_comm (w * _), Nat.pow_add]
    calc e % 2 ^ w + 2 ^ w * joinNat w es < 2 ^ w + 2 ^ w * joinNat w es :=
          Nat.add_lt_add_right (Nat.mod_lt _ (Nat.two_pow_pos w)) _
      _ = 2 ^ w * (joinNat w es + 1) := by rw [Nat.mul_succ, Nat.add_comm]
      _ ≤ 2 ^ w * 2 ^ (w * es.length) := Nat.mul_le_mul_left _ ih

theorem joinNat_div_mod (w : Nat) (l : List Nat) : ∀ n, joinNat w l / 2 ^ (w * n) % 2 ^ w = l.getD n 0 % 2 ^ w := by
  induction l with
  | nil => intro n; simp [joinNat]
  | cons e es ih =>
    intro n
    cases n with
    | zero => simp [joinNat]
    | succ n =>
      rw [joinNat, List.getD_cons_succ, ← ih n, Nat.mul_succ, Nat.add_comm (w * n), Nat.pow_add, ← Nat.div_div_eq_div_mul,
        Nat.add_mul_div_left _ _ (Nat.two_pow_pos w), Nat.div_eq_of_lt (Nat.mod_lt _ (Nat.two_pow_pos w)), Nat.zero_add]

/-- Lane `n` of a register joined from a full list of elements. -/
theorem lane_joinV {w : Nat} {l : List Nat} (h : w * l.length = 1024) (n : Nat) : lane w (joinV w l) n = l.getD n 0 % 2 ^ w := by
  rw [lane, joinV, ← h, BitVec.toNat_ofNat, Nat.mod_eq_of_lt (joinNat_lt w l), joinNat_div_mod]

theorem lane_joinV_map {w : Nat} (hw : w * (1024 / w) = 1024) (g : Nat → Nat) {n : Nat} (hn : n < 1024 / w) :
    lane w (joinV w ((List.range (1024 / w)).map g)) n = g n % 2 ^ w := by
  rw [lane_joinV (by rw [List.length_map, List.length_range, hw])]
  simp [hn]

/-- A register that holds one element: its value is in element 0. -/
theorem lane_ofNat_zero {w x : Nat} (hw : w ≤ 1024) (hx : x < 2 ^ w) : lane w (BitVec.ofNat 1024 x) 0 = x := by
  rw [lane, BitVec.toNat_ofNat, Nat.mod_eq_of_lt (Nat.lt_of_lt_of_le hx (Nat.pow_le_pow_right (by decide) hw)), Nat.mul_zero,
    Nat.pow_zero, Nat.div_one, Nat.mod_eq_of_lt hx]

/-- A register that holds one element: zeros elsewhere. -/
theorem lane_ofNat_of_pos {w x n : Nat} (hw : w ≤ 1024) (hx : x < 2 ^ w) (hn : 0 < n) : lane w (BitVec.ofNat 1024 x) n = 0 := by
  have hle : 2 ^ w ≤ 2 ^ (w * n) := Nat.pow_le_pow_right (by decide) (Nat.le_mul_of_pos_right w hn)
  rw [lane, BitVec.toNat_ofNat, Nat.mod_eq_of_lt (Nat.lt_of_lt_of_le hx (Nat.pow_le_pow_right (by decide) hw)),
    Nat.div_eq_of_lt (Nat.lt_of_lt_of_le hx hle), Nat.zero_mod]

end Sys2Proof.Claims

/-!
Trees of nodes and scans of blocks (R42, R43): both join optional nodes by `Option.merge`, so a relation between the present leaves and
the value that single leaves satisfy and joining keeps holds of every tree and every scan.
-/
namespace Sys2Proof.Claims
open Sys2Proof.Machine

/-! ### The pair tree and the scan as joins -/

theorem pairTree_succ {α : Type} (f : α → α → α) (leaf : Nat → Option α) (k lo : Nat) :
    pairTree f leaf (k + 1) lo = (pairTree f leaf k lo).merge f (pairTree f leaf k (lo + 2 ^ k)) := by
  rw [pairTree]
  cases pairTree f leaf k lo <;> cases pairTree f leaf k (lo + 2 ^ k) <;> rfl

theorem addBlocks_eq_foldl (f : Nat → Nat → Elem) (bs : List (Option Node)) :
    ∀ acc, addBlocks f acc bs = bs.foldl (Option.merge (combine f)) acc := by
  induction bs with
  | nil => intro acc; cases acc <;> rfl
  | cons b bs ih =>
    intro acc
    rw [List.foldl_cons, ← ih]
    cases acc <;> cases b <;> rfl

/-- The scan's blocks of a power of two are one whole tree. -/
theorem scanBlocks_two_pow_of_le (l : Nat) : ∀ k lo, k ≤ l → scanBlocks (2 ^ l) k lo = [] := by
  intro k
  induction k with
  | zero => intro lo _; rfl
  | succ k ih =>
    intro lo hk
    rw [scanBlocks, bit_eq_testBit, Nat.testBit_two_pow_of_ne (by omega : l ≠ k)]
    exact ih lo (by omega)

/-- The last element of a scan is the reduction of all the elements, bit for bit and event for event (R43). -/
theorem scanAt_last (f : Nat → Nat → Elem) (leaf : Nat → Option Node) (l : Nat) :
    scanAt f leaf l (2 ^ l - 1) = pairTree (combine f) leaf l 0 := by
  have h : scanBlocks (2 ^ l) (l + 1) 0 = [(l, 0)] := by
    rw [scanBlocks, bit_eq_testBit, Nat.testBit_two_pow_self, if_pos rfl, scanBlocks_two_pow_of_le l l _ (Nat.le_refl l)]
  rw [scanAt, Nat.sub_add_cancel (Nat.two_pow_pos l), h, addBlocks_eq_foldl]
  exact Option.merge_none_left

/-! ### What present leaves and a node have to do with each other -/

/-- The present elements among the listed ones (R43, R143). -/
def presentIn (m : Mask) (w : Nat) (x : VWord) (l : List Nat) : List Nat := (l.filter fun n => on m w n).map fun n => lane w x n

theorem presentIn_append (m : Mask) (w : Nat) (x : VWord) (l l' : List Nat) :
    presentIn m w x (l ++ l') = presentIn m w x l ++ presentIn m w x l' := by
  simp [presentIn]

theorem present_eq (s : State) (a : BitVec 5) (k : BitVec 3) (w i : Nat) :
    present s a k w i = presentIn (s.rK k) w (s.rV a) (List.range' 0 i) := by
  rw [← List.range_eq_range']; rfl

theorem lt_of_mem_present {s : State} {a : BitVec 5} {k : BitVec 3} {w i y : Nat} (h : y ∈ present s a k w i) : y < 2 ^ w := by
  obtain ⟨n, -, rfl⟩ := List.mem_map.mp h
  exact lane_lt w (s.rV a) n

/-- A node over the leaves `xs`: none where there is none, else a silent one whose value is `R`-related to them. -/
def Folds (R : List Nat → Nat → Prop) (xs : List Nat) : Option Node → Prop
  | none => xs = []
  | some n => n.evs = [] ∧ R xs n.x

/-- `f` keeps `R` when it joins two nodes, and raises nothing. -/
def Joins (R : List Nat → Nat → Prop) (f : Nat → Nat → Elem) : Prop :=
  ∀ xs ys a b, R xs a → R ys b → (f a b).2 = [] ∧ R (xs ++ ys) (f a b).1

section
variable {R : List Nat → Nat → Prop} {f : Nat → Nat → Elem}

theorem Folds.merge (hf : Joins R f) {xs ys : List Nat} {a b : Option Node} (ha : Folds R xs a) (hb : Folds R ys b) :
    Folds R (xs ++ ys) (a.merge (combine f) b) := by
  cases a with
  | none =>
    have hx : xs = [] := ha
    rwa [hx, List.nil_append, Option.merge_none_left]
  | some m =>
    cases b with
    | none =>
      have hy : ys = [] := hb
      rwa [hy, List.append_nil, Option.merge_none_right]
    | some n =>
      obtain ⟨hme, hm⟩ := ha
      obtain ⟨hne, hn⟩ := hb
      obtain ⟨he, hr⟩ := hf _ _ _ _ hm hn
      exact ⟨by simp [combine, hme, hne, he], hr⟩

variable {m : Mask} {w : Nat} {x : VWord}

theorem folds_leafOf (hw : w * (1024 / w) = 1024) (hR : ∀ v < 2 ^ w, R [v] v) (n : Nat) :
    Folds R (presentIn m w x [n]) (leafOf w m (elems w x) n) := by
  rw [leafOf, enabled_eq_on, at'_elems hw]
  cases h : on m w n with
  | false => simp [presentIn, h, Folds]
  | true => simpa [presentIn, h, Folds] using hR _ (lane_lt w x n)

/-- The tree over `2 ^ k` positions from `lo` folds the present ones (R43). -/
theorem folds_pairTree (hw : w * (1024 / w) = 1024) (hR : ∀ v < 2 ^ w, R [v] v) (hf : Joins R f) (k : Nat) :
    ∀ lo, Folds R (presentIn m w x (List.range' lo (2 ^ k))) (pairTree (combine f) (leafOf w m (elems w x)) k lo) := by
  induction k with
  | zero => intro lo; exact folds_leafOf hw hR lo
  | succ k ih =>
    intro lo
    rw [pairTree_succ, Nat.pow_succ, Nat.mul_two, ← List.range'_append_1, presentIn_append]
    exact (ih lo).merge hf (ih _)

/-- The blocks of a scan extend what is folded by the present positions that they cover (R43). -/
theorem folds_foldl_scanBlocks (hw : w * (1024 / w) = 1024) (hR : ∀ v < 2 ^ w, R [v] v) (hf : Joins R f) (i k : Nat) :
    ∀ lo xs acc, Folds R xs acc → Folds R (xs ++ presentIn m w x (List.range' lo (i % 2 ^ k)))
      (((scanBlocks i k lo).map fun p => pairTree (combine f) (leafOf w m (elems w x)) p.1 p.2).foldl (Option.merge (combine f)) acc) := by
  induction k with
  | zero =>
    intro lo xs acc h
    simpa [Nat.mod_one, presentIn, scanBlocks] using h
  | succ k ih =>
    intro lo xs acc h
    rw [scanBlocks, bit, Nat.mod_pow_succ]
    obtain e | e := Nat.mod_two_eq_zero_or_one (i / 2 ^ k) <;> rw [e]
    · simpa using ih lo xs acc h
    · rw [if_pos (beq_self_eq_true 1), List.map_cons, List.foldl_cons, Nat.mul_one, Nat.add_comm, ← List.range'_append_1, presentIn_append,
        ← List.append_assoc]
      exact ih _ _ _ (h.merge hf (folds_pairTree hw hR hf k lo))

theorem folds_scanAt (hw : w * (1024 / w) = 1024) (hR : ∀ v < 2 ^ w, R [v] v) (hf : Joins R f) {l i : Nat} (hi : i < 2 ^ l) :
    Folds R (presentIn m w x (List.range' 0 (i + 1))) (scanAt f (leafOf w m (elems w x)) l i) := by
  have hlt : i + 1 < 2 ^ (l + 1) := by rw [Nat.pow_succ]; omega
  have h := folds_foldl_scanBlocks (m := m) (x := x) hw hR hf (i + 1) (l + 1) 0 [] none rfl
  rwa [List.nil_append, Nat.mod_eq_of_lt hlt, ← addBlocks_eq_foldl] at h

end

/-! ### Sums and maxima of integers (R135, R137) -/

theorem toInt_emod (w : Nat) (signed : Bool) (x : Nat) : toInt w signed x % (2 ^ w : Nat) = (x : Int) % (2 ^ w : Nat) := by
  unfold toInt
  split
  · exact Int.sub_emod_right _ _
  · rfl

theorem wrap_natCast (w n : Nat) : wrap w n = n % 2 ^ w := by
  rw [wrap, ← Int.natCast_emod, Int.toNat_natCast]

/-- The value of `xs` is their sum, wrapped. -/
def IsSum (w : Nat) (xs : List Nat) (v : Nat) : Prop := v = xs.sum % 2 ^ w

theorem isSum_singleton (w : Nat) : ∀ v < 2 ^ w, IsSum w [v] v := fun v h => by
  simp [IsSum, Nat.mod_eq_of_lt h]

theorem addNode_of_int {t : Nat} (ht : t ≤ 7) (mode : Rnd) (a b : Nat) :
    addNode t mode false a b = ((a + b) % 2 ^ typeWidth t, []) := by
  have h : wrap (typeWidth t) (readInt t a + readInt t b) = (a + b) % 2 ^ typeWidth t := by
    rw [← wrap_natCast, wrap, wrap, readInt, readInt, Int.add_emod, toInt_emod, toInt_emod, ← Int.add_emod, Int.natCast_add]
  rw [addNode, arithElem, if_pos ht, ← h]
  rfl

theorem joins_addNode {t : Nat} (ht : t ≤ 7) (mode : Rnd) : Joins (IsSum (typeWidth t)) (addNode t mode false) := by
  intro xs ys a b ha hb
  rw [addNode_of_int ht]
  refine ⟨rfl, ?_⟩
  rw [IsSum, ha, hb, List.sum_append, ← Nat.add_mod]

/-- The value of `xs` is a largest one of them as the type reads them. -/
def IsMax (t : Nat) (xs : List Nat) (v : Nat) : Prop := v ∈ xs ∧ ∀ y ∈ xs, readInt t y ≤ readInt t v

theorem isMax_singleton (t v : Nat) : IsMax t [v] v := by simp [IsMax]

theorem joins_minMaxElem {t : Nat} (ht : t ≤ 7) : Joins (IsMax t) (minMaxElem t false) := by
  rintro xs ys a b ⟨ha, hxs⟩ ⟨hb, hys⟩
  rw [minMaxElem, if_pos ht]
  refine ⟨rfl, ?_⟩
  by_cases h : readInt t b < readInt t a
  · simp only [h, decide_true, beq_false, Bool.not_true, Bool.false_eq_true, if_false]
    refine ⟨List.mem_append_left _ ha, fun y hy => ?_⟩
    obtain hy | hy := List.mem_append.mp hy
    · exact hxs y hy
    · exact (hys y hy).trans h.le
  · simp only [h, decide_false, beq_false, Bool.not_false, if_true]
    refine ⟨List.mem_append_right _ hb, fun y hy => ?_⟩
    obtain hy | hy := List.mem_append.mp hy
    · exact (hxs y hy).trans (Int.not_lt.mp h)
    · exact hys y hy

theorem readInt_eq_intOf {t x : Nat} (hx : x < 2 ^ typeWidth t) : readInt t x = intOf t x := by
  unfold readInt intOf typeSigned
  by_cases h : t ≤ 3
  · rw [if_pos h, decide_eq_true h, toInt_signed _ _ hx]
  · rw [if_neg h, decide_eq_false h, toInt, Bool.false_and]; rfl

theorem leastOf_lt {t : Nat} (h : t ≤ 11) : leastOf t < 2 ^ typeWidth t := by revert t; decide

theorem intOf_leastOf {t : Nat} (h : t ≤ 7) : intOf t (leastOf t) = if t ≤ 3 then -2 ^ (typeWidth t - 1) else 0 := by
  revert t; decide

end Sys2Proof.Claims

/-!
Reductions and scans as instructions (R133, R143, R144).
-/
namespace Sys2Proof.Claims
open Sys2Proof.Machine

/-! ### The rounding selection (R58, R133) -/

theorem withRoundingIgnored_go {s : State} (h : RoundingLegal s) (k : Out) : withRoundingIgnored s k = k := by
  have hr : s.rounding ≠ none := by
    unfold State.rounding
    cases e : s.lentOpt with
    | none => simp
    | some l =>
      obtain ⟨hlt, h6⟩ := h l e
      have hn : ¬ (l % 8 = 6 ∨ 16 ≤ l) := by omega
      simp [hn]
  unfold withRoundingIgnored
  cases e : s.rounding with
  | none => exact absurd e hr
  | some x => rfl

/-- A legal selection runs every sum in one mode; it saturates only where bit 3 is lent. -/
theorem withSumRounding_go {s : State} (h : SumRoundingLegal s) :
    ∃ mode sat, (∀ k, withSumRounding s k = k mode sat) ∧ ((∀ n, s.lentOpt = some n → n < 8) → sat = false) := by
  unfold withSumRounding State.rounding
  cases e : s.lentOpt with
  | none => exact ⟨_, false, fun k => rfl, fun _ => rfl⟩
  | some l =>
    obtain ⟨hlt, h6, h5⟩ := h l e
    have hn : ¬ (l % 8 = 6 ∨ 16 ≤ l) := by omega
    simp only [if_neg hn, if_neg h5]
    refine ⟨_, bit l 3, fun k => rfl, fun h8 => ?_⟩
    have := h8 l rfl
    rw [bit, Nat.div_eq_of_lt (by omega)]
    rfl

/-! ### What is written -/

/-- The element that an optional node writes; `empty` where no leaf is present (R143). -/
def wordOf (empty : Nat) (o : Option Node) : Nat := (o.map (·.x)).getD empty

/-- The events that it raises. -/
def eventsOf (o : Option Node) : List (EvKind × Nat) := (o.map (·.evs)).getD []

theorem reduce_eq (s : State) (t lat : Nat) (d : BitVec 5) (r : Option Node) {empty : Nat} (he : empty < 2 ^ typeWidth t) :
    s.reduce t lat d r empty = (s.logEvs (eventsOf (r.map (·.written t)))).wV lat d
      (BitVec.ofNat 1024 (wordOf empty (r.map (·.written t)) % 2 ^ typeWidth t)) := by
  cases r with
  | none =>
    have h : s.reduce t lat d none empty = s.wV lat d (BitVec.ofNat 1024 empty) := rfl
    rw [h, Option.map_none, eventsOf, Option.map_none, Option.getD_none, State.logEvs_nil, wordOf, Option.map_none, Option.getD_none,
      Nat.mod_eq_of_lt he]
  | some n => rfl

/-- Only a floating-point result is made canonical as it is written. -/
theorem written_of_int {t : Nat} (ht : t ≤ 7) {n : Node} (hn : n.evs = []) : n.written t = n := by
  have hd : decide (8 ≤ t) = false := by simp; omega
  obtain ⟨x, lane, evs⟩ := n
  obtain rfl : evs = [] := hn
  simp [Node.written, loneNan, hd]

section
variable {R : List Nat → Nat → Prop} {xs : List Nat} {o : Option Node}

theorem Folds.map_written (h : Folds R xs o) {t : Nat} (ht : t ≤ 7) : o.map (·.written t) = o := by
  cases o with
  | none => rfl
  | some n => rw [Option.map_some, written_of_int ht h.1]

theorem Folds.eventsOf_eq_nil (h : Folds R xs o) : eventsOf o = [] := by
  cases o with
  | none => rfl
  | some n => exact h.1

theorem Folds.wordOf_eq_empty (h : Folds R [] o) (hR : ∀ v, ¬ R [] v) (empty : Nat) : wordOf empty o = empty := by
  cases o with
  | none => rfl
  | some n => exact absurd h.2 (hR _)

theorem Folds.wordOf_of_ne (h : Folds R xs o) (hx : xs ≠ []) (empty : Nat) : R xs (wordOf empty o) := by
  cases o with
  | none => exact absurd h hx
  | some n => exact h.2

end

theorem Folds.wordOf_isSum {w : Nat} {xs : List Nat} {o : Option Node} (h : Folds (IsSum w) xs o) :
    wordOf 0 o % 2 ^ w = xs.sum % 2 ^ w := by
  cases o with
  | none =>
    have hx : xs = [] := h
    rw [hx]; rfl
  | some n =>
    have hn : wordOf 0 (some n) = xs.sum % 2 ^ w := h.2
    rw [hn, Nat.mod_mod]

/-! ### `vred.add` and `vscan.add` -/

/-- The reduction of the elements of `va` that the mask enables, as it is written. -/
def reduced (f : Nat → Nat → Elem) (t l : Nat) (s : State) (a : BitVec 5) (k : BitVec 3) : Option Node :=
  (pairTree (combine f) (leafOf (typeWidth t) (s.rK k) (elems (typeWidth t) (s.rV a))) l 0).map (·.written t)

/-- Element `i` of the scan of these elements, as it is written. -/
def scanned (f : Nat → Nat → Elem) (t l : Nat) (s : State) (a : BitVec 5) (k : BitVec 3) (i : Nat) : Option Node :=
  (scanAt f (leafOf (typeWidth t) (s.rK k) (elems (typeWidth t) (s.rV a))) l i).map (·.written t)

theorem scanned_last (f : Nat → Nat → Elem) (t l : Nat) (s : State) (a : BitVec 5) (k : BitVec 3) :
    scanned f t l s a k (2 ^ l - 1) = reduced f t l s a k := by rw [scanned, scanAt_last]; rfl

section
variable {s : State} (d a : BitVec 5) (k : BitVec 3) (ty : BitVec 5) {l : Nat}

theorem exec_vredAdd {mode : Rnd} {sat : Bool} (hgo : ∀ k, withSumRounding s k = k mode sat) (hl : logElems (typeWidth ty.toNat) = l) :
    exec (.vredAdd d a k ty) s =
      .next ((s.logEvs (eventsOf (reduced (addNode ty.toNat mode sat) ty.toNat l s a k))).wV
        (latOf ty.toNat (2 * l + 2) (4 * l + 2) (6 * l + 2)) d
        (BitVec.ofNat 1024 (wordOf 0 (reduced (addNode ty.toNat mode sat) ty.toNat l s a k) % 2 ^ typeWidth ty.toNat))) := by
  have h : exec (.vredAdd d a k ty) s = execVredAdd d a k ty s := rfl
  rw [h, execVredAdd, hgo]
  simp only [hl]
  rw [reduce_eq _ _ _ _ _ (Nat.two_pow_pos _)]
  rfl

theorem exec_vscanAdd {mode : Rnd} {sat : Bool} (hgo : ∀ k, withSumRounding s k = k mode sat) (hl : logElems (typeWidth ty.toNat) = l) :
    exec (.vscanAdd d a k ty) s =
      .next ((s.logEvs ((List.range (1024 / typeWidth ty.toNat)).flatMap fun i =>
          eventsOf (scanned (addNode ty.toNat mode sat) ty.toNat l s a k i))).wV
        (latOf ty.toNat (2 * l + 4) (4 * l + 6) (6 * l + 6)) d
        (joinV (typeWidth ty.toNat) ((List.range (1024 / typeWidth ty.toNat)).map fun i =>
          wordOf 0 (scanned (addNode ty.toNat mode sat) ty.toNat l s a k i)))) := by
  have h : exec (.vscanAdd d a k ty) s = execVscanAdd d a k ty s := rfl
  rw [h, execVscanAdd, hgo]
  simp only [hl, List.flatMap_map, List.map_map]
  rfl

theorem exec_vredMax (hr : RoundingLegal s) (ht : ty.toNat ≤ 11) (hl : logElems (typeWidth ty.toNat) = l) :
    exec (.vredMax d a k ty) s =
      .next ((s.logEvs (eventsOf (reduced (minMaxElem ty.toNat false) ty.toNat l s a k))).wV (2 * l + 2) d
        (BitVec.ofNat 1024
          (wordOf (leastOf ty.toNat) (reduced (minMaxElem ty.toNat false) ty.toNat l s a k) % 2 ^ typeWidth ty.toNat))) := by
  have h : exec (.vredMax d a k ty) s = execVredMax d a k ty s := rfl
  rw [h, execVredMax, withRoundingIgnored_go hr]
  simp only [hl]
  rw [reduce_eq _ _ _ _ _ (leastOf_lt ht)]
  rfl

end

section
variable {R : List Nat → Nat → Prop} {f : Nat → Nat → Elem} {t l : Nat} {s : State} {a : BitVec 5} {k : BitVec 3}

/-- On integers what a reduction writes folds the present elements. -/
theorem folds_reduced (ht : t ≤ 7) (hw : 1024 / typeWidth t = 2 ^ l) (hl : typeWidth t * (1024 / typeWidth t) = 1024)
    (hR : ∀ v < 2 ^ typeWidth t, R [v] v) (hf : Joins R f) :
    Folds R (present s a k (typeWidth t) (1024 / typeWidth t)) (reduced f t l s a k) := by
  have h := folds_pairTree (m := s.rK k) (x := s.rV a) hl hR hf l 0
  rwa [← present_eq, ← h.map_written ht, ← hw] at h

/-- On integers every element of a scan folds the present elements up to it. -/
theorem folds_scanned (ht : t ≤ 7) (hw : 1024 / typeWidth t = 2 ^ l) (hl : typeWidth t * (1024 / typeWidth t) = 1024)
    (hR : ∀ v < 2 ^ typeWidth t, R [v] v) (hf : Joins R f) {i : Nat} (hi : i < 1024 / typeWidth t) :
    Folds R (present s a k (typeWidth t) (i + 1)) (scanned f t l s a k i) := by
  have h := folds_scanAt (m := s.rK k) (x := s.rV a) hl hR hf (hw ▸ hi)
  rwa [← present_eq, ← h.map_written ht] at h

end

/-- Settles O21: the last scan block is the reduction's own tree; on integers every node is the wrapped sum, or the largest, of the present
leaves beneath it. -/
theorem reductionsAndScans : Obligations.ReductionsAndScans := by
  intro s d a k ty t w l ht h11 hw hl
  subst hw ht
  have hlog := logElems_eq h11 hl
  have hle : typeWidth ty.toNat ≤ 1024 := (typeWidth_le h11).trans (by decide)
  have hn : 1024 / typeWidth ty.toNat = 2 ^ l := by
    rw [← hl, Nat.mul_div_cancel _ (Nat.pos_of_mul_pos_left (by omega : 0 < 2 ^ l * typeWidth ty.toNat))]
  have hwide : typeWidth ty.toNat * (1024 / typeWidth ty.toNat) = 1024 := by rw [hn, Nat.mul_comm, hl]
  have hlt (v : Nat) : v % 2 ^ typeWidth ty.toNat < 2 ^ typeWidth ty.toNat := Nat.mod_lt _ (Nat.two_pow_pos _)
  constructor
  · intro hr
    obtain ⟨mode, sat, hgo, hsat⟩ := withSumRounding_go hr
    refine ⟨_, _, _, _, exec_vredAdd d a k ty hgo hlog, exec_vscanAdd d a k ty hgo hlog,
      fun n h0 _ => lane_ofNat_of_pos hle (hlt _) h0, ?_, fun h7 h8 => ?_⟩
    · rw [lane_joinV_map hwide _ (by rw [hn]; exact Nat.sub_lt (Nat.two_pow_pos l) Nat.one_pos), lane_ofNat_zero hle (hlt _), hn,
        scanned_last]
    · obtain rfl := hsat h8
      have hj := joins_addNode h7 mode
      have hred := folds_reduced (s := s) (a := a) (k := k) h7 hn hwide (isSum_singleton _) hj
      have hscan {i : Nat} (hi : i < 1024 / typeWidth ty.toNat) :=
        folds_scanned (s := s) (a := a) (k := k) h7 hn hwide (isSum_singleton _) hj hi
      refine ⟨hred.eventsOf_eq_nil, List.flatMap_eq_nil_iff.mpr fun i hi => (hscan (List.mem_range.mp hi)).eventsOf_eq_nil, ?_, fun n h => ?_⟩
      · rw [lane_ofNat_zero hle (hlt _), hred.wordOf_isSum]
      · rw [lane_joinV_map hwide _ h, (hscan h).wordOf_isSum]
  · intro hr
    refine ⟨_, _, exec_vredMax d a k ty hr h11 hlog, fun n h0 _ => lane_ofNat_of_pos hle (hlt _) h0, fun h7 => ?_⟩
    have hred := folds_reduced (s := s) (a := a) (k := k) h7 hn hwide (fun v _ => isMax_singleton _ v) (joins_minMaxElem h7)
    rw [lane_ofNat_zero hle (hlt _)]
    refine ⟨hred.eventsOf_eq_nil, fun h => ?_, fun h => ?_⟩
    · rw [h] at hred
      rw [hred.wordOf_eq_empty (fun v hv => by simp [IsMax] at hv), Nat.mod_eq_of_lt (leastOf_lt h11), intOf_leastOf h7]
    · obtain ⟨hmem, hmax⟩ := hred.wordOf_of_ne h (leastOf ty.toNat)
      have hv := lt_of_mem_present hmem
      rw [Nat.mod_eq_of_lt hv]
      refine ⟨hmem, fun y hy => ?_⟩
      rw [← readInt_eq_intOf hv, ← readInt_eq_intOf (lt_of_mem_present hy)]
      exact hmax y hy

end Sys2Proof.Claims

/-!
The matrix engine's products (R246 to R256): the tile that an `mma` form writes, when the form goes on, and where it faults.
-/
namespace Sys2Proof.Claims
open Sys2Proof.Machine

/-! ### Lists written in place -/

theorem indexed_append_singleton {α : Type} (l : List α) (x : α) : indexed (l ++ [x]) = indexed l ++ [(l.length, x)] := by
  unfold indexed upTo
  rw [List.length_append, List.length_singleton, List.range_succ, List.zip_append (by rw [List.length_range])]
  rfl

/-- A run of values written from key `base` on. -/
theorem get_foldl_set_indexed {α : Type} [DecidableEq α] (d : α) (m : Store α) (base : Nat) (xs : List α) (j : Nat) :
    Store.get d ((indexed xs).foldl (fun m e => Store.set d m (base + e.1) e.2) m) j =
      if base ≤ j ∧ j < base + xs.length then xs.getD (j - base) d else Store.get d m j := by
  induction xs using List.reverseRecOn with
  | nil => simp [indexed, upTo]
  | append_singleton xs x ih =>
    rw [indexed_append_singleton, List.foldl_append, List.foldl_cons, List.foldl_nil, Store.get_set, ih, List.length_append,
      List.length_singleton]
    by_cases h : j = base + xs.length
    · rw [if_pos h, if_pos (by omega), h]
      simp
    · rw [if_neg h]
      by_cases h' : base ≤ j ∧ j < base + xs.length
      · rw [if_pos h', if_pos (by omega), List.getD_append _ _ _ _ (by omega)]
      · rw [if_neg h', if_neg (by omega)]

/-! ### Tiles (R246) -/

theorem tileAt_setTile_same (c : CoreSt) (n : Nat) {xs : List (BitVec 80)} (hx : xs.length = 1024) {i j : Nat} (hi : i < 32) (hj : j < 32) :
    (c.setTile n xs).tileAt n i j = xs.getD (32 * i + j) 0 := by
  rw [CoreSt.tileAt, CoreSt.setTile, get_foldl_set_indexed, hx, if_pos (by omega), Nat.add_assoc, Nat.add_sub_cancel_left]

theorem tileAt_setTile_other (c : CoreSt) {n m : Nat} {xs : List (BitVec 80)} (hx : xs.length = 1024) (h : m ≠ n) {i j : Nat} (hi : i < 32)
    (hj : j < 32) : (c.setTile n xs).tileAt m i j = c.tileAt m i j := by
  rw [CoreSt.tileAt, CoreSt.setTile, get_foldl_set_indexed, hx, if_neg (by omega), CoreSt.tileAt]

section
variable (c : CoreSt) (a x y p t : Nat) (zero sparse : Bool)

theorem length_mmaTile : (mmaTile c a x y p t zero sparse).1.length = 1024 := by simp [mmaTile, tilePositions, upTo]

/-- Element (`i`, `j`) of the tile that an `mma` form writes (R256). -/
theorem getD_mmaTile {i j : Nat} (hi : i < 32) (hj : j < 32) : (mmaTile c a x y p t zero sparse).1.getD (32 * i + j) 0 =
    (accumulate (if zero then .zero false else a80.decode (c.tileAt a i j).toNat)
      (mmaPairs (c.bankBytes x) (fun m => c.bankBytes (y + m)) t p sparse i j)).1 := by
  have h : 32 * i + j < 1024 := by omega
  have hd : (32 * i + j) / 32 = i := by omega
  have hm : (32 * i + j) % 32 = j := by omega
  simp [mmaTile, tilePositions, upTo, h, hd, hm]

end

@[simp] theorem setTile_loc (c : CoreSt) (n : Nat) (xs : List (BitVec 80)) : (c.setTile n xs).loc = c.loc := rfl
@[simp] theorem startMma_loc (c : CoreSt) (now ctx a n : Nat) (banks : List Nat) : (c.startMma now ctx a n banks).loc = c.loc := rfl
@[simp] theorem startMma_tileAt (c : CoreSt) (now ctx a n : Nat) (banks : List Nat) (m i j : Nat) :
    (c.startMma now ctx a n banks).tileAt m i j = c.tileAt m i j := rfl

/-! ### When an `mma` form goes on (R251 to R255) -/

theorem ownsTile_iff (s : State) (a : BitVec 2) : s.ownsTile a.toNat = true ↔ Owns s a := by simp [State.ownsTile, Owns]

/-- The banks of the B operand. -/
def mmaRows (y : BitVec 5) (sparse : Bool) : List Nat := if sparse then (upTo 4).map (y.toNat + ·) else [y.toNat]

/-- The banks of both operands; bank 0 of A is the bypass. -/
def mmaBanks (x y : BitVec 5) (sparse : Bool) : List Nat := (if x = 0 then [] else [x.toNat]) ++ mmaRows y sparse

section
variable {s : State} {a : BitVec 2} {x y : BitVec 5} {p : BitVec 6} {ty : BitVec 5} {zero sparse : Bool}

/-- What an `mma` form changes: the tile, the phases of the engine and the events of the bundle. -/
def multiplied (s : State) (a : BitVec 2) (x y : BitVec 5) (p : BitVec 6) (ty : BitVec 5) (zero sparse : Bool) : State :=
  let r := mmaTile (s.core s.coreId) a.toNat x.toNat y.toNat (planesUsed p.toNat ty.toNat) ty.toNat zero sparse
  (s.logEvs r.2).modCore s.coreId fun c =>
    (c.setTile a.toNat r.1).startMma s.now s.cur.ctx a.toNat (chunkCount ty.toNat * planesUsed p.toNat ty.toNat) (mmaBanks x y sparse)

/-- The one way on: every check of R251 to R255 passes. -/
theorem mmaOp_go (hl : s.lent = 0) (ho : Owns s a) (he : EngineReady s a) (hr : OperandsReady s x ty.toNat (mmaRows y sparse)) :
    mmaOp s a x y p ty zero sparse = .next (multiplied s a x y p ty zero sparse) := by
  obtain ⟨htile, hroom, hwarm⟩ := he
  obtain ⟨hbanks, hbypass⟩ := hr
  have hrole : s.notOperand (mmaBanks x y sparse) = none :=
    List.find?_eq_none.mpr fun j hj => by simp [(hbanks j hj).1]
  have hbusy : ((s.core s.coreId).busy.any fun b => b.kind == .tile a.toNat && decide (s.now ≤ b.last) && !b.mma) = false :=
    List.any_eq_false.mpr fun b hb => by simpa using htile b hb
  have hfree : ((mmaBanks x y sparse).any fun j =>
      (s.core s.coreId).isBusy s.now (.bankWrite j) || (s.core s.coreId).isChanging s.now j) = false :=
    List.any_eq_false.mpr fun j hj => by simp [(hbanks j hj).2]
  have hloaded : (x == 0 && (s.core s.coreId).isBusy s.now .bypass) = false := by
    cases h : x == 0 with
    | false => rfl
    | true => exact (hbypass (eq_of_beq h)).2
  have hgranted : ((s.core s.coreId).cold s.now && !(s.core s.coreId).token) = false := by
    obtain h | h := hwarm <;> simp [h]
  unfold mmaBanks mmaRows at hrole hfree
  unfold mmaOp
  simp only [noLent_eq, if_pos hl, withTile_go _ _ _ ((ownsTile_iff s a).mpr ho), hrole, hbusy, hfree, hloaded, hgranted, Nat.not_le.mpr hroom]
  rw [if_neg fun h => h.2 (hbypass h.1).1]
  rfl

theorem mmaOp_foreign (hl : s.lent = 0) (ho : ¬ Owns s a) : mmaOp s a x y p ty zero sparse = matrixFault s 2 0 a.toNat := by
  unfold mmaOp
  rw [noLent_eq, if_pos hl]
  exact withTile_stop _ _ _ (Bool.eq_false_iff.mpr (mt (ownsTile_iff s a).mp ho))

theorem mmaOp_notOperand (hl : s.lent = 0) (ho : Owns s a) {j : Nat} (hj : s.notOperand (mmaBanks x y sparse) = some j) :
    mmaOp s a x y p ty zero sparse = matrixFault s 1 j a.toNat := by
  unfold mmaBanks mmaRows at hj
  unfold mmaOp
  simp only [noLent_eq, if_pos hl, withTile_go _ _ _ ((ownsTile_iff s a).mpr ho), hj]

theorem mmaOp_untagged (hl : s.lent = 0) (ho : Owns s a) (hn : s.notOperand (mmaBanks x y sparse) = none) (hx : x = 0)
    (ht : (s.core s.coreId).bypassTag ≠ some (ty.toNat, s.cur.ctx)) : mmaOp s a x y p ty zero sparse = matrixFault s 3 0 a.toNat := by
  unfold mmaBanks mmaRows at hn
  unfold mmaOp
  simp only [noLent_eq, if_pos hl, withTile_go _ _ _ ((ownsTile_iff s a).mpr ho), hn]
  rw [if_pos ⟨hx, ht⟩]

/-! ### What an `mma` form writes -/

/-- The operand pairs of element (`i`, `j`) of an `mma` form (R256). -/
def operandPairs (s : State) (x y : BitVec 5) (p : BitVec 6) (ty : BitVec 5) (sparse : Bool) (i j : Nat) : List (Val × Val) :=
  mmaPairs ((s.core s.coreId).bankBytes x.toNat) (fun m => (s.core s.coreId).bankBytes (y.toNat + m)) ty.toNat
    (planesUsed p.toNat ty.toNat) sparse i j

theorem multiplied_ctxs : (multiplied s a x y p ty zero sparse).ctxs = s.ctxs := by
  rw [multiplied, State.modCore_ctxs, State.logEvs_ctxs]
theorem multiplied_mem : (multiplied s a x y p ty zero sparse).mem = s.mem := by
  rw [multiplied, State.modCore_mem, State.logEvs_mem]

theorem core_multiplied : (multiplied s a x y p ty zero sparse).core s.coreId =
    ((s.core s.coreId).setTile a.toNat
      (mmaTile (s.core s.coreId) a.toNat x.toNat y.toNat (planesUsed p.toNat ty.toNat) ty.toNat zero sparse).1).startMma s.now s.cur.ctx
      a.toNat (chunkCount ty.toNat * planesUsed p.toNat ty.toNat) (mmaBanks x y sparse) := by
  simp [multiplied, State.logEvs_core]

theorem multiplies_of_mmaOp {i : Instr} (hi : exec i s = mmaOp s a x y p ty zero sparse) (hl : s.lent = 0) (ho : Owns s a)
    (he : EngineReady s a) (hr : OperandsReady s x ty.toNat (mmaRows y sparse)) :
    Multiplies i s a (!zero) (operandPairs s x y p ty sparse) := by
  refine ⟨_, hi.trans (mmaOp_go hl ho he hr), multiplied_ctxs, multiplied_mem, ?_, fun r hr c hc => ?_, fun n _ hne r hr c hc => ?_⟩ <;>
    rw [core_multiplied]
  · rw [startMma_loc, setTile_loc]
  · rw [startMma_tileAt, tileAt_setTile_same _ _ (length_mmaTile ..) hr hc, getD_mmaTile _ _ _ _ _ _ _ _ hr hc]
    cases zero <;> rfl
  · rw [startMma_tileAt, tileAt_setTile_other _ (length_mmaTile ..) hne hr hc]

end

/-! ### The pairs by rows and masks (R249, R256) -/

theorem planesUsed_eq (p : BitVec 6) (t : Nat) : planesUsed p.toNat t = if p = 0 then planeCount t else p.toNat := by
  unfold planesUsed
  by_cases h : p = 0
  · rw [if_pos h, h]; rfl
  · have h' : p.toNat ≠ 0 := mt (BitVec.eq_of_toNat_eq (y := 0)) h
    rw [if_neg h, if_neg h']

theorem maskPositions_eq (rd : Nat → Nat) (i : Nat) :
    maskPositions rd i = ((List.range 128).filter fun b => (rd (0x3400 + 16 * i + b / 8)).testBit (b % 8)).take 32 := by
  simp only [maskPositions, bit_eq_testBit, upTo]

/-! ### Faults (R247, R254) -/

theorem traps_matrixFault (s : State) (sub bank tile : Nat) :
    Traps (matrixFault s sub bank tile) 0x05 (matrixInfo sub bank tile) s.cur.slot := ⟨_, rfl, rfl⟩

theorem imageBytes_pos (t : Nat) : 0 < imageBytes t := by
  have hw : 0 < typeWidth t := by unfold typeWidth; split <;> decide
  unfold imageBytes imageData
  split <;> omega

theorem notOperand_singleton {s : State} {j : Nat} (h : roleOf (s.core s.coreId).bankRole j = 2) : s.notOperand [j] = none := by
  simp [State.notOperand, h]

theorem withImage_beyond {s : State} {r : BitVec 6} {bytes : Nat} (hb : 0 < bytes) (h : 2 ^ 19 ≤ (s.rS r).toNat) (tile : Nat) (k : Nat → Out) :
    withImage s r bytes tile k = matrixFault s 4 0 tile := by
  unfold withImage
  exact if_pos (by omega)

theorem execMpack_beyond {s : State} {b : BitVec 5} {r : BitVec 6} {ty : BitVec 5} (hl : s.lent = 0)
    (hb : roleOf (s.core s.coreId).bankRole b.toNat = 2) (h : 2 ^ 19 ≤ (s.rS r).toNat) : execMpack b r ty s = matrixFault s 4 0 0 := by
  unfold execMpack
  simp only [noLent_eq, if_pos hl, notOperand_singleton hb, withImage_beyond (imageBytes_pos _) h]

/-- Settles O25: a form that owns its tile and whose operands and engine are ready writes `mmaTile`, whose elements are the accumulated
pairs; each fault is the first check of `mmaOp` or of `mpack` that fails. -/
theorem matrixProducts : Obligations.MatrixProducts := by
  constructor
  · intro s a x y p ty t q hl ho he ht _ _ hq A B hA hB
    subst ht hq hA hB
    rw [← planesUsed_eq]
    refine ⟨fun hr => ⟨?_, ?_⟩, fun _ hr => ?_⟩
    · exact multiplies_of_mmaOp (zero := false) (sparse := false) rfl hl ho he hr
    · exact multiplies_of_mmaOp (zero := true) (sparse := false) rfl hl ho he hr
    · simp only [← maskPositions_eq]
      exact multiplies_of_mmaOp (zero := false) (sparse := true) rfl hl ho he hr
  · intro s a x y p ty r hl
    refine ⟨fun ho => ?_, fun ho hx hrole => ?_, fun ho hx hy htag => ?_, fun _ hy hr => ?_⟩
    · have h (zero : Bool) : Traps (mmaOp s a x y p ty zero false) 0x05 (matrixInfo 2 0 a.toNat) s.cur.slot :=
        mmaOp_foreign hl ho ▸ traps_matrixFault s 2 0 a.toNat
      exact ⟨h false, h true⟩
    · have hn : s.notOperand (mmaBanks x y false) = some x.toNat := by
        rw [State.notOperand, mmaBanks, if_neg hx]
        simp [hrole]
      have h : exec (.mma a x y p ty) s = matrixFault s 1 x.toNat a.toNat := mmaOp_notOperand hl ho hn
      exact h ▸ traps_matrixFault s 1 x.toNat a.toNat
    · have hn : s.notOperand (mmaBanks x y false) = none := by simpa [mmaBanks, mmaRows, hx] using notOperand_singleton hy
      have h : exec (.mma a x y p ty) s = matrixFault s 3 0 a.toNat := mmaOp_untagged hl ho hn hx htag
      exact h ▸ traps_matrixFault s 3 0 a.toNat
    · have h : exec (.mpack y r ty) s = matrixFault s 4 0 0 := execMpack_beyond hl hy hr
      exact h ▸ traps_matrixFault s 4 0 0

end Sys2Proof.Claims

/-!
PROOFS. Words as sums of fields: what the decoder reads of a sum, and that a word is the sum of its own fields (R63 to R67, R316).
-/
namespace Sys2Proof.Encodings

/-! ### A sum of fields, the highest first -/

/-- No bit of `x` is set in the `n` places from `lo` on. -/
def Free (x lo n : Nat) : Prop := x / 2 ^ lo % 2 ^ n = 0

/-- The word `x` has at most `k` bits. -/
def Fits (x k : Nat) : Prop := x < 2 ^ k

/-- The lowest `k` bits of `x` are not those of `j`. -/
def Apart (x k j : Nat) : Prop := x % 2 ^ k ≠ j % 2 ^ k

section
variable {m n x lo lo' hi k j : Nat} (v : BitVec n)

theorem add_pk_div : (x + pk v lo) / 2 ^ lo = x / 2 ^ lo + v.toNat := Nat.add_mul_div_right _ _ (by positivity)

theorem add_pk_mod (h : k ≤ lo) : (x + pk v lo) % 2 ^ k = x % 2 ^ k := by
  obtain ⟨j, rfl⟩ := Nat.exists_eq_add_of_le h
  rw [pk, Nat.pow_add, Nat.mul_left_comm, Nat.add_mul_mod_self_left]

theorem add_pk_div_above (h : Free x lo n) (hk : lo + n ≤ k) : (x + pk v lo) / 2 ^ k = x / 2 ^ k := by
  obtain ⟨j, rfl⟩ := Nat.exists_eq_add_of_le hk
  obtain ⟨q, hq⟩ := Nat.dvd_of_mod_eq_zero h
  have e : (x + pk v lo) / 2 ^ lo / 2 ^ n = x / 2 ^ lo / 2 ^ n := by
    rw [add_pk_div, hq, Nat.add_comm, Nat.add_mul_div_left _ _ (by positivity), Nat.div_eq_of_lt v.isLt, Nat.zero_add,
      Nat.mul_div_cancel_left _ (by positivity)]
  simp only [Nat.pow_add, ← Nat.div_div_eq_div_mul, e]

theorem div_mod_eq_mod_div : x / 2 ^ lo % 2 ^ n = x % 2 ^ (lo + n) / 2 ^ lo := by rw [Nat.pow_add, Nat.mod_mul_right_div_self]

theorem free_add_pk (h : lo + m ≤ lo') : Free (x + pk v lo') lo m ↔ Free x lo m := by
  rw [Free, Free, div_mod_eq_mod_div, add_pk_mod v h, ← div_mod_eq_mod_div]

theorem fits_add_pk (h : Free x lo n) (hk : lo + n ≤ k) : Fits (x + pk v lo) k ↔ Fits x k := by
  rw [Fits, Fits, ← Nat.div_eq_zero_iff_lt (by positivity), ← Nat.div_eq_zero_iff_lt (by positivity), add_pk_div_above v h hk]

theorem apart_add_pk (h : k ≤ lo) : Apart (x + pk v lo) k j ↔ Apart x k j := by rw [Apart, Apart, add_pk_mod v h]

theorem fld_add_pk_same (h : Free x lo n) : fld n (x + pk v lo) lo = v := by
  apply BitVec.eq_of_toNat_eq
  rw [fld, add_pk_div, BitVec.toNat_ofNat, Nat.add_mod, h, Nat.zero_add, Nat.mod_mod, Nat.mod_eq_of_lt v.isLt]

theorem fld_add_pk_above (h : Free x lo' n) (hk : lo' + n ≤ lo) : fld m (x + pk v lo') lo = fld m x lo := by
  rw [fld, fld, add_pk_div_above v h hk]

theorem bits_add_pk_same (h : Free x lo n) (hk : hi + 1 = lo + n) : bits (x + pk v lo) hi lo = v.toNat := by
  have e := congrArg BitVec.toNat (fld_add_pk_same v h)
  rw [fld, BitVec.toNat_ofNat] at e
  rwa [bits, hk, Nat.add_sub_cancel_left]

theorem bits_add_pk_above (h : Free x lo' n) (hk : lo' + n ≤ lo) : bits (x + pk v lo') hi lo = bits x hi lo := by
  rw [bits, bits, add_pk_div_above v h hk]

theorem bits_add_pk_below (h : lo ≤ hi + 1) (hk : hi < lo') : bits (x + pk v lo') hi lo = bits x hi lo := by
  rw [bits, bits, div_mod_eq_mod_div, div_mod_eq_mod_div, add_pk_mod v (by omega)]

/-- Bits below a field tell a range that takes in the field apart from a number. -/
theorem bits_ne_of_apart (h : Apart x lo j) (hk : lo ≤ hi + 1) : (bits (x + pk v lo) hi 0 = j) = False := by
  refine eq_false fun e => h ?_
  rw [← e, bits, Nat.pow_zero, Nat.div_one, Nat.sub_zero, Nat.mod_mod_of_dvd _ (Nat.pow_dvd_pow 2 hk), add_pk_mod v (Nat.le_refl lo)]

end

/-- How a sum of fields is read, as rewriting rules: from the lowest field up, down to the constant. -/
theorem sum_rules :
    (∀ {x lo n : Nat}, x / 2 ^ lo % 2 ^ n = 0 → Free x lo n) ∧
    (∀ {x k : Nat}, x < 2 ^ k → Fits x k) ∧
    (∀ {x k j : Nat}, x % 2 ^ k ≠ j % 2 ^ k → Apart x k j) ∧
    (∀ {m n x lo lo' : Nat} (v : BitVec n), lo + m ≤ lo' → (Free (x + pk v lo') lo m ↔ Free x lo m)) ∧
    (∀ {n x lo k : Nat} (v : BitVec n), Free x lo n → lo + n ≤ k → (Fits (x + pk v lo) k ↔ Fits x k)) ∧
    (∀ {n x lo k j : Nat} (v : BitVec n), k ≤ lo → (Apart (x + pk v lo) k j ↔ Apart x k j)) ∧
    (∀ {n x lo : Nat} (v : BitVec n), Free x lo n → fld n (x + pk v lo) lo = v) ∧
    (∀ {m n x lo lo' : Nat} (v : BitVec n), Free x lo' n → lo' + n ≤ lo → fld m (x + pk v lo') lo = fld m x lo) ∧
    (∀ {n x hi lo lo' : Nat} (v : BitVec n), Free x lo' n → lo' + n ≤ lo → bits (x + pk v lo') hi lo = bits x hi lo) ∧
    (∀ {n x hi lo lo' : Nat} (v : BitVec n), lo ≤ hi + 1 → hi < lo' → bits (x + pk v lo') hi lo = bits x hi lo) ∧
    (∀ {n x lo hi j : Nat} (v : BitVec n), Apart x lo j → lo ≤ hi + 1 → (bits (x + pk v lo) hi 0 = j) = False) :=
  ⟨id, id, id, free_add_pk, fits_add_pk, apart_add_pk, fld_add_pk_same, fld_add_pk_above, bits_add_pk_above, bits_add_pk_below,
    bits_ne_of_apart⟩

/-- The DR fields of a delta word, one by one (R316). -/
theorem add_drWord (x : Nat) (f : DrFields) : x + f.word = x + pk f.dd 45 + pk f.da 40 + pk f.db 35 + pk f.dc 30 + pk f.q 28 +
    pk f.qn 27 + pk f.rnd 24 + pk f.sat 23 + pk f.m 21 + pk f.ei 17 := by
  simp only [DrFields.word, Nat.add_assoc]

/-! ### A word from its own fields -/

/-- The bits of `w` from `lo` on, as a number. -/
def top (w lo : Nat) : Int := ((w / 2 ^ lo * 2 ^ lo : Nat) : Int)

theorem top_zero (w : Nat) : top w 0 = w := by simp [top]

theorem div_mod_mul_eq_top_sub (w lo n : Nat) : ((w / 2 ^ lo % 2 ^ n * 2 ^ lo : Nat) : Int) = top w lo - top w (lo + n) := by
  have h : w / 2 ^ lo = 2 ^ n * (w / 2 ^ (lo + n)) + w / 2 ^ lo % 2 ^ n := by
    rw [Nat.pow_add, ← Nat.div_div_eq_div_mul, Nat.div_add_mod]
  have e : w / 2 ^ lo * 2 ^ lo = w / 2 ^ (lo + n) * 2 ^ (lo + n) + w / 2 ^ lo % 2 ^ n * 2 ^ lo := by
    conv_lhs => rw [h]
    ring
  rw [top, top, e]
  push_cast
  ring

/-- A field of a word, at its own place, is what two tops of the word differ by. -/
theorem pk_fld (n w lo : Nat) : ((pk (fld n w lo) lo : Nat) : Int) = top w lo - top w (lo + n) := by
  rw [pk, fld, BitVec.toNat_ofNat, div_mod_mul_eq_top_sub]

theorem bits_eq_iff {w hi lo k : Nat} (h : lo ≤ hi + 1) :
    bits w hi lo = k ↔ top w lo - top w (hi + 1) = ((k * 2 ^ lo : Nat) : Int) := by
  have e := div_mod_mul_eq_top_sub w lo (hi + 1 - lo)
  rw [Nat.add_sub_cancel' h] at e
  rw [← e, Int.natCast_inj, Nat.mul_left_inj (by positivity), bits]

theorem drWord_drOf (w : Nat) : (((drOf w).word : Nat) : Int) = top w 17 - top w 50 := by
  simp only [DrFields.word, drOf]
  push_cast [pk_fld]
  ring

end Sys2Proof.Encodings

/-!
PROOFS. What the decoder answers for a word encodes to that word (R45, R53, R63 to R67, R316): each format tests or reads every bit.
-/
namespace Sys2Proof.Encodings
open Sys2Proof.Claims

/-- What the decoder answers for the word `w` of `n` bits encodes to `w`. -/
def Reads (n w : Nat) (o : Option Instr) : Prop := ∀ i, o = some i → encode i = some (n, w)

theorem Reads.none {n w : Nat} : Reads n w none := nofun

theorem Reads.some {n w x : Nat} {i : Instr} (h : encode i = some (n, x)) (e : (x : Int) = top w 0) : Reads n w (some i) := by
  intro j hj
  cases hj
  rw [h, Int.natCast_inj.mp (e.trans (top_zero w))]

theorem Reads.ite {n w : Nat} {a b : Option Instr} {c : Prop} [Decidable c] (h : c → Reads n w a) (h' : Reads n w b) :
    Reads n w (if c then a else b) := by
  split
  exacts [h ‹_›, h']

/-! ### Slot words, by the units of R63 to R67 -/

theorem reads_control {w : Nat} :
    (top w 26 = 0x00 * 2 ^ 26 → Reads 32 w (decodeMajor00 w)) ∧ (top w 26 = 0x01 * 2 ^ 26 → Reads 32 w (decodeMajor01 w)) ∧
    (top w 26 = 0x02 * 2 ^ 26 → Reads 32 w (decodeMajor02 w)) ∧ (top w 26 = 0x03 * 2 ^ 26 → Reads 32 w (decodeMajor03 w)) ∧
    (top w 26 = 0x04 * 2 ^ 26 → Reads 32 w (decodeMajor04 w)) ∧ (top w 26 = 0x38 * 2 ^ 26 → Reads 32 w (decodeMajor38 w)) ∧
    (top w 26 = 0x39 * 2 ^ 26 → Reads 32 w (decodeMajor39 w)) ∧ (top w 26 = 0x3A * 2 ^ 26 → Reads 32 w (decodeMajor3A w)) := by
  and_intros
  all_goals intro hw
  all_goals repeat' refine Reads.ite (fun h => ?_) ?_
  all_goals first | exact Reads.none | refine Reads.some rfl ?_
  all_goals
    push_cast [pk_fld, bits_eq_iff] at *
    omega

theorem reads_scalar {w : Nat} :
    (top w 26 = 0x05 * 2 ^ 26 → Reads 32 w (decodeMajor05 w)) ∧ (top w 26 = 0x06 * 2 ^ 26 → Reads 32 w (decodeMajor06 w)) ∧
    (top w 26 = 0x07 * 2 ^ 26 → Reads 32 w (decodeMajor07 w)) ∧ (top w 26 = 0x08 * 2 ^ 26 → Reads 32 w (decodeMajor08 w)) ∧
    (top w 26 = 0x09 * 2 ^ 26 → Reads 32 w (decodeMajor09 w)) ∧ (top w 26 = 0x0A * 2 ^ 26 → Reads 32 w (decodeMajor0A w)) ∧
    (top w 26 = 0x0B * 2 ^ 26 → Reads 32 w (decodeMajor0B w)) ∧ (top w 26 = 0x0C * 2 ^ 26 → Reads 32 w (decodeMajor0C w)) ∧
    (top w 26 = 0x0D * 2 ^ 26 → Reads 32 w (decodeMajor0D w)) ∧ (top w 26 = 0x0E * 2 ^ 26 → Reads 32 w (decodeMajor0E w)) := by
  and_intros
  all_goals intro hw
  all_goals repeat' refine Reads.ite (fun h => ?_) ?_
  all_goals first | exact Reads.none | refine Reads.some rfl ?_
  all_goals
    push_cast [pk_fld, bits_eq_iff] at *
    omega

theorem reads_vector {w : Nat} :
    (top w 26 = 0x10 * 2 ^ 26 → Reads 32 w (decodeMajor10 w)) ∧ (top w 26 = 0x11 * 2 ^ 26 → Reads 32 w (decodeMajor11 w)) ∧
    (top w 26 = 0x12 * 2 ^ 26 → Reads 32 w (decodeMajor12 w)) ∧ (top w 26 = 0x13 * 2 ^ 26 → Reads 32 w (decodeMajor13 w)) ∧
    (top w 26 = 0x14 * 2 ^ 26 → Reads 32 w (decodeMajor14 w)) ∧ (top w 26 = 0x15 * 2 ^ 26 → Reads 32 w (decodeMajor15 w)) ∧
    (top w 26 = 0x16 * 2 ^ 26 → Reads 32 w (decodeMajor16 w)) ∧ (top w 26 = 0x17 * 2 ^ 26 → Reads 32 w (decodeMajor17 w)) ∧
    (top w 26 = 0x18 * 2 ^ 26 → Reads 32 w (decodeMajor18 w)) ∧ (top w 26 = 0x19 * 2 ^ 26 → Reads 32 w (decodeMajor19 w)) ∧
    (top w 26 = 0x1A * 2 ^ 26 → Reads 32 w (decodeMajor1A w)) ∧ (top w 26 = 0x1B * 2 ^ 26 → Reads 32 w (decodeMajor1B w)) := by
  and_intros
  all_goals intro hw
  all_goals repeat' refine Reads.ite (fun h => ?_) ?_
  all_goals first | exact Reads.none | refine Reads.some rfl ?_
  all_goals
    push_cast [pk_fld, bits_eq_iff] at *
    omega

theorem reads_matrix_local {w : Nat} :
    (top w 26 = 0x20 * 2 ^ 26 → Reads 32 w (decodeMajor20 w)) ∧ (top w 26 = 0x21 * 2 ^ 26 → Reads 32 w (decodeMajor21 w)) ∧
    (top w 26 = 0x22 * 2 ^ 26 → Reads 32 w (decodeMajor22 w)) ∧ (top w 26 = 0x23 * 2 ^ 26 → Reads 32 w (decodeMajor23 w)) ∧
    (top w 26 = 0x28 * 2 ^ 26 → Reads 32 w (decodeMajor28 w)) ∧ (top w 26 = 0x29 * 2 ^ 26 → Reads 32 w (decodeMajor29 w)) := by
  and_intros
  all_goals intro hw
  all_goals repeat' refine Reads.ite (fun h => ?_) ?_
  all_goals first | exact Reads.none | refine Reads.some rfl ?_
  all_goals
    push_cast [pk_fld, bits_eq_iff] at *
    omega

theorem reads_global {w : Nat} :
    (top w 26 = 0x2A * 2 ^ 26 → Reads 32 w (decodeMajor2A w)) ∧ (top w 26 = 0x2B * 2 ^ 26 → Reads 32 w (decodeMajor2B w)) ∧
    (top w 26 = 0x2C * 2 ^ 26 → Reads 32 w (decodeMajor2C w)) ∧ (top w 26 = 0x2D * 2 ^ 26 → Reads 32 w (decodeMajor2D w)) ∧
    (top w 26 = 0x2E * 2 ^ 26 → Reads 32 w (decodeMajor2E w)) ∧ (top w 26 = 0x2F * 2 ^ 26 → Reads 32 w (decodeMajor2F w)) := by
  and_intros
  all_goals intro hw
  all_goals repeat' refine Reads.ite (fun h => ?_) ?_
  all_goals first | exact Reads.none | refine Reads.some rfl ?_
  all_goals
    push_cast [pk_fld, bits_eq_iff] at *
    omega

theorem reads_sync {w : Nat} :
    (top w 26 = 0x32 * 2 ^ 26 → Reads 32 w (decodeMajor32 w)) ∧ (top w 26 = 0x33 * 2 ^ 26 → Reads 32 w (decodeMajor33 w)) ∧
    (top w 26 = 0x34 * 2 ^ 26 → Reads 32 w (decodeMajor34 w)) ∧ (top w 26 = 0x35 * 2 ^ 26 → Reads 32 w (decodeMajor35 w)) ∧
    (top w 26 = 0x36 * 2 ^ 26 → Reads 32 w (decodeMajor36 w)) ∧ (top w 26 = 0x37 * 2 ^ 26 → Reads 32 w (decodeMajor37 w)) := by
  and_intros
  all_goals intro hw
  all_goals repeat' refine Reads.ite (fun h => ?_) ?_
  all_goals first | exact Reads.none | refine Reads.some rfl ?_
  all_goals
    push_cast [pk_fld, bits_eq_iff] at *
    omega

/-- The width bit of an atomic stands among the six bits of the major opcode (R67). -/
theorem reads_atomic {w : Nat} (hw : top w 27 = 0x18 * 2 ^ 27) : Reads 32 w (decodeMajor30 w) ∧ Reads 32 w (decodeMajor31 w) := by
  have h : Reads 32 w (decodeMajor30 w) := by
    repeat' refine Reads.ite (fun h => ?_) ?_
    all_goals first | exact Reads.none | refine Reads.some rfl ?_
    all_goals
      push_cast [pk_fld, bits_eq_iff] at *
      omega
  exact ⟨h, h⟩

theorem reads_slot {w : Nat} (hw : w < 2 ^ 32) : Reads 32 w (decodeSlotRaw w) := by
  have h26 {M : Nat} (h : w / 2 ^ 26 % 64 = M) : top w 26 = M * 2 ^ 26 := by rw [top]; omega
  have h27 {M : Nat} (h : w / 2 ^ 26 % 64 = M) : top w 27 = (M / 2 : Nat) * 2 ^ 27 := by rw [top]; omega
  rw [decodeSlotRaw]
  split
  on_goal -1 => exact Reads.none
  all_goals
    next h => simp [reads_control, reads_scalar, reads_vector, reads_matrix_local, reads_global, reads_sync, reads_atomic, h26 h, h27 h]

/-! ### Delta words (R316, R317) -/

theorem reads_delta {w : Nat} (hw : w < 2 ^ 64) : Reads 64 w (decodeDeltaRaw w) := by
  have h56 {M : Nat} (h : w / 2 ^ 56 % 256 = M) : top w 56 = M * 2 ^ 56 := by rw [top]; omega
  rw [decodeDeltaRaw]
  split
  on_goal -1 => exact Reads.none
  all_goals
    next h =>
      replace h := h56 h
      repeat' refine Reads.ite (fun h => ?_) ?_
      all_goals first | exact Reads.none | refine Reads.some rfl ?_
      all_goals
        push_cast [pk_fld, drWord_drOf, bits_eq_iff] at *
        omega

/-- Settles O3: every format reads or tests each bit of its words, so the fields that were read, put back in their places, are the word. -/
theorem encodeOfDecode : Obligations.EncodeOfDecode := by
  constructor
  · intro w i hw h
    rw [decodeSlot] at h
    split at h
    · next j hj =>
      split at h <;> cases h
      exact reads_slot hw _ hj
    · cases h
  · intro w i hw h
    rw [decodeDelta] at h
    split at h
    · next j hj =>
      split at h <;> cases h
      exact reads_delta hw _ hj
    · cases h

end Sys2Proof.Encodings

/-!
PROOFS. What is encoded is decoded again (R45, R50, R63 to R67, R316): the major code finds the format, and each field is read from its own
place.
-/
namespace Sys2Proof.Encodings
open Sys2Proof.Claims

theorem ofLeBytes_leBytes (n w : Nat) : ofLeBytes (leBytes n w) = w % 2 ^ (8 * n) := by
  induction n generalizing w with
  | zero => simp [leBytes, ofLeBytes, Nat.mod_one]
  | succ n ih => rw [leBytes, ofLeBytes, ih, BitVec.toNat_ofNat, show 8 * (n + 1) = 8 + 8 * n by omega, Nat.pow_add, Nat.mod_mul]

theorem length_leBytes (n w : Nat) : (leBytes n w).length = n := by
  induction n generalizing w with
  | zero => rfl
  | succ n ih => rw [leBytes, List.length_cons, ih]

theorem decodeTableWord_slot {w : Nat} (hw : w < 2 ^ 32) : decodeTableWord 32 w = (decodeSlot w).toOption := by
  rw [decodeTableWord, if_pos (by decide), decodeBytes, if_pos (length_leBytes 4 w), ofLeBytes_leBytes, Nat.mod_eq_of_lt hw]
  cases decodeSlot w <;> rfl

theorem decodeTableWord_delta {w : Nat} (hw : w < 2 ^ 64) : decodeTableWord 64 w = (decodeDelta w).toOption := by
  rw [decodeTableWord, if_neg (by decide), decodeBytes, length_leBytes, if_neg (by decide), if_pos rfl, ofLeBytes_leBytes,
    Nat.mod_eq_of_lt hw]
  cases decodeDelta w <;> rfl

/-- The word of `i`, where it is well formed and has one, decodes to it. -/
def Decodes (i : Instr) : Prop := ∀ n w, i.wf = true → encode i = some (n, w) → decodeTableWord n w = some (asDecoded i)

theorem Decodes.noWord {i : Instr} (h : encode i = none) : Decodes i := fun _ _ _ e => nomatch h.symm.trans e

theorem Decodes.slot {i : Instr} {w M : Nat} (h : encode i = some (32, w)) (hi : asDecoded i = i) (hw : Fits w 32 ∧ bits w 31 26 = M)
    (hd : i.wf = true → w / 2 ^ 26 % 64 = M → decodeSlotRaw w = some i) : Decodes i := by
  intro n x hf e
  cases h.symm.trans e
  rw [decodeTableWord_slot hw.1, hi, decodeSlot, hd hf hw.2]
  simp only [hf, if_true]
  rfl

theorem Decodes.delta {i : Instr} {w M : Nat} (h : encode i = some (64, w)) (hi : asDecoded i = i) (hw : Fits w 64 ∧ bits w 63 56 = M)
    (hd : w / 2 ^ 56 % 256 = M → decodeDeltaRaw w = some i) : Decodes i := by
  intro n x hf e
  cases h.symm.trans e
  rw [decodeTableWord_delta hw.1, hi, decodeDelta, hd hw.2]
  simp only [hf, if_true]
  rfl

/-! ### Slot operations, by the units of R63 to R67 -/

@[simp] theorem decodes_control :
    (∀ l, Decodes (.prio l)) ∧ (∀ a, Decodes (.jmpi a)) ∧ (∀ a, Decodes (.calli a)) ∧ (∀ c, Decodes (.trap c)) ∧ (∀ c, Decodes (.brk c)) ∧
    (∀ d s, Decodes (.evlogRd d s)) ∧ (∀ m, Decodes (.fset m)) ∧ (∀ m, Decodes (.fclr m)) ∧ (∀ m y c, Decodes (.fwait m y c)) ∧
    (∀ o, Decodes (.jmp o)) ∧ (∀ o, Decodes (.call o)) ∧ (∀ c n o, Decodes (.brC c n o)) ∧ (∀ a b c d n, Decodes (.brTree a b c d n)) ∧
    (∀ m y c, Decodes (.syncHeader m y c)) ∧ (∀ a b c, Decodes (.lendHeader a b c)) ∧ (∀ a b c d x y, Decodes (.treeHeader a b c d x y)) := by
  and_intros
  all_goals
    intros
    refine .slot (M := ?_) rfl rfl ?_ fun _ h => ?_
    rotate_left
    · simp only [sum_rules, true_and, Nat.reducePow, Nat.reduceDiv, Nat.reduceMod, Nat.reduceAdd, Nat.reduceLeDiff, Nat.reduceLT]
      simp only [bits, Nat.reducePow, Nat.reduceDiv, Nat.reduceMod, Nat.reduceAdd, Nat.reduceSub]
      rfl
    rw [decodeSlotRaw, h]
    simp only [decodeMajor00, decodeMajor01, decodeMajor02, decodeMajor03, decodeMajor04, decodeMajor38, decodeMajor39, decodeMajor3A,
      sum_rules, false_and, if_false, ne_eq, not_false_eq_true, Nat.reduceEqDiff,
      Nat.reducePow, Nat.reduceDiv, Nat.reduceMod, Nat.reduceAdd, Nat.reduceLeDiff, Nat.reduceLT] <;> rfl

@[simp] theorem decodes_scalar :
    (∀ d a b, Decodes (.add d a b)) ∧ (∀ d a b, Decodes (.sub d a b)) ∧ (∀ d a b, Decodes (.mul d a b)) ∧ (∀ d a b, Decodes (.mulh d a b)) ∧
    (∀ d a b, Decodes (.mulhn d a b)) ∧ (∀ d a b, Decodes (.div d a b)) ∧ (∀ d a b, Decodes (.divn d a b)) ∧ (∀ d a b, Decodes (.rem d a b))
    ∧ (∀ d a b, Decodes (.remn d a b)) ∧ (∀ d a b, Decodes (.and d a b)) ∧ (∀ d a b, Decodes (.or d a b)) ∧ (∀ d a b, Decodes (.xor d a b))
    ∧ (∀ d a b, Decodes (.andn d a b)) ∧ (∀ d a b, Decodes (.shl d a b)) ∧ (∀ d a b, Decodes (.shr d a b)) ∧ (∀ d a b, Decodes (.sra d a b))
    ∧ (∀ d a b, Decodes (.rotl d a b)) ∧ (∀ d a b, Decodes (.min d a b)) ∧ (∀ d a b, Decodes (.max d a b)) ∧
    (∀ d a b, Decodes (.minn d a b)) ∧ (∀ d a b, Decodes (.maxn d a b)) ∧ (∀ d a, Decodes (.clz d a)) ∧ (∀ d a, Decodes (.ctz d a)) ∧
    (∀ d a, Decodes (.popc d a)) ∧ (∀ d a, Decodes (.mov d a)) ∧ (∀ d n, Decodes (.cset d n)) ∧ (∀ d a i, Decodes (.addi d a i)) ∧
    (∀ d a i, Decodes (.andi d a i)) ∧ (∀ d a i, Decodes (.ori d a i)) ∧ (∀ d a i, Decodes (.xori d a i)) ∧
    (∀ d x c a b, Decodes (.cmp d x c a b)) ∧ (∀ d x c a i, Decodes (.cmpi d x c a i)) ∧ (∀ d i, Decodes (.li d i)) ∧
    (∀ d q i, Decodes (.lih d q i)) ∧ (∀ d a p l, Decodes (.extr d a p l)) ∧ (∀ d a p l, Decodes (.extrs d a p l)) ∧
    (∀ d a p l, Decodes (.ins d a p l)) ∧ (∀ d a b c, Decodes (.fsh d a b c)) ∧ (∀ s n, Decodes (.csrRd s n)) ∧
    (∀ s, Decodes (.csrWrFpctl s)) ∧ (∀ s, Decodes (.csrWrCtxPrio s)) ∧ (∀ s, Decodes (.csrWrAccOwn s)) ∧ (∀ s, Decodes (.csrWrBankRole s))
    ∧ (∀ b o, Decodes (.setbLabel b o)) ∧ (∀ b a, Decodes (.setbReg b a)) := by
  and_intros
  all_goals
    intros
    refine .slot (M := ?_) rfl rfl ?_ fun _ h => ?_
    rotate_left
    · simp only [sum_rules, true_and, Nat.reducePow, Nat.reduceDiv, Nat.reduceMod, Nat.reduceAdd, Nat.reduceLeDiff, Nat.reduceLT]
      simp only [bits, Nat.reducePow, Nat.reduceDiv, Nat.reduceMod, Nat.reduceAdd, Nat.reduceSub]
      rfl
    rw [decodeSlotRaw, h]
    simp only [decodeMajor05, decodeMajor06, decodeMajor07, decodeMajor08, decodeMajor09, decodeMajor0A, decodeMajor0B, decodeMajor0C,
      decodeMajor0D, decodeMajor0E, sum_rules, if_false, ne_eq, not_false_eq_true, Nat.reduceEqDiff,
      Nat.reducePow, Nat.reduceDiv, Nat.reduceMod, Nat.reduceAdd, Nat.reduceLeDiff, Nat.reduceLT] <;> rfl

@[simp] theorem decodes_vector :
    (∀ d a b k t, Decodes (.vadd d a b k t)) ∧ (∀ d a b k t, Decodes (.vsub d a b k t)) ∧ (∀ d a b k t, Decodes (.vmul d a b k t)) ∧
    (∀ d a b k t, Decodes (.vmin d a b k t)) ∧ (∀ d a b k t, Decodes (.vmax d a b k t)) ∧ (∀ d a k t, Decodes (.vabs d a k t)) ∧
    (∀ d a k t, Decodes (.vneg d a k t)) ∧ (∀ d a b k t, Decodes (.vfma d a b k t)) ∧ (∀ d a b k t, Decodes (.vfms d a b k t)) ∧
    (∀ d a b k t, Decodes (.vfnma d a b k t)) ∧ (∀ d a k t, Decodes (.vrcp d a k t)) ∧ (∀ d a k t, Decodes (.vrsqrt d a k t)) ∧
    (∀ d a k t, Decodes (.vsqrt d a k t)) ∧ (∀ d a k t, Decodes (.vexp2 d a k t)) ∧ (∀ d a k t, Decodes (.vlog2 d a k t)) ∧
    (∀ d a b k t, Decodes (.vand d a b k t)) ∧ (∀ d a b k t, Decodes (.vor d a b k t)) ∧ (∀ d a b k t, Decodes (.vxor d a b k t)) ∧
    (∀ d a b k t, Decodes (.vandn d a b k t)) ∧ (∀ d a b k t, Decodes (.vshl d a b k t)) ∧ (∀ d a b k t, Decodes (.vshr d a b k t)) ∧
    (∀ d a b k t, Decodes (.vsra d a b k t)) ∧ (∀ d a k t, Decodes (.vpopc d a k t)) ∧ (∀ d c a b k t, Decodes (.vcmp d c a b k t)) ∧
    (∀ d a b k t, Decodes (.vsel d a b k t)) ∧ (∀ d a k t, Decodes (.vmov d a k t)) ∧ (∀ d s k t, Decodes (.vbcast d s k t)) ∧
    (∀ d a b k t, Decodes (.vperm d a b k t)) ∧ (∀ d a k t, Decodes (.vredAdd d a k t)) ∧ (∀ d a k t, Decodes (.vredMax d a k t)) ∧
    (∀ d a k t, Decodes (.vscanAdd d a k t)) ∧ (∀ d a b, Decodes (.kand d a b)) ∧ (∀ d a b, Decodes (.kor d a b)) ∧
    (∀ d a b, Decodes (.kxor d a b)) ∧ (∀ d a, Decodes (.knot d a)) ∧ (∀ d a, Decodes (.kmovKk d a)) ∧ (∀ d s, Decodes (.kmovKs d s)) ∧
    (∀ a s, Decodes (.kmovSk a s)) ∧ (∀ d a x k y, Decodes (.vcvt d a x k y)) ∧ (∀ d a x k y, Decodes (.vcvtSr d a x k y)) ∧
    (∀ d a k y, Decodes (.vclass d a k y)) ∧ (∀ a k t, Decodes (.vbmax a k t)) ∧ (∀ d a b k t, Decodes (.vquant d a b k t)) ∧
    (∀ d a b k t, Decodes (.vdeq d a b k t)) ∧ (∀ d a b k t, Decodes (.vpack d a b k t)) ∧ (∀ d a k t, Decodes (.vunpack d a k t)) ∧
    (∀ d a p k l, Decodes (.vextr d a p k l)) ∧ (∀ d k t, Decodes (.vrng d k t)) := by
  and_intros
  all_goals
    intros
    refine .slot (M := ?_) rfl rfl ?_ fun _ h => ?_
    rotate_left
    · simp only [sum_rules, true_and, Nat.reducePow, Nat.reduceDiv, Nat.reduceMod, Nat.reduceAdd, Nat.reduceLeDiff, Nat.reduceLT]
      simp only [bits, Nat.reducePow, Nat.reduceDiv, Nat.reduceMod, Nat.reduceAdd, Nat.reduceSub]
      rfl
    rw [decodeSlotRaw, h]
    simp only [decodeMajor10, decodeMajor11, decodeMajor12, decodeMajor13, decodeMajor14, decodeMajor15, decodeMajor16, decodeMajor17,
      decodeMajor18, decodeMajor19, decodeMajor1A, decodeMajor1B, sum_rules, if_false, ne_eq, not_false_eq_true, Nat.reduceEqDiff,
      Nat.reducePow, Nat.reduceDiv, Nat.reduceMod, Nat.reduceAdd, Nat.reduceLeDiff, Nat.reduceLT]
    rfl

@[simp] theorem decodes_matrix_local :
    (∀ a x y p t, Decodes (.mma a x y p t)) ∧ (∀ a x y p t, Decodes (.mmaZ a x y p t)) ∧ (∀ a x y p t, Decodes (.mmaSp a x y p t)) ∧
    (∀ b a t, Decodes (.mpack b a t)) ∧ (∀ a t, Decodes (.mdrainByp a t)) ∧ (∀ a s t, Decodes (.mdrainAcc a s t)) ∧
    (∀ a, Decodes (.mzero a)) ∧ (∀ a s, Decodes (.mdrainA80 a s)) ∧ (∀ a s, Decodes (.mzeroA80 a s)) ∧ (∀ s t, Decodes (.mtrPut s t)) ∧
    (∀ s t, Decodes (.mtrGet s t)) ∧ (∀ s a o z, Decodes (.ld s a o z)) ∧ (∀ s a o z, Decodes (.st s a o z)) ∧
    (∀ v a o, Decodes (.vld v a o)) ∧ (∀ v a o, Decodes (.vst v a o)) ∧ (∀ f c r, Decodes (.bankRole f c r)) ∧
    (∀ f c, Decodes (.bankFlush f c)) := by
  and_intros
  all_goals
    intros
    refine .slot (M := ?_) rfl rfl ?_ fun _ h => ?_
    rotate_left
    · simp only [sum_rules, true_and, Nat.reducePow, Nat.reduceDiv, Nat.reduceMod, Nat.reduceAdd, Nat.reduceLeDiff, Nat.reduceLT]
      simp only [bits, Nat.reducePow, Nat.reduceDiv, Nat.reduceMod, Nat.reduceAdd, Nat.reduceSub]
      rfl
    rw [decodeSlotRaw, h]
    simp only [decodeMajor20, decodeMajor21, decodeMajor22, decodeMajor23, decodeMajor28, decodeMajor29, sum_rules, if_false, ne_eq,
      not_false_eq_true, Nat.reduceEqDiff,
      Nat.reducePow, Nat.reduceDiv, Nat.reduceMod, Nat.reduceAdd, Nat.reduceLeDiff, Nat.reduceLT]
    rfl

@[simp] theorem decodes_global :
    (∀ s a d z, Decodes (.ldg s a d z)) ∧ (∀ s a o z, Decodes (.stg s a o z)) ∧ (∀ v a d, Decodes (.vldg v a d)) ∧
    (∀ v a o, Decodes (.vstg v a o)) ∧ (∀ l a o, Decodes (.pref l a o)) ∧ (∀ x a d, Decodes (.vldcb x a d)) ∧
    (∀ v g r c d, Decodes (.vldFmt v g r c d)) ∧ (∀ v g r c m s, Decodes (.vstFmt v g r c m s)) ∧
    (∀ v a i k d, Decodes (.vgather v a i k d)) ∧ (∀ v a i k, Decodes (.vscatter v a i k)) ∧ (∀ s a d p, Decodes (.ldAcq s a d p)) ∧
    (∀ s a p, Decodes (.stRel s a p)) ∧ (∀ p, Decodes (.fenceAcq p)) ∧ (∀ p, Decodes (.fenceRel p)) ∧ (∀ p, Decodes (.fenceFull p)) := by
  and_intros
  all_goals
    intros
    refine .slot (M := ?_) rfl rfl ?_ fun _ h => ?_
    rotate_left
    · simp only [sum_rules, true_and, Nat.reducePow, Nat.reduceDiv, Nat.reduceMod, Nat.reduceAdd, Nat.reduceLeDiff, Nat.reduceLT]
      simp only [bits, Nat.reducePow, Nat.reduceDiv, Nat.reduceMod, Nat.reduceAdd, Nat.reduceSub]
      rfl
    rw [decodeSlotRaw, h]
    simp only [decodeMajor2A, decodeMajor2B, decodeMajor2C, decodeMajor2D, decodeMajor2E, decodeMajor2F, sum_rules,
      Nat.reducePow, Nat.reduceDiv, Nat.reduceMod, Nat.reduceAdd, Nat.reduceLeDiff, Nat.reduceLT] <;> rfl

@[simp] theorem decodes_sync :
    (∀ a f, Decodes (.sig a f)) ∧ (∀ s a, Decodes (.barInit s a)) ∧ (∀ a, Decodes (.barArrive a)) ∧ (∀ a, Decodes (.barWait a)) ∧
    (∀ s a c, Decodes (.waitw s a c)) ∧ (∀ s a, Decodes (.roundWait s a)) ∧ (∀ s a, Decodes (.roundPin s a)) ∧
    (∀ s a d, Decodes (.ntile s a d)) ∧ (∀ s a d, Decodes (.basinQ s a d)) ∧ (∀ s i, Decodes (.ringDef s i)) ∧ (∀ i, Decodes (.ringPut i)) ∧
    (∀ i, Decodes (.ringTake i)) ∧ (∀ s i e, Decodes (.ringPtr s i e)) ∧ (∀ s i e, Decodes (.aguSet s i e)) ∧
    (∀ s h k o z, Decodes (.ringLd s h k o z)) ∧ (∀ s h k o z, Decodes (.ringSt s h k o z)) ∧ (∀ v h k o, Decodes (.ringVld v h k o)) ∧
    (∀ v h k o, Decodes (.ringVst v h k o)) ∧ (∀ v a c s b, Decodes (.accw v a c s b)) ∧ (∀ v a c k l, Decodes (.rsscat v a c k l)) ∧
    (∀ v a c k l d, Decodes (.rsld v a c k l d)) := by
  and_intros
  all_goals
    intros
    refine .slot (M := ?_) rfl rfl ?_ fun _ h => ?_
    rotate_left
    · simp only [sum_rules, true_and, Nat.reducePow, Nat.reduceDiv, Nat.reduceMod, Nat.reduceAdd, Nat.reduceLeDiff, Nat.reduceLT]
      simp only [bits, Nat.reducePow, Nat.reduceDiv, Nat.reduceMod, Nat.reduceAdd, Nat.reduceSub]
      rfl
    rw [decodeSlotRaw, h]
    simp only [decodeMajor32, decodeMajor33, decodeMajor34, decodeMajor35, decodeMajor36, decodeMajor37, sum_rules, false_and, if_false,
      ne_eq, not_false_eq_true, Nat.reduceEqDiff,
      Nat.reducePow, Nat.reduceDiv, Nat.reduceMod, Nat.reduceAdd, Nat.reduceLeDiff, Nat.reduceLT] <;> rfl

@[simp] theorem decodes_atomic :
    (∀ w s a d, Decodes (.amoAdd w s a d)) ∧ (∀ w s a d, Decodes (.amoAnd w s a d)) ∧ (∀ w s a d, Decodes (.amoOr w s a d)) ∧
    (∀ w s a d, Decodes (.amoXor w s a d)) ∧ (∀ w s a d, Decodes (.amoMinSigned w s a d)) ∧ (∀ w s a d, Decodes (.amoMaxSigned w s a d)) ∧
    (∀ w s a d, Decodes (.amoXchg w s a d)) ∧ (∀ w s a d, Decodes (.amoCas w s a d)) ∧ (∀ w s a d, Decodes (.amoFadd w s a d)) ∧
    (∀ w s a d, Decodes (.amoFmin w s a d)) ∧ (∀ w s a d, Decodes (.amoFmax w s a d)) ∧ (∀ w s a d, Decodes (.amoMinUnsigned w s a d)) ∧
    (∀ w s a d, Decodes (.amoMaxUnsigned w s a d)) := by
  and_intros
  all_goals
    intro w
    intros
    obtain rfl | rfl : w = 0 ∨ w = 1 := by revert w; decide
    all_goals
      refine .slot (M := ?_) rfl rfl ?_ fun _ h => ?_
      rotate_left
      · simp only [sum_rules, true_and, Nat.reducePow, Nat.reduceDiv, Nat.reduceMod, Nat.reduceAdd, Nat.reduceLeDiff, Nat.reduceLT]
        simp only [bits, pk, BitVec.reduceToNat, Nat.reduceMul, Nat.reducePow, Nat.reduceDiv, Nat.reduceMod, Nat.reduceAdd, Nat.reduceSub]
        rfl
      rw [decodeSlotRaw, h]
      simp only [decodeMajor30, decodeMajor31, sum_rules,
        Nat.reducePow, Nat.reduceDiv, Nat.reduceMod, Nat.reduceAdd, Nat.reduceLeDiff, Nat.reduceLT]
      rfl

@[simp] theorem decodes_words : Decodes .nop ∧ Decodes .halt ∧ Decodes .yield ∧ Decodes .ret ∧ Decodes .eret ∧ Decodes .ctxQuiesce ∧
    Decodes .evlogClr := by
  and_intros
  all_goals
    rintro n w - ⟨⟩
    rfl

/-- `sel` is told from the operations of fewer fields by the upper half of its minor code (R64). -/
@[simp] theorem decodes_sel : ∀ d a b n, Decodes (.sel d a b n) := by
  intro d a b n
  refine .slot (M := 5) rfl rfl ⟨?_, ?_⟩ fun _ h => ?_
  · simp only [sum_rules, Nat.reducePow, Nat.reduceDiv, Nat.reduceMod, Nat.reduceAdd, Nat.reduceLeDiff, Nat.reduceLT]
  · simp only [sum_rules, Nat.reducePow, Nat.reduceDiv, Nat.reduceMod, Nat.reduceAdd, Nat.reduceLeDiff]
    rfl
  have hi : bits (335544560 + pk d 20 + pk a 14 + pk b 8 + pk n 0) 7 4 = 15 := by
    simp only [sum_rules, Nat.reducePow, Nat.reduceDiv, Nat.reduceMod, Nat.reduceAdd, Nat.reduceLeDiff, Nat.reduceLT]
    rfl
  have h7 : ∀ k < 26, bits (335544560 + pk d 20 + pk a 14 + pk b 8 + pk n 0) 7 0 ≠ k := by unfold bits at *; omega
  have h13 : ∀ k < 26, bits (335544560 + pk d 20 + pk a 14 + pk b 8 + pk n 0) 13 0 ≠ k := by unfold bits at *; omega
  rw [decodeSlotRaw, h]
  simp [decodeMajor05, hi, h7, h13]
  simp [sum_rules]

/-- A type code of `mdrain` is none of the codes of the transfers of raw images (R372). -/
@[simp] theorem decodes_mdrain : ∀ a s t, Decodes (.mdrain a s t) := by
  intro a s t
  refine .slot (M := 0x22) rfl rfl ⟨?_, ?_⟩ fun hf h => ?_
  · simp only [sum_rules, Nat.reducePow, Nat.reduceDiv, Nat.reduceMod, Nat.reduceAdd, Nat.reduceLeDiff, Nat.reduceLT]
  · simp only [sum_rules, Nat.reducePow, Nat.reduceDiv, Nat.reduceMod, Nat.reduceAdd, Nat.reduceLeDiff]
    rfl
  have ht : bits (2281701376 + pk a 24 + pk s 18 + pk t 3) 7 3 = t.toNat :=
    bits_add_pk_same t (by simp only [sum_rules, Nat.reducePow, Nat.reduceDiv, Nat.reduceMod, Nat.reduceAdd, Nat.reduceLeDiff]) rfl
  have h17 : ∀ k, k / 8 % 32 = 18 → bits (2281701376 + pk a 24 + pk s 18 + pk t 3) 17 0 ≠ k := by
    have hle : t.toNat ≤ 17 := of_decide_eq_true hf
    unfold bits at *
    omega
  rw [decodeSlotRaw, h]
  simp only [decodeMajor22, h17, sum_rules, if_false, Nat.reducePow, Nat.reduceDiv, Nat.reduceMod, Nat.reduceAdd, Nat.reduceLeDiff,
    Nat.reduceLT]
  rfl

@[simp] theorem decodes_csrWr : ∀ s n, Decodes (.csrWr s n) := by
  intro s n
  refine .slot (M := 0x0D) rfl rfl ⟨?_, ?_⟩ fun hf h => ?_
  · simp only [sum_rules, Nat.reducePow, Nat.reduceDiv, Nat.reduceMod, Nat.reduceAdd, Nat.reduceLeDiff, Nat.reduceLT]
  · simp only [sum_rules, Nat.reducePow, Nat.reduceDiv, Nat.reduceMod, Nat.reduceAdd, Nat.reduceLeDiff]
    rfl
  have hn : bits (872415233 + pk s 20 + pk n 8) 19 8 = n.toNat :=
    bits_add_pk_same n (by simp only [sum_rules, Nat.reducePow, Nat.reduceDiv, Nat.reduceMod, Nat.reduceAdd, Nat.reduceLeDiff]) rfl
  have hf : (n != 0x010 && n != 0x003 && n != 0x015 && n != 0x016) = true := hf
  obtain ⟨⟨⟨h16, h3⟩, h21⟩, h22⟩ : ((n.toNat ≠ 16 ∧ n.toNat ≠ 3) ∧ n.toNat ≠ 21) ∧ n.toNat ≠ 22 := by
    simpa [← BitVec.toNat_inj] using hf
  rw [decodeSlotRaw, h]
  simp only [decodeMajor0D, hn, h16, h3, h21, h22, and_false, if_false, sum_rules, Nat.reducePow, Nat.reduceDiv, Nat.reduceMod,
    Nat.reduceAdd, Nat.reduceLeDiff, Nat.reduceLT]
  rfl

/-! ### Delta operations (R316, R317) -/

@[simp] theorem decodes_delta_arithmetic :
    (∀ w f, Decodes (.dadd w f)) ∧ (∀ w f, Decodes (.dsub w f)) ∧ (∀ w f, Decodes (.dmul w f)) ∧ (∀ w f, Decodes (.dfma w f)) ∧
    (∀ w f, Decodes (.dmin w f)) ∧ (∀ w f, Decodes (.dmax w f)) ∧ (∀ w f, Decodes (.dabs w f)) ∧ (∀ w f, Decodes (.dneg w f)) ∧
    (∀ w f, Decodes (.drcp w f)) ∧ (∀ w f, Decodes (.drsqrt w f)) ∧ (∀ w f, Decodes (.dsqrt w f)) ∧ (∀ w f, Decodes (.dsel w f)) ∧
    (∀ w f, Decodes (.drng w f)) ∧ (∀ w f, Decodes (.dsum w f)) ∧ (∀ w f, Decodes (.dsq w f)) ∧ (∀ w f, Decodes (.dbcast w f)) := by
  and_intros
  all_goals
    intros
    refine .delta (M := ?_) rfl rfl ?_ fun h => ?_
    rotate_left
    · simp only [sum_rules, add_drWord, true_and, Nat.reducePow, Nat.reduceDiv, Nat.reduceMod, Nat.reduceAdd, Nat.reduceLeDiff, Nat.reduceLT]
      simp only [bits, Nat.reducePow, Nat.reduceDiv, Nat.reduceMod, Nat.reduceAdd, Nat.reduceSub]
      rfl
    rw [decodeDeltaRaw, h]
    simp only
    simp only [drOf, sum_rules, add_drWord, Nat.reducePow, Nat.reduceDiv, Nat.reduceMod, Nat.reduceAdd, Nat.reduceLeDiff, Nat.reduceLT]
    rfl

@[simp] theorem decodes_delta_control :
    (∀ w qd da db cc q qn, Decodes (.dcmp w qd da db cc q qn)) ∧ (∀ w dd da t rnd sat m ei, Decodes (.dcvtTo w dd da t rnd sat m ei)) ∧
    (∀ w dd da t rnd sat m ei, Decodes (.dcvtFrom w dd da t rnd sat m ei)) ∧ (∀ w ed ea eb isel imm, Decodes (.eadd w ed ea eb isel imm)) ∧
    (∀ w ed ea eb isel imm, Decodes (.emul w ed ea eb isel imm)) ∧ (∀ w ed imm, Decodes (.eli w ed imm)) ∧
    (∀ w ea eb cc tgt, Decodes (.ebr w ea eb cc tgt)) ∧ (∀ w tgt, Decodes (.ejmp w tgt)) ∧ (∀ w ea tgt, Decodes (.eloop w ea tgt)) ∧
    (∀ w ed ea, Decodes (.eld w ed ea)) ∧ (∀ w d ea es k, Decodes (.dld w d ea es k)) ∧ (∀ w d ea es k, Decodes (.dldb w d ea es k)) ∧
    (∀ w d ea es k, Decodes (.dst w d ea es k)) ∧ (∀ w, Decodes (.dwait w)) ∧ (∀ w n, Decodes (.dwaitExt w n)) ∧
    (∀ w ea es k, Decodes (.dlock w ea es k)) ∧ (∀ w ea es k, Decodes (.dunlock w ea es k)) ∧ (∀ w es er, Decodes (.dpub w es er)) ∧
    (∀ w d ea ek k, Decodes (.dpush w d ea ek k)) ∧ (∀ w d ea ek k, Decodes (.dpushAcc w d ea ek k)) ∧
    (∀ w ea ev n, Decodes (.dsig w ea ev n)) ∧ (∀ w ea ev n, Decodes (.dsigSt w ea ev n)) ∧ (∀ w, Decodes (.dhalt w)) := by
  and_intros
  all_goals
    intros
    refine .delta (M := ?_) rfl rfl ?_ fun h => ?_
    rotate_left
    · simp only [sum_rules, true_and, Nat.reducePow, Nat.reduceDiv, Nat.reduceMod, Nat.reduceAdd, Nat.reduceLeDiff, Nat.reduceLT]
      simp only [bits, Nat.reducePow, Nat.reduceDiv, Nat.reduceMod, Nat.reduceAdd, Nat.reduceSub]
      rfl
    rw [decodeDeltaRaw, h]
    simp only
    simp only [sum_rules, Nat.reducePow, Nat.reduceDiv, Nat.reduceMod, Nat.reduceAdd, Nat.reduceLeDiff, Nat.reduceLT]
    rfl

/-! ### Steps of the other agents, which have no word -/

@[simp] theorem decodes_steps :
    Decodes .bankChangeDone ∧ Decodes .asyncTrap ∧ Decodes .switch ∧ Decodes .landing ∧ Decodes .contextFree ∧ Decodes .tlbWalkDone ∧
    Decodes .submit ∧ Decodes .errAck ∧ Decodes .graphValidation ∧ Decodes .nodeResolve ∧ Decodes .launchDispatch ∧ Decodes .launchComplete
    ∧ Decodes .condNode ∧ Decodes .whileNode ∧ Decodes .whileBackEdge ∧ Decodes .nodeTimeout ∧ Decodes .ptRootWrite ∧ Decodes .tlbInval ∧
    Decodes .tlbInvalDone ∧ Decodes .signalDelivery ∧ Decodes .powerGate ∧ Decodes .waitwPoll ∧ Decodes .syncOvfBaseWrite ∧
    Decodes .syncOvfSizeWrite ∧ Decodes .syncStaleCountClear ∧ Decodes .tokenGrant ∧ Decodes .transposeExpire ∧ Decodes .copyTake ∧
    Decodes .chunkStart ∧ Decodes .copyComplete ∧ Decodes .sideWaysWrite ∧ Decodes .sideConversionDone ∧ Decodes .basinSelect ∧
    Decodes .basinRetire ∧ Decodes .basinDeclare ∧ Decodes .basinPacket ∧ Decodes .basinClose ∧ Decodes .confluenceAck ∧
    Decodes .confluenceResend ∧ Decodes .deltaRunSelect ∧ Decodes .deltaEntryDone ∧ Decodes .deltaExitDone ∧ Decodes .dldbComplete ∧
    Decodes .dpushFinish ∧ Decodes .roundDoneMessage ∧ Decodes .flitReceive ∧ Decodes .flitNak ∧ Decodes .flitReplayTimeout ∧
    Decodes .remoteTransaction ∧ Decodes .remoteRequestFail ∧ Decodes .hostMemAccess ∧ Decodes .preemptReq ∧ Decodes .parkComplete ∧
    Decodes .resumeReq ∧ Decodes .resumePrologue ∧ Decodes .currentRampLimitWrite ∧ Decodes .bankLimitWrite ∧ Decodes .telemetrySample ∧
    Decodes .thermalThrottle ∧ Decodes .throttleEnd ∧ Decodes .thermalTrip ∧ Decodes .errCorrectedClear ∧ Decodes .errUncorrectedClear ∧
    Decodes .walkerReset ∧ Decodes .warmReset ∧ Decodes .coldReset ∧ Decodes .powerGood ∧ Decodes .stageAdvance ∧ Decodes .fwLoadGo ∧
    Decodes .fwLoadDone ∧ Decodes .attestStart ∧ Decodes .attestDone ∧ Decodes .mgmtRegisterWrite ∧ Decodes .engineReply ∧
    Decodes .instructionCacheFill ∧ Decodes .softError := by
  and_intros
  all_goals exact .noWord rfl

/-- `rsscat.close` is written as `rsscat` is, and read as `rsscat` (R305). -/
@[simp] theorem decodes_rsscatClose (v : BitVec 5) (a : BitVec 6) (c : BitVec 5) (k : BitVec 3) (l : BitVec 4) :
    Decodes (.rsscatClose v a c k l) := by
  have h : Decodes (.rsscat v a c k l) := by simp
  exact fun n w _ e => h n w rfl e

theorem decodes (i : Instr) : Decodes i := by cases i <;> simp

/-- Settles O2: the fields of a word's sum are disjoint, so each is read back from its place, and the constant part finds the format. -/
theorem decodeOfEncode : Obligations.DecodeOfEncode := fun i n w hf h => decodes i n w hf h

end Sys2Proof.Encodings

/-!
PROOFS. The words that the spec writes out (R45, R63 to R67).
-/
namespace Sys2Proof.Encodings

/-- Settles O1: the fields of each word, read one by one. -/
theorem specWordsDecode : Obligations.SpecWordsDecode := by
  unfold Obligations.SpecWordsDecode
  and_intros
  all_goals rfl

end Sys2Proof.Encodings

/-!
PROOFS. Scalar compares (O9).
-/
namespace Sys2Proof.Claims

open Sys2Proof.Machine

/-! ### The integer conditions of R68 -/

/-- The conditions that the model computes on numbers are those that R68 names on words of their width. -/
theorem intCond_eq_intCondition {w x y : Nat} (c : Nat) (hx : x < 2 ^ w) (hy : y < 2 ^ w) :
    intCond w c x y = intCondition w c x y := by
  have hxn : (BitVec.ofNat w x).toNat = x := by rw [BitVec.toNat_ofNat, Nat.mod_eq_of_lt hx]
  have hyn : (BitVec.ofNat w y).toNat = y := by rw [BitVec.toNat_ofNat, Nat.mod_eq_of_lt hy]
  have hand : BitVec.ofNat w x &&& BitVec.ofNat w y = 0#w ↔ x &&& y = 0 := by
    rw [← BitVec.toNat_inj, BitVec.toNat_and, hxn, hyn, BitVec.toNat_zero]
  unfold intCond intCondition
  rw [toInt_signed w x hx, toInt_signed w y hy, Bool.eq_iff_iff]
  split <;> simp [BitVec.slt, BitVec.ult, BitVec.toInt_inj, hand, hxn, hyn]

theorem intCond_eq_scalarCond (c : Nat) (a b : Word) : intCond 64 c a.toNat b.toNat = scalarCond c a b := by
  rw [intCond_eq_intCondition c a.isLt b.isLt]
  unfold intCondition scalarCond
  simp only [BitVec.ofNat_toNat, BitVec.setWidth_eq]

/-- A lent immediate as a word: the field under the lent bits, sign-extended (R57, R58). -/
theorem word_signedField {n : Nat} (s : State) (x : BitVec n) (h : s.lent < 2 ^ s.lentWidth) :
    word (s.signedField x) = (BitVec.ofNat (n + s.lentWidth) (s.lent * 2 ^ n + x.toNat)).signExtend 64 := by
  rw [signedField_eq s x h]; rfl

theorem exec_cmp (s : State) (d x c : BitVec 4) (a b : BitVec 6) (h : s.lent = 0) :
    exec (.cmp d x c a b) s =
      .next ((s.wC 1 d (scalarCond c.toNat (s.rS a) (s.rS b))).wC 1 x (!scalarCond c.toNat (s.rS a) (s.rS b))) := by
  rw [← intCond_eq_scalarCond]
  exact (noLent_eq s _).trans (if_pos h)

theorem exec_cmpi (s : State) (d x c : BitVec 4) (a : BitVec 6) (i : BitVec 8) :
    exec (.cmpi d x c a i) s =
      .next ((s.wC 1 d (scalarCond c.toNat (s.rS a) (word (s.signedField i)))).wC 1 x
        (!scalarCond c.toNat (s.rS a) (word (s.signedField i)))) := by
  rw [← intCond_eq_scalarCond]; rfl

/-- Settles O9: the condition on numbers is that on words, and the lent immediate is the sign-extended field. -/
theorem scalarCompares : Obligations.ScalarCompares := by
  intro s d x c a b i _
  refine ⟨exec_cmp s d x c a b, ?_⟩
  rintro w rfl h
  exact ⟨_, rfl, by rw [← word_signedField s i h]; exact exec_cmpi s d x c a i⟩

end Sys2Proof.Claims

/-!
PROOFS. Flags: `fset`, `fclr`, `fwait`, the SYNC header, and the update at the end of the cycle (O11).
-/
namespace Sys2Proof.Claims

open Sys2Proof.Machine

/-! ### The test on flags -/

/-- Every flag that `m` names is set. -/
theorem and_eq_self_iff (f m : BitVec 16) :
    f &&& m = m ↔ ∀ n < 16, m.getLsbD n = true → f.getLsbD n = true := by
  refine ⟨fun h n _ hm => ?_, fun h => BitVec.eq_of_getLsbD_eq fun n hn => ?_⟩
  · rw [← h, BitVec.getLsbD_and, Bool.and_eq_true] at hm
    exact hm.1
  · rw [BitVec.getLsbD_and]
    cases hm : m.getLsbD n with
    | false => exact Bool.and_false _
    | true => rw [h n hn hm]; rfl

/-- Some flag that `m` names is set. -/
theorem and_ne_zero_iff (f m : BitVec 16) :
    f &&& m ≠ 0 ↔ ∃ n < 16, m.getLsbD n = true ∧ f.getLsbD n = true := by
  constructor
  · intro h
    by_contra hn
    refine h (BitVec.eq_of_getLsbD_eq fun n hlt => ?_)
    rw [BitVec.getLsbD_and]
    by_contra hb
    rw [show BitVec.getLsbD (0 : BitVec 16) n = false from BitVec.getLsbD_zero, Bool.not_eq_false, Bool.and_eq_true] at hb
    exact hn ⟨n, hlt, hb.2, hb.1⟩
  · rintro ⟨n, _, hm, hf⟩ h
    have hz : (f &&& m).getLsbD n = false := by rw [h]; exact BitVec.getLsbD_zero
    rw [BitVec.getLsbD_and, hm, hf] at hz
    cases hz

theorem flagsMet_iff (f m : BitVec 16) (y : BitVec 1) : flagsMet f m (y == 1) = true ↔ WaitMet f m y := by
  unfold flagsMet WaitMet
  obtain rfl | rfl : y = 0 ∨ y = 1 := by revert y; decide
  · rw [if_neg (by decide), if_pos rfl, beq_iff_eq]; exact and_eq_self_iff f m
  · rw [if_pos (by decide), if_neg (by decide), bne_iff_ne]; exact and_ne_zero_iff f m

/-! ### Waiting and passing -/

/-- Passing flags that carry no signature only names them. -/
theorem passFlags_of_no_sig (s : State) (m : BitVec 16) (h : s.ctx.flagSigs m = 0) :
    s.passFlags m = s.modCur fun c => { c with passed := c.passed ||| m } :=
  if_pos (.inl h)

theorem waitFlags_met (s : State) (m : BitVec 16) (y c : BitVec 1) (h : WaitMet s.ctx.r.f m y) :
    waitFlags s m (y == 1) (c == 1) = .next (if c = 1 then (s.passFlags m).clearFlags m else s.passFlags m) := by
  unfold waitFlags
  rw [if_pos ((flagsMet_iff _ _ _).mpr h)]
  simp only [beq_iff_eq]

theorem waitFlags_unmet (s : State) (m : BitVec 16) (y c : BitVec 1) (h : ¬ WaitMet s.ctx.r.f m y) :
    waitFlags s m (y == 1) (c == 1) = .next s.holdQuiet :=
  if_neg (mt (flagsMet_iff _ _ _).mp h)

theorem holds_holdQuiet (s : State) : Holds s (.next s.holdQuiet) := ⟨_, rfl, rfl, rfl⟩

theorem exec_fwait (s : State) (m : BitVec 16) (y c : BitVec 1) (h : s.lent = 0) :
    exec (.fwait m y c) s = waitFlags s m (y == 1) (c == 1) :=
  if_pos h

/-- At the end of the cycle a set prevails over a clear. -/
theorem getLsbD_updateFlags (f set clr : BitVec 16) (n : Nat) (h : n < 16) :
    (updateFlags f set clr).getLsbD n = ((f.getLsbD n && !clr.getLsbD n) || set.getLsbD n) := by
  unfold updateFlags
  rw [BitVec.getLsbD_or, BitVec.getLsbD_and, BitVec.getLsbD_not, decide_eq_true h, Bool.true_and]

/-- Settles O11: a wait is met when the model's test on words says so, and issue applies the named sets after the clears. -/
theorem flagOperations : Obligations.FlagOperations := by
  refine ⟨fun s m h => ⟨if_pos h, if_pos h⟩, fun s m y c h => ?_, fun c now k n => getLsbD_updateFlags _ _ _ n⟩
  rw [exec_fwait s m y c h]
  refine ⟨fun hm hg => ?_, waitFlags_met s m y c, fun hm => ?_, rfl⟩
  · rw [waitFlags_met s m y c hm, passFlags_of_no_sig s m hg]
    split <;> rfl
  · rw [waitFlags_unmet s m y c hm]
    exact holds_holdQuiet s

end Sys2Proof.Claims

/-!
PROOFS. What issuing a bundle does to its context (O13).
-/
namespace Sys2Proof.Machine

/-- Leaving the DRAM queue touches no context and no memory. -/
@[simp] theorem ctxAt_dramLeave (s : State) (w : DramParty) (y : Nat) : (s.dramLeave w).ctxAt y = s.ctxAt y := by
  unfold State.dramLeave; split <;> rfl
@[simp] theorem dramLeave_mem (s : State) (w : DramParty) : (s.dramLeave w).mem = s.mem := by
  unfold State.dramLeave; split <;> rfl

theorem Cur.nextPc_eq (k : Cur) : k.nextPc = (k.transfer.map (·.1)).getD (k.pc + 16) := by
  unfold Cur.nextPc
  cases k.transfer <;> rfl

theorem Cur.gap_eq (k : Cur) : k.gap = (k.transfer.map (·.2)).getD 1 := by
  unfold Cur.gap
  cases k.transfer <;> rfl

/-- A context after its bundle has issued: the waits of its slots are dropped. -/
def Ctx.afterIssue (c : Ctx) (now : Nat) (k : Cur) : Ctx :=
  { c.issued now k with flow := { (c.issued now k).flow with
      waits := [], waitOps := [], walked := [], fetching := none, bankWaits := [], quiet := false, poisoned := none } }

/-- Issue changes the issuing context alone. -/
theorem ctxAt_issue (s : State) (x y : Nat) (h : s.cur.after = none) :
    (s.issue x).ctxAt y = if y = x then (s.ctxAt x).afterIssue s.now s.cur else s.ctxAt y := by
  unfold State.issue State.dropWaits
  simp only [h, State.ctxAt_modCore, State.ctxAt_modCtxAt, ctxAt_dramLeave, if_true]
  split <;> rfl

theorem issue_mem (s : State) (x : Nat) (h : s.cur.after = none) : (s.issue x).mem = s.mem := by
  unfold State.issue State.dropWaits
  simp only [h, State.modCore_mem, State.modCtxAt_mem, dramLeave_mem]

end Sys2Proof.Machine

namespace Sys2Proof.Claims

open Sys2Proof.Machine

/-- Settles O13: without a `trap` instruction (R367), issue is `Ctx.afterIssue` on the bundle's own context and nothing on the others. -/
theorem issueAdvancesTheContext : Obligations.IssueAdvancesTheContext := by
  intro s x h
  have hx : (s.issue x).ctxAt x = (s.ctxAt x).afterIssue s.now s.cur := (ctxAt_issue s x x h).trans (if_pos rfl)
  rw [hx, ← Cur.nextPc_eq, ← Cur.gap_eq]
  exact ⟨rfl, rfl, rfl, rfl, rfl, rfl, rfl, fun y hy => (ctxAt_issue s x y h).trans (if_neg hy), issue_mem s x h⟩

end Sys2Proof.Claims

/-!
PROOFS. Transfers of control, the TREE and LEND headers, branch-target registers and the small control operations (O12).
-/
namespace Sys2Proof.Claims

open Sys2Proof.Machine

/-! ### Lent bits and traps -/

theorem noLent_go (s : State) (k : Out) (h : s.lent = 0) : noLent s k = k := if_pos h

theorem noLent_traps (s : State) (k : Out) (h : s.lent ≠ 0) :
    Traps (noLent s k) 0x01 (BitVec.ofNat 64 s.cur.word) s.cur.slot :=
  ⟨s.illegal, if_neg h, rfl⟩

/-! ### Targets -/

/-- A bundle offset in bytes, as a word. -/
theorem word_bundles {n : Nat} (o : BitVec n) : word (16 * o.toInt) = (o.signExtend 64) <<< 4 := by
  rw [BitVec.shiftLeft_eq_mul_twoPow, word, BitVec.ofInt_mul, BitVec.mul_comm]
  rfl

theorem relative_eq {n : Nat} (s : State) (o : BitVec n) :
    s.relative o.toInt = s.cur.pc + (o.signExtend 64) <<< 4 := by
  rw [State.relative, word_bundles]

/-- A relative transfer. -/
theorem transfer_relative {n : Nat} (s : State) (o : BitVec n) (gap : Nat) :
    s.transfer (s.relative o.toInt) gap = goes s (bundlesFrom s.cur.pc (o.signExtend 64)) gap := by
  rw [relative_eq]; rfl

theorem exec_brC (s : State) (c : BitVec 4) (n : BitVec 1) (o : BitVec 21) (h : s.lent = 0) :
    exec (.brC c n o) s =
      .next (if s.rC c = decide (n = 0) then goes s (bundlesFrom s.cur.pc (o.signExtend 64)) 1 else s) := by
  refine (noLent_go s _ h).trans ?_
  rw [transfer_relative]
  have hn : (s.rC c != (n == 1)) = decide (s.rC c = decide (n = 0)) := by
    obtain rfl | rfl : n = 0 ∨ n = 1 := by revert n; decide
    all_goals cases s.rC c <;> rfl
  rw [hn]
  simp only [decide_eq_true_eq]

/-! ### TREE -/

theorem leafTaken_le (a b c d : Bool) : leafTaken a b c d ≤ 4 := by
  cases a <;> cases b <;> cases c <;> cases d <;> decide

/-- The leaf is the first true test, counted from 1. -/
theorem leafTaken_iff (a b c d : Bool) :
    (leafTaken a b c d = 1 ↔ a = true) ∧ (leafTaken a b c d = 2 ↔ a = false ∧ b = true) ∧
    (leafTaken a b c d = 3 ↔ a = false ∧ b = false ∧ c = true) ∧
    (leafTaken a b c d = 4 ↔ a = false ∧ b = false ∧ c = false ∧ d = true) := by
  cases a <;> cases b <;> cases c <;> cases d <;> decide

/-- What a taken leaf with offset `o` does: −32 names the branch-target register `n` (R61). -/
def treeGo (s : State) (n : BitVec 2) (o : BitVec 6) : Out :=
  if o = 0x20 then withSound s [(5, n.toNat)] (.next (s.transfer (s.rB n) 2)) else .next (s.transfer (s.relative o.toInt) 1)

theorem exec_brTree_fall (s : State) (a b c d : BitVec 6) (n : BitVec 2) (x y : Nat) (hl : s.lent = 0)
    (h : s.cur.leaf = some (0, x, y)) : exec (.brTree a b c d n) s = .next s := by
  refine (noLent_go s _ hl).trans ?_
  simp only [h]

/-- The taken leaf's own offset decides. -/
theorem exec_brTree_go (s : State) (a b c d o : BitVec 6) (n : BitVec 2) (l x y : Nat) (hl : s.lent = 0)
    (h : s.cur.leaf = some (l, x, y)) (ho : (l = 1 ∧ o = a) ∨ (l = 2 ∧ o = b) ∨ (l = 3 ∧ o = c) ∨ (l = 4 ∧ o = d)) :
    exec (.brTree a b c d n) s = treeGo s n o := by
  refine (noLent_go s _ hl).trans ?_
  obtain ⟨rfl, rfl⟩ | ⟨rfl, rfl⟩ | ⟨rfl, rfl⟩ | ⟨rfl, rfl⟩ := ho <;> simp only [h] <;> rfl

/-- A register whose parity is sound does not stop the operation that reads it. -/
theorem withSound_single (s : State) (r : Nat × Nat) (k : Out) (h : r ∉ s.ctx.flow.parity) : withSound s [r] k = k := by
  have hn : (s.ctx.flow.parity.find? fun q => [r].contains q) = none :=
    List.find?_eq_none.mpr fun q hq hc => h (List.mem_singleton.mp (List.contains_iff_mem.mp hc) ▸ hq)
  unfold withSound
  rw [hn]

theorem treeGo_eq (s : State) (n : BitVec 2) (o : BitVec 6) (h : o.toInt = -32 → (5, n.toNat) ∉ s.ctx.flow.parity) :
    treeGo s n o = .next (if o.toInt = -32 then goes s (s.rB n &&& ~~~0xF#64) 2
      else goes s (bundlesFrom s.cur.pc (o.signExtend 64)) 1) := by
  have ho : o = 0x20 ↔ o.toInt = -32 := by rw [← BitVec.toInt_inj]; rfl
  unfold treeGo
  rw [transfer_relative]
  by_cases h20 : o = 0x20
  · have hi := ho.mp h20
    rw [if_pos h20, if_pos hi, withSound_single s _ _ (h hi)]
    rfl
  · rw [if_neg h20, if_neg (mt ho.mpr h20)]

theorem exec_treeHeader (s : State) (a b c d : BitVec 4) (x y : BitVec 5) :
    exec (.treeHeader a b c d x y) s = .next { s with cur := { s.cur with
      leaf := some (leafTaken (s.rC a) (s.rC b) (s.rC c) (s.rC d), x.toNat, y.toNat) } } := rfl

/-! ### Branch targets, levels, the log -/

/-- The smaller of the level and CEIL. -/
theorem ite_lt_eq_ofNat_min (c l : BitVec 2) : (if c.toNat < l.toNat then c else l) = BitVec.ofNat 2 (min l.toNat c.toNat) := by
  revert c l; decide

theorem exec_prio (s : State) (l : BitVec 2) (h : s.lent = 0) : exec (.prio l) s = .next (s.setCtxAt s.cur.ctx
    { s.ctx with csr := { s.ctx.csr with level := BitVec.ofNat 2 (min l.toNat s.ctx.csr.ceil.toNat) } }) := by
  rw [← ite_lt_eq_ofNat_min]
  exact noLent_go s _ h

/-- Clearing empties the log as the bundle issues, whatever the bundle has recorded. -/
theorem issued_log_cleared (c : Ctx) (now : Nat) (k : Cur) (h : k.clearLog = true) :
    (c.issued now k).log = (c.log.record c.flow.stamp k.pc k.evs).cleared c.flow.stamp := if_pos h

/-- Settles O12: every clause is one of the equations above, under no lent bits. -/
theorem transfersAndControl : Obligations.TransfersAndControl := by
  refine ⟨fun s => ⟨noLent_go s _, noLent_traps s _, fun a b c => rfl, fun a b c d x y => ?_, fun h => ?_⟩,
    fun s h => ⟨fun b o => ?_, fun b a => noLent_go s _ h, noLent_go s _ h, fun l => ⟨_, exec_prio s l h, rfl⟩,
      fun d => ⟨noLent_go s _ h, noLent_go s _ h, noLent_go s _ h, noLent_go s _ h⟩, noLent_go s _ h⟩,
    fun c now k h => ?_⟩
  · obtain ⟨h1, h2, h3, h4⟩ := leafTaken_iff (s.rC a) (s.rC b) (s.rC c) (s.rC d)
    exact ⟨_, exec_treeHeader s a b c d x y, h1, h2, h3, h4, leafTaken_le _ _ _ _⟩
  · refine ⟨fun o => ?_, fun a => noLent_go s _ h, fun c n o => exec_brC s c n o h, fun a b c d n l x y hf _ => ⟨?_, ?_⟩⟩
    · rw [← transfer_relative]; exact noLent_go s _ h
    · rintro rfl
      exact exec_brTree_fall s a b c d n x y h hf
    · intro o ho hp
      rw [exec_brTree_go s a b c d o n l x y h hf ho, treeGo_eq s n o hp]
  · rw [← relative_eq]; exact noLent_go s _ h
  · rw [issued_log_cleared c now k h]
    exact ⟨rfl, rfl, rfl, rfl⟩

end Sys2Proof.Claims

/-!
What the memory side, the caches and the links do for an access leaves the bundles alone: the record of the try, every context but for the
replies that its watches bring, every core's local store and tiles, every cluster, and the contexts' own places in the DRAM queue.
-/
namespace Sys2Proof.Claims

open Sys2Proof.Machine

/-- From `s` to `t` something was done for an access, and no bundle was touched. -/
structure Serves (s t : State) : Prop where
  cur : t.cur = s.cur
  ctxs : KeepsContexts s t
  quiet : ∀ x, (t.ctxAt x).flow.quiet = false ∨ (t.ctxAt x).flow.quiet = (s.ctxAt x).flow.quiet
  queue : ∀ w ∈ t.dramQueue, w ∈ s.dramQueue ∨ ∀ x, w.who ≠ .ctx x
  stores : ∀ i, (t.core i).loc = (s.core i).loc ∧ (t.core i).tiles = (s.core i).tiles
  clusters : t.clusters = s.clusters

section
variable {s t u : State}

theorem KeepsContexts.refl (s : State) : KeepsContexts s s := keepsContexts_of_ctxs rfl

theorem KeepsContexts.trans (h : KeepsContexts s t) (h' : KeepsContexts t u) : KeepsContexts s u := fun x => by
  obtain ⟨h1, h2, h3, h4, h5, h6, h7⟩ := h x
  obtain ⟨k1, k2, k3, k4, k5, k6, k7⟩ := h' x
  exact ⟨k1.trans h1, k2.trans h2, k3.trans h3, k4.trans h4, k5.trans h5, k6.trans h6, k7.trans h7⟩

theorem Serves.trans (h : Serves s t) (h' : Serves t u) : Serves s u where
  cur := h'.cur.trans h.cur
  ctxs := h.ctxs.trans h'.ctxs
  quiet x := (h'.quiet x).elim .inl fun e => (h.quiet x).imp e.trans e.trans
  queue w hw := (h'.queue w hw).elim (h.queue w) .inr
  stores i := ⟨(h'.stores i).1.trans (h.stores i).1, (h'.stores i).2.trans (h.stores i).2⟩
  clusters := h'.clusters.trans h.clusters

/-- Nothing but memory, caches, dies or links has changed. -/
theorem serves_of_eq (hk : t.cur = s.cur) (hc : t.ctxs = s.ctxs) (hq : t.dramQueue = s.dramQueue) (hs : t.cores = s.cores)
    (hcl : t.clusters = s.clusters := by rfl) : Serves s t := by
  refine ⟨hk, keepsContexts_of_ctxs hc, fun x => .inr ?_, fun w hw => .inl (hq ▸ hw), fun i => ?_, hcl⟩
  · rw [State.ctxAt, hc, State.ctxAt]
  · rw [State.core, hs, State.core]; exact ⟨rfl, rfl⟩

end

theorem Serves.refl (s : State) : Serves s s := serves_of_eq rfl rfl rfl rfl

theorem serves_foldl (s : State) {β : Type} (f : State → β → State) (l : List β) (hf : ∀ t b, Serves t (f t b)) :
    Serves s (l.foldl f s) :=
  foldl_keeps (Serves s) f l (fun t b h => h.trans (hf t b)) s (.refl s)

section
variable (s : State)

/-- A core's caches may change. -/
theorem serves_modCore (i : Nat) (f : CoreSt → CoreSt)
    (h : (f (s.core i)).loc = (s.core i).loc ∧ (f (s.core i)).tiles = (s.core i).tiles) :
    Serves s (s.modCore i f) := by
  refine ⟨rfl, keepsContexts_of_ctxs rfl, fun x => .inr rfl, fun w hw => .inl hw, fun j => ?_, rfl⟩
  rw [State.core_modCore]
  split
  · next e => rw [e]; exact h
  · exact ⟨rfl, rfl⟩

/-! ### The memory side (R197) -/

theorem serves_setMemByte (pa : Nat) (b : Byte) : Serves s (s.setMemByte pa b) := by
  unfold State.setMemByte
  split <;> exact serves_of_eq rfl rfl rfl rfl

theorem serves_putBytes (pa n v : Nat) : Serves s (s.putBytes pa n v) := by
  induction n generalizing s pa v with
  | zero => exact .refl s
  | succ n ih => exact (serves_setMemByte s pa _).trans (ih _ _ _)

theorem serves_cureMem (pa n : Nat) : Serves s (s.cureMem pa n) := by
  unfold State.cureMem
  split <;> exact serves_of_eq rfl rfl rfl rfl

theorem serves_markPoison (p : PoisonAt) : Serves s (s.markPoison p) := by
  unfold State.markPoison
  split <;> exact serves_of_eq rfl rfl rfl rfl

theorem serves_clearPoison (p : PoisonAt) : Serves s (s.clearPoison p) := by
  unfold State.clearPoison
  split <;> exact serves_of_eq rfl rfl rfl rfl

theorem serves_carryPoison (p q : PoisonAt) : Serves s (s.carryPoison p q) := by
  unfold State.carryPoison
  split
  · exact serves_markPoison s q
  · exact serves_clearPoison s q

theorem serves_backPoison (m : Nat) (p q : PoisonAt) : Serves s (s.backPoison m p q) := by
  unfold State.backPoison
  split
  · exact serves_carryPoison s p q
  · exact .refl s

theorem serves_keepLine (pa : Nat) (b : Bool) : Serves s (s.keepLine pa b) := by
  unfold State.keepLine
  split <;> exact serves_of_eq rfl rfl rfl rfl

theorem serves_dramTake (pa n : Nat) : Serves s (s.dramTake pa n) := by
  refine serves_foldl s _ _ fun t y => ?_
  dsimp only
  split
  · exact .refl t
  · split <;> exact serves_of_eq rfl rfl rfl rfl

/-- A reply to a held bundle is a wait that has ended: only the flow of its context changes. -/
theorem serves_reply (x slot id v : Nat) : Serves s (s.reply x slot id v) := by
  refine Serves.trans (t := s.modCtxAt x _) ⟨rfl, fun y => ?_, fun y => ?_, fun w hw => .inl hw, fun i => ⟨rfl, rfl⟩, rfl⟩
    (serves_modCore _ _ _ ⟨rfl, rfl⟩)
  · rw [State.ctxAt_modCtxAt]
    split
    · next e =>
      subst e
      split <;> exact ⟨rfl, rfl, rfl, rfl, rfl, rfl, rfl⟩
    · exact ⟨rfl, rfl, rfl, rfl, rfl, rfl, rfl⟩
  · rw [State.ctxAt_modCtxAt]
    split
    · next e =>
      subst e
      split
      · exact .inl rfl
      · exact .inr rfl
    · exact .inr rfl

theorem serves_watchMet (w : Watch) : Serves s (s.watchMet w) := by
  unfold State.watchMet
  split
  · exact serves_reply ..
  · exact serves_of_eq rfl rfl rfl rfl

theorem serves_testWatches (d lo hi : Nat) : Serves s (s.testWatches d lo hi) := by
  refine serves_foldl s _ _ fun t w => ?_
  split
  · exact .refl t
  · split
    · exact (serves_watchMet t w).trans (serves_of_eq rfl rfl rfl rfl)
    · exact .refl t

theorem serves_memWrite (pa n v : Nat) : Serves s (s.memWrite pa n v) := by
  have hp := (serves_putBytes s pa n v).trans (serves_cureMem _ pa n)
  unfold State.memWrite
  split
  iterate 3 exact serves_of_eq rfl rfl rfl rfl
  iterate 2
    dsimp only
    split
    · exact hp
    · exact hp.trans (serves_testWatches ..)
  · exact hp

theorem serves_memWriteMasked (pa n v m : Nat) : Serves s (s.memWriteMasked pa n v m) := by
  unfold State.memWriteMasked
  split
  · exact serves_memWrite ..
  · refine serves_foldl s _ _ fun t j => ?_
    split
    · exact serves_memWrite ..
    · exact .refl t

theorem serves_memLand (pa n v m : Nat) (bad : Bool) : Serves s (s.memLand pa n v m bad) := by
  have hw := (serves_dramTake s pa n).trans (serves_memWriteMasked _ pa n v m)
  unfold State.memLand
  dsimp only
  split
  · exact hw.trans (serves_markPoison ..)
  · exact hw

/-- A write that queues at DRAM queues for itself, not for a context. -/
theorem serves_memPost (pa n v m : Nat) (core : Option Nat) (bad : Bool) : Serves s (s.memPost pa n v m core bad) := by
  unfold State.memPost State.dramJoin
  dsimp only
  split
  · split
    · exact serves_of_eq rfl rfl rfl rfl
    · refine ⟨rfl, keepsContexts_of_ctxs rfl, fun x => .inr rfl, fun w hw => ?_, fun i => ⟨rfl, rfl⟩, rfl⟩
      obtain hw | hw := List.mem_append.mp hw
      · exact .inl (List.mem_filter.mp hw).1
      · rw [List.mem_singleton.mp hw]
        exact .inr fun x => DramParty.noConfusion
  · exact serves_memLand ..

theorem serves_recordMem (pa : Nat) (g : Sig) : Serves s (s.recordMem pa g) := by
  unfold State.recordMem
  split <;> exact serves_of_eq rfl rfl rfl rfl

/-! ### What engines write (R279, R362) -/

theorem serves_syncWrite (pa n v : Nat) : Serves s (s.syncWrite pa n v) := by
  unfold State.syncWrite
  dsimp only
  split
  · exact serves_memWrite ..
  · refine serves_foldl s _ _ fun t i => ?_
    split
    · exact .refl t
    · exact serves_memWrite ..

theorem serves_partyPut (pa n v : Nat) : Serves s (s.partyPut pa n v) := by
  unfold State.partyPut
  split
  · split
    · exact serves_memWrite ..
    · exact .refl s
  · split
    · exact serves_syncWrite ..
    · exact serves_memWrite ..

theorem serves_partyWrite (pa n v : Nat) : Serves s (s.partyWrite pa n v) := by
  unfold State.partyWrite
  split
  · exact serves_memPost ..
  · exact (serves_dramTake s pa n).trans (serves_partyPut ..)

theorem serves_releaseMem (pa n v : Nat) (g : Sig) : Serves s (s.releaseMem pa n v g) :=
  (serves_partyWrite s pa n v).trans (serves_foldl _ _ _ fun t _ => serves_recordMem t ..)

theorem serves_errorLog (y kind gen detail : Nat) : Serves s (s.errorLog y kind gen detail) :=
  ((serves_partyWrite s ..).trans (serves_partyWrite ..)).trans (serves_releaseMem ..)

/-! ### Requests to other packages (R353) -/

theorem serves_putRequest (r : Request) : Serves s (s.putRequest r) := by
  unfold State.putRequest
  split
  · unfold State.sendFlit
    dsimp only
    split <;> exact serves_of_eq rfl rfl rfl rfl
  · unfold State.failRequest
    dsimp only
    split <;> exact serves_of_eq rfl rfl rfl rfl

theorem serves_sendRequest (p op pa n : Nat) (v : Word) (x : Nat) (o : Requester) (g : Sig) :
    Serves s (s.sendRequest p op pa n v x o g) := by
  unfold State.sendRequest
  refine Serves.trans ?_ (serves_putRequest _ _)
  exact serves_of_eq rfl rfl rfl rfl

/-! ### The L2 (R197) -/

theorem serves_memWriteBack (core pa v m : Nat) (bad : Bool) : Serves s (s.memWriteBack core pa v m bad) := by
  unfold State.memWriteBack
  split
  · refine Serves.trans (t := if s.reachable _ then s.memLand pa 32 v m bad else s) ?_
      ((serves_sendRequest ..).trans (serves_of_eq rfl rfl rfl rfl))
    split
    · exact serves_memLand ..
    · exact .refl s
  · exact serves_memPost ..

theorem serves_setL2Line (d line : Nat) (l : L2Line) : Serves s (s.setL2Line d line l) := serves_of_eq rfl rfl rfl rfl

theorem serves_l2Clean (d line : Nat) (b : BitVec 4) : Serves s (s.l2Clean d line b) := by
  unfold State.l2Clean
  dsimp only
  split
  · exact serves_foldl s _ _ fun t k => serves_memWriteBack t ..
  · exact ((serves_keepLine s ..).trans (serves_foldl _ _ _ fun t k => serves_memWriteBack t ..)).trans (serves_setL2Line ..)

theorem serves_l2Drop (d line : Nat) : Serves s (s.l2Drop d line) :=
  ((serves_l2Clean s d line _).trans (serves_setL2Line ..)).trans (serves_foldl _ _ _ fun t _ => serves_clearPoison t ..)

theorem serves_l2Room (d line : Nat) : Serves s (s.l2Room d line) := by
  unfold State.l2Room
  dsimp only
  split
  · split
    · exact serves_l2Drop ..
    · exact .refl s
  · exact .refl s

theorem serves_l2FillPoison (d line : Nat) (ks : List Nat) : Serves s (s.l2FillPoison d line ks) := by
  unfold State.l2FillPoison
  split
  · exact .refl s
  · exact serves_foldl s _ _ fun t k => serves_carryPoison t ..

theorem serves_l2Fill (d line : Nat) (b : BitVec 4) : Serves s (s.l2Fill d line b) := by
  unfold State.l2Fill
  dsimp only
  split
  · exact .refl s
  · exact (((serves_l2Room s d line).trans (serves_keepLine ..)).trans (serves_setL2Line ..)).trans (serves_l2FillPoison ..)

theorem serves_l2Write (d core line off n x : Nat) : Serves s (s.l2Write d core line off n x) :=
  (((serves_l2Room s d line).trans (serves_l2Fill ..)).trans (serves_foldl _ _ _ fun t _ => serves_clearPoison t ..)).trans
    (serves_setL2Line ..)

theorem serves_l2WriteBack (d core line k v m : Nat) : Serves s (s.l2WriteBack d core line k v m) := by
  unfold State.l2WriteBack
  split
  · exact serves_l2Write ..
  · exact (serves_l2Fill s ..).trans (serves_setL2Line ..)

/-! ### The cache banks (R169) -/

theorem serves_cleanLine (core bank set : Nat) (carry : Bool) : Serves s (s.cleanLine core bank set carry) := by
  unfold State.cleanLine
  dsimp only
  split
  · exact .refl s
  · split
    · exact .refl s
    · exact (serves_foldl s _ _ fun t k => (serves_l2WriteBack t ..).trans (serves_backPoison ..)).trans
        (serves_modCore _ _ _ ⟨rfl, rfl⟩)

theorem serves_dropLine (core bank set : Nat) : Serves s (s.dropLine core bank set) := by
  have h := (serves_cleanLine s core bank set true).trans (serves_modCore _ core (fun c => c.setLine bank set {}) ⟨rfl, rfl⟩)
  unfold State.dropLine
  dsimp only
  split
  · exact h.trans (serves_foldl _ _ _ fun t _ => serves_clearPoison t ..)
  · exact h

theorem serves_ensureLine {core line j : Nat} {t : State} (h : s.ensureLine core line = some (j, t)) : Serves s t := by
  unfold State.ensureLine State.allocLine at h
  dsimp only at h
  split at h
  · cases h; exact .refl s
  · split at h
    · cases h; exact serves_modCore _ _ _ ⟨rfl, rfl⟩
    · split at h
      · cases h
      · cases h; exact (serves_dropLine s ..).trans (serves_modCore _ _ _ ⟨rfl, rfl⟩)

theorem serves_fillLine (core bank line : Nat) (b : BitVec 4) : Serves s (s.fillLine core bank line b) :=
  serves_foldl s _ _ fun t _ => ((serves_l2Fill t ..).trans (serves_carryPoison ..)).trans (serves_modCore _ _ _ ⟨rfl, rfl⟩)

theorem serves_touchLine (core bank set : Nat) : Serves s (s.touchLine core bank set) := serves_modCore _ _ _ ⟨rfl, rfl⟩

theorem serves_raiseBank (core line : Nat) : Serves s (s.raiseBank core line) := by
  unfold State.raiseBank
  split
  · exact serves_cleanLine ..
  · exact .refl s

theorem serves_raiseOwn (core level line : Nat) : Serves s (s.raiseOwn core level line) := by
  have hb := serves_raiseBank s core line
  unfold State.raiseOwn
  dsimp only
  split
  · exact .refl s
  · change Serves s (if level = 1 ∨ ((s.raiseBank core line).l2Line (dieOf core) line).dirty = 0 then s.raiseBank core line
      else ((s.raiseBank core line).l2Clean (dieOf core) line ((s.raiseBank core line).l2Line (dieOf core) line).dirty).modCore
        core _)
    split
    · exact hb
    · exact (hb.trans (serves_l2Clean ..)).trans (serves_modCore _ _ _ ⟨rfl, rfl⟩)

/-! ### Reads (R182, R200) -/

theorem serves_readSpan (core level line off n : Nat) : Serves s (s.readSpan core level line off n).2 := by
  have hr := serves_raiseOwn s core level line
  unfold State.readSpan
  dsimp only
  split
  · split
    · exact hr.trans (serves_l2Fill ..)
    · next he =>
      exact ((hr.trans (serves_ensureLine _ he)).trans (serves_fillLine ..)).trans (serves_touchLine ..)
  · exact hr.trans (serves_l2Fill ..)
  · exact hr

theorem serves_readPa (core level pa n : Nat) : Serves s (s.readPa core level pa n).2 := by
  unfold State.readPa
  refine foldl_keeps (fun a : Nat × State => Serves s a.2) _ _ (fun a _ h => ?_) _ (Serves.refl s)
  exact h.trans (serves_readSpan a.2 ..)

theorem serves_readAt (level pa n : Nat) : Serves s (s.readAt level pa n).2 := by
  unfold State.readAt
  split
  · exact .refl s
  · exact serves_readPa ..

/-- The record that a load carries joins its context's flow alone (R204). -/
theorem serves_carryRecord (leaf pa n : Nat) : Serves s (s.carryRecord leaf pa n) := by
  refine ⟨?_, carryRecord_keepsContexts s leaf pa n, fun x => .inr ?_, fun w hw => .inl ?_, fun i => ?_, ?_⟩
  all_goals unfold State.carryRecord at *
  · split <;> rfl
  · split
    · rw [State.ctxAt_modCtx]
      split
      · next e => rw [e]; rfl
      · rfl
    · rfl
  · split at hw <;> exact hw
  · split <;> exact ⟨rfl, rfl⟩
  · split <;> rfl

theorem serves_readPiece (p : Piece) : Serves s (s.readPiece p).2 := by
  have hread (t : State) : Serves t ((t.readAt p.level p.pa p.n).2.carryRecord p.leaf p.pa p.n) :=
    (serves_readAt t ..).trans (serves_carryRecord ..)
  unfold State.readPiece
  split
  · exact .refl s
  · split
    · exact (serves_readPa s ..).trans (serves_carryRecord ..)
    · exact serves_errorLog ..
  · refine Serves.trans (t := if s.cached p then s else if s.reachable _ then s.ask _ reqRead p.pa p.n 0 0 else s.remoteFails _ p.pa) ?_
      (hread _)
    split
    · exact .refl s
    · split
      · exact serves_sendRequest ..
      · exact serves_of_eq rfl rfl rfl rfl
  · exact hread s

/-! ### Whole accesses -/

/-- Where a load reads, and what is poisoned of it, is noted in the record of the try: its context and slot stay. -/
theorem notePoison_cur (level pa n : Nat) :
    (s.notePoison level pa n).cur.ctx = s.cur.ctx ∧ (s.notePoison level pa n).cur.slot = s.cur.slot := by
  have hf : (s.noteFar pa).cur.ctx = s.cur.ctx ∧ (s.noteFar pa).cur.slot = s.cur.slot := by
    unfold State.noteFar
    split <;> exact ⟨rfl, rfl⟩
  unfold State.notePoison
  dsimp only
  split
  · exact hf
  · split <;> exact hf

theorem readPieces_cur_ctx (l : List Piece) : (s.readPieces l).2.cur.ctx = s.cur.ctx := by
  unfold State.readPieces
  exact foldl_keeps (fun a : Nat × State => a.2.cur.ctx = s.cur.ctx) _ _
    (fun a p h => ((notePoison_cur (a.2.readPiece p).2 ..).1.trans (congrArg Cur.ctx (serves_readPiece a.2 p).cur)).trans h) _ rfl

theorem serves_servedAt (level : Piece → Nat) (l : List Piece) : Serves s (servedAt s level l) :=
  serves_foldl s _ _ fun t _ => serves_dramTake t ..

end

end Sys2Proof.Claims

/-!
PROOFS. A step takes a bundle: fetch, the slots in order, issue or trap, and the end of the cycle (O4).
-/
namespace Sys2Proof.Claims

open Sys2Proof.Machine

/-! ### Fetch -/

/-- Slot word `n` of the 16 bytes at an offset of a line. -/
theorem lineBytes_word (l : VWord) (o n : Nat) (hn : n < 4) :
    lineBytes l o 16 / 2 ^ (32 * n) % 2 ^ 32 = (l >>> (8 * o + 32 * n)).toNat % 2 ^ 32 := by
  apply Nat.eq_of_testBit_eq
  intro k
  rw [lineBytes, BitVec.toNat_ushiftRight]
  simp only [Nat.testBit_mod_two_pow, Nat.testBit_div_two_pow, Nat.testBit_shiftRight]
  by_cases hk : k < 32
  · simp only [hk, decide_true, Bool.true_and, decide_eq_true (show k + 32 * n < 8 * 16 by omega)]
    congr 1
    omega
  · simp only [hk, decide_false, Bool.false_and]

theorem bundleWords_lineBytes (l : VWord) (o : Nat) :
    bundleWords (lineBytes l o 16) = (upTo 4).map fun n => (l >>> (8 * o + 32 * n)).toNat % 2 ^ 32 := by
  have h (n : Nat) (hn : n < 4) := lineBytes_word l o n hn
  have h0 := h 0 (by decide)
  rw [Nat.mul_zero, pow_zero, Nat.div_one] at h0
  simp only [upTo, List.range, List.range.loop, List.map_cons, List.map_nil, ← h0, ← h 1 (by decide), ← h 2 (by decide),
    ← h 3 (by decide)]
  rfl

/-- In user mode below CODE_LIMIT a bundle whose line is in the instruction cache is its 16 bytes. -/
theorem fetch_words (s : State) (x pa leaf : Nat) (l : VWord) (hp : (s.ctxAt x).priv = false)
    (hc : (s.ctxAt x).pc.toNat < (s.ctxAt x).csr.codeLimit.toNat)
    (ht : s.translate x (s.versionRewrite x (s.ctxAt x).pc.toNat) (s.ctxAt x).pc.toNat { kind := .fetch } false = .ok pa leaf)
    (hl : Store.get none (s.core (coreOf x)).icache (pa / 128) = some l) :
    s.fetch x = .words (bundleWords (lineBytes l (pa % 128) 16)) := by
  unfold State.fetch
  simp only [hp, decide_eq_false (Nat.not_le_of_lt hc), ht, hl, Bool.and_false, Bool.false_eq_true, if_false]

/-- What is fetched is a whole bundle. -/
theorem fetch_words_length {s : State} {x : Nat} {ws : List Nat} (h : s.fetch x = .words ws) : ws.length = 4 := by
  unfold State.fetch at h
  dsimp only at h
  split at h
  · cases h
  · split at h
    · cases h
    · cases h
    · split at h
      · cases h; rfl
      · cases h

/-! ### The slots -/

theorem runSlot_eq {s : State} {n w : Nat} {i : Instr} (h : RunsIn s n w i) :
    runSlot s n w = exec ((atSlot s n w).refine i) (atSlot s n w) := by
  obtain ⟨hskip, hdec, hcommits, hparity⟩ := h
  have hfind : (s.ctx.flow.parity.find? fun r => (readsOf ((atSlot s n w).refine i)).contains r) = none :=
    List.find?_eq_none.mpr fun r hr => by rw [hparity r hr]; exact Bool.false_ne_true
  have hchecked : execChecked ((atSlot s n w).refine i) (atSlot s n w) = exec ((atSlot s n w).refine i) (atSlot s n w) := by
    unfold execChecked
    rw [show (atSlot s n w).ctx = s.ctx from rfl, hfind]
  rw [← hchecked]
  show (if s.ctx.flow.skip.getLsbD n then _ else _) = _
  rw [hskip, if_neg Bool.false_ne_true, hdec]
  exact if_pos hcommits

/-- Slots that run without a trap are tried one after the other, and then the rest. -/
theorem runSlots_append {s t : State} {n : Nat} {done : List Nat} (h : SlotsRun s n done t) (ws : List Nat) :
    runSlots s n (done ++ ws) = runSlots t (n + done.length) ws := by
  induction done generalizing s n with
  | nil => rw [show t = s from h]; rfl
  | cons w done ih =>
    obtain ⟨i, u, hr, he, htrap, hrest⟩ := h
    rw [List.cons_append, runSlots, runSlot_eq hr, he]
    simp only [htrap, Option.isSome_none, Bool.false_eq_true, if_false]
    rw [ih hrest, List.length_cons, Nat.add_assoc, Nat.add_comm 1]

theorem runSlots_eq {s t : State} {n : Nat} {ws : List Nat} (h : SlotsRun s n ws t) : runSlots s n ws = .next t := by
  have := runSlots_append h []
  rwa [List.append_nil] at this

/-- Slots that run leave no trap behind. -/
theorem slotsRun_trap {s t : State} {n : Nat} {ws : List Nat} (hs : ws ≠ [] ∨ s.cur.trap = none) (h : SlotsRun s n ws t) :
    t.cur.trap = none := by
  induction ws generalizing s n with
  | nil => rw [show t = s from h]; exact hs.resolve_left (· rfl)
  | cons w ws ih =>
    obtain ⟨i, u, _, _, htrap, hrest⟩ := h
    exact ih (.inr htrap) hrest

/-- The slot that traps ends the trial, where no lower slot waits. -/
theorem runSlots_trap {t u : State} {n w : Nat} {i : Instr} {r : TrapRec} (ws : List Nat) (hr : RunsIn t n w i)
    (hw : t.cur.waiting = false) (he : exec ((atSlot t n w).refine i) (atSlot t n w) = .next u) (htrap : u.cur.trap = some r) :
    runSlots t n (w :: ws) = .next u := by
  rw [runSlots, runSlot_eq hr, he]
  simp only [htrap, hw, Option.isSome_some, if_true, Bool.false_eq_true, if_false]

/-! ### What trying the bundle comes to -/

theorem trialOf_ready (c : Ctx) (ws : List Nat) {t : State} (ht : t.cur.trap = none) (hh : t.cur.held = false) :
    trialOf c ws (.next t) = .ready t := by
  unfold trialOf
  simp only [ht, hh, Bool.false_eq_true, if_false]

theorem trialOf_trapped (c : Ctx) (ws : List Nat) {t : State} {r : TrapRec} (ht : t.cur.trap = some r) :
    trialOf c ws (.next t) = .trapped r := by
  unfold trialOf
  simp only [ht]

/-- A bundle that passes no flag with a signature is ready as its slots leave the state. -/
theorem trySlots_ready {s t : State} {x : Nat} {ws : List Nat} (h : SlotsRun (Claims.trying s x) 0 ws t)
    (hh : t.cur.held = false) (hg : (s.ctxAt x).flagSigs t.cur.passed = 0) : s.trySlots x ws = .ready t := by
  unfold State.trySlots
  dsimp only
  rw [show runSlots (s.trying x) 0 ws = .next t from runSlots_eq h, trialOf_ready _ _ (slotsRun_trap (.inr rfl) h) hh]
  exact if_pos hg

/-- Where it passes flags that carry a signature, the slots are tried again after the acquire. -/
theorem trySlots_acquired {s t u : State} {x : Nat} {ws : List Nat} {g : Sig} (h : SlotsRun (Claims.trying s x) 0 ws t)
    (hh : t.cur.held = false) (hg : (s.ctxAt x).flagSigs t.cur.passed = g) (h0 : g ≠ 0)
    (hu : SlotsRun (acquired s x g) 0 ws u) (hd : u.cur.held = false) (hw : ws ≠ []) :
    s.trySlots x ws = .ready u := by
  unfold State.trySlots
  dsimp only
  rw [show runSlots (s.trying x) 0 ws = .next t from runSlots_eq h, trialOf_ready _ _ (slotsRun_trap (.inr rfl) h) hh]
  subst hg
  refine (if_neg h0).trans ?_
  exact (congrArg (trialOf _ ws) (runSlots_eq hu)).trans (trialOf_ready _ _ (slotsRun_trap (.inl hw) hu) hd)

theorem trySlots_trapped {s t u : State} {x w : Nat} {i : Instr} {r : TrapRec} {done : List Nat} (ws : List Nat)
    (h : SlotsRun (Claims.trying s x) 0 done t) (hr : RunsIn t done.length w i) (hw : t.cur.waiting = false)
    (he : exec ((atSlot t done.length w).refine i) (atSlot t done.length w) = .next u) (htrap : u.cur.trap = some r) :
    s.trySlots x (done ++ w :: ws) = .trapped r := by
  have hrun : runSlots (s.trying x) 0 (done ++ w :: ws) = .next u := by
    refine (runSlots_append h (w :: ws)).trans ?_
    rw [Nat.zero_add]
    exact runSlots_trap ws hr hw he htrap
  unfold State.trySlots
  dsimp only
  rw [hrun, trialOf_trapped _ _ htrap]

/-! ### The core's turn -/

theorem ctxsOf_nodup (core : Nat) : (ctxsOf core).Nodup :=
  List.nodup_range.map fun _ _ h => Nat.add_left_cancel h

/-- A fold whose steps all leave the state as it is. -/
theorem foldl_stays {α β : Type} {f : α → β → α} {a : α} {l : List β} (h : ∀ b ∈ l, f a b = a) : l.foldl f a = a := by
  induction l with
  | nil => rfl
  | cons b l ih =>
    rw [List.foldl_cons, h b (.head _)]
    exact ih fun b hb => h b (.tail _ hb)


section
variable {s : State} {core x : Nat} {ws : List Nat} (h : OneBundle s core x ws)
include h

theorem OneBundle.mem_ctxsOf : x ∈ ctxsOf core :=
  List.mem_map.mpr ⟨(s.core core).running, List.mem_range.mpr h.small, h.slot.symm⟩

theorem OneBundle.trial_eq : s.trial x = s.trySlots x ws := by
  have hl : ((s.ctxAt x).flow.landings.any fun l => decide (l.due ≤ s.now)) = false :=
    List.any_eq_false.mpr fun l hl => by rw [decide_eq_true_eq]; exact Nat.not_le_of_lt (h.landed l hl)
  unfold State.trial
  rw [if_neg (by rintro (hp | hp); exacts [hp h.active, Nat.not_lt_of_le h.inTime.1 hp])]
  simp only [h.clean, h.fetched, h.legal, hl, Bool.false_eq_true, if_false]

theorem OneBundle.trial_other {y : Nat} (hy : y ∈ ctxsOf core) (hne : y ≠ x) : s.trial y = .none :=
  if_pos (.inl ((h.others y hy).2 hne))

theorem OneBundle.endPrologues_eq : s.endPrologues core = s :=
  foldl_stays fun y hy => if_neg fun hp => (h.others y hy).1 hp.1

/-- Of the core's trials only that of the one bundle can be ready. -/
theorem OneBundle.ready_eq (hx : (s.trial x).isReady = true) :
    ((s.trials core).filter (·.2.isReady)).map (·.1) = [x] := by
  have hp : ∀ y ∈ ctxsOf core, (s.trial y).isReady = (y == x) := fun y hy => by
    by_cases hne : y = x
    · rw [hne, hx, beq_self_eq_true]
    · rw [h.trial_other hy hne, beq_false_of_ne hne]; rfl
  rw [State.trials, List.filter_map, List.map_map]
  refine (List.map_id _).trans ?_
  refine (List.filter_congr hp).trans ?_
  rw [List.filter_beq, List.count_eq_one_of_mem (ctxsOf_nodup core) h.mem_ctxsOf]
  rfl

/-- No context of the core takes an asynchronous cause. -/
theorem OneBundle.asyncTakers_eq : s.asyncTakers (s.trials core) = [] := by
  refine List.map_eq_nil_iff.mpr (List.filter_eq_nil_iff.mpr fun t ht => ?_)
  obtain ⟨y, hy, rfl⟩ := List.mem_map.mp ht
  dsimp only
  by_cases hne : y = x
  · rw [hne, h.quiet]; exact Bool.false_ne_true
  · rw [beq_false_of_ne ((h.others y hy).2 hne)]
    simp only [Bool.and_false, Bool.false_and, Bool.false_eq_true, not_false_eq_true]

theorem OneBundle.keepsSlot_eq : s.keepsSlot core [x] = true := by
  unfold State.keepsSlot State.topLevel
  simp only [← h.slot, h.granted.1, h.granted.2, List.contains_cons, beq_self_eq_true, Bool.true_or, Bool.not_false,
    Bool.and_true, List.foldl_cons, List.foldl_nil, Nat.zero_max, decide_true]

theorem OneBundle.find_trial : (s.trials core).find? (fun t => t.1 == x) = some (x, s.trial x) := by
  have hf : (ctxsOf core).find? (· == x) = some x := by
    cases hf : (ctxsOf core).find? (· == x) with
    | none => exact absurd (beq_self_eq_true x) (List.find?_eq_none.mp hf x h.mem_ctxsOf)
    | some y =>
      have hy : (y == x) = true := List.find?_some (p := (· == x)) hf
      rw [beq_iff_eq.mp hy]
  rw [State.trials, List.find?_map]
  exact congrArg (Option.map _) hf

theorem OneBundle.choose_ready {t : State} (ht : s.trial x = .ready t) :
    s.choose core (s.trials core) = .next (t.issue x) := by
  unfold State.choose
  dsimp only
  rw [h.ready_eq (by rw [ht]; rfl), if_pos h.keepsSlot_eq, ← h.slot, h.find_trial, ht]

theorem OneBundle.choose_trapped {r : TrapRec} (ht : s.trial x = .trapped r) :
    s.choose core (s.trials core) = .next (s.trapBundle x r) := by
  unfold State.choose
  dsimp only
  rw [h.ready_eq (by rw [ht]; rfl), if_pos h.keepsSlot_eq, ← h.slot, h.find_trial, ht]

/-- The turn of the core is what the issue slot is chosen for, where nothing is left to note. -/
theorem OneBundle.turn_eq {v : State} (hc : s.choose core (s.trials core) = .next v)
    (hn : v.noteAll core (s.trials core) = v) : s.turn core = .next (v.endCycle s core) := by
  unfold State.turn
  dsimp only
  rw [h.endPrologues_eq, h.asyncTakers_eq, takeAsyncs]
  dsimp only
  rw [if_neg (by rintro (hg | hg); exacts [Nat.not_lt_of_le h.inTime.2 hg, absurd hg.2 (by simp)])]
  simp only [List.isEmpty_nil, if_true, hc, hn]

end

/-! ### A bundle that is through waits for nothing -/

/-- No access of context `x`'s bundle queues at DRAM, and it is none that lets its core be gated. -/
def Through (s : State) (x : Nat) : Prop :=
  (s.ctxAt x).flow.quiet = false ∧ ∀ w ∈ s.dramQueue, w.who ≠ .ctx x

theorem Through.dramLeave_eq {s : State} {x : Nat} (h : Through s x) : s.dramLeave (.ctx x) = s := by
  unfold State.dramLeave
  split
  · rfl
  · rw [List.filter_eq_self.mpr fun w hw => by simpa using h.2 w hw]

theorem Through.awaken_eq {s : State} {x : Nat} (h : Through s x) : s.awaken x = s := by
  unfold State.awaken
  rw [h.1, if_neg Bool.false_ne_true]

/-- Nothing is left to note of a bundle that is through. -/
theorem OneBundle.noteAll_eq {s v : State} {core x : Nat} {ws : List Nat} (h : OneBundle s core x ws) (hv : Through v x)
    (ht : (∃ t, s.trial x = .ready t) ∨ ∃ r, s.trial x = .trapped r) : v.noteAll core (s.trials core) = v := by
  refine foldl_stays fun t hm => ?_
  obtain ⟨y, hy, rfl⟩ := List.mem_map.mp hm
  dsimp only
  by_cases hne : y = x
  · subst hne
    obtain ⟨t, ht⟩ | ⟨r, ht⟩ := ht
    all_goals simp only [ht, hv.dramLeave_eq, hv.awaken_eq]
  · simp only [h.trial_other hy hne]

/-! ### What keeps a bundle through -/

section
variable {s : State} {x : Nat}

/-- A state that differs in neither the contexts nor the queue. -/
theorem Through.of_eq (h : Through s x) {t : State} (hc : t.ctxs = s.ctxs) (hq : t.dramQueue = s.dramQueue) : Through t x := by
  unfold Through State.ctxAt at *
  rwa [hc, hq]

theorem Through.modCtxAt (h : Through s x) (y : Nat) {f : Ctx → Ctx}
    (hf : (f (s.ctxAt y)).flow.quiet = false ∨ (f (s.ctxAt y)).flow.quiet = (s.ctxAt y).flow.quiet) :
    Through (s.modCtxAt y f) x := by
  refine ⟨?_, h.2⟩
  rw [State.ctxAt_modCtxAt]
  split
  · next hy => subst hy; exact hf.elim id (·.trans h.1)
  · exact h.1

theorem Through.modCore (h : Through s x) (i : Nat) (f : CoreSt → CoreSt) : Through (s.modCore i f) x := h.of_eq rfl rfl

/-- Dropping the waits of a bundle leaves it through. -/
theorem through_dropWaits (s : State) (x : Nat) : Through (s.dropWaits x) x := by
  refine ⟨?_, fun w hw => ?_⟩
  · rw [State.dropWaits, State.ctxAt_modCtxAt, if_pos rfl]
  · rw [State.dropWaits, State.modCtxAt_dramQueue] at hw
    unfold State.dramLeave at hw
    split at hw
    · next he => rw [List.isEmpty_iff.mp he] at hw; cases hw
    · simpa using (List.mem_filter.mp hw).2

/-- What is done for an access leaves a bundle that is through as it is. -/
theorem Serves.through {t : State} (ht : Serves s t) (h : Through s x) : Through t x :=
  ⟨(ht.quiet x).elim id (·.trans h.1), fun w hw => (ht.queue w hw).elim (h.2 w) (· x)⟩

end

/-! ### Issue and the trap entry leave the bundle through -/

theorem through_issue (s : State) (x : Nat) : Through (s.issue x) x := by
  have hd := through_dropWaits (s.modCtxAt x fun c => c.issued s.now s.cur) x
  unfold State.issue
  dsimp only
  split
  · exact hd.of_eq rfl rfl
  · exact ((hd.modCore ..).modCtxAt x (.inr rfl)).modCore ..

theorem through_trapBundle (s : State) (x : Nat) (t : TrapRec) : Through (s.trapBundle x t) x := by
  have hd : Through (s.abandon x) x := through_dropWaits _ x
  unfold State.trapBundle
  dsimp only
  split
  · exact (serves_errorLog ..).through (hd.modCtxAt x (.inr rfl))
  · refine (hd.modCtxAt x (.inr ?_)).modCore ..
    unfold Ctx.reported
    split <;> rfl

/-! ### The step -/

theorem step_of_order {s : State} {core : Nat} {rest : List Nat} (h : s.order = core :: rest) :
    step s = stopOnBad ((turnOf s rest).turn core) := by
  unfold step State.act
  rw [h]
  rfl

/-- The step of a bundle that is ready. -/
theorem step_ready {s t : State} {core x : Nat} {rest ws : List Nat} (h : OneBundle (turnOf s rest) core x ws)
    (ho : s.order = core :: rest) (ht : (turnOf s rest).trySlots x ws = .ready t) :
    step s = stopOnBad (.next ((t.issue x).endCycle (turnOf s rest) core)) := by
  have htr := h.trial_eq.trans ht
  rw [step_of_order ho, h.turn_eq (h.choose_ready htr) (h.noteAll_eq (through_issue t x) (.inl ⟨t, htr⟩))]

/-- The step of a bundle that traps. -/
theorem step_trapped {s : State} {core x : Nat} {rest ws : List Nat} {r : TrapRec} (h : OneBundle (turnOf s rest) core x ws)
    (ho : s.order = core :: rest) (ht : (turnOf s rest).trySlots x ws = .trapped r) :
    step s = stopOnBad (.next (((turnOf s rest).trapBundle x r).endCycle (turnOf s rest) core)) := by
  have htr := h.trial_eq.trans ht
  rw [step_of_order ho, h.turn_eq (h.choose_trapped htr) (h.noteAll_eq (through_trapBundle _ x r) (.inr ⟨r, htr⟩))]

/-- Settles O4: the slots' own meanings are what the trial comes to, the one bundle of the core is what the turn chooses, and after
it nothing is left to note. -/
theorem stepTakesABundle : Obligations.StepTakesABundle := by
  refine ⟨⟨fun s x pa leaf l hp hc ht hl => ?_, fun s t core x rest ws h ho hr hh hg => ?_,
    fun s t u core x rest ws g h ho hr hh hg h0 hu hd => ?_⟩,
    fun s t u core x n rest done ws w i r h ho hr hn hi hw he htrap => ?_⟩
  · rw [fetch_words s x pa leaf l hp hc ht hl, bundleWords_lineBytes]
  · exact step_ready h ho (trySlots_ready hr hh hg)
  · have hne : ws ≠ [] := by
      rintro rfl
      exact absurd (fetch_words_length h.fetched) (by decide)
    exact step_ready h ho (trySlots_acquired hr hh hg h0 hu hd hne)
  · subst hn
    exact step_trapped h ho (trySlots_trapped ws hr hi hw he htrap)

end Sys2Proof.Claims

/-!
PROOFS. Vector compares and the mask operations (O20).
-/
namespace Sys2Proof.Claims

open Sys2Proof.Machine

/-! ### Elements as lanes -/

theorem position_eq (w n : Nat) : position w n = w * n / 32 := by
  unfold position
  split
  · next h => subst h; omega
  · rw [Nat.mul_comm]

theorem elems_eq_map_lane (w : Nat) (x : VWord) : elems w x = (List.range (1024 / w)).map (lane w x) := by
  refine List.ext_getElem (by rw [elems, length_elemsOf, List.length_map, List.length_range]) fun n h _ => ?_
  have hn : n < 1024 / w := by rwa [elems, length_elemsOf] at h
  rw [List.getElem_map, List.getElem_range, ← List.getD_eq_getElem _ 0 h]
  exact getD_elemsOf w _ _ n hn

/-- Numbering the elements that a function lists. -/
theorem indexed_map_range {α : Type} (f : Nat → α) (n : Nat) :
    indexed ((List.range n).map f) = (List.range n).map fun i => (i, f i) := by
  unfold indexed upTo
  rw [List.length_map, List.length_range]
  conv_lhs => rw [← List.map_id (List.range n), List.map_map, List.zip_map']
  rfl

theorem getD_map_range {α : Type} (f : Nat → α) (d : α) {n i : Nat} (h : i < n) :
    ((List.range n).map f).getD i d = f i := by
  rw [List.getD_eq_getElem _ _ (by rw [List.length_map, List.length_range]; exact h), List.getElem_map, List.getElem_range]

/-! ### Masks bit by bit -/

theorem getLsbD_maskOf (f : Nat → Bool) {j : Nat} (h : j < 32) : (maskOf f).getLsbD j = f j := by
  have hb := joinNat_div_mod 1 ((List.range 32).map fun j => if f j then 1 else 0) j
  unfold maskOf upTo
  rw [BitVec.getLsbD_ofNat, decide_eq_true h, Bool.true_and, Nat.testBit_eq_decide_div_mod_eq]
  rw [Nat.one_mul, pow_one] at hb
  rw [hb, getD_map_range _ _ h]
  cases f j <;> rfl

/-- A position holds `q` elements of width `32 / q`. -/
theorem compareBit_narrow {w q : Nat} (hq : w * q = 32) (m : Mask) (r : Nat → Bool) {j : Nat} (hj : j < 32) :
    compareBit w m ((List.range (1024 / w)).map r) j = true ↔
      on m w (32 * j / w) = true ∧ ∀ n < 1024 / w, n = 32 * j / w ∨ w * n / 32 = j → r n = true := by
  have hw : 0 < w := Nat.pos_of_ne_zero (by rintro rfl; omega)
  have hq0 : 0 < q := Nat.pos_of_ne_zero (by rintro rfl; omega)
  have h64 : w ≠ 64 := by rintro rfl; omega
  have hdiv : 32 / w = q := by rw [← hq, Nat.mul_div_cancel_left _ hw]
  have hcount : 1024 / w = 32 * q := by rw [show 1024 = w * (32 * q) by rw [Nat.mul_left_comm, hq], Nat.mul_div_cancel_left _ hw]
  have hfirst : 32 * j / w = q * j := by rw [← hq, Nat.mul_assoc, Nat.mul_div_cancel_left _ hw]
  have hpos (n : Nat) : w * n / 32 = n / q := by rw [← hq, Nat.mul_div_mul_left _ _ hw]
  have hin (i : Nat) (hi : i < q) : j * q + i < 32 * q := by
    calc j * q + i < (j + 1) * q := by rw [Nat.succ_mul]; omega
      _ ≤ 32 * q := Nat.mul_le_mul_right q hj
  simp only [compareBit, if_neg h64, on, hfirst, hpos, hdiv, hcount, Nat.mul_div_cancel_left j hq0, Bool.and_eq_true,
    List.all_eq_true, upTo, List.mem_range]
  refine and_congr_right fun _ => ⟨fun h n _ hj' => ?_, fun h i hi => ?_⟩
  · have hnj : n / q = j := hj'.elim (fun e => by rw [e, Nat.mul_div_cancel_left j hq0]) id
    have hn := Nat.div_add_mod' n q
    rw [hnj] at hn
    have := h (n % q) (Nat.mod_lt n hq0)
    rwa [getD_map_range _ _ (hin _ (Nat.mod_lt n hq0)), hn] at this
  · rw [getD_map_range _ _ (hin i hi)]
    refine h _ (hin i hi) (.inr ?_)
    rw [Nat.mul_comm, Nat.mul_add_div hq0, Nat.div_eq_of_lt hi, Nat.add_zero]

/-- Both positions of a 64-bit element. -/
theorem compareBit_wide (m : Mask) (r : Nat → Bool) {j : Nat} (hj : j < 32) :
    compareBit 64 m ((List.range (1024 / 64)).map r) j = true ↔
      on m 64 (32 * j / 64) = true ∧ ∀ n < 1024 / 64, n = 32 * j / 64 ∨ 64 * n / 32 = j → r n = true := by
  have hn : 32 * j / 64 = j / 2 := by omega
  have hp : 64 * (j / 2) / 32 = j / 2 * 2 := by omega
  rw [compareBit, if_pos rfl, on, hn, hp, getD_map_range _ _ (by omega), Bool.and_eq_true]
  refine and_congr_right fun _ => ⟨fun h n _ hj' => ?_, fun h => h _ (by omega) (.inl rfl)⟩
  rwa [show n = j / 2 by omega]

/-- The elements in position `j`, as the model and R127 count them. -/
theorem compareBit_iff {t : Nat} (ht : t ≤ 11) (m : Mask) (r : Nat → Bool) {j : Nat} (hj : j < 32) :
    compareBit (typeWidth t) m ((List.range (1024 / typeWidth t)).map r) j = true ↔
      on m (typeWidth t) (32 * j / typeWidth t) = true ∧
        ∀ n < 1024 / typeWidth t, n = 32 * j / typeWidth t ∨ typeWidth t * n / 32 = j → r n = true := by
  have hw : typeWidth t = 64 ∨ typeWidth t * (32 / typeWidth t) = 32 := by revert t; decide
  obtain hw | hw := hw
  · rw [hw]; exact compareBit_wide m r hj
  · exact compareBit_narrow hw m r hj

/-! ### Conditions -/

/-- Two values are unordered where one is a NaN. -/
theorem cmp_eq_none_iff (a b : Val) : (a.cmp b == none) = (a.isNan || b.isNan) := by
  cases a <;> cases b <;> rfl

theorem floatCond_eq_floatCondition (c : Nat) (a b : Val) :
    floatCond c a b = ((floatCondition c a b).1, if (floatCondition c a b).2 then [.invalid] else []) := by
  unfold floatCond floatCondition
  dsimp only
  split <;> simp only [cmp_eq_none_iff, bne]

/-- The condition of one pair of elements. -/
theorem compareElem_eq_condition {t : Nat} (c : Nat) (x y : VWord) (n : Nat) :
    compareElem t c (lane (typeWidth t) x n) (lane (typeWidth t) y n) =
      condition t c (lane (typeWidth t) x n) (lane (typeWidth t) y n) := by
  unfold compareElem condition
  rw [intCond_eq_intCondition c (lane_lt _ x n) (lane_lt _ y n), floatCond_eq_floatCondition]

/-! ### The compare -/

/-- The outcomes of a compare, element by element. -/
theorem compareElems_eq (t c : Nat) (x y : VWord) :
    ((elems (typeWidth t) x).zip (elems (typeWidth t) y)).map (fun p => compareElem t c p.1 p.2) =
      (List.range (1024 / typeWidth t)).map fun n => condition t c (lane (typeWidth t) x n) (lane (typeWidth t) y n) := by
  rw [elems_eq_map_lane, elems_eq_map_lane, List.zip_map', List.map_map]
  exact List.map_congr_left fun n _ => compareElem_eq_condition c x y n

/-- The events of enabled elements, as the model lists them. -/
theorem laneEvents_enabled (m : Mask) (w : Nat) (r : Nat → Bool × List EvKind) :
    laneEvents w ((indexed ((List.range (1024 / w)).map r)).map fun p => (0, if enabled m w p.1 then p.2.2 else [])) =
      elemEvents m w fun n => (0, (r n).2) := by
  rw [indexed_map_range, List.map_map]
  unfold laneEvents elemEvents
  rw [indexed_map_range]
  rw [List.flatMap_map]
  refine List.flatMap_congr fun n _ => ?_
  dsimp only [Function.comp]
  rw [enabled_eq_on, position_eq]
  split <;> rfl

theorem exec_vcmp (s : State) (d k : BitVec 3) (c : BitVec 4) (a b ty : BitVec 5) (h : RoundingLegal s) :
    exec (.vcmp d c a b k ty) s = .next ((s.logEvs (elemEvents (s.rK k) (typeWidth ty.toNat) fun n =>
      (0, (condition ty.toNat c.toNat (lane (typeWidth ty.toNat) (s.rV a) n) (lane (typeWidth ty.toNat) (s.rV b) n)).2))).wK 2 d
      (maskOf (compareBit (typeWidth ty.toNat) (s.rK k) ((List.range (1024 / typeWidth ty.toNat)).map fun n =>
        (condition ty.toNat c.toNat (lane (typeWidth ty.toNat) (s.rV a) n) (lane (typeWidth ty.toNat) (s.rV b) n)).1)))) := by
  refine (withRoundingIgnored_go h _).trans ?_
  dsimp only
  rw [compareElems_eq, laneEvents_enabled, List.map_map]
  rfl

/-- Settles O20: the mask holds the compare's bits, each over the elements of its position; the mask operations are the words' own. -/
theorem vectorComparesAndMasks : Obligations.VectorComparesAndMasks := by
  refine ⟨?_, fun s d a b r h => ⟨noLent_go s _ h, noLent_go s _ h, noLent_go s _ h, noLent_go s _ h, noLent_go s _ h,
    noLent_go s _ h, noLent_go s _ h⟩⟩
  rintro s d k c a b ty _ _ h rfl ht _ rfl
  exact ⟨_, exec_vcmp s d k c a b ty h, fun j hj => by rw [getLsbD_maskOf _ hj, compareBit_iff ht _ _ hj]⟩

end Sys2Proof.Claims

/-!
PROOFS. Rings: `ring.put`, `ring.take`, `ring.ptr`, `ring.def` and its answer (O35).
-/
namespace Sys2Proof.Claims

open Sys2Proof.Machine

/-! ### Holding, asking, trapping -/

theorem holds_hold (s : State) : Holds s (.next s.hold) := ⟨_, rfl, rfl, rfl⟩

theorem holds_holdAcked (s : State) : Holds s (.next s.holdAcked) := by
  unfold State.holdAcked
  split
  · exact holds_hold s
  · exact ⟨_, rfl, rfl, rfl⟩

/-- A slot that has sent no request sends it and holds. -/
theorem asks_withReply (s : State) (e : Event) (late : Bool) (k : Nat → Out) (h : Unasked s)
    (he : (e.toSync && s.syncAhead) = false) : Asks s (withReply s e late k) e := by
  unfold Unasked at h
  unfold withReply
  simp only [h, he, Bool.false_eq_true, if_false]
  generalize (e.i == Instr.waitwPoll || e.c % 16 == opWaitw || e.c % 16 == opBarWait) = quiet
  cases quiet <;> cases late
  all_goals
    simp only [Bool.false_eq_true, if_false, if_true]
    exact ⟨_, rfl, rfl, rfl, by cases s; rfl⟩

theorem traps_ringFault (s : State) (sub idx k h : Nat) :
    Traps (ringFault s sub idx k h) 0x05 (ringFaultInfo sub idx k h) s.cur.slot := ⟨_, rfl, rfl⟩

theorem linesFree_of_noWaitAt {s : State} {level : Piece → Nat} {l : List Piece} (h : NoWaitAt s level l) : LinesFree s level l :=
  ⟨by cases hso : (l.any fun p => leafOrd p.leaf == 0)
      · rfl
      · rw [h.so hso]; rfl, h.leaving, h.copies, h.queues⟩

/-- An access that waits for nothing goes on with its segments served. -/
theorem withLines_noWait {s : State} {l : List Piece} (h : NoWait s l) (k : State → Out) : withLines s l k = k (served s l) :=
  withLinesAt_go s _ l k (linesFree_of_noWaitAt h)

/-! ### Handles (R235, R240) -/

theorem withHandle_bound {s : State} {h : BitVec 3} {idx side : Nat} {r : Ring} (hb : Bound s h idx r side) (k : Nat)
    (go : Nat → Ring → Nat → Out) : withHandle s h k go = go idx r side := by
  obtain ⟨hvalid, rfl, rfl, hring⟩ := hb
  have hbit : bit (s.ctx.r.getH h).toNat 31 = true := beq_iff_eq.mpr hvalid
  unfold withHandle
  simp only [hbit, hring, Bool.not_true, Bool.false_eq_true, if_false]
  rfl

theorem withHandle_unbound {s : State} {h : BitVec 3} (hb : (s.ctx.r.getH h).toNat / 2 ^ 31 % 2 = 0) (k : Nat)
    (go : Nat → Ring → Nat → Out) : withHandle s h k go = ringFault s 1 0 k h.toNat := by
  have hbit : bit (s.ctx.r.getH h).toNat 31 = false := by rw [bit, hb]; rfl
  unfold withHandle
  simp only [hbit, Bool.not_false, if_true]

/-- An open stage access goes on at the stage of the context's use. -/
theorem withStage_open {s : State} {h : BitVec 3} {idx side last : Nat} {r : Ring} {k : BitVec 4}
    (ho : StageOpen s h idx r side k.toNat last) (go : Ring → Nat → Out) :
    withStage s h k last go = go r (r.base + useOf s r side k.toNat % r.stages * 2 ^ r.stageLog2) := by
  obtain ⟨hb, hside, hk, hlast, hf⟩ := ho
  unfold withStage
  rw [withHandle_bound hb]
  rw [if_neg (by omega), if_neg (Nat.not_le_of_lt hk), if_neg (Nat.not_lt_of_le hlast)]
  rw [useOf] at hf
  simp only [hf, Bool.false_eq_true, if_false]
  rfl

/-! ### The cluster's table -/

theorem ring_setRing (s : State) (idx : Nat) (r : Ring) : ((s.setRing idx r).cluster (clusterOf s.coreId)).ring idx = some r := by
  unfold State.setRing
  rw [State.cluster_modCluster, if_pos rfl, Cluster.ring, Cluster.setRing, Store.get_set, if_pos rfl]

/-! ### `ring.put` and `ring.take` (R237 to R239, R242) -/

section
variable {s : State} {h : BitVec 3} {idx side : Nat} {r : Ring} (hl : s.lent = 0) (hb : Bound s h idx r side)
include hl hb

theorem ringPut_goes (hs : side = 1) (he : s.engineOwes true = false) (hw : s.owesWindow s.cur.ctx = false)
    (hr : Store.get 0 r.puts (meOf s.cur.ctx) + Store.get 0 r.newPuts (meOf s.cur.ctx) < r.drained + r.stages) :
    exec (.ringPut h) s = .next (s.setRing idx { r with
      newPuts := Store.set 0 r.newPuts (meOf s.cur.ctx) (Store.get 0 r.newPuts (meOf s.cur.ctx) + 1) }) := by
  refine (noLent_go s _ hl).trans ((withHandle_bound hb _ _).trans ?_)
  simp only [hs, he, hw, Ring.forbids, decide_eq_false (Nat.not_le_of_lt hr), ne_eq, not_true, Bool.false_eq_true, if_false, if_true]

theorem ringPut_holds (hs : side = 1) (hw : s.engineOwes true = true ∨ s.owesWindow s.cur.ctx = true ∨
      r.drained + r.stages ≤ Store.get 0 r.puts (meOf s.cur.ctx) + Store.get 0 r.newPuts (meOf s.cur.ctx)) :
    Holds s (exec (.ringPut h) s) := by
  rw [show exec (.ringPut h) s = _ from (noLent_go s _ hl).trans (withHandle_bound hb _ _)]
  dsimp only
  rw [if_neg (not_not.mpr hs)]
  split
  · exact holds_hold s
  · next he =>
    split
    · exact holds_holdAcked s
    · next ho =>
      have hf := (hw.resolve_left he).resolve_left ho
      rw [if_pos (show r.forbids 1 _ = true from decide_eq_true hf)]
      exact holds_hold s

theorem ringTake_goes (hs : side = 2) (he : s.engineOwes false = false)
    (hr : Store.get 0 r.takes (meOf s.cur.ctx) + Store.get 0 r.newTakes (meOf s.cur.ctx) < r.filled) :
    exec (.ringTake h) s = .next (s.setRing idx { r with
      newTakes := Store.set 0 r.newTakes (meOf s.cur.ctx) (Store.get 0 r.newTakes (meOf s.cur.ctx) + 1) }) := by
  refine (noLent_go s _ hl).trans ((withHandle_bound hb _ _).trans ?_)
  simp only [hs, he, Ring.forbids, decide_eq_false (Nat.not_le_of_lt hr), ne_eq, not_true, Bool.false_eq_true, if_false,
    OfNat.ofNat_ne_one]

theorem ringTake_holds (hs : side = 2) (hw : s.engineOwes false = true ∨
      r.filled ≤ Store.get 0 r.takes (meOf s.cur.ctx) + Store.get 0 r.newTakes (meOf s.cur.ctx)) :
    Holds s (exec (.ringTake h) s) := by
  rw [show exec (.ringTake h) s = _ from (noLent_go s _ hl).trans (withHandle_bound hb _ _)]
  dsimp only
  rw [if_neg (not_not.mpr hs)]
  split
  · exact holds_hold s
  · next he =>
    have hf : r.forbids 2 (Store.get 0 r.takes (meOf s.cur.ctx) + Store.get 0 r.newTakes (meOf s.cur.ctx)) = true :=
      decide_eq_true (hw.resolve_left he)
    rw [if_pos hf]
    exact holds_hold s

theorem ringPut_wrongSide (hs : side ≠ 1) : Traps (exec (.ringPut h) s) 0x05 (ringFaultInfo 2 idx 0 h.toNat) s.cur.slot := by
  rw [show exec (.ringPut h) s = _ from (noLent_go s _ hl).trans (withHandle_bound hb _ _)]
  dsimp only
  rw [if_pos hs]
  exact traps_ringFault ..

theorem ringTake_wrongSide (hs : side ≠ 2) : Traps (exec (.ringTake h) s) 0x05 (ringFaultInfo 2 idx 0 h.toNat) s.cur.slot := by
  rw [show exec (.ringTake h) s = _ from (noLent_go s _ hl).trans (withHandle_bound hb _ _)]
  dsimp only
  rw [if_pos hs]
  exact traps_ringFault ..

/-! ### `ring.ptr` (R243) -/

/-- The word that `ring.ptr` reads for selector `e` of a bound handle (R243). -/
def ptrWord (s : State) (e idx : Nat) (r : Ring) (side : Nat) : Word :=
  match e with
  | 0 => BitVec.ofNat 64 (r.filled % 2 ^ 32)
  | 1 => BitVec.ofNat 64 (r.drained % 2 ^ 32)
  | 2 => BitVec.ofNat 64 (r.own side (meOf s.cur.ctx) % 2 ^ 32)
  | 4 => BitVec.ofNat 64 (Store.get 0 r.done r.filled * 2 ^ 32 + r.taken % 2 ^ 32)
  | _ => r.conf idx

omit hb in
/-- The selectors that neither give the handle itself nor a stage. -/
theorem exec_ringPtr_count (d : BitVec 6) {e : BitVec 4} (h3 : e ≠ 3) (h8 : ¬ 8 ≤ e.toNat) :
    exec (.ringPtr d h e) s = withHandle s h 0 fun idx r side => .next (s.wS 2 d (ptrWord s e.toNat idx r side)) := by
  refine (noLent_go s _ hl).trans ?_
  rw [if_neg h3, if_neg h8]
  rfl

omit hb in
/-- The stage of the use at offset `k`. -/
theorem ringPtr_stage (d : BitVec 6) {k : Nat} (hk : k < 8) (ho : StageOpen s h idx r side k 0) :
    exec (.ringPtr d h (BitVec.ofNat 4 (8 + k))) s =
      .next (s.wS 2 d (BitVec.ofNat 64 (r.base + useOf s r side k % r.stages * 2 ^ r.stageLog2))) := by
  have he : (BitVec.ofNat 4 (8 + k)).toNat = 8 + k := by rw [BitVec.toNat_ofNat, Nat.mod_eq_of_lt (by omega)]
  have h3 : BitVec.ofNat 4 (8 + k) ≠ 3 := fun e => by
    have := congrArg BitVec.toNat e
    rw [he] at this
    exact absurd this (by simp; omega)
  have hk' : (BitVec.ofNat 4 (8 + k) - 8).toNat = k := by
    rw [BitVec.toNat_sub, he]; simp; omega
  refine (noLent_go s _ hl).trans ?_
  rw [if_neg h3, if_pos (by rw [he]; omega), withStage_open (k := BitVec.ofNat 4 (8 + k) - 8) (hk'.symm ▸ ho), hk']

end

/-! ### `ring.def` (R241) -/

/-- The request that a `ring.def` makes of the cluster's table is none of a sync engine's. -/
theorem asks_ringDef (s : State) (g : BitVec 3) (key : Word) (k : Nat → Out) (h : Unasked s) :
    Asks s (withReply s (request opRingDef g.toNat key 0) false k) (request 7 g.toNat key 0) := by
  refine asks_withReply s _ _ k h ?_
  have : (request opRingDef g.toNat key 0).toSync = false := by
    simp [Event.toSync, request, opRingDef, opWaitw, Nat.add_mul_mod_self_left]
  rw [this, Bool.false_and]

section
variable {s : State} {a : BitVec 6} {g : BitVec 3} (hl : s.lent = 0)
include hl

theorem ringDef_badKey (hk : (s.rS a).toNat % 16 ≠ 0) :
    Traps (exec (.ringDef a g) s) 0x05 (ringFaultInfo 6 0 0 g.toNat) s.cur.slot := by
  rw [show exec (.ringDef a g) s = _ from noLent_go s _ hl]
  dsimp only
  rw [if_pos hk]
  exact traps_ringFault ..

variable (hk : (s.rS a).toNat % 16 = 0)
include hk

/-- A key of the cluster's table: the handle is bound to its ring once the table has answered. -/
theorem ringDef_found {j : Nat} {q : Ring}
    (hf : (s.cluster (clusterOf s.coreId)).findRing s.ctx.launch (s.rS a) = some (j, q)) :
    exec (.ringDef a g) s = withReply s (request opRingDef g.toNat (s.rS a) 0) false fun _ => .next (s.bindRing g j q) := by
  refine (noLent_go s _ hl).trans ?_
  dsimp only
  rw [if_neg (not_not.mpr hk), hf]

/-- What a new key comes to once its descriptor has been read into state `w`. -/
def enterRing (s w : State) (g : BitVec 3) (key : Word) (v : Nat) : Out :=
  if !ringValid v then ringFault s 6 0 0 g.toNat
  else if (w.cluster (clusterOf s.coreId)).ringRoom = 0 then ringFault s 5 0 0 g.toNat
  else match (w.cluster (clusterOf s.coreId)).freeRing with
    | none => ringFault s 5 0 0 g.toNat
    | some idx => .next ((w.modCluster (clusterOf s.coreId) fun c =>
        c.setRing idx (some { ringOf v with launch := s.ctx.launch, key := key })).bindRing g idx
          { ringOf v with launch := s.ctx.launch, key := key })

/-- A key that the table does not hold: its descriptor is read. -/
theorem ringDef_new {l : List Piece}
    (hf : (s.cluster (clusterOf s.coreId)).findRing s.ctx.launch (s.rS a) = none)
    (hx : s.xlate (s.rS a).toNat 80 { kind := .load } = .ok l) :
    exec (.ringDef a g) s = withReply s (request opRingDef g.toNat (s.rS a) 0) false fun _ =>
      withLines s l fun t => enterRing s (t.readPieces l).2 g (s.rS a) (t.readPieces l).1 := by
  refine (noLent_go s _ hl).trans ?_
  dsimp only
  rw [if_neg (not_not.mpr hk), hf, hx]
  rfl

/-- The answered `ring.def` of a new key. -/
theorem ringDef_enters {l : List Piece} {x v : Nat} {w : State}
    (hf : (s.cluster (clusterOf s.coreId)).findRing s.ctx.launch (s.rS a) = none)
    (hx : s.xlate (s.rS a).toNat 80 { kind := .load } = .ok l) (ha : Answered s x) (hn : NoWait s l)
    (hr : (v, w) = (served s l).readPieces l) :
    exec (.ringDef a g) s = enterRing s w g (s.rS a) v := by
  rw [ringDef_new hl hk hf hx, withReply_replied _ _ _ _ x ha, withLines_noWait hn, ← hr]

end

theorem engineReply_ringDef (s : State) (n : Nat) (ha : s.awaited s.arg = true) (hc : s.arg.c = 7 + 16 * n) :
    exec .engineReply s = .next (s.reply s.arg.a s.arg.b s.arg.d 0) := by
  have hop : s.arg.c % 16 = 7 := by omega
  have hack : s.arg.c ≠ opAck := by unfold opAck; omega
  have hserve : s.serve s.arg = (some 0, s) := by
    unfold State.serve
    simp only [hop, opBarWait, opWaitw, opReserve, opRoundPin, opRoundWait, opUnit, Nat.reduceLeDiff, Nat.reduceEqDiff, if_false]
  show execEngineReply s = _
  unfold execEngineReply
  simp only [if_neg hack, ha, hserve, Bool.not_true, Bool.false_eq_true, if_false]

/-- A ring that is entered is bound through the handle it was named by. -/
theorem enterRing_valid {s w : State} {g : BitVec 3} {key : Word} {v j : Nat} (hv : ringValid v = true)
    (hr : (w.cluster (clusterOf s.coreId)).ringRoom ≠ 0) (hf : (w.cluster (clusterOf s.coreId)).freeRing = some j) :
    enterRing s w g key v = .next ((w.modCluster (clusterOf s.coreId) fun c =>
      c.setRing j (some { ringOf v with launch := s.ctx.launch, key := key })).queue 1
        (.h g (bindWord ((ringOf v).sideOf (meOf w.cur.ctx) g.toNat) j))) := by
  unfold enterRing
  rw [hv, Bool.not_true, if_neg Bool.false_ne_true, if_neg hr, hf]
  rfl

theorem enterRing_invalid {s w : State} {g : BitVec 3} {key : Word} {v : Nat} (hv : ringValid v = false) :
    Traps (enterRing s w g key v) 0x05 (ringFaultInfo 6 0 0 g.toNat) s.cur.slot := by
  unfold enterRing
  rw [hv, Bool.not_false, if_pos rfl]
  exact traps_ringFault ..

theorem enterRing_full {s w : State} {g : BitVec 3} {key : Word} {v : Nat} (hv : ringValid v = true)
    (hf : (w.cluster (clusterOf s.coreId)).ringRoom = 0 ∨ (w.cluster (clusterOf s.coreId)).freeRing = none) :
    Traps (enterRing s w g key v) 0x05 (ringFaultInfo 5 0 0 g.toNat) s.cur.slot := by
  unfold enterRing
  rw [hv, Bool.not_true, if_neg Bool.false_ne_true]
  split
  · exact traps_ringFault ..
  · next hr =>
    rw [hf.resolve_left hr]
    exact traps_ringFault ..

/-- Reading the descriptor leaves the issuing context in place. -/
theorem readPieces_served_ctx {s w : State} {l : List Piece} {v : Nat} (hr : (v, w) = (served s l).readPieces l) :
    w.cur.ctx = s.cur.ctx := by
  rw [show w = ((served s l).readPieces l).2 from congrArg Prod.snd hr, readPieces_cur_ctx]
  exact congrArg Cur.ctx (serves_servedAt s _ l).cur

/-- Settles O35: each operation is one of the equations above; what a `ring.def` reads leaves the issuing context in place, so its
binding is of the context's own side. -/
theorem ringCounts : Obligations.RingCounts := by
  refine ⟨?_, fun s g d a hl => ⟨fun hu => ?_, ringDef_badKey hl, fun hk => ⟨fun j q hf => ?_, fun l hf hx => ?_⟩⟩,
    engineReply_ringDef, ?_⟩
  · rintro s h idx side r _ hl rfl hb
    refine ⟨fun hs he hw hr => ⟨_, ringPut_goes hl hb hs he hw hr, ring_setRing .., rfl, rfl, rfl⟩,
      fun hs _ hr => ringPut_holds hl hb hs (.inr (.inr hr)), fun hs ho => ringPut_holds hl hb hs (ho.imp id .inl),
      fun hs he => ringTake_holds hl hb hs (.inl he), fun hs hr => ringTake_holds hl hb hs (.inr hr),
      fun hs he hr => ⟨_, ringTake_goes hl hb hs he hr, ring_setRing .., rfl, rfl, rfl⟩,
      ringPut_wrongSide hl hb, ringTake_wrongSide hl hb, fun d => ⟨?_, ?_, ?_, noLent_go s _ hl, ?_, ?_, fun k hk ho =>
        ringPtr_stage hl d hk ho⟩⟩
    all_goals exact (exec_ringPtr_count hl d (by decide) (by decide)).trans (withHandle_bound hb 0 _)
  · exact ⟨⟨_, (noLent_go s _ hl).trans (withHandle_unbound hu 0 _), rfl⟩,
      ⟨_, (noLent_go s _ hl).trans (withHandle_unbound hu 0 _), rfl⟩,
      ⟨_, (exec_ringPtr_count hl d (by decide) (by decide)).trans (withHandle_unbound hu 0 _), rfl⟩⟩
  · rw [ringDef_found hl hk hf]
    exact ⟨asks_ringDef s g _ _, fun x ha => withReply_replied _ _ _ _ x ha⟩
  · refine ⟨fun hq => by rw [ringDef_new hl hk hf hx]; exact asks_ringDef s g _ _ hq, ?_⟩
    rintro x v _ w ha hn hr rfl
    have hctx := readPieces_served_ctx hr
    have hcore : w.coreId = s.coreId := congrArg coreOf hctx
    rw [ringDef_enters hl hk hf hx ha hn hr, hcore]
    refine ⟨enterRing_invalid, enterRing_full, fun j hv hroom hj => ?_⟩
    rw [enterRing_valid hv hroom hj, hctx]
    rfl
  · intro s x due stamp r g e v
    unfold State.applyWrite
    rw [State.ctxAt_modCtxAt, if_pos rfl, Regs.getH_setH]

end Sys2Proof.Claims

/-!
PROOFS. Global loads and stores, prefetch, aperture stores, and landings (O26).
-/
namespace Sys2Proof.Claims

open Sys2Proof.Machine

/-! ### Effective addresses (R58, R113) -/

theorem effective_signedField (s : State) (a : BitVec 6) {n : Nat} (o : BitVec n) (scale : Nat) (h : s.lent < 2 ^ s.lentWidth) :
    s.effective a (s.signedField o) scale =
      (s.rS a + BitVec.ofInt 64 ((BitVec.ofNat (n + s.lentWidth) (s.lent * 2 ^ n + o.toNat)).toInt * scale)).toNat := by
  rw [State.effective, signedField_eq s o h, word]

theorem effective_lentOffset (s : State) (a : BitVec 6) (scale : Nat) (h : s.lent < 2 ^ s.lentWidth) :
    s.effective a s.lentOffset scale = (s.rS a + BitVec.ofInt 64 ((BitVec.ofNat s.lentWidth s.lent).toInt * scale)).toNat := by
  rw [State.effective, lentOffset_eq s h, word]

theorem due_inRange {u : BitVec 10} (h : u ≠ 0) : 1 ≤ u.toNat ∧ u.toNat ≤ 1023 := by
  have hne : u.toNat ≠ 0 := fun e => h (BitVec.eq_of_toNat_eq e)
  have := u.isLt
  omega

/-! ### Taking a landing entry or holding (R52, R86) -/

/-- The operation goes on, holds or traps: it does not stop the machine. -/
def GoesOn (o : Out) : Prop := ∃ t, o = .next t

theorem goesOn_withXlate (s : State) (x : Except Xlate (List Piece)) (k : List Piece → Out) (hk : ∀ l, GoesOn (k l)) :
    GoesOn (withXlate s x k) := by
  unfold withXlate
  split
  · exact hk _
  · exact ⟨_, rfl⟩
  · exact ⟨_, rfl⟩
  · exact hk _

theorem goesOn_withLines (s : State) (l : List Piece) (k : State → Out) (hk : ∀ t, GoesOn (k t)) : GoesOn (withLines s l k) := by
  unfold withLines withLinesAt
  split
  · exact ⟨_, rfl⟩
  · split
    · exact ⟨_, rfl⟩
    · split
      · exact ⟨_, rfl⟩
      · split
        · exact ⟨_, rfl⟩
        · exact hk _

theorem holdsOrTraps_withEntry {s : State} {k : Out} (h : 16 ≤ s.ctx.flow.landings.length) (hk : GoesOn k) :
    HoldsOrTraps (withEntry s k) := by
  obtain ⟨t, rfl⟩ := hk
  rw [withEntry_full s _ h, holdUnlessTrapped_next]
  refine ⟨_, rfl, ?_⟩
  split
  · next ht => exact .inr (Option.isSome_iff_ne_none.mp ht)
  · exact .inl rfl

/-- A trap is taken with or without a free entry. -/
theorem traps_withEntry {s : State} {k : Out} {c slot : Nat} {info : Word} (h : Traps k c info slot) :
    Traps (withEntry s k) c info slot := by
  obtain ⟨t, rfl, ht⟩ := h
  unfold withEntry
  split
  · rw [holdUnlessTrapped_next, ht]
    exact ⟨t, rfl, ht⟩
  · exact ⟨t, rfl, ht⟩

theorem traps_withXlate {s : State} {c r va : Nat} {x : Except Xlate (List Piece)} (hx : x = .error (.fault c r va))
    (k : List Piece → Out) : Traps (withXlate s x k) c (faultInfo r va) s.cur.slot := by
  rw [hx]
  exact ⟨_, rfl, rfl⟩

/-! ### Loads and stores (R188, R189) -/

section
variable {s : State} {va n : Nat}

theorem globalLoad_lands {a : Access} {l : List Piece} (due : Nat) (f : LoadForm) (hfree : s.ctx.flow.landings.length < 16)
    (hx : s.xlate va n { kind := a, plain := true } = .ok l) (hg : Goes s l false) :
    globalLoad s va n a due f = .next (lands s va due f l) := by
  obtain ⟨hw, hwin⟩ := hg
  rw [globalLoad, withEntry_free _ _ hfree, hx, withXlate_ok, withLines_noWait hw]
  simp only [hwin, Bool.false_eq_true, if_false]
  rfl

theorem globalLoad_traps {a : Access} {c r v : Nat} (due : Nat) (f : LoadForm)
    (hx : s.xlate va n { kind := a, plain := true } = .error (.fault c r v)) :
    Traps (globalLoad s va n a due f) c (faultInfo r v) s.cur.slot :=
  traps_withEntry (traps_withXlate hx _)

theorem globalLoad_full (a : Access) (due : Nat) (f : LoadForm) (h : 16 ≤ s.ctx.flow.landings.length) :
    HoldsOrTraps (globalLoad s va n a due f) := by
  refine holdsOrTraps_withEntry h (goesOn_withXlate _ _ _ fun l => goesOn_withLines _ _ _ fun t => ?_)
  split
  · exact ⟨_, rfl⟩
  · exact ⟨_, rfl⟩

theorem globalStore_goes {r : AccessRule} {l : List Piece} (x : Nat) (hx : s.xlate va n r = .ok l) (hg : Goes s l true) :
    globalStore s va n r x = .next ((served s l).writePieces va l x).noteSender := by
  obtain ⟨hw, hwin⟩ := hg
  rw [globalStore, hx, withXlate_ok, withLines_noWait hw]
  simp only [hwin, Bool.false_eq_true, if_false]

theorem globalStore_traps {r : AccessRule} {c q v : Nat} (x : Nat) (hx : s.xlate va n r = .error (.fault c q v)) :
    Traps (globalStore s va n r x) c (faultInfo q v) s.cur.slot :=
  traps_withXlate hx _

end

section
variable (s : State) (d a : BitVec 6) (v : BitVec 5) (z : BitVec 3) (x : BitVec 1) {u : BitVec 10} (hu : u ≠ 0)
include hu

theorem ldg_eq : exec (.ldg d a u z) s =
    globalLoad s (s.effective a s.lentOffset (sizeBytes z)) (sizeBytes z) .load u.toNat (.scalar d z) := by
  change execLdg d a u z s = _
  rw [execLdg, withDue_go s _ _ (due_inRange hu).1 (due_inRange hu).2]

theorem vldg_eq : exec (.vldg v a u) s =
    globalLoad s (lineOf (s.effective a s.lentOffset 128)) 128 .vload u.toNat (.vector v (BitVec.allOnes 32)) := by
  change execVldg v a u s = _
  rw [execVldg, withDue_go s _ _ (due_inRange hu).1 (due_inRange hu).2]
  rfl

/-- What `vldcb` does at an effective address (R190). -/
def tableLoad (s : State) (x : BitVec 1) (ea n : Nat) : Out :=
  withEntry s (withXlate s (s.xlate (ea - ea % 16) 16 { kind := .table }) fun l =>
    withLines s l fun s => .next ((s.readPieces l).2.land n [.cbt x (BitVec.ofNat 128 (s.readPieces l).1)] []))

theorem vldcb_eq : exec (.vldcb x a u) s = tableLoad s x (s.effective a s.lentOffset 16) u.toNat := by
  change execVldcb x a u s = _
  rw [execVldcb, withDue_go s _ _ (due_inRange hu).1 (due_inRange hu).2]
  rfl

end

section
variable {s : State} {ea : Nat} (x : BitVec 1)

theorem tableLoad_lands {l : List Piece} (n : Nat) (hfree : s.ctx.flow.landings.length < 16)
    (hx : s.xlate (ea - ea % 16) 16 { kind := .table } = .ok l) (hw : NoWait s l) :
    tableLoad s x ea n = .next (((served s l).readPieces l).2.land n
      [.cbt x (BitVec.ofNat 128 ((served s l).readPieces l).1)] []) := by
  rw [tableLoad, withEntry_free _ _ hfree, hx, withXlate_ok, withLines_noWait hw]

theorem tableLoad_traps {c r v : Nat} (n : Nat) (hx : s.xlate (ea - ea % 16) 16 { kind := .table } = .error (.fault c r v)) :
    Traps (tableLoad s x ea n) c (faultInfo r v) s.cur.slot :=
  traps_withEntry (traps_withXlate hx _)

theorem tableLoad_full (n : Nat) (h : 16 ≤ s.ctx.flow.landings.length) : HoldsOrTraps (tableLoad s x ea n) :=
  holdsOrTraps_withEntry h (goesOn_withXlate _ _ _ fun _ => goesOn_withLines _ _ _ fun _ => ⟨_, rfl⟩)

end

/-! ### `stg`: plain stores and aperture stores (R262, R264) -/

theorem apertureOf_eq_some {pa k : Nat} : apertureOf pa = some k ↔ region pa = .aperture k := by
  unfold apertureOf
  split
  · next h => rw [h]; simp
  · next h => exact ⟨nofun, fun e => absurd e (h k)⟩

theorem apertureOf_eq_none {pa : Nat} : apertureOf pa = none ↔ ∀ k, region pa ≠ .aperture k := by
  rw [Option.eq_none_iff_forall_ne_some]
  exact forall_congr' fun k => not_congr apertureOf_eq_some

section
variable {s : State} {d a : BitVec 6} {o : BitVec 10} {z : BitVec 3} {ea : Nat} (hea : s.effective a (s.signedField o) (sizeBytes z) = ea)
include hea

theorem stg_plain {l : List Piece} (hx : s.xlate ea (sizeBytes z) { kind := .store, size3 := z == 3, plain := true } = .ok l)
    (hp : ∀ p ∈ l, ∀ k, region p.pa ≠ .aperture k) (hg : Goes s l true) :
    exec (.stg d a o z) s = .next ((served s l).writePieces ea l (s.rS d).toNat).noteSender := by
  have hno : (l.any fun p => (apertureOf p.pa).isSome) = false := by
    rw [List.any_eq_false]
    intro p hm
    rw [apertureOf_eq_none.mpr (hp p hm)]
    exact Bool.false_ne_true
  change execStg d a o z s = _
  unfold execStg
  simp only [hea, hx, hno, Bool.false_eq_true, if_false]
  exact globalStore_goes _ hx hg

theorem stg_traps {c r v : Nat}
    (hx : s.xlate ea (sizeBytes z) { kind := .store, size3 := z == 3, plain := true } = .error (.fault c r v)) :
    Traps (exec (.stg d a o z) s) c (faultInfo r v) s.cur.slot := by
  change Traps (execStg d a o z s) _ _ _
  unfold execStg
  simp only [hea, hx]
  exact globalStore_traps _ hx

theorem stg_aperture {p : Piece} {k : Nat}
    (hx : s.xlate ea (sizeBytes z) { kind := .store, size3 := z == 3, plain := true } = .ok [p]) (hr : region p.pa = .aperture k) :
    exec (.stg d a o z) s = apertureStore s ea [p] (s.rS d) := by
  change execStg d a o z s = _
  unfold execStg
  simp only [hea, hx, List.any_cons, List.any_nil, apertureOf_eq_some.mpr hr, Option.isSome_some, Bool.or_false, if_true]

end

/-! A record of nothing matches no line, so an access without pieces waits for nothing. -/

theorem sigMatch_zero (pa : Nat) : sigMatch 0 pa = false := by
  simp [sigMatch, sigHashes]

theorem lineMatches_zero (line : Nat) : lineMatches 0 line = false :=
  List.any_eq_false.mpr fun k _ => by rw [sigMatch_zero]; exact Bool.false_ne_true

theorem copiesLate_zero (s : State) : s.copiesLate 0 = false := by
  have hcached : s.lateCached s.coreId false 0 = [] := by
    unfold State.lateCached
    split
    · rfl
    · refine List.filterMap_eq_nil_iff.mpr fun e _ => ?_
      split
      · rw [lineMatches_zero, Bool.or_self, Bool.and_false, Bool.false_and, if_neg Bool.false_ne_true]
      · rfl
  have hl2 : s.lateL2 s.coreId false 0 = [] := by
    unfold State.lateL2
    split
    · rfl
    · refine List.filterMap_eq_nil_iff.mpr fun e _ => ?_
      rw [lineMatches_zero, Bool.false_and, Bool.or_self, Bool.and_false, Bool.false_and, if_neg Bool.false_ne_true]
  rw [State.copiesLate, hcached, hl2]
  rfl

theorem noWait_nil (s : State) : NoWait s [] := ⟨nofun, rfl, copiesLate_zero s, rfl⟩

/-- An aperture store to another cluster is logged; one to the own cluster with room enters the channel. -/
theorem apertureStore_single {s : State} {ea k : Nat} {p : Piece} (x : Word) (hr : region p.pa = .aperture k) :
    apertureStore s ea [p] x =
      if s.apertureFull p.pa then .next s.hold
      else if clusterOf s.coreId = k then withAcked s 2 (.next (s.apertureEnter ea k p.pa x).noteSender)
      else .next (s.apertureEnter ea k p.pa x).noteSender := by
  have ha := apertureOf_eq_some.mpr hr
  unfold apertureStore
  simp only [List.filter_cons, List.filter_nil, ha, Option.isNone_some, Bool.false_eq_true, if_false, List.any_cons, List.any_nil,
    Bool.or_false, withLines_noWait (noWait_nil s), List.foldl_cons, List.foldl_nil, State.windowWaits]
  have hmine : (some k == some (clusterOf s.coreId)) = true ↔ clusterOf s.coreId = k := by
    rw [beq_iff_eq, Option.some.injEq, eq_comm]
  simp only [hmine]
  rfl

theorem apertureFull_iff {s : State} {pa k : Nat} (hr : region pa = .aperture k) :
    s.apertureFull pa = true ↔ clusterOf s.coreId = k ∧ 8 ≤ ((s.bxe k).channel (bits pa 15 12)).length := by
  unfold State.apertureFull
  rw [apertureOf_eq_some.mpr hr]
  simp

/-- A copy joins its channel; the rest of the machine but the cluster and the timers stays. -/
theorem enqueueCopy_channel (s : State) (k ch : Nat) (r : CopyReq) :
    ((s.enqueueCopy k ch r).bxe k).channel ch = (s.bxe k).channel ch ++ [{ r with id := (s.bxe k).count }] := by
  have h : (((s.modBxe k fun b => { b.setChannel ch ((s.bxe k).channel ch ++ [{ r with id := (s.bxe k).count }]) with
      count := (s.bxe k).count + 1 }).bxe k).channel ch) = (s.bxe k).channel ch ++ [{ r with id := (s.bxe k).count }] := by
    rw [State.bxe, State.modBxe, State.cluster_modCluster, if_pos rfl]
    simp [Bxe.channel, Bxe.setChannel]
  unfold State.enqueueCopy
  dsimp only
  split
  · exact h
  · exact h

theorem enqueueCopy_frame (s : State) (k ch : Nat) (r : CopyReq) :
    (s.enqueueCopy k ch r).cur = s.cur ∧ (s.enqueueCopy k ch r).ctxs = s.ctxs := by
  unfold State.enqueueCopy
  dsimp only
  split <;> exact ⟨rfl, rfl⟩

theorem serves_cleanCore (s : State) (core : Nat) : Serves s (s.cleanCore core) :=
  serves_foldl s _ _ fun t _ => serves_cleanLine t ..

/-- The release of a cluster's scope writes back the core's cache banks alone (R207). -/
theorem serves_releaseCluster (s : State) (core : Nat) : Serves s (s.release core 2) := serves_cleanCore s core

/-- What an aperture store of the own cluster leaves (R262, R264). -/
theorem apertureEnter_own {s : State} {va k pa : Nat} {x : Word} (hk : clusterOf s.coreId = k) :
    ∃ r : CopyReq, ((s.apertureEnter va k pa x).bxe k).channel (bits pa 15 12) = (s.bxe k).channel (bits pa 15 12) ++ [r] ∧
      r.ctx = some s.cur.ctx ∧ r.gen = s.ctx.csr.gen ∧ r.launch = s.ctx.launch ∧ r.node = none ∧ r.priv = s.ctx.priv ∧ r.word = x ∧
      KeepsContexts s (s.apertureEnter va k pa x) ∧ (s.apertureEnter va k pa x).cur = s.cur := by
  have hs := serves_releaseCluster s s.coreId
  have hbxe : (s.release s.coreId 2).bxe k = s.bxe k := by rw [State.bxe, State.cluster, hs.clusters]; rfl
  unfold State.apertureEnter
  rw [if_neg (not_not.mpr hk)]
  obtain ⟨hcur, hctxs⟩ := enqueueCopy_frame (s.release s.coreId 2) k (bits pa 15 12)
    ⟨0, some s.cur.ctx, s.ctx.csr.gen, s.ctx.launch, none, s.ctx.priv, x, 0, 0⟩
  refine ⟨_, (enqueueCopy_channel ..).trans (by rw [hbxe]), rfl, rfl, rfl, rfl, rfl, rfl, hs.ctxs.trans (keepsContexts_of_ctxs hctxs), ?_⟩
  exact hcur.trans hs.cur

/-! ### Prefetch (R190) -/

/-- A prefetch does nothing, fills a line of the L2, or keeps one at the memory side. -/
theorem pref_cases (s : State) (h : BitVec 5) (a : BitVec 6) (o : BitVec 10) :
    exec (.pref h a o) s = .next s ∨ (∃ line, exec (.pref h a o) s = .next (s.l2Fill (dieOf s.coreId) line 0xF)) ∨
      ∃ pa, exec (.pref h a o) s = .next (s.keepLine pa false) := by
  change execPref h a o s = _ ∨ (∃ line, execPref h a o s = _) ∨ ∃ pa, execPref h a o s = _
  unfold execPref
  dsimp only
  split
  · exact .inl rfl
  · split
    · exact .inl rfl
    · split
      · exact .inr (.inl ⟨_, rfl⟩)
      · split
        · exact .inr (.inr ⟨_, rfl⟩)
        · exact .inl rfl

/-- What a change leaves when it touches only the caches' and stacks' own state. -/
def KeepsData (s t : State) : Prop := t.ctxs = s.ctxs ∧ t.cores = s.cores ∧ t.mem = s.mem

theorem keepsData_keepLine (s : State) (pa : Nat) (b : Bool) : KeepsData s (s.keepLine pa b) := by
  unfold State.keepLine
  split <;> exact ⟨rfl, rfl, rfl⟩

theorem keepsData_carryPoison (s : State) (p q : PoisonAt) : KeepsData s (s.carryPoison p q) := by
  unfold State.carryPoison State.markPoison State.clearPoison
  split <;> split <;> exact ⟨rfl, rfl, rfl⟩

theorem KeepsData.trans {s t u : State} (h : KeepsData s t) (h' : KeepsData t u) : KeepsData s u := by
  obtain ⟨h1, h2, h3⟩ := h
  obtain ⟨k1, k2, k3⟩ := h'
  exact ⟨k1.trans h1, k2.trans h2, k3.trans h3⟩

theorem keepsData_l2FillPoison (s : State) (d line : Nat) (ks : List Nat) : KeepsData s (s.l2FillPoison d line ks) := by
  unfold State.l2FillPoison
  split
  · exact ⟨rfl, rfl, rfl⟩
  · exact foldl_keeps (KeepsData s) _ ks (fun t _ h => h.trans (keepsData_carryPoison t ..)) s ⟨rfl, rfl, rfl⟩

/-- An L2 with room gives no line up for a new one. -/
theorem l2Room_room {s : State} {d : Nat} (line : Nat) (h : (s.die d).l2.length < l2Lines) : s.l2Room d line = s := by
  unfold State.l2Room
  dsimp only
  rw [if_neg fun hc => Nat.not_le_of_lt h hc.1]

theorem keepsData_l2Fill {s : State} {d : Nat} (line : Nat) (b : BitVec 4) (h : (s.die d).l2.length < l2Lines) :
    KeepsData s (s.l2Fill d line b) := by
  unfold State.l2Fill
  rw [l2Room_room line h]
  dsimp only
  split
  · exact ⟨rfl, rfl, rfl⟩
  · exact (keepsData_keepLine s ..).trans (keepsData_l2FillPoison (State.setL2Line ..) ..)

theorem pref_keeps (s : State) (h : BitVec 5) (a : BitVec 6) (o : BitVec 10) :
    ∃ t, exec (.pref h a o) s = .next t ∧ Serves s t ∧ ((s.die (dieOf s.coreId)).l2.length < l2Lines → KeepsData s t) := by
  obtain he | ⟨line, he⟩ | ⟨pa, he⟩ := pref_cases s h a o
  · exact ⟨s, he, .refl s, fun _ => ⟨rfl, rfl, rfl⟩⟩
  · exact ⟨_, he, serves_l2Fill .., keepsData_l2Fill line _⟩
  · exact ⟨_, he, serves_keepLine .., fun _ => keepsData_keepLine ..⟩

/-! ### Landings (R86, R87, R175, R354) -/

theorem keepsContexts_modCtx (s : State) (f : Flow → Flow) :
    KeepsContexts s (s.modCtx fun c => { c with flow := f c.flow }) := fun x => by
  rw [State.ctxAt_modCtx]
  split
  · next e => rw [e]; exact ⟨rfl, rfl, rfl, rfl, rfl, rfl, rfl⟩
  · exact ⟨rfl, rfl, rfl, rfl, rfl, rfl, rfl⟩

/-- The entry that a landing takes in this cycle. -/
def entryOf (s : State) (n : Nat) (ws : List RegWrite) (evs : List (EvKind × Nat)) (owed : Option Owed) : Landing :=
  ⟨s.ctx.flow.nextLanding, s.now + n, s.ctx.flow.stamp, s.cur.pc, ws,
    if s.ctx.priv then [] else evs.map fun e => ⟨s.cur.slot, e.1.code, e.2⟩, s.cur.poison, owed⟩

/-- The cycle for which its arrival is timed: after the due cycle for data from another package (R354). -/
def arrivalAt (s : State) (n : Nat) : Nat :=
  max (s.now + n) ((if s.cur.far then max (s.now + n) s.now else s.now) + 1 + Config.arrivalDelay s.fresh)

theorem landFrom_eq (s : State) (n : Nat) (ws : List RegWrite) (evs : List (EvKind × Nat)) (owed : Option Owed) :
    s.landFrom s.now n ws evs owed =
      { s.modCtx fun c => { c with flow := { c.flow with
          landings := c.flow.landings ++ [entryOf s n ws evs owed], nextLanding := c.flow.nextLanding + 1 } } with
        timers := s.timers ++ [(arrivalAt s n, { i := .landing, a := s.cur.ctx, b := s.ctx.flow.nextLanding })]
        fresh := s.fresh + 1 } := rfl

theorem landFrom_landings (s : State) (n : Nat) (ws : List RegWrite) (evs : List (EvKind × Nat)) (owed : Option Owed) :
    (s.landFrom s.now n ws evs owed).ctx.flow.landings = s.ctx.flow.landings ++ [entryOf s n ws evs owed] :=
  (congrArg (fun c : Ctx => c.flow.landings) (State.ctx_modCtx s fun c => { c with flow := { c.flow with
    landings := c.flow.landings ++ [entryOf s n ws evs owed], nextLanding := c.flow.nextLanding + 1 } }) :)

theorem landFrom_keepsContexts (s : State) (n : Nat) (ws : List RegWrite) (evs : List (EvKind × Nat)) (owed : Option Owed) :
    KeepsContexts s (s.landFrom s.now n ws evs owed) :=
  keepsContexts_modCtx s fun f => { f with landings := f.landings ++ [entryOf s n ws evs owed], nextLanding := f.nextLanding + 1 }

theorem far_arrivalAt {s : State} (n : Nat) (h : s.cur.far = true) : s.now + n < arrivalAt s n := by
  rw [arrivalAt, if_pos h]
  omega

/-- Bytes that a bank brings (R175). -/
theorem bring_spec {l : Landing} {o : Owed} (shift x : Nat) (poison : Option Nat) (h : l.owed = some o) :
    (l.bring shift x poison).ws = [o.form.write (o.raw + x * 2 ^ shift)] ∧ ((l.bring shift x poison).owed = none ↔ o.left ≤ 1) ∧
      (l.bring shift x poison).due = l.due ∧ (l.bring shift x poison).id = l.id := by
  unfold Landing.bring
  rw [h]
  refine ⟨rfl, ?_, rfl, rfl⟩
  dsimp only
  split
  · next hl => exact ⟨fun _ => hl, fun _ => rfl⟩
  · next hl => exact ⟨nofun, fun hc => absurd hc hl⟩

section
variable {s : State} {l : Landing}

theorem landing_waits (hf : (s.ctxAt s.arg.a).flow.landings.find? (fun x => x.id == s.arg.b) = some l)
    (hw : l.owed ≠ none ∨ s.now < l.due) :
    exec .landing s = .next { s with timers := s.timers ++ [(max (s.now + 1) l.due, s.arg)] } := by
  change execLanding s = _
  unfold execLanding
  rw [hf]
  dsimp only
  rw [if_pos (hw.imp_left Option.isSome_iff_ne_none.mpr)]

theorem landing_arrives (hf : (s.ctxAt s.arg.a).flow.landings.find? (fun x => x.id == s.arg.b) = some l)
    (ho : l.owed = none) (hd : l.due ≤ s.now) : exec .landing s = .next (s.modCtxAt s.arg.a fun c => c.land l) := by
  change execLanding s = _
  unfold execLanding
  rw [hf]
  dsimp only
  rw [if_neg]
  rw [ho]
  exact fun h => h.elim Bool.false_ne_true (Nat.not_lt_of_le hd)

theorem landing_gone (hf : (s.ctxAt s.arg.a).flow.landings.find? (fun x => x.id == s.arg.b) = none) :
    exec .landing s = .next s := by
  change execLanding s = _
  unfold execLanding
  rw [hf]

/-- Registers take what has landed, and the entry is free (R86, R87). -/
theorem land_spec {c : Ctx} (hp : l.poison = none) (hr : c.flow.recent = []) :
    (c.land l).r = l.ws.foldl Regs.landed c.r ∧ (c.land l).flow.landings = c.flow.landings.filter (fun x => x.id != l.id) ∧
      (c.land l).csr = c.csr := by
  unfold Ctx.land
  rw [hp]
  dsimp only
  refine ⟨by rw [hr]; rfl, ?_, rfl⟩
  unfold Flow.mended
  split <;> rfl

end

/-- Settles O26: the load, store and table operations by their common halves, the aperture store by its one piece, and the landing
by the four things that can become of its entry. -/
theorem globalAccessesAndLandings : Obligations.GlobalAccessesAndLandings := by
  unfold Obligations.GlobalAccessesAndLandings
  refine ⟨fun s d a v u o z x off lo n hlent hoff hlo hn hu => ?_, fun s n ws evs => ?_, fun s n v parts f => ?_, fun d z v x => ⟨rfl, rfl⟩,
    fun l o shift x poison h => bring_spec shift x poison h, fun s l hf hw => landing_waits hf hw, fun s l hf hp ho hd hr => ?_,
    fun s hf => ⟨s, landing_gone hf, fun _ => rfl, rfl, rfl⟩⟩
  · have hn' : n = sizeBytes z := hn
    subst hoff hlo hn'
    rw [ldg_eq s d a z hu, vldg_eq s a v hu, vldcb_eq s a x hu]
    have htable : s.effective a s.lentOffset 16 = _ := effective_lentOffset s a 16 hlent
    have hload : s.effective a s.lentOffset 128 = _ := effective_lentOffset s a 128 hlent
    have hstore : s.effective a (s.signedField o) 128 = _ := effective_signedField s a o 128 hlent
    rw [Nat.cast_ofNat] at htable hload hstore
    simp only [← effective_lentOffset s a _ hlent, ← effective_signedField s a o _ hlent, ← htable, ← hload, ← hstore]
    refine ⟨fun hfree => ⟨?_, ?_, ?_⟩, ?_, ?_, ?_, ?_, ?_, fun hfull => ⟨?_, ?_, ?_⟩, ?_, ?_, ?_, fun h => ?_⟩
    · rintro _ l rfl hx hg
      exact globalLoad_lands _ _ hfree hx hg
    · rintro _ l rfl hx hg
      exact globalLoad_lands _ _ hfree hx hg
    · rintro _ l rfl hx hw
      exact tableLoad_lands x _ hfree hx hw
    · rintro _ c r va rfl hx
      exact globalLoad_traps _ _ hx
    · rintro _ c r va rfl hx
      exact globalLoad_traps _ _ hx
    · rintro _ c r va rfl hx
      exact tableLoad_traps x _ hx
    · rintro _ c r va rfl hx
      exact stg_traps rfl hx
    · rintro _ c r va rfl hx
      exact globalStore_traps _ hx
    · exact globalLoad_full _ _ _ hfull
    · exact globalLoad_full _ _ _ hfull
    · exact tableLoad_full x _ hfull
    · rintro _ l rfl hx hp hg
      exact stg_plain rfl hx hp hg
    · rintro _ k ch p rfl hx hr rfl
      rw [stg_aperture rfl hx hr, apertureStore_single _ hr]
      refine ⟨fun hk => ?_, fun hk h8 => ?_, fun hk h8 ho => ?_, fun hk h8 ho => ?_⟩
      · rw [if_neg fun h => hk ((apertureFull_iff hr).mp h).1, if_neg hk, State.apertureEnter, if_pos hk]
      · rw [if_pos ((apertureFull_iff hr).mpr ⟨hk, h8⟩)]
        exact holds_hold s
      · rw [if_neg fun h => Nat.not_le_of_lt h8 ((apertureFull_iff hr).mp h).2, if_pos hk, withAcked_hold _ _ _ ho]
        exact holds_holdAcked s
      · rw [if_neg fun h => Nat.not_le_of_lt h8 ((apertureFull_iff hr).mp h).2, if_pos hk, withAcked_go _ _ _ ho]
        obtain ⟨r, hch, hctx, hgen, hlaunch, hnode, hpriv, hword, hkeep, hcur⟩ := apertureEnter_own (va := _) (x := s.rS d) hk
        refine ⟨_, r, rfl, hch, hctx, hgen, hlaunch, hnode, hpriv, hword, hkeep, ?_⟩
        rw [State.noteSender, State.noteSender, State.modCur, State.modCur, hcur]
    · rintro _ l rfl hx hg
      exact globalStore_goes _ hx hg
    · obtain ⟨t, he, hs, hroom⟩ := pref_keeps s h a o
      exact ⟨t, he, hs.ctxs, hs.cur, hs.stores, hroom⟩
  · exact ⟨entryOf s n ws evs none, arrivalAt s n, landFrom_landings .., rfl, rfl, rfl, rfl, Nat.le_max_left .., far_arrivalAt n, rfl, rfl,
      landFrom_keepsContexts s n ws evs none, rfl, rfl⟩
  · exact ⟨entryOf s n [f.write v] [] (if parts = 0 then none else some ⟨f, v, parts⟩), landFrom_landings .., rfl, rfl, rfl, rfl, rfl⟩
  · obtain ⟨hregs, hland, hcsr⟩ := land_spec (c := s.ctxAt s.arg.a) hp hr
    refine ⟨_, landing_arrives hf ho hd, ?_, ?_, ?_, fun y hy => ?_, rfl, rfl⟩
    · rw [State.ctxAt_modCtxAt, if_pos rfl, hregs]
    · rw [State.ctxAt_modCtxAt, if_pos rfl, hland]
    · rw [State.ctxAt_modCtxAt, if_pos rfl, hcsr]
    · rw [State.ctxAt_modCtxAt, if_neg hy]

end Sys2Proof.Claims

/-!
Local accesses: the address checks, what a load reads and what a store writes (R165 to R168).
-/
namespace Sys2Proof.Claims

open Sys2Proof.Machine

/-! ### Bytes of a local store (R3) -/

theorem locRead_eq (s : State) (core a n : Nat) : (s.core core).locRead a n = locNumber s core a n := by
  induction n generalizing a with
  | zero => rfl
  | succ n ih =>
    rw [CoreSt.locRead, ih, locNumber, locNumber, List.range_succ_eq_map, List.foldr_cons, List.foldr_map]
    simp only [Nat.succ_eq_add_one, Nat.add_assoc, Nat.add_comm 1]
    rfl

theorem locRead_lt (c : CoreSt) (a n : Nat) : c.locRead a n < 256 ^ n := by
  induction n generalizing a with
  | zero => exact Nat.one_pos
  | succ n ih =>
    have hb := (Store.get 0 c.loc a : Byte).isLt
    have hr := ih (a + 1)
    rw [CoreSt.locRead, Nat.pow_succ]
    omega

/-- A local store's write changes its bytes and nothing else of the core. -/
theorem locWrite_frame (c : CoreSt) (a n x : Nat) : c.locWrite a n x = { c with loc := (c.locWrite a n x).loc } := by
  induction n generalizing c a x with
  | zero => rfl
  | succ n ih => rw [CoreSt.locWrite, ih]

theorem get_locWrite (c : CoreSt) (a n x b : Nat) : Store.get 0 (c.locWrite a n x).loc b =
    if a ≤ b ∧ b < a + n then BitVec.ofNat 8 (x / 256 ^ (b - a)) else Store.get 0 c.loc b := by
  induction n generalizing c a x with
  | zero => rw [if_neg (by omega)]; rfl
  | succ n ih =>
    rw [CoreSt.locWrite, ih, Store.get_set]
    by_cases h : a + 1 ≤ b ∧ b < a + 1 + n
    · rw [if_pos h, if_pos (by omega), Nat.div_div_eq_div_mul, ← Nat.pow_succ', show (b - (a + 1)).succ = b - a by omega]
    · rw [if_neg h]
      by_cases e : b = a
      · rw [if_pos e, if_pos (by omega), e, Nat.sub_self, Nat.pow_zero, Nat.div_one]
      · rw [if_neg e, if_neg (by omega)]

/-- The bundle has been granted bank `j` in this try (R175). -/
def granted (s : State) (j : Nat) : State := s.modCur fun c => { c with banks := j :: c.banks }

theorem onlyCore_granted (s : State) (core j : Nat) : OnlyCore s (granted s j) core := ⟨rfl, rfl, fun _ h => h, fun _ _ => rfl⟩

theorem core_cureLoc (s : State) (core a n i : Nat) : (s.cureLoc core a n).core i = s.core i := by
  unfold State.cureLoc
  split <;> rfl

theorem onlyCore_locStore (s : State) (core j a n x : Nat) : OnlyCore s ((granted s j).locStore core a n x) core := by
  have hothers : ∀ i, i ≠ core → ((granted s j).modCore core fun c => c.locWrite a n x).core i = s.core i :=
    fun i hi => (State.core_modCore ..).trans (if_neg hi)
  unfold State.locStore State.cureLoc
  split
  · exact ⟨rfl, rfl, fun _ h => h, hothers⟩
  · exact ⟨rfl, rfl, fun _ h => (List.mem_filter.mp h).1, hothers⟩

theorem locByte_locStore (s : State) (core a n x b : Nat) : locByte (s.locStore core a n x) core b =
    if a ≤ b ∧ b < a + n then BitVec.ofNat 8 (x / 256 ^ (b - a)) else locByte s core b := by
  rw [locByte, State.locStore, core_cureLoc, State.core_modCore, if_pos rfl]
  exact get_locWrite ..

/-! ### Extension (R168) -/

theorem extendLoad_eq (z : BitVec 3) (n : Nat) (hn : n = 2 ^ (z.toNat % 4)) {x : Nat} (hx : x < 256 ^ n) : extendLoad z x =
    if 4 ≤ z.toNat then (BitVec.ofNat (8 * n) x).signExtend 64 else BitVec.ofNat 64 x := by
  subst hn
  have hx' : x < 2 ^ (8 * sizeBytes z) := by rwa [Nat.pow_mul]
  unfold extendLoad
  dsimp only
  rw [toInt_signed _ _ hx']
  rfl

/-! ### Serving an access, or its fault (R166) -/

section
variable {s : State} {ea n : Nat} {write : Bool} (k : Nat → State → Out)

theorem bank_of_lt {a : Nat} (h : a < 2 ^ 19) : bits a 18 14 = a / 2 ^ 14 :=
  Nat.mod_eq_of_lt (by omega)

theorem localAccess_served (h : LocalServed s ea n write) : localAccess s ea n write k =
    k (ea - ea % n) (granted s ((ea - ea % n) / 2 ^ 14)) := by
  obtain ⟨hlt, hrole, hstable, hbusy, hheld, hwins⟩ := h
  unfold localAccess
  rw [if_neg (Nat.not_le_of_lt hlt)]
  dsimp only
  rw [bank_of_lt (Nat.lt_of_le_of_lt (Nat.sub_le ..) hlt), if_neg hrole, if_neg (Bool.not_eq_true _ ▸ hstable),
    if_neg fun hb => Bool.false_ne_true ((hbusy hb.1).symm.trans hb.2), if_neg (Bool.not_eq_true _ ▸ hheld),
    if_neg (Bool.not_eq_true _ ▸ hwins)]
  rfl

theorem localAccess_past (h : 2 ^ 19 ≤ ea) :
    Traps (localAccess s ea n write k) 0x05 (BitVec.ofNat 64 (2 ^ 60 + 2 ^ 57 + ea % 2 ^ 57)) s.cur.slot := by
  unfold localAccess
  rw [if_pos h]
  exact ⟨_, rfl, rfl⟩

theorem localAccess_cacheBank (h : ea < 2 ^ 19) (hr : roleOf (s.core s.coreId).bankRole ((ea - ea % n) / 2 ^ 14) = 0) :
    Traps (localAccess s ea n write k) 0x05 (BitVec.ofNat 64 (2 ^ 60 + 2 * 2 ^ 57 + ea)) s.cur.slot := by
  have hinfo : localInfo 2 ea = BitVec.ofNat 64 (2 ^ 60 + 2 * 2 ^ 57 + ea) := by
    rw [localInfo, Nat.mod_eq_of_lt (Nat.lt_trans h (by decide))]
  unfold localAccess
  rw [if_neg (Nat.not_le_of_lt h)]
  dsimp only
  rw [bank_of_lt (Nat.lt_of_le_of_lt (Nat.sub_le ..) h), if_pos hr, hinfo]
  exact ⟨_, rfl, rfl⟩

end

/-! ### The four operations -/

section
variable (s : State) (d a : BitVec 6) (v : BitVec 5) (o : BitVec 10) (z : BitVec 3)

theorem ld_eq : exec (.ld d a o z) s =
    localAccess s (s.effective a (s.signedField o) (sizeBytes z)) (sizeBytes z) false fun x s =>
      .next (s.wS 3 d (extendLoad z ((s.core s.coreId).locRead x (sizeBytes z)))) := rfl

theorem st_eq : exec (.st d a o z) s =
    localAccess s (s.effective a (s.signedField o) (sizeBytes z)) (sizeBytes z) true fun x s =>
      .next (s.locStore s.coreId x (sizeBytes z) (s.rS d).toNat) := rfl

theorem vld_eq : exec (.vld v a o) s =
    localAccess s (s.effective a (s.signedField o) 128) 128 false fun x s =>
      .next (s.wV 4 v (BitVec.ofNat 1024 ((s.core s.coreId).locRead x 128))) := rfl

theorem vst_eq : exec (.vst v a o) s =
    localAccess s (s.effective a (s.signedField o) 128) 128 true fun x s =>
      .next (s.locStore s.coreId x 128 (s.rV v).toNat) := rfl

end

section
variable {s : State} (d a : BitVec 6) (v : BitVec 5) (o : BitVec 10) (z : BitVec 3) {n ea : Nat}

theorem ld_served (hn : n = 2 ^ (z.toNat % 4)) (hea : s.effective a (s.signedField o) n = ea) (h : LocalServed s ea n false) :
    ∃ u, OnlyCore s u s.coreId ∧ (∀ b, locByte u s.coreId b = locByte s s.coreId b) ∧
      exec (.ld d a o z) s = .next (u.wS 3 d (if 4 ≤ z.toNat then
        (BitVec.ofNat (8 * n) (locNumber s s.coreId (ea - ea % n) n)).signExtend 64
        else BitVec.ofNat 64 (locNumber s s.coreId (ea - ea % n) n))) := by
  refine ⟨_, onlyCore_granted s s.coreId ((ea - ea % n) / 2 ^ 14), fun b => rfl, ?_⟩
  rw [← locRead_eq, ← extendLoad_eq z n hn (locRead_lt ..)]
  subst hn hea
  exact (ld_eq s d a o z).trans (localAccess_served _ h)

theorem st_served (hn : n = 2 ^ (z.toNat % 4)) (hea : s.effective a (s.signedField o) n = ea) (h : LocalServed s ea n true) :
    ∃ u, OnlyCore s u s.coreId ∧ exec (.st d a o z) s = .next u ∧
      ∀ b, locByte u s.coreId b = if ea - ea % n ≤ b ∧ b < ea - ea % n + n then
        BitVec.ofNat 8 ((s.rS d).toNat / 256 ^ (b - (ea - ea % n))) else locByte s s.coreId b := by
  subst hn hea
  exact ⟨_, onlyCore_locStore s s.coreId .., (st_eq s d a o z).trans (localAccess_served _ h), fun b => locByte_locStore ..⟩

theorem vld_served (hea : s.effective a (s.signedField o) 128 = ea) (h : LocalServed s ea 128 false) :
    ∃ u, OnlyCore s u s.coreId ∧ (∀ b, locByte u s.coreId b = locByte s s.coreId b) ∧
      exec (.vld v a o) s = .next (u.wV 4 v (BitVec.ofNat 1024 (locNumber s s.coreId (ea - ea % 128) 128))) := by
  refine ⟨_, onlyCore_granted s s.coreId ((ea - ea % 128) / 2 ^ 14), fun b => rfl, ?_⟩
  rw [← locRead_eq]
  subst hea
  exact (vld_eq s a v o).trans (localAccess_served _ h)

theorem vst_served (hea : s.effective a (s.signedField o) 128 = ea) (h : LocalServed s ea 128 true) :
    ∃ u, OnlyCore s u s.coreId ∧ exec (.vst v a o) s = .next u ∧
      ∀ b, locByte u s.coreId b = if ea - ea % 128 ≤ b ∧ b < ea - ea % 128 + 128 then
        BitVec.ofNat 8 ((s.rV v).toNat / 256 ^ (b - (ea - ea % 128))) else locByte s s.coreId b := by
  subst hea
  exact ⟨_, onlyCore_locStore s s.coreId .., (vst_eq s a v o).trans (localAccess_served _ h), fun b => locByte_locStore ..⟩

end

end Sys2Proof.Claims

/-!
Bank roles: the fields of BANK_ROLE, `bank.role` and the change it begins, and the end of a change (R163, R164, R170 to R173).
-/
namespace Sys2Proof.Claims

open Sys2Proof.Machine

/-! ### The fields of BANK_ROLE (R162) -/

theorem testBit_roleOf (w : Word) (j i : Nat) : (roleOf w j).testBit i = (decide (i < 2) && w.getLsbD (2 * j + i)) := by
  have e : 2 * j + 1 + 1 - 2 * j = 2 := by omega
  rw [roleOf, bits, e, Nat.testBit_mod_two_pow, Nat.testBit_div_two_pow, Nat.add_comm]
  rfl

theorem word_eq_of_roles {a b : Word} (h : ∀ j < 32, roleOf a j = roleOf b j) : a = b := by
  refine BitVec.eq_of_getLsbD_eq fun i hi => ?_
  have hbit := congrArg (Nat.testBit · (i % 2)) (h (i / 2) (by omega))
  simp only [testBit_roleOf, decide_eq_true (Nat.mod_lt i Nat.two_pos), Bool.true_and] at hbit
  rwa [Nat.div_add_mod] at hbit

/-- One field of BANK_ROLE replaced. -/
def setRole (w : Word) (j : Nat) (r : BitVec 2) : Word := (w &&& ~~~(3#64 <<< (2 * j))) ||| (r.setWidth 64 <<< (2 * j))

theorem setRoles_eq (w : Word) (f n : Nat) (r : BitVec 2) :
    setRoles w f n r = (List.range (n + 1)).foldl (fun w k => setRole w (f + k) r) w := rfl

theorem roleOf_setRole (w : Word) (r : BitVec 2) {j i : Nat} (hj : j < 32) (hi : i < 32) :
    roleOf (setRole w j r) i = if i = j then r.toNat else roleOf w i := by
  refine Nat.eq_of_testBit_eq fun b => ?_
  have h3 (k : Nat) : (3#64).getLsbD k = decide (k < 2) := by
    rw [BitVec.getLsbD_ofNat, show (3 : Nat) = 2 ^ 2 - 1 by rfl, Nat.testBit_two_pow_sub_one]
    simp only [Bool.and_eq_right_iff_imp, decide_eq_true_eq]
    omega
  rw [testBit_roleOf, setRole, BitVec.getLsbD_or, BitVec.getLsbD_and, BitVec.getLsbD_not, BitVec.getLsbD_shiftLeft,
    BitVec.getLsbD_shiftLeft, BitVec.getLsbD_setWidth, h3]
  by_cases hb : b < 2
  · split
    · next e =>
      subst e
      have h1 : 2 * i + b < 64 := by omega
      have h2 : ¬ 2 * i + b < 2 * i := by omega
      have h4 : b < 64 := by omega
      simp only [hb, h1, h2, h4, Nat.add_sub_cancel_left, decide_true, decide_false, Bool.not_false, Bool.not_true,
        Bool.true_and, Bool.and_false, Bool.false_or]
      rfl
    · next e =>
      rw [testBit_roleOf]
      have h1 : 2 * i + b < 64 := by omega
      by_cases h2 : 2 * i + b < 2 * j
      · simp [h2, hb, h1]
      · have h3 : ¬ 2 * i + b - 2 * j < 2 := by omega
        simp [h2, hb, h1, h3, BitVec.getLsbD_of_ge r _ (Nat.le_of_not_lt h3)]
  · have hr : r.toNat.testBit b = false := BitVec.getLsbD_of_ge r b (Nat.le_of_not_lt hb)
    simp only [hb, decide_false, Bool.false_and]
    split
    · exact hr.symm
    · rw [testBit_roleOf, decide_eq_false hb, Bool.false_and]

theorem roleOf_setRoles (w : Word) (f n : Nat) (r : BitVec 2) (hn : f + n < 32) {j : Nat} (hj : j < 32) :
    roleOf (setRoles w f n r) j = if f ≤ j ∧ j ≤ f + n then r.toNat else roleOf w j := by
  rw [setRoles_eq]
  induction n with
  | zero =>
    rw [List.range_one, List.foldl_cons, List.foldl_nil, roleOf_setRole w r (by omega) hj]
    exact if_congr (by omega) rfl rfl
  | succ n ih =>
    rw [List.range_succ, List.foldl_append, List.foldl_cons, List.foldl_nil, roleOf_setRole _ r (by omega) hj, ih (by omega)]
    by_cases h : j = f + (n + 1)
    · rw [if_pos h, if_pos (by omega)]
    · rw [if_neg h]
      exact if_congr (by omega) rfl rfl

/-- A word whose fields are those of another but for a range is that other with the range replaced. -/
theorem eq_setRoles {w new : Word} {f n : Nat} {r : BitVec 2} (hn : f + n < 32)
    (h : ∀ j < 32, roleOf new j = if f ≤ j ∧ j ≤ f + n then r.toNat else roleOf w j) : setRoles w f n r = new :=
  word_eq_of_roles fun j hj => (roleOf_setRoles w f n r hn hj).trans (h j hj).symm

/-! ### `bank.role` (R163, R164, R173) -/

/-- Where nothing of this bundle is queued, BANK_ROLE stands. -/
theorem rolesSoFar_of_none {s : State} (h : ∀ p ∈ s.ctx.flow.pending, p.stamp ≠ s.ctx.flow.stamp) :
    s.rolesSoFar = (s.core s.coreId).bankRole := by
  unfold State.rolesSoFar
  refine List.foldlRecOn (motive := fun w => w = (s.core s.coreId).bankRole) _ _ rfl fun w hw p hp => ?_
  split
  · rw [if_neg (h p hp)]
    exact hw
  · exact hw

theorem rolesSoFar_queue (s : State) (lat f n : Nat) (r : BitVec 2) :
    (s.queue lat (.role f n r)).rolesSoFar = setRoles s.rolesSoFar f n r := by
  unfold State.rolesSoFar State.queue
  rw [State.ctx_modCtx]
  dsimp only
  rw [List.foldl_append, List.foldl_cons, List.foldl_nil]
  dsimp only
  rw [if_pos rfl]
  rfl

theorem someChanging_false {c : CoreSt} {now f n : Nat} (h : ∀ j, f ≤ j → j ≤ f + n → c.isChanging now j = false) :
    c.someChanging now f n = false :=
  List.any_eq_false.mpr fun k hk => by
    have : k < n + 1 := List.mem_range.mp hk
    rw [h (f + k) (by omega) (by omega)]
    exact Bool.false_ne_true

section
variable {s : State} {f n : BitVec 5} {r : BitVec 2} {new : Word} (hl : s.lent = 0)
  (hs : (s.core s.coreId).someChanging s.now f.toNat n.toNat = false) (hnew : setRoles s.rolesSoFar f.toNat n.toNat r = new)
include hl hs hnew

theorem bankRole_queues (hw : wellFormedRoles new = true) (hg : s.ctx.priv = true ∨ (s.core s.coreId).exceedsGrant new = false) :
    exec (.bankRole f n r) s = .next (s.queue 1 (.role f.toNat n.toNat r)) := by
  subst hnew
  have hok : (!wellFormedRoles (setRoles s.rolesSoFar f.toNat n.toNat r) ||
      (!s.ctx.priv && (s.core s.coreId).exceedsGrant (setRoles s.rolesSoFar f.toNat n.toNat r))) = false := by
    obtain hp | hg := hg
    · rw [hw, hp]; rfl
    · rw [hw, hg, Bool.and_false]; rfl
  refine (noLent_go s _ hl).trans ?_
  simp only [hs, hok, Bool.false_eq_true, if_false]

theorem bankRole_traps (hw : wellFormedRoles new = false ∨ (s.ctx.priv = false ∧ (s.core s.coreId).exceedsGrant new = true)) :
    Traps (exec (.bankRole f n r) s) 0x05 new s.cur.slot := by
  subst hnew
  have hbad : (!wellFormedRoles (setRoles s.rolesSoFar f.toNat n.toNat r) ||
      (!s.ctx.priv && (s.core s.coreId).exceedsGrant (setRoles s.rolesSoFar f.toNat n.toNat r))) = true := by
    obtain hw | ⟨hp, hg⟩ := hw
    · rw [hw]; rfl
    · rw [hp, hg]; exact Bool.or_true _
  rw [show exec (.bankRole f n r) s = _ from noLent_go s _ hl]
  simp only [hs, hbad, Bool.false_eq_true, if_false, if_true]
  exact ⟨_, rfl, rfl⟩

end

/-- At the end of the cycle BANK_ROLE takes a well-formed value. -/
theorem applyWrite_role {s : State} {f n : Nat} {r : BitVec 2} {new : Word} (due stamp : Nat) (g : Regs)
    (hnew : setRoles (s.core s.coreId).bankRole f n r = new) (hw : wellFormedRoles new = true) :
    s.applyWrite s.cur.ctx g ⟨due, stamp, .role f n r⟩ = s.changeRoles s.coreId new := by
  change s.takeRoles s.coreId f n r = _
  unfold State.takeRoles
  rw [hnew]
  exact if_pos hw

/-! ### The change (R170 to R172) -/

theorem get_filter_key {α : Type} (d : α) (p : Nat → Bool) (m : Store α) (k : Nat) :
    Store.get d (m.filter fun e => p e.1) k = if p k then Store.get d m k else d := by
  induction m with
  | nil => rw [List.filter_nil, Store.get_nil, ite_self]
  | cons e m ih =>
    obtain ⟨a, b⟩ := e
    rw [List.filter_cons]
    by_cases ha : p a = true
    · rw [if_pos ha, Store.get, Store.get, ih]
      by_cases e : a = k
      · rw [if_pos e, ← e, if_pos ha, if_pos rfl]
      · rw [if_neg e, if_neg e]
    · rw [if_neg ha, ih, Store.get]
      by_cases e : a = k
      · rw [← e, if_neg ha, if_neg ha]
      · rw [if_neg e]

/-- A step of a fold establishes what the other steps keep. -/
theorem foldl_establishes {α β : Type} {I P : α → Prop} {f : α → β → α} {l : List β} {b : β} (hb : b ∈ l)
    (hI : ∀ a, ∀ x ∈ l, I a → I (f a x)) (hest : ∀ a, I a → P (f a b)) (hkeep : ∀ a, ∀ x ∈ l, I a → P a → P (f a x)) {a : α} (ha : I a) :
    P (l.foldl f a) := by
  induction l generalizing a with
  | nil => exact absurd hb List.not_mem_nil
  | cons x l ih =>
    have hI' : ∀ a, ∀ y ∈ l, I a → I (f a y) := fun a y hy => hI a y (List.mem_cons_of_mem x hy)
    have hkeep' : ∀ a, ∀ y ∈ l, I a → P a → P (f a y) := fun a y hy => hkeep a y (List.mem_cons_of_mem x hy)
    have hx : I (f a x) := hI a x List.mem_cons_self ha
    rw [List.foldl_cons]
    obtain rfl | hm := List.mem_cons.mp hb
    · exact (List.foldlRecOn (motive := fun a => I a ∧ P a) l f ⟨hx, hest a ha⟩
        fun a h y hy => ⟨hI' a y hy h.1, hkeep' a y hy h.1 h.2⟩).2
    · exact ih hm hI' hkeep' hx

section
variable (s : State) (core j : Nat)

/-- Leaving a bank's role changes no local byte and no record of what is CHANGING. -/
theorem leaveBank_keeps : (s.leaveBank core j).2.now = s.now ∧ ((s.leaveBank core j).2.core core).changing = (s.core core).changing ∧
    ((s.leaveBank core j).2.core core).loc = (s.core core).loc := by
  unfold State.leaveBank
  dsimp only
  split
  · have htags := keepsTags_foldl (core := core) s (fun s k => s.cleanLine core j k true) ((s.core core).setsListed j) fun t k =>
      cleanLine_keepsTags t core j k true
    have hloc := (serves_foldl s (fun s k => s.cleanLine core j k true) ((s.core core).setsListed j) fun t k =>
      serves_cleanLine t core j k true).stores core
    rw [State.core_modCore, if_pos rfl]
    exact ⟨htags.now, htags.changing, hloc.1⟩
  · exact ⟨rfl, rfl, rfl⟩

theorem changeBank_now (n : Nat) : (s.changeBank core n j).now = s.now := by
  unfold State.changeBank State.cureLoc
  dsimp only
  split <;> exact (leaveBank_keeps s core j).1

theorem changeBank_core (n : Nat) : ∃ x : Changing, x.bank = j ∧ x.from_ = s.now ∧
    ((s.changeBank core n j).core core).changing = (s.core core).changing ++ [x] ∧
    ((s.changeBank core n j).core core).loc = (s.core core).loc.filter fun e => e.1 / 2 ^ 14 != j := by
  obtain ⟨hnow, hch, hloc⟩ := leaveBank_keeps s core j
  refine ⟨⟨j, 0, 0, (s.leaveBank core j).1, s.now, n, roleOf (s.core core).bankRole j == 2⟩, rfl, rfl, ?_, ?_⟩
  · rw [State.changeBank, core_cureLoc, State.core_modCore, if_pos rfl]
    rw [← hch, ← hnow]
  · rw [State.changeBank, core_cureLoc, State.core_modCore, if_pos rfl]
    rw [← hloc]
    rfl

end

/-- Bank `j` of a core reads as zeros. -/
def Zeroed (s : State) (core j : Nat) : Prop := ∀ b, b / 2 ^ 14 = j → locByte s core b = 0

/-- A change of bank `j` that began in cycle `now` is under way. -/
def Begun (s : State) (core j now : Nat) : Prop := ∃ x ∈ (s.core core).changing, x.bank = j ∧ now ≤ x.from_

theorem changeBank_begins (s : State) (core n j : Nat) :
    Zeroed (s.changeBank core n j) core j ∧ Begun (s.changeBank core n j) core j s.now := by
  obtain ⟨x, hx, hf, hch, hloc⟩ := changeBank_core s core j n
  refine ⟨fun b hb => ?_, x, ?_, hx, hf.ge⟩
  · rw [locByte, hloc, get_filter_key 0 (fun a => a / 2 ^ 14 != j), if_neg]
    rw [hb, bne_self_eq_false]
    exact Bool.false_ne_true
  · rw [hch]
    exact List.mem_append_right _ (List.mem_singleton_self x)

theorem changeBank_keeps {s : State} {core j now : Nat} (n i : Nat) (h : Zeroed s core j ∧ Begun s core j now) :
    Zeroed (s.changeBank core n i) core j ∧ Begun (s.changeBank core n i) core j now := by
  obtain ⟨hz, y, hy, hb⟩ := h
  obtain ⟨x, -, -, hch, hloc⟩ := changeBank_core s core i n
  refine ⟨fun b hb => ?_, y, ?_, hb⟩
  · rw [locByte, hloc, get_filter_key 0 (fun a => a / 2 ^ 14 != i)]
    split
    · exact hz b hb
    · rfl
  · rw [hch]
    exact List.mem_append_left _ hy

theorem le_busyEnd (c : CoreSt) (now j : Nat) : now ≤ c.busyEnd now j := by
  unfold CoreSt.busyEnd
  exact foldl_keeps (fun m => now ≤ m) _ _ (fun m b h => h.trans (Nat.le_max_left ..)) now (Nat.le_refl _)

/-- A change takes time: it is timed to end after the cycle it began in. -/
theorem retime_mem (c : CoreSt) {x : Changing} {l : List Changing} (h : x ∈ l) (a b p : Nat) :
    ∃ y ∈ c.retime a b p l, y.bank = x.bank ∧ x.from_ ≤ y.stable := by
  induction l generalizing a b p with
  | nil => exact absurd h List.not_mem_nil
  | cons z l ih =>
    rw [CoreSt.retime]
    obtain rfl | hm := List.mem_cons.mp h
    · refine ⟨_, List.mem_cons_self, rfl, ?_⟩
      generalize hst : (if x.change = a then max x.from_ b else x.from_) = start
      have hstart : x.from_ ≤ start := by rw [← hst]; split <;> omega
      have hbusy := le_busyEnd c start x.bank
      dsimp only
      split
      · omega
      · split <;> omega
    · obtain ⟨y, hy, h1, h2⟩ := ih hm _ _ _
      exact ⟨y, List.mem_cons_of_mem _ hy, h1, h2⟩

/-- The banks of a list begin their changes one after the other. -/
theorem changeBanks_begin (s : State) (core n : Nat) {js : List Nat} {j : Nat} (hj : j ∈ js) :
    Zeroed (js.foldl (fun s j => s.changeBank core n j) s) core j ∧ Begun (js.foldl (fun s j => s.changeBank core n j) s) core j s.now :=
  foldl_establishes (I := fun t : State => t.now = s.now) (P := fun t => Zeroed t core j ∧ Begun t core j s.now) hj
    (fun t i _ h => (changeBank_now t core i n).trans h) (fun t h => h ▸ changeBank_begins t core n j)
    (fun _ i _ _ h => changeBank_keeps n i h) rfl

/-- The banks whose fields differ between two values of BANK_ROLE. -/
def changedBanks (old new : Word) : List Nat := (upTo 32).filter fun j => roleOf old j != roleOf new j

/-- A core whose BANK_ROLE takes a value, its changes timed. -/
def takesRoles (new : Word) (c : CoreSt) : CoreSt := { c with bankRole := new, changing := c.retime 0 0 0 c.changing }

theorem core_modCore_same (s : State) (core : Nat) (f : CoreSt → CoreSt) : (s.modCore core f).core core = f (s.core core) :=
  (State.core_modCore ..).trans (if_pos rfl)

theorem changeRoles_core (s : State) (core : Nat) (new : Word) : ∃ n, (s.changeRoles core new).core core =
    takesRoles new (((changedBanks (s.core core).bankRole new).foldl (fun s j => s.changeBank core n j) s).core core) :=
  ⟨_, core_modCore_same ((changedBanks (s.core core).bankRole new).foldl (fun t j => t.changeBank core
    ((s.core core).changing.foldl (fun m x => max m x.change) 0 + 1) j) s) core (takesRoles new)⟩

/-- What giving BANK_ROLE a new value does to a bank whose field changes. -/
theorem changeRoles_spec {s : State} {core j : Nat} {new : Word} (hj : j < 32) (hne : roleOf (s.core core).bankRole j ≠ roleOf new j) :
    ((s.changeRoles core new).core core).bankRole = new ∧ ((s.changeRoles core new).core core).isChanging s.now j = true ∧
      ∀ b, b / 2 ^ 14 = j → locByte (s.changeRoles core new) core b = 0 := by
  have hmem : j ∈ changedBanks (s.core core).bankRole new := List.mem_filter.mpr ⟨List.mem_range.mpr hj, bne_iff_ne.mpr hne⟩
  obtain ⟨n, hcore⟩ := changeRoles_core s core new
  obtain ⟨hz, x, hx, hbank, hfrom⟩ := changeBanks_begin s core n hmem
  obtain ⟨y, hy, hybank, hstable⟩ := retime_mem _ hx 0 0 0
  rw [hcore]
  refine ⟨rfl, List.any_eq_true.mpr ⟨y, hy, ?_⟩, fun b hb => ?_⟩
  · rw [hybank, hbank, beq_self_eq_true, decide_eq_true (hfrom.trans hstable)]
    rfl
  · rw [locByte, hcore]
    exact hz b hb

/-! ### The end of a change (R171) -/

/-- A core without the changes of bank `j` that are over. -/
def endChange (j now : Nat) (c : CoreSt) : CoreSt :=
  { c with changing := c.changing.filter fun x => x.bank != j || decide (now ≤ x.stable) }

theorem bankChangeDone_spec (s : State) : ∃ t, exec .bankChangeDone s = .next t ∧
    (∀ c, c ∈ (t.core s.arg.a).changing ↔ c ∈ (s.core s.arg.a).changing ∧ (c.bank = s.arg.b → s.now ≤ c.stable)) ∧
    (t.core s.arg.a).bankRole = (s.core s.arg.a).bankRole ∧ t.ctxs = s.ctxs := by
  refine ⟨{ s.modCore s.arg.a (endChange s.arg.b s.now) with timers := _ }, rfl, fun c => ?_, ?_, rfl⟩
  · change c ∈ ((s.modCore s.arg.a (endChange s.arg.b s.now)).core s.arg.a).changing ↔ _
    rw [core_modCore_same]
    refine List.mem_filter.trans (and_congr_right fun _ => ?_)
    simp [imp_iff_not_or]
  · change ((s.modCore s.arg.a (endChange s.arg.b s.now)).core s.arg.a).bankRole = _
    rw [core_modCore_same]
    rfl

end Sys2Proof.Claims

/-!
`bank.flush`: what a write-back does to the L2 where it has room, and what cleaning the listed lines of some banks leaves (R169, R173).
-/
namespace Sys2Proof.Claims

open Sys2Proof.Machine

/-! ### Sparse maps: what one write does to the list -/

section
variable {α : Type} [DecidableEq α] (d : α) (m : Store α) (k : Nat) (v : α)

theorem length_set_le : (Store.set d m k v).length ≤ m.length + 1 := by
  induction m with
  | nil => rw [Store.set]; split <;> simp
  | cons e m ih =>
    obtain ⟨a, b⟩ := e
    rw [Store.set]
    split
    · split <;> simp only [List.length_cons] <;> omega
    · split
      · split <;> simp only [List.length_cons] <;> omega
      · simp only [List.length_cons]; omega

variable {d v} in
/-- A second write of a key takes the place of the first. -/
theorem set_set (hv : v ≠ d) (w : α) : Store.set d (Store.set d m k v) k w = Store.set d m k w := by
  induction m with
  | nil => simp [Store.set, hv]
  | cons e m ih =>
    obtain ⟨a, b⟩ := e
    by_cases h1 : k < a
    · by_cases hw : w = d <;> simp [Store.set, h1, hv, hw]
    · by_cases h2 : a = k
      · simp [Store.set, h2, hv]
      · simp [Store.set, h1, h2, ih]

/-- Entries of other keys stay listed as they were. -/
theorem filter_set (p : Nat → Bool) (hk : p k = false) :
    (Store.set d m k v).filter (fun e => p e.1) = m.filter fun e => p e.1 := by
  induction m with
  | nil => rw [Store.set]; split <;> simp [hk]
  | cons e m ih =>
    obtain ⟨a, b⟩ := e
    rw [Store.set]
    by_cases h1 : k < a
    · rw [if_pos h1]
      split
      · rw [List.filter_cons, List.filter_cons, ih]
      · rw [List.filter_cons, if_neg (by simp [hk])]
    · rw [if_neg h1]
      by_cases h2 : a = k
      · rw [if_pos h2]
        subst h2
        have hdrop : ((a, b) :: m).filter (fun e => p e.1) = m.filter fun e => p e.1 := by
          rw [List.filter_cons, if_neg (by simp [hk])]
        split
        · rw [ih, hdrop]
        · rw [hdrop, List.filter_cons, if_neg (by simp [hk])]
      · rw [if_neg h2, List.filter_cons, List.filter_cons, ih]

end

/-! ### Write-backs into an L2 with room (R14, R169) -/

/-- The L2 of a die has a line, or room for one. -/
def HasRoom (s : State) (d line : Nat) : Prop := (s.die d).l2.length < l2Lines ∨ (s.l2Line d line).have_ ≠ 0

/-- From `s` to `t` the L2 of a die has taken bytes of one line; contexts, cores and memory are as they were. -/
structure Puts (s t : State) (d line : Nat) : Prop where
  data : KeepsData s t
  l2 : (t.die d).l2 = (s.die d).l2 ∨ ∃ x : L2Line, x.have_ ≠ 0 ∧ (t.die d).l2 = Store.set {} (s.die d).l2 line x

section
variable {s t u : State} {d line : Nat}

theorem ne_default_of_have {x : L2Line} (h : x.have_ ≠ 0) : x ≠ {} := fun e => h (by rw [e])

theorem Puts.refl (s : State) (d line : Nat) : Puts s s d line := ⟨⟨rfl, rfl, rfl⟩, .inl rfl⟩

theorem Puts.trans (h : Puts s t d line) (h' : Puts t u d line) : Puts s u d line := by
  refine ⟨h.data.trans h'.data, ?_⟩
  obtain e' | ⟨y, hy, e'⟩ := h'.l2 <;> rw [e']
  · exact h.l2
  · obtain e | ⟨x, hx, e⟩ := h.l2 <;> rw [e]
    · exact .inr ⟨y, hy, rfl⟩
    · exact .inr ⟨y, hy, set_set _ _ (ne_default_of_have hx) y⟩

theorem Puts.of_keeps (hd : KeepsData s t) (hc : KeepsCaches s t) : Puts s t d line := ⟨hd, .inl (hc.l2 d)⟩

theorem Puts.hasRoom (h : Puts s t d line) (hr : HasRoom s d line) : HasRoom t d line := by
  obtain e | ⟨x, hx, e⟩ := h.l2
  · rwa [HasRoom, State.l2Line, e]
  · exact .inr (by rwa [State.l2Line, e, Store.get_set_same])

theorem Puts.length_le (h : Puts s t d line) : (t.die d).l2.length ≤ (s.die d).l2.length + 1 := by
  obtain e | ⟨x, -, e⟩ := h.l2 <;> rw [e]
  · exact Nat.le_succ _
  · exact length_set_le ..

theorem Puts.l2Line_other (h : Puts s t d line) {line' : Nat} (hne : line' ≠ line) : t.l2Line d line' = s.l2Line d line' := by
  obtain e | ⟨x, -, e⟩ := h.l2 <;> rw [State.l2Line, e]
  · rfl
  · exact Store.get_set_other _ _ _ hne

theorem keepsData_clearPoison (s : State) (p : PoisonAt) : KeepsData s (s.clearPoison p) := by
  unfold State.clearPoison
  split <;> exact ⟨rfl, rfl, rfl⟩

theorem keepsData_backPoison (s : State) (m : Nat) (p q : PoisonAt) : KeepsData s (s.backPoison m p q) := by
  unfold State.backPoison
  split
  · exact keepsData_carryPoison ..
  · exact ⟨rfl, rfl, rfl⟩

theorem puts_setL2Line {x : L2Line} (hx : x.have_ ≠ 0) : Puts s (s.setL2Line d line x) d line :=
  ⟨⟨rfl, rfl, rfl⟩, .inr ⟨x, hx, by simp [State.setL2Line]⟩⟩

theorem l2Room_hasRoom (hr : HasRoom s d line) : s.l2Room d line = s :=
  hr.elim (l2Room_room line) (l2Room_of_held s d line)

theorem have_ne_zero {h : BitVec 4} {k : Nat} (hk : h.getLsbD k = true) : h ≠ 0 := fun e => by simp [e] at hk

/-- Sectors that the L2 of a die lacks are brought in; what it marks as dirty stays. -/
theorem l2Fill_puts (hr : HasRoom s d line) (b : BitVec 4) : Puts s (s.l2Fill d line b) d line ∧
    Within b ((s.l2Fill d line b).l2Line d line).have_ ∧ ((s.l2Fill d line b).l2Line d line).dirty = (s.l2Line d line).dirty := by
  unfold State.l2Fill
  rw [l2Room_hasRoom hr]
  dsimp only
  split
  · next hw => exact ⟨.refl s d line, (within_iff _ _).mpr hw, rfl⟩
  · next hn =>
    have hk := keepLine_keepsCaches s (line * 128) false
    rw [(l2FillPoison_keepsCaches (State.setL2Line ..) d line _).l2Line_eq d line, l2Line_setL2Line_same, hk.l2Line_eq]
    refine ⟨?_, ?_, rfl⟩
    · refine ((Puts.of_keeps (keepsData_keepLine ..) hk).trans (puts_setL2Line fun e => hn ?_)).trans
        (.of_keeps (keepsData_l2FillPoison ..) (l2FillPoison_keepsCaches ..))
      exact (BitVec.or_eq_zero_iff.mp e).2
    · intro k h4 hb
      by_cases hh : (s.l2Line d line).have_.getLsbD k = true
      · simp [hh]
      · simp [hb, h4]

end

/-- The line of the L2 after the write-back of a sector: the sector's named bytes are the new ones, and it is dirty. -/
structure SectorBack (s t : State) (d line k v m : Nat) : Prop where
  puts : Puts s t d line
  has : (t.l2Line d line).have_.getLsbD k = true
  dirty : (t.l2Line d line).dirty.getLsbD k = true
  dirties : ∀ i, (s.l2Line d line).dirty.getLsbD i = true → (t.l2Line d line).dirty.getLsbD i = true
  data : ∃ w : VWord, (t.l2Line d line).data = setLineBytes w (32 * k) 32 (mergeBytes (lineBytes w (32 * k) 32) v m)

theorem wholeSector (k : Nat) (hk : k < 4) :
    sectorsTouched (32 * k) 32 &&& ~~~sectorsWhole (32 * k) 32 = 0 ∧ (sectorsTouched (32 * k) 32).getLsbD k = true := by
  have h : ∀ k < 4, sectorsTouched (32 * k) 32 &&& ~~~sectorsWhole (32 * k) 32 = 0 ∧ (sectorsTouched (32 * k) 32).getLsbD k = true := by
    decide
  exact h k hk

theorem sectorBit (k : Nat) (hk : k < 4) : (1#4 <<< k).getLsbD k = true := by
  have h : ∀ k < 4, (1#4 <<< k).getLsbD k = true := by decide
  exact h k hk

theorem l2WriteBack_spec {s : State} {d line k : Nat} (core v m : Nat) (hr : HasRoom s d line) (hk : k < 4) :
    SectorBack s (s.l2WriteBack d core line k v m) d line k v m := by
  unfold State.l2WriteBack
  split
  · next hm =>
    obtain ⟨hwhole, ht⟩ := wholeSector k hk
    have hc := keepsCaches_foldl s (fun s k => s.clearPoison (.l2 d (4 * line + k))) (sectorList (sectorsWhole (32 * k) 32))
      fun t _ => clearPoison_keepsCaches t _
    have hd : KeepsData s ((sectorList (sectorsWhole (32 * k) 32)).foldl (fun s k => s.clearPoison (.l2 d (4 * line + k))) s) :=
      foldl_keeps (KeepsData s) _ _ (fun t _ h => h.trans (keepsData_clearPoison t _)) s ⟨rfl, rfl, rfl⟩
    unfold State.l2Write
    rw [l2Room_hasRoom hr]
    dsimp only
    rw [hwhole, l2Fill_of_within s d line 0 fun _ _ h => absurd h (by simp)]
    refine ⟨(Puts.of_keeps hd hc).trans (puts_setL2Line (have_ne_zero (k := k) (by simp [ht]))), ?_, ?_, fun i hi => ?_, ?_⟩
    all_goals rw [l2Line_setL2Line_same]
    · simp [ht]
    · simp [ht]
    · rw [hc.l2Line_eq]; simp [hi]
    · exact ⟨_, by rw [hm, mergeBytes, if_pos rfl]⟩
  · obtain ⟨hputs, hwithin, hdirty⟩ := l2Fill_puts hr (1#4 <<< k)
    have hhas := hwithin k hk (sectorBit k hk)
    refine ⟨hputs.trans (puts_setL2Line (have_ne_zero (k := k) hhas)), ?_, ?_, fun i hi => ?_, ?_⟩
    all_goals rw [l2Line_setL2Line_same]
    · exact hhas
    · simp [sectorBit k hk]
    · rw [hdirty]; simp [hi]
    · exact ⟨_, rfl⟩

/-! ### A byte that has been written back -/

/-- The L2 holds a byte of a line, dirty. -/
structure Backed (t : State) (d line o x : Nat) : Prop where
  holds : L2Holds t d line o 1 x
  dirty : (t.l2Line d line).dirty.getLsbD (o / 32) = true

section
variable {s t : State} {d line o x : Nat}

theorem Backed.of_l2Line (h : Backed s d line o x) (e : t.l2Line d line = s.l2Line d line) : Backed t d line o x :=
  ⟨⟨by rw [e]; exact h.holds.within, by rw [e]; exact h.holds.bytes⟩, by rw [e]; exact h.dirty⟩

/-- Merging bytes into a sector takes the bits of the named bytes. -/
theorem testBit_mergeBytes_named (old new m k : Nat) (hk : k < 256) (h : m.testBit (k / 8) = true) :
    (mergeBytes old new m).testBit k = new.testBit k := by
  unfold mergeBytes
  split
  · rfl
  · simp [testBit_byteBits, h, hk]

/-- A named byte of the sector written back is there. -/
theorem SectorBack.backed {k v m : Nat} {y : VWord} (h : SectorBack s t d line k v m) (hv : v = lineBytes y (32 * k) 32) (ho : o < 128)
    (hk : o / 32 = k) (hm : m.testBit (o % 32) = true) : Backed t d line o (lineBytes y o 1) := by
  obtain ⟨w, hw⟩ := h.data
  refine ⟨⟨fun i hi ht => ?_, ?_⟩, hk ▸ h.dirty⟩
  · have hi' := (getLsbD_sectorsTouched o 1 i Nat.one_pos hi).symm.trans ht
    have : i = k := by have := of_decide_eq_true hi'; omega
    exact this ▸ h.has
  · rw [hw]
    refine (lineHolds_iff _ _ _ _).mpr fun i hi => ?_
    rw [getLsbD_setLineBytes _ _ _ _ _ (by omega), if_pos (by omega), testBit_mergeBytes_named _ _ _ _ (by omega), hv, testBit_lineBytes,
      testBit_lineBytes, decide_eq_true (by omega), decide_eq_true (by omega),
      show 8 * (32 * k) + (8 * o + i - 8 * (32 * k)) = 8 * o + i by omega]
    rwa [show (8 * o + i - 8 * (32 * k)) / 8 = o % 32 by omega]

theorem sectorMask_without (b : BitVec 128) {k : Nat} (hk : o / 32 ≠ k) :
    sectorMask (b &&& ~~~byteRange o 1) k = sectorMask b k := by
  refine Nat.eq_of_testBit_eq fun i => ?_
  rw [testBit_sectorMask, testBit_sectorMask]
  by_cases hi : i < 32
  · rw [BitVec.getLsbD_and, BitVec.getLsbD_not, getLsbD_byteRange,
      decide_eq_false (p := _ ∧ _) (by omega), Bool.not_false, Bool.and_true]
    by_cases hlt : 32 * k + i < 128
    · simp [hlt]
    · simp [hlt, BitVec.getLsbD_of_ge b _ (Nat.le_of_not_lt hlt)]
  · rw [decide_eq_false hi, Bool.false_and, Bool.false_and]

/-- The write-back of another sector leaves it there. -/
theorem Backed.l2WriteBack {k : Nat} (h : Backed s d line o x) (ho : o < 128) (core v : Nat) (b : BitVec 128) (hr : HasRoom s d line)
    (hk : k < 4) (hne : o / 32 ≠ k) : Backed (s.l2WriteBack d core line k v (sectorMask b k)) d line o x := by
  refine ⟨?_, (l2WriteBack_spec core v _ hr hk).dirties _ h.dirty⟩
  have := h.holds.l2WriteBack Nat.one_pos (by omega) core v k (avoids_without_byteRange b o 1 (by omega)) hk
  rwa [sectorMask_without b hne] at this

end

/-! ### Cleaning a line of the cache banks (R169) -/

/-- A cache line once it has been written back: valid and clean. -/
def cleaned (x : CacheLine) : CacheLine := { x with dirty := 0, bytes := 0 }

section
variable {s t : State} {core line : Nat}

/-- A dirty sector of a cache line is written back, and its poison with it. -/
def backSector (core line : Nat) (x : CacheLine) (s : State) (k : Nat) : State :=
  (s.l2WriteBack (dieOf core) core line k (lineBytes x.data (32 * k) 32) (sectorMask x.bytes k)).backPoison
    (sectorMask x.bytes k) (.cache core (4 * line + k)) (.l2 (dieOf core) (4 * line + k))

theorem writeSectors_eq (s : State) (core line : Nat) (x : CacheLine) :
    s.writeSectors core line x = (sectorList x.dirty).foldl (backSector core line x) s := rfl

theorem backSector_puts (x : CacheLine) (hr : HasRoom s (dieOf core) line) {k : Nat} (hk : k < 4) :
    Puts s (backSector core line x s k) (dieOf core) line :=
  (l2WriteBack_spec core _ _ hr hk).puts.trans (.of_keeps (keepsData_backPoison ..) (backPoison_keepsCaches ..))

theorem backSector_backs (x : CacheLine) (hr : HasRoom s (dieOf core) line) {o : Nat} (ho : o < 128) (hb : x.bytes.getLsbD o = true) :
    Backed (backSector core line x s (o / 32)) (dieOf core) line o (lineBytes x.data o 1) := by
  refine Backed.of_l2Line ((l2WriteBack_spec core _ _ hr (by omega)).backed rfl ho rfl ?_) ((backPoison_keepsCaches ..).l2Line_eq ..)
  rw [testBit_sectorMask, decide_eq_true (Nat.mod_lt o (by decide)), Bool.true_and, Nat.div_add_mod]
  exact hb

theorem Backed.backSector {o v : Nat} (h : Backed s (dieOf core) line o v) (ho : o < 128) (x : CacheLine)
    (hr : HasRoom s (dieOf core) line) {k : Nat} (hk : k < 4) (hne : o / 32 ≠ k) :
    Backed (backSector core line x s k) (dieOf core) line o v :=
  (h.l2WriteBack ho core _ x.bytes hr hk hne).of_l2Line ((backPoison_keepsCaches ..).l2Line_eq ..)

theorem writeSectors_puts (x : CacheLine) (hr : HasRoom s (dieOf core) line) :
    Puts s (s.writeSectors core line x) (dieOf core) line := by
  rw [writeSectors_eq]
  refine List.foldlRecOn (motive := fun t => Puts s t (dieOf core) line) _ _ (.refl ..) fun t ht k hk => ?_
  exact ht.trans (backSector_puts x (ht.hasRoom hr) (mem_sectorList.mp hk).1)

/-- The dirty bytes that a cache line names are written back. -/
theorem writeSectors_backs (x : CacheLine) (hr : HasRoom s (dieOf core) line) {o : Nat} (ho : o < 128)
    (hd : x.dirty.getLsbD (o / 32) = true)
    (hb : x.bytes.getLsbD o = true) : Backed (s.writeSectors core line x) (dieOf core) line o (lineBytes x.data o 1) := by
  rw [writeSectors_eq]
  refine foldl_establishes (I := fun t => HasRoom t (dieOf core) line)
    (P := fun t => Backed t (dieOf core) line o (lineBytes x.data o 1)) (b := o / 32) (mem_sectorList.mpr ⟨by omega, hd⟩)
    (fun t k hk ht => ?_) (fun t ht => backSector_backs x ht ho hb) (fun t k hk ht h => ?_) hr
  · exact (backSector_puts x ht (mem_sectorList.mp hk).1).hasRoom ht
  · by_cases hsame : o / 32 = k
    · exact hsame ▸ backSector_backs x ht ho hb
    · exact h.backSector ho x ht (mem_sectorList.mp hk).1 hsame

theorem cleanLine_line (t : State) (core b k0 j k : Nat) :
    ((t.cleanLine core b k0 true).core core).line j k = (t.core core).line j k ∨ (j * 128 + k = b * 128 + k0 ∧
      ((t.cleanLine core b k0 true).core core).line j k = cleaned ((t.core core).line j k)) := by
  obtain e | ⟨line, hl, e⟩ := cleanLine_cases t core b k0 true <;> rw [e]
  · exact .inl rfl
  · have hw := writeSectors_keepsBanks t core line ((t.core core).line b k0)
    rw [core_modCore_same, line_of_set (b := b) (k := k0) rfl]
    split
    · next hkey =>
      refine .inr ⟨hkey, ?_⟩
      rw [CoreSt.line, CoreSt.line, hkey]
      rfl
    · exact .inl (hw.line_eq ..)

/-- Cleaning a line that is there leaves it clean. -/
theorem cleanLine_cleans {t : State} {core b k line : Nat} (h : ((t.core core).line b k).line = some line) :
    (((t.cleanLine core b k true).core core).line b k).dirty = 0 := by
  unfold State.cleanLine
  dsimp only
  rw [h]
  dsimp only
  split
  · next hd => exact hd
  · rw [core_modCore_same]
    exact congrArg CacheLine.dirty (line_setLine_same ..)

end

/-! ### Cleaning the lines of some banks -/

/-- No other entry of a core's cache banks is of the line. -/
def Sole (s : State) (core line j k : Nat) : Prop :=
  ∀ j' k', ((s.core core).line j' k').line = some line → j' = j ∧ k' = k

/-- The entry is as it was in `s`; or it is clean, and the L2 has what it alone held dirty. -/
def EntryKept (s t : State) (core j k : Nat) : Prop :=
  (t.core core).line j k = (s.core core).line j k ∨
    ((t.core core).line j k = cleaned ((s.core core).line j k) ∧
      ∀ line o, ((s.core core).line j k).line = some line → Sole s core line j k → o < 128 →
        ((s.core core).line j k).dirty.getLsbD (o / 32) = true → ((s.core core).line j k).bytes.getLsbD o = true →
        Backed t (dieOf core) line o (lineBytes ((s.core core).line j k).data o 1))

/-- From `s` to `t` at most `n` lines of a core's cache banks have been cleaned into an L2 with room. -/
structure Flushed (core : Nat) (s t : State) (n : Nat) : Prop where
  serves : Serves s t
  ctxs : t.ctxs = s.ctxs
  mem : t.mem = s.mem
  room : (t.die (dieOf core)).l2.length ≤ (s.die (dieOf core)).l2.length + n
  tags : KeepsTags core s t
  entry : ∀ j k, EntryKept s t core j k

section
variable {s t : State} {core n : Nat}

theorem Flushed.refl (core : Nat) (s : State) : Flushed core s s 0 :=
  ⟨.refl s, rfl, rfl, Nat.le_refl _, .refl s core, fun _ _ => .inl rfl⟩

/-- Lines at one place of the banks are the same line. -/
theorem line_congr (c : CoreSt) {j k j' k' : Nat} (h : j * 128 + k = j' * 128 + k') : c.line j k = c.line j' k' := by
  rw [CoreSt.line, CoreSt.line, h]

/-- Cleaning a dirty line keeps the entries, its own among them. -/
theorem entryKept_clean {b k0 line : Nat} (htags : KeepsTags core s t) (hroom : HasRoom t (dieOf core) line)
    (hl : ((t.core core).line b k0).line = some line) (hd : ((t.core core).line b k0).dirty ≠ 0)
    (hl2 : ∀ x, (t.cleanLine core b k0 true).l2Line (dieOf core) x =
      (t.writeSectors core line ((t.core core).line b k0)).l2Line (dieOf core) x)
    {j k : Nat} (h : EntryKept s t core j k) : EntryKept s (t.cleanLine core b k0 true) core j k := by
  obtain hsame | ⟨hclean, hback⟩ := h
  · obtain e | ⟨hkey, e⟩ := cleanLine_line t core b k0 j k
    · exact .inl (e.trans hsame)
    · refine .inr ⟨e.trans (congrArg cleaned hsame), fun line' o hl' _ ho hdo hbo => ?_⟩
      have hline := line_congr (t.core core) hkey
      rw [← hsame, hline] at hl' hdo hbo ⊢
      obtain rfl : line = line' := Option.some.inj (hl.symm.trans hl')
      exact (writeSectors_backs _ hroom ho hdo hbo).of_l2Line (hl2 line)
  · have hkey : ¬ j * 128 + k = b * 128 + k0 := fun hkey => hd (by rw [← line_congr (t.core core) hkey, hclean]; rfl)
    obtain e | ⟨hkey', -⟩ := cleanLine_line t core b k0 j k
    · refine .inr ⟨e.trans hclean, fun line' o hl' hsole ho hdo hbo => (hback line' o hl' hsole ho hdo hbo).of_l2Line ?_⟩
      have hne : line' ≠ line := by
        rintro rfl
        obtain ⟨rfl, rfl⟩ := hsole b k0 ((htags.tag b k0).symm.trans hl)
        exact hkey rfl
      exact (hl2 line').trans ((writeSectors_puts _ hroom).l2Line_other hne)
    · exact absurd hkey' hkey

/-- One more line is cleaned. -/
theorem Flushed.clean (h : Flushed core s t n) (hr : (s.die (dieOf core)).l2.length + n < l2Lines) (b k0 : Nat) :
    Flushed core s (t.cleanLine core b k0 true) (n + 1) := by
  by_cases hd : ((t.core core).line b k0).dirty = 0
  · rw [cleanLine_of_clean t core b k0 true hd]
    exact ⟨h.serves, h.ctxs, h.mem, h.room.trans (Nat.le_succ _), h.tags, h.entry⟩
  · have hserves := h.serves.trans (serves_cleanLine t core b k0 true)
    have htags := h.tags.trans (cleanLine_keepsTags t core b k0 true)
    obtain e | ⟨line, hl, e⟩ := cleanLine_cases t core b k0 true
    · rw [e]
      exact ⟨h.serves, h.ctxs, h.mem, h.room.trans (Nat.le_succ _), h.tags, h.entry⟩
    · have hroom : HasRoom t (dieOf core) line := .inl (Nat.lt_of_le_of_lt h.room hr)
      obtain ⟨⟨hctxs, -, hmem⟩, -⟩ := writeSectors_puts ((t.core core).line b k0) hroom
      have hlen := (writeSectors_puts ((t.core core).line b k0) hroom).length_le
      refine ⟨hserves, ?_, ?_, ?_, htags, fun j k => entryKept_clean h.tags hroom hl hd (fun x => by rw [e]; rfl) (h.entry j k)⟩
      · rw [e]; exact hctxs.trans h.ctxs
      · rw [e]; exact hmem.trans h.mem
      · rw [e]
        exact hlen.trans (Nat.succ_le_succ h.room)

/-- The lines of a list are cleaned. -/
theorem Flushed.cleanAll (h : Flushed core s t n) (l : List (Nat × Nat)) (hr : (s.die (dieOf core)).l2.length + n + l.length ≤ l2Lines) :
    Flushed core s (l.foldl (fun t p => t.cleanLine core p.1 p.2 true) t) (n + l.length) := by
  induction l generalizing t n with
  | nil => exact h
  | cons p l ih =>
    rw [List.length_cons] at hr
    rw [List.foldl_cons, List.length_cons, Nat.add_comm l.length 1, ← Nat.add_assoc]
    exact ih (h.clean (by omega) p.1 p.2) (by omega)

/-- Each of them that is of some line is clean afterwards. -/
theorem cleanAll_cleans {l : List (Nat × Nat)} {j k line : Nat} (hm : (j, k) ∈ l) (hl : ((s.core core).line j k).line = some line) :
    (((l.foldl (fun t p => t.cleanLine core p.1 p.2 true) s).core core).line j k).dirty = 0 := by
  refine foldl_establishes (I := fun t : State => ((t.core core).line j k).line = some line)
    (P := fun t : State => ((t.core core).line j k).dirty = 0) hm (fun t p _ ht => ?_) (fun t ht => cleanLine_cleans ht)
    (fun t p _ _ hp => ?_) hl
  · exact ((cleanLine_keepsTags t core p.1 p.2 true).tag j k).trans ht
  · obtain e | ⟨-, e⟩ := cleanLine_line t core p.1 p.2 j k <;> rw [e]
    · exact hp
    · rfl

/-! ### The banks of a flush, one after the other -/

/-- The places of the listed lines of some banks. -/
def places (c : CoreSt) (js : List Nat) : List (Nat × Nat) := js.flatMap fun j => (c.setsListed j).map fun k => (j, k)

theorem mem_of_get_ne {α : Type} {d : α} {m : Store α} {k : Nat} (h : Store.get d m k ≠ d) : ∃ v, (k, v) ∈ m := by
  induction m with
  | nil => exact absurd rfl h
  | cons e m ih =>
    obtain ⟨a, b⟩ := e
    rw [Store.get] at h
    split at h
    · next e => exact ⟨b, e ▸ List.mem_cons_self⟩
    · obtain ⟨v, hv⟩ := ih h
      exact ⟨v, List.mem_cons_of_mem _ hv⟩

theorem mem_setsListed {c : CoreSt} {j k line : Nat} (hk : k < 128) (hl : (c.line j k).line = some line) : k ∈ c.setsListed j := by
  obtain ⟨v, hv⟩ := mem_of_get_ne (d := ({} : CacheLine)) (m := c.lines) (k := j * 128 + k) fun e =>
    absurd ((congrArg CacheLine.line e).symm.trans hl) (by simp)
  refine List.mem_map.mpr ⟨_, List.mem_filter.mpr ⟨hv, beq_iff_eq.mpr ?_⟩, ?_⟩
  · dsimp only; omega
  · dsimp only; omega

theorem lt_of_mem_setsListed {c : CoreSt} {j k : Nat} (h : k ∈ c.setsListed j) : k < 128 := by
  obtain ⟨e, -, rfl⟩ := List.mem_map.mp h
  exact Nat.mod_lt _ (by decide)

theorem mem_places {c : CoreSt} {js : List Nat} {j k line : Nat} (hj : j ∈ js) (hk : k < 128) (hl : (c.line j k).line = some line) :
    (j, k) ∈ places c js :=
  List.mem_flatMap.mpr ⟨j, hj, List.mem_map.mpr ⟨k, mem_setsListed hk hl, rfl⟩⟩

/-- Classes of a list's members are no longer than it together. -/
theorem length_classes_le {α : Type} (f : α → Nat) (l : List α) {js : List Nat} (h : js.Nodup) :
    (js.flatMap fun j => l.filter fun a => f a == j).length ≤ l.length := by
  induction js generalizing l with
  | nil => exact Nat.zero_le _
  | cons j js ih =>
    obtain ⟨hj, hn⟩ := List.nodup_cons.mp h
    have hrest : (js.flatMap fun i => l.filter fun a => f a == i) =
        js.flatMap fun i => (l.filter fun a => !(f a == j)).filter fun a => f a == i := by
      refine List.flatMap_congr fun i hi => ?_
      rw [List.filter_filter]
      refine List.filter_congr fun a _ => ?_
      by_cases e : f a = i
      · have : f a ≠ j := fun e' => hj (e' ▸ e ▸ hi)
        simp [e, e ▸ this]
      · simp [e]
    have hsplit := List.length_eq_length_filter_add (l := l) fun a => f a == j
    rw [List.flatMap_cons, List.length_append, hrest]
    have := ih (l.filter fun a => !(f a == j)) hn
    omega

theorem length_places_le (c : CoreSt) {js : List Nat} (h : js.Nodup) : (places c js).length ≤ c.lines.length := by
  refine Nat.le_trans (Nat.le_of_eq ?_) (length_classes_le (fun e : Nat × CacheLine => e.1 / 128) c.lines h)
  simp [places, CoreSt.setsListed, List.length_flatMap]

/-- Cleaning a line of one bank leaves the lists of the others. -/
theorem setsListed_cleanLine (t : State) (core b : Nat) {k j : Nat} (hk : k < 128) (hj : j ≠ b) :
    ((t.cleanLine core b k true).core core).setsListed j = (t.core core).setsListed j := by
  obtain e | ⟨line, -, e⟩ := cleanLine_cases t core b k true <;> rw [e]
  have hkeep := (writeSectors_keepsBanks t core line ((t.core core).line b k)).lines core
  have hset := filter_set ({} : CacheLine) (t.core core).lines (b * 128 + k) (cleaned ((t.core core).line b k)) (fun a => a / 128 == j)
    (beq_false_of_ne (by omega))
  rw [core_modCore_same]
  unfold CoreSt.setsListed CoreSt.setLine
  dsimp only
  rw [hkeep]
  exact congrArg (List.map fun e => e.1 % 128) hset

theorem coreId_cleanLine (t : State) (core b k : Nat) : (t.cleanLine core b k true).coreId = t.coreId := by
  rw [State.coreId, (serves_cleanLine t core b k true).cur, State.coreId]

/-- The lines of one bank. -/
theorem flushBank_eq {s : State} (hid : s.coreId = core) (j : Nat) (ks : List Nat) :
    ks.foldl (fun s k => s.cleanLine s.coreId j k true) s = ks.foldl (fun t k => t.cleanLine core j k true) s := by
  induction ks generalizing s with
  | nil => rw [List.foldl_nil, List.foldl_nil]
  | cons k ks ih =>
    rw [List.foldl_cons, List.foldl_cons, hid]
    exact ih ((coreId_cleanLine ..).trans hid)

theorem setsListed_flushBank (s : State) (core b : Nat) {ks : List Nat} (hks : ∀ k ∈ ks, k < 128) {j : Nat} (hj : j ≠ b) :
    ((ks.foldl (fun t k => t.cleanLine core b k true) s).core core).setsListed j = (s.core core).setsListed j :=
  List.foldlRecOn (motive := fun t : State => (t.core core).setsListed j = (s.core core).setsListed j) _ _ rfl fun t h k hk =>
    (setsListed_cleanLine t core b (hks k hk) hj).trans h

/-- A flush cleans the listed lines of its banks. -/
theorem flush_eq (s : State) {js : List Nat} (h : js.Nodup) :
    js.foldl (fun s j => ((s.core s.coreId).setsListed j).foldl (fun s k => s.cleanLine s.coreId j k true) s) s =
      (places (s.core s.coreId) js).foldl (fun t p => t.cleanLine s.coreId p.1 p.2 true) s := by
  induction js generalizing s with
  | nil => rfl
  | cons j js ih =>
    obtain ⟨hj, hn⟩ := List.nodup_cons.mp h
    have hid : (((s.core s.coreId).setsListed j).foldl (fun t k => t.cleanLine s.coreId j k true) s).coreId = s.coreId :=
      List.foldlRecOn (motive := fun t : State => t.coreId = s.coreId) _ _ rfl fun t ht k _ => (coreId_cleanLine ..).trans ht
    have hplaces : places ((((s.core s.coreId).setsListed j).foldl (fun t k => t.cleanLine s.coreId j k true) s).core s.coreId) js =
        places (s.core s.coreId) js :=
      List.flatMap_congr fun i hi => by
        rw [setsListed_flushBank s s.coreId j (fun k => lt_of_mem_setsListed) fun e => hj (e ▸ hi)]
    rw [List.foldl_cons, flushBank_eq rfl, ih _ hn, hid, hplaces, places, places, List.flatMap_cons, List.foldl_append, List.foldl_map]

/-- What a flush of banks none of which is CHANGING leaves, where the L2 has room for all that the cache banks list. -/
theorem bankFlush_goes {s : State} {f n : BitVec 5} (hl : s.lent = 0) (hs : (s.core s.coreId).someChanging s.now f.toNat n.toNat = false)
    (hp : ∀ p ∈ s.ctx.flow.pending, p.stamp ≠ s.ctx.flow.stamp)
    (hr : (s.die (dieOf s.coreId)).l2.length + (s.core s.coreId).lines.length ≤ l2Lines) :
    ∃ t m, exec (.bankFlush f n) s = .next t ∧ Flushed s.coreId s t m ∧
      ∀ j k line, ((s.core s.coreId).line j k).line = some line → k < 128 → f.toNat ≤ j → j ≤ f.toNat + n.toNat →
        roleOf (s.core s.coreId).bankRole j = 0 → ((t.core s.coreId).line j k).dirty = 0 := by
  have hgo : exec (.bankFlush f n) s = .next (((((upTo (n.toNat + 1)).map (f.toNat + ·)).filter fun j =>
      roleOf s.rolesSoFar j == 0)).foldl (fun s j => ((s.core s.coreId).setsListed j).foldl (fun s k =>
        s.cleanLine s.coreId j k true) s) s) := by
    refine (noLent_go s _ hl).trans ?_
    simp only [hs, Bool.false_eq_true, if_false]
  have hnodup : (((upTo (n.toNat + 1)).map (f.toNat + ·)).filter fun j => roleOf s.rolesSoFar j == 0).Nodup :=
    (List.nodup_range.map fun _ _ => Nat.add_left_cancel).filter _
  rw [flush_eq s hnodup] at hgo
  have hlen := length_places_le (s.core s.coreId) hnodup
  refine ⟨_, _, hgo, (Flushed.refl s.coreId s).cleanAll _ (by omega), fun j k line hline hk h1 h2 hrole => ?_⟩
  refine cleanAll_cleans (mem_places (List.mem_filter.mpr ⟨List.mem_map.mpr ⟨j - f.toNat, List.mem_range.mpr (by omega), by omega⟩, ?_⟩)
    hk hline) hline
  rw [rolesSoFar_of_none hp, hrole]
  rfl

end

end Sys2Proof.Claims

/-!
PROOFS. The local store and bank roles (O23).
-/
namespace Sys2Proof.Claims

open Sys2Proof.Machine

/-- What a flush leaves of an entry that it has cleaned, and of the L2's line. -/
theorem Flushed.entry_spec {core n j k line : Nat} {s t : State} (h : Flushed core s t n)
    (hl : ((s.core core).line j k).line = some line) (hd : ((t.core core).line j k).dirty = 0) :
    ((t.core core).line j k).line = some line ∧ ((t.core core).line j k).dirty = 0 ∧
      ((t.core core).line j k).have_ = ((s.core core).line j k).have_ ∧ ((t.core core).line j k).data = ((s.core core).line j k).data ∧
      (Sole s core line j k → ∀ o < 128, ((s.core core).line j k).dirty.getLsbD (o / 32) = true →
        ((s.core core).line j k).bytes.getLsbD o = true →
        lineBytes (t.l2Line (dieOf core) line).data o 1 = lineBytes ((s.core core).line j k).data o 1 ∧
          (t.l2Line (dieOf core) line).dirty.getLsbD (o / 32) = true) := by
  obtain e | ⟨e, hback⟩ := h.entry j k
  · rw [e] at hd ⊢
    exact ⟨hl, hd, rfl, rfl, fun _ o _ hdo => absurd hdo (by simp [hd])⟩
  · rw [e]
    refine ⟨hl, rfl, rfl, rfl, fun hsole o ho hdo hbo => ?_⟩
    obtain ⟨⟨-, hbytes⟩, hdirty⟩ := hback line o hl hsole ho hdo hbo
    exact ⟨hbytes.trans (Nat.mod_eq_of_lt (Nat.mod_lt _ (by decide))), hdirty⟩

theorem someChanging_true {c : CoreSt} {now f n j : Nat} (h1 : f ≤ j) (h2 : j ≤ f + n) (h : c.isChanging now j = true) :
    c.someChanging now f n = true :=
  List.any_eq_true.mpr ⟨j - f, List.mem_range.mpr (by omega), by rwa [Nat.add_sub_cancel' h1]⟩

theorem bankFlush_holds {s : State} {f n : BitVec 5} (hl : s.lent = 0) (hs : (s.core s.coreId).someChanging s.now f.toNat n.toNat = true) :
    Holds s (exec (.bankFlush f n) s) := by
  rw [show exec (.bankFlush f n) s = _ from noLent_go s _ hl]
  simp only [hs, if_true]
  exact holds_hold s

/-- Settles O23: local accesses by the address checks and the bytes, bank roles by the fields of the word, a flush by what each
cleaned line keeps, a change by its banks one after the other. -/
theorem localStoreAndBankRoles : Obligations.LocalStoreAndBankRoles := by
  unfold Obligations.LocalStoreAndBankRoles
  refine ⟨fun s d a v o z off n ea va hlent hoff hn hea hva => ?_, ⟨fun s f n r new hl hfn hp hnew hst => ?_,
    fun s f n hl hfn hp => ⟨?_, fun hst hroom => ?_⟩, fun s core j new hj hne => changeRoles_spec hj hne, bankChangeDone_spec⟩⟩
  · have hn' : n = sizeBytes z := hn
    have hea' : s.effective a (s.signedField o) n = ea := by rw [effective_signedField s a o n hlent, hea, hoff]
    have hva' : s.effective a (s.signedField o) 128 = va := by rw [effective_signedField s a o 128 hlent, hva, hoff]; rfl
    refine ⟨ld_served d a o z hn hea', st_served d a o z hn hea', vld_served a v o hva', vst_served a v o hva', fun h => ?_, fun h hr => ?_,
      fun h => ?_, fun h hr => ?_⟩
    · rw [ld_eq, st_eq, ← hn', hea']
      exact ⟨localAccess_past _ h, localAccess_past _ h⟩
    · rw [ld_eq, st_eq, ← hn', hea']
      exact ⟨localAccess_cacheBank _ h hr, localAccess_cacheBank _ h hr⟩
    · rw [vld_eq, vst_eq, hva']
      exact ⟨localAccess_past _ h, localAccess_past _ h⟩
    · rw [vld_eq, vst_eq, hva']
      exact ⟨localAccess_cacheBank _ h hr, localAccess_cacheBank _ h hr⟩
  · have hs := someChanging_false hst
    have hbank : setRoles (s.core s.coreId).bankRole f.toNat n.toNat r = new := eq_setRoles hfn hnew
    have hset : setRoles s.rolesSoFar f.toNat n.toNat r = new := by rw [rolesSoFar_of_none hp, hbank]
    refine ⟨fun hw hg => ⟨bankRole_queues hl hs hset hw hg, ?_⟩, bankRole_traps hl hs hset, ?_⟩
    · rintro _ due stamp g rfl
      exact applyWrite_role due stamp g hbank hw
    · rintro u f' n' r' new' rfl hfn' hnew' hst' hw' hg'
      have hset' : setRoles (s.queue 1 (.role f.toNat n.toNat r)).rolesSoFar f'.toNat n'.toNat r' = new' := by
        rw [rolesSoFar_queue, hset, eq_setRoles hfn' hnew']
      have hpriv : (s.queue 1 (.role f.toNat n.toNat r)).ctx.priv = s.ctx.priv := by
        rw [State.queue, State.ctx_modCtx]
      exact bankRole_queues (s := s.queue 1 (.role f.toNat n.toNat r)) hl (someChanging_false hst') hset' hw' (hpriv ▸ hg')
  · rintro ⟨j, h1, h2, hch⟩
    exact bankFlush_holds hl (someChanging_true h1 h2 hch)
  · obtain ⟨t, m, he, hflush, hclean⟩ := bankFlush_goes hl (someChanging_false hst) hp hroom
    refine ⟨t, he, hflush.serves.cur, hflush.ctxs, hflush.mem, hflush.tags.role, hflush.tags.changing, fun b => ?_, ?_⟩
    · rw [locByte, (hflush.serves.stores s.coreId).1, locByte]
    · rintro j k line _ rfl hk hline h1 h2 hrole
      exact hflush.entry_spec hline (hclean j k line hline hk h1 h2 hrole)

end Sys2Proof.Claims

/-!
PROOFS. The state at reset (O59).
-/
namespace Sys2Proof.Claims

open Sys2Proof.Machine

theorem memByte_reset {pa : Nat} (h : pa < hostBase) : State.reset.memByte pa = 0 := by
  rw [memByte_eq, if_neg (Nat.not_le_of_lt h)]
  rfl

/-- The quanta of the clusters (R265). -/
theorem quanta_reset : ∀ k < 12, State.reset.mgmtReg (0x508 + 0x20 * k) = 0x01010204 := by decide

/-- Settles O59: no part of the module is listed at reset, so each reads as its structure's default. -/
theorem resetState : Obligations.ResetState := by
  unfold Obligations.ResetState
  exact ⟨⟨fun x => rfl, fun k => ⟨rfl, rfl⟩, fun k => ⟨rfl, rfl, rfl⟩, fun k => rfl, quanta_reset, rfl, rfl, rfl, rfl, rfl, rfl, rfl⟩,
    memCanonical_reset, fun _ => memByte_reset⟩

end Sys2Proof.Claims

/-!
PROOFS. Queued results: what queueing changes, and what a result that falls due writes (O10).
-/
namespace Sys2Proof.Machine

/-! ### Vector results under a mask (R127) -/

/-- The blocks of `maskBits` from position `a` on. -/
def maskBlocks (m a n : Nat) : Nat :=
  (List.range' a n).foldr (fun j acc => (if bit m j then (2 ^ 32 - 1) * 2 ^ (32 * j) else 0) + acc) 0

theorem maskBits_eq_maskBlocks (m : Nat) : maskBits m = maskBlocks m 0 32 := by
  unfold maskBits maskBlocks upTo
  rw [List.range_eq_range']

theorem maskBlocks_succ (m a n : Nat) :
    maskBlocks m a (n + 1) = (if bit m a then (2 ^ 32 - 1) * 2 ^ (32 * a) else 0) + maskBlocks m (a + 1) n := rfl

theorem two_pow_dvd_maskBlocks (m n : Nat) : ∀ a, 2 ^ (32 * a) ∣ maskBlocks m a n := by
  induction n with
  | zero => exact fun a => Nat.dvd_zero _
  | succ n ih =>
    intro a
    rw [maskBlocks_succ]
    refine Nat.dvd_add ?_ ((Nat.pow_dvd_pow 2 (by omega)).trans (ih (a + 1)))
    split
    · exact Nat.dvd_mul_left ..
    · exact Nat.dvd_zero _

/-- The block of one position has the bits of that position. -/
theorem testBit_block (b : Bool) (a i : Nat) :
    (if b then (2 ^ 32 - 1) * 2 ^ (32 * a) else 0).testBit i = (decide (i / 32 = a) && b) := by
  cases b
  · simp
  · rw [if_pos rfl, Nat.testBit_mul_two_pow, Nat.testBit_two_pow_sub_one, Bool.and_true, ← Bool.decide_and]
    exact decide_eq_decide.mpr (by omega)

theorem testBit_maskBlocks (m n i : Nat) : ∀ a,
    (maskBlocks m a n).testBit i = (decide (a ≤ i / 32 ∧ i / 32 < a + n) && m.testBit (i / 32)) := by
  induction n with
  | zero => intro a; simp [maskBlocks, show ¬ (a ≤ i / 32 ∧ i / 32 < a) by omega]
  | succ n ih =>
    intro a
    obtain ⟨k, hk⟩ := two_pow_dvd_maskBlocks m n (a + 1)
    have hlow : (if bit m a then (2 ^ 32 - 1) * 2 ^ (32 * a) else 0) < 2 ^ (32 * (a + 1)) := by
      rw [Nat.mul_add, Nat.pow_add, Nat.mul_comm (2 ^ (32 * a))]
      split
      · exact Nat.mul_lt_mul_of_pos_right (by decide) (Nat.two_pow_pos _)
      · positivity
    rw [maskBlocks_succ, Nat.add_comm, hk, Nat.two_pow_add_eq_or_of_lt hlow, ← hk, Nat.testBit_or, ih, testBit_block, bit_eq_testBit]
    by_cases h : i / 32 = a
    · subst h; simp
    · simp only [h, decide_false, Bool.false_and, Bool.or_false]
      congr 1
      exact decide_eq_decide.mpr (by omega)

/-- A masked write takes the named positions from the new value and the others from the old one. -/
theorem getLsbD_mergeV (m : Mask) (old x : VWord) {i : Nat} (h : i < 1024) :
    (mergeV m old x).getLsbD i = if m.getLsbD (i / 32) then x.getLsbD i else old.getLsbD i := by
  have hi : i / 32 < 32 := by omega
  unfold mergeV
  split
  · next hm => rw [hm, BitVec.getLsbD_allOnes, decide_eq_true hi, if_pos rfl]
  · have hb : (BitVec.ofNat 1024 (maskBits m.toNat)).getLsbD i = m.getLsbD (i / 32) := by
      rw [BitVec.getLsbD_ofNat, maskBits_eq_maskBlocks, testBit_maskBlocks, BitVec.testBit_toNat, decide_eq_true h,
        decide_eq_true (by omega), Bool.true_and, Bool.true_and]
    simp only [BitVec.getLsbD_or, BitVec.getLsbD_and, BitVec.getLsbD_not, hb, h, decide_true, Bool.true_and]
    cases m.getLsbD (i / 32) <;> simp

/-! ### Condition bits (R112) -/

theorem getLsbD_oneBit (m n : BitVec 4) : (1#16 <<< m.toNat).getLsbD n.toNat = decide (n = m) := by
  revert m n; decide

/-- Setting or clearing one bit leaves the others. -/
theorem getLsbD_putBit (c : BitVec 16) (m n : BitVec 4) (x : Bool) :
    (if x then c ||| (1#16 <<< m.toNat) else c &&& ~~~(1#16 <<< m.toNat)).getLsbD n.toNat = if n = m then x else c.getLsbD n.toNat := by
  have hlt : n.toNat < 16 := n.isLt
  cases x <;> by_cases h : n = m <;>
    simp only [if_true, if_false, Bool.false_eq_true, BitVec.getLsbD_or, BitVec.getLsbD_and, BitVec.getLsbD_not, getLsbD_oneBit, h, hlt,
      decide_true, decide_false, Bool.not_true, Bool.not_false, Bool.and_true, Bool.and_false, Bool.or_true, Bool.or_false]

theorem Regs.getC_setC (r : Regs) (m n : BitVec 4) (x : Bool) :
    (r.setC m x).getC n = if n = m ∧ m ≠ 0 then x else r.getC n := by
  by_cases hm : m = 0
  · subst hm
    rw [Regs.setC_zero, if_neg fun h => h.2 rfl]
  · by_cases hn : n = 0
    · subst hn
      rw [if_neg fun h => hm h.1.symm]; rfl
    · unfold Regs.getC Regs.setC
      rw [if_neg hm, bne_iff_ne.mpr hn, Bool.true_and, Bool.true_and, getLsbD_putBit]
      simp only [ne_eq, hm, not_false_eq_true, and_true]

/-! ### Results that fall due (R84) -/

section
variable (s : State) (x due stamp : Nat) (r : Regs)

/-- A scalar result writes its register in its own context alone. -/
theorem ctxAt_applyWrite_s (d : BitVec 6) (v : Word) (y : Nat) : (s.applyWrite x r ⟨due, stamp, .s d v⟩).ctxAt y =
    if y = x then { s.ctxAt x with r := (s.ctxAt x).r.setS d v } else s.ctxAt y := State.ctxAt_modCtxAt ..

theorem applyWrite_k (d : BitVec 3) (v : Mask) :
    ((s.applyWrite x r ⟨due, stamp, .k d v⟩).ctxAt x).r = (s.ctxAt x).r.setK d v := by
  unfold State.applyWrite; rw [State.ctxAt_modCtxAt, if_pos rfl]

theorem applyWrite_c (d : BitVec 4) (v : Bool) :
    ((s.applyWrite x r ⟨due, stamp, .c d v⟩).ctxAt x).r = (s.ctxAt x).r.setC d v := by
  unfold State.applyWrite; rw [State.ctxAt_modCtxAt, if_pos rfl]

theorem applyWrite_v (d : BitVec 5) (m : Mask) (v : VWord) :
    ((s.applyWrite x r ⟨due, stamp, .v d m v⟩).ctxAt x).r = (s.ctxAt x).r.setV d (mergeV m ((s.ctxAt x).r.getV d) v) := by
  unfold State.applyWrite; rw [State.ctxAt_modCtxAt, if_pos rfl]

end

/-- A file whose register 0 reads `z` and takes no write. -/
theorem ite_hardwired {α β : Type} [DecidableEq α] (n m zero : α) (z x old : β) (h : n = zero → old = z) :
    (if n = m ∧ m ≠ zero then x else old) = if n = zero then z else if n = m then x else old := by
  by_cases hn : n = zero
  · rw [if_pos hn, if_neg fun h' => h'.2 (h'.1.symm.trans hn), h hn]
  · rw [if_neg hn]
    by_cases hm : n = m
    · rw [if_pos hm, if_pos ⟨hm, hm ▸ hn⟩]
    · rw [if_neg hm, if_neg fun h' => hm h'.1]

end Sys2Proof.Machine

namespace Sys2Proof.Claims

open Sys2Proof.Machine

/-- Settles O10: a result that falls due is one register write of `Regs`, and the hard-wired registers take none. -/
theorem queuedResultsLand : Obligations.QueuedResultsLand := by
  unfold Obligations.QueuedResultsLand
  refine ⟨fun s lat w => ⟨rfl, fun y hy => ?_, ?_⟩, fun s x r due stamp d e v => ?_, fun s x r due stamp d e v => ?_,
    fun s x r due stamp d e v => ?_, fun s x r due stamp d e m v i hi => ?_, fun s x y r due stamp d v hy => ?_⟩
  · exact (State.ctxAt_modCtx ..).trans (if_neg hy)
  · exact State.ctx_modCtx ..
  · rw [ctxAt_applyWrite_s, if_pos rfl, Regs.getS_setS]
    exact ite_hardwired e d 0 0 v _ fun h => h ▸ rfl
  · rw [applyWrite_k, Regs.getK_setK]
    exact ite_hardwired e d 0 _ v _ fun h => h ▸ rfl
  · rw [applyWrite_c, Regs.getC_setC]
    exact ite_hardwired e d 0 false v _ fun h => h ▸ rfl
  · rw [applyWrite_v, Regs.getV_setV]
    by_cases h : e = d
    · simp only [h, if_true, true_and, getLsbD_mergeV _ _ _ hi]
    · simp only [h, if_false, false_and]
  · rw [ctxAt_applyWrite_s, if_neg hy]

end Sys2Proof.Claims

/-!
PROOFS. The shadow stack: `call`, `calli` and `ret` (O14).
-/
namespace Sys2Proof.Claims

open Sys2Proof.Machine

/-- A slot whose request has not been answered holds. -/
theorem holds_withReply (s : State) (e : Event) (late : Bool) (k : Nat → Out) (h : ∀ x, ¬ Replied s x) :
    Holds s (withReply s e late k) := by
  have hold : ∀ (quiet : Bool) (f : Cur → Cur), Holds s (.next
      (let t := if quiet then (s.modCur f).holdQuiet else (s.modCur f).hold
       if late then t.modCur fun c => { c with waiting := true } else t)) := fun quiet f => by
    cases quiet <;> cases late <;> exact ⟨_, rfl, rfl, rfl⟩
  unfold withReply
  dsimp only
  split
  · next x hx => exact absurd hx (h x)
  · split
    · exact hold _ id
    · exact hold _ _
  · exact hold _ id

section
variable {s : State} {l : List Piece}

/-- The state of a call that has pushed its return address. -/
def pushed (s : State) (l : List Piece) : State :=
  ((served s l).writePieces s.ctx.csr.shadowTop.toNat l (s.cur.pc + 16).toNat).modCtx
    fun c => { c with csr := { c.csr with shadowTop := s.ctx.csr.shadowTop + 8 } }

theorem pushCall_goes (hroom : s.ctx.csr.shadowTop.toNat + 8 ≤ s.ctx.csr.shadowLimit.toNat)
    (hx : s.translateAll s.cur.ctx s.ctx.csr.shadowTop.toNat { kind := .shadow } true
      (s.accessPieces s.ctx.csr.shadowTop.toNat 8) = .ok l) (hw : NoWait s l) (target : Word) (gap : Nat) :
    pushCall s target gap = .next (((pushed s l).wS 1 63 (s.cur.pc + 16)).transfer target gap) := by
  have hcur : (served s l).cur = s.cur := (serves_servedAt s _ l).cur
  unfold pushCall
  dsimp only
  rw [if_neg (Nat.not_lt_of_le hroom), hx, withXlate_ok, withLines_noWait hw, hcur]
  rfl

theorem pushCall_traps (h : s.ctx.csr.shadowLimit.toNat < s.ctx.csr.shadowTop.toNat + 8) (target : Word) (gap : Nat) :
    Traps (pushCall s target gap) 0x07 s.ctx.csr.shadowTop s.cur.slot := by
  unfold pushCall
  dsimp only
  rw [if_pos h]
  exact ⟨_, rfl, rfl⟩

theorem ret_empty (hl : s.lent = 0) (h : s.ctx.csr.shadowTop.toNat < s.ctx.csr.shadowBase.toNat + 8) :
    Traps (exec .ret s) 0x06 (s.rS 63) s.cur.slot := by
  rw [show exec .ret s = _ from noLent_go s _ hl]
  dsimp only
  rw [if_pos h]
  exact ⟨_, rfl, rfl⟩

/-- What `ret` does once its entry has been read. -/
def popped (s : State) (l : List Piece) : Out :=
  if ((served s l).readPieces l).1 ≠ (s.rS 63).toNat then .next (s.takeTrap causeIntegrity (s.rS 63))
  else .next ((((served s l).readPieces l).2.modCtx fun c =>
    { c with csr := { c.csr with shadowTop := BitVec.ofNat 64 (s.ctx.csr.shadowTop.toNat - 8) } }).transfer (s.rS 63) 2)

theorem ret_reads (hl : s.lent = 0) (h : s.ctx.csr.shadowBase.toNat + 8 ≤ s.ctx.csr.shadowTop.toNat)
    (hx : s.translateAll s.cur.ctx (s.ctx.csr.shadowTop.toNat - 8) { kind := .shadow } true
      (s.accessPieces (s.ctx.csr.shadowTop.toNat - 8) 8) = .ok l) (hw : NoWait s l) :
    exec .ret s = withReply (served s l) (request opRet 0 0 0) false fun _ => popped s l := by
  rw [show exec .ret s = _ from noLent_go s _ hl]
  dsimp only
  rw [if_neg (Nat.not_lt_of_le h), hx, withXlate_ok, withLines_noWait hw]
  rfl

theorem popped_match (h : s.ctx.csr.shadowBase.toNat + 8 ≤ s.ctx.csr.shadowTop.toNat)
    (he : ((served s l).readPieces l).1 = (s.rS 63).toNat) :
    popped s l = .next (goes (((served s l).readPieces l).2.modCtx
      fun c => { c with csr := { c.csr with shadowTop := s.ctx.csr.shadowTop - 8 } }) (s.rS 63 &&& ~~~0xF#64) 2) := by
  have htop : BitVec.ofNat 64 (s.ctx.csr.shadowTop.toNat - 8) = s.ctx.csr.shadowTop - 8 := by bv_omega
  unfold popped
  rw [if_neg (not_not.mpr he), htop]
  rfl

theorem popped_mismatch (he : ((served s l).readPieces l).1 ≠ (s.rS 63).toNat) :
    Traps (popped s l) 0x06 (s.rS 63) s.cur.slot := by
  unfold popped
  rw [if_pos he]
  exact ⟨_, rfl, rfl⟩

end

/-- Settles O14: a call is `pushCall` at its target, and `ret` reads its entry, which matches or not. -/
theorem shadowStack : Obligations.ShadowStack := by
  unfold Obligations.ShadowStack
  intro s hl
  refine ⟨fun l hroom hx hw => ⟨pushed s l, rfl, fun o => ?_, fun a => ?_⟩, fun h => ⟨fun o => ?_, fun a => ?_⟩, ret_empty hl, ?_⟩
  · rw [show exec (.call o) s = _ from noLent_go s _ hl, pushCall_goes hroom hx hw, relative_eq]
    rfl
  · rw [show exec (.calli a) s = _ from noLent_go s _ hl, pushCall_goes hroom hx hw]
    rfl
  · rw [show exec (.call o) s = _ from noLent_go s _ hl]
    exact pushCall_traps h _ _
  · rw [show exec (.calli a) s = _ from noLent_go s _ hl]
    exact pushCall_traps h _ _
  · rintro l _ rfl h hx hw
    have hret := ret_reads hl h hx hw
    refine ⟨fun hr => hret ▸ holds_withReply _ _ _ _ hr, fun x hr he => ?_, fun x hr he => ?_⟩
    · rw [hret, withReply_replied _ _ _ _ x hr, popped_match h he]
    · rw [hret, withReply_replied _ _ _ _ x hr]
      exact popped_mismatch he

end Sys2Proof.Claims

/-!
PROOFS. What memory writes, the caches, the links and the banks may change: the parts behind the contexts. Of a context they change the
flow alone, by the replies that watches bring (R231).
-/
namespace Sys2Proof.Machine

/-- Of every context nothing but its flow may differ. -/
def FlowsOnly (s t : State) : Prop := ∀ x, ∃ f : Flow, t.ctxAt x = { s.ctxAt x with flow := f }

/-- `t` with the parts of `s` that stand behind the contexts: cores, dies, stacks, memory, links, what waits and what is on its way. -/
def withBehind (t s : State) : State := { t with
  ctxs := s.ctxs, cores := s.cores, dies := s.dies, hbmStacks := s.hbmStacks, mem := s.mem, wild := s.wild, outside := s.outside
  ports := s.ports, requestNumbers := s.requestNumbers, poison := s.poison, dramQueue := s.dramQueue, acks := s.acks
  agenda := s.agenda, timers := s.timers, badAccess := s.badAccess, fresh := s.fresh }

/-- From `s` to `t` only those parts have changed. -/
structure Behind (s t : State) : Prop where
  rest : withBehind t s = s
  flows : FlowsOnly s t

section
variable {s t u : State}

theorem flowsOnly_of_eq (h : t.ctxs = s.ctxs) : FlowsOnly s t := fun x => ⟨(s.ctxAt x).flow, by rw [State.ctxAt, h]; rfl⟩

theorem FlowsOnly.trans (h : FlowsOnly s t) (h' : FlowsOnly t u) : FlowsOnly s u := fun x => by
  obtain ⟨f, hf⟩ := h x
  obtain ⟨g, hg⟩ := h' x
  exact ⟨g, by rw [hg, hf]⟩

theorem FlowsOnly.keepsContexts (h : FlowsOnly s t) : Claims.KeepsContexts s t := fun x => by
  obtain ⟨f, hf⟩ := h x
  rw [hf]
  exact ⟨rfl, rfl, rfl, rfl, rfl, rfl, rfl⟩

theorem FlowsOnly.failCause (h : FlowsOnly s t) (x : Nat) : (t.ctxAt x).failCause = (s.ctxAt x).failCause := by
  obtain ⟨f, hf⟩ := h x
  rw [hf]

theorem FlowsOnly.launch (h : FlowsOnly s t) (x : Nat) : (t.ctxAt x).launch = (s.ctxAt x).launch := by
  obtain ⟨f, hf⟩ := h x
  rw [hf]

theorem behind_of_eq (hr : withBehind t s = s) (hc : t.ctxs = s.ctxs) : Behind s t := ⟨hr, flowsOnly_of_eq hc⟩

theorem Behind.trans (h : Behind s t) (h' : Behind t u) : Behind s u where
  rest := (congrArg (withBehind · s) h'.rest).trans h.rest
  flows := h.flows.trans h'.flows

theorem Behind.walker (h : Behind s t) : t.walker = s.walker := (congrArg State.walker h.rest :)
theorem Behind.remoteReplies (h : Behind s t) : t.remoteReplies = s.remoteReplies := (congrArg State.remoteReplies h.rest :)
theorem Behind.arg (h : Behind s t) : t.arg = s.arg := (congrArg State.arg h.rest :)
theorem Behind.cur (h : Behind s t) : t.cur = s.cur := (congrArg State.cur h.rest :)
theorem Behind.now (h : Behind s t) : t.now = s.now := (congrArg State.now h.rest :)
theorem Behind.mgmt (h : Behind s t) : t.mgmt = s.mgmt := (congrArg State.mgmt h.rest :)
theorem Behind.clusters (h : Behind s t) : t.clusters = s.clusters := (congrArg State.clusters h.rest :)

end

theorem Behind.refl (s : State) : Behind s s := behind_of_eq rfl rfl

theorem behind_foldl (s : State) {β : Type} (f : State → β → State) (l : List β) (hf : ∀ t b, Behind t (f t b)) :
    Behind s (l.foldl f s) :=
  foldl_keeps (Behind s) f l (fun t b h => h.trans (hf t b)) s (.refl s)

section
variable (s : State)

/-! ### The memory side (R197) -/

theorem behind_modCore (i : Nat) (f : CoreSt → CoreSt) : Behind s (s.modCore i f) := behind_of_eq rfl rfl

theorem behind_putBytes (pa n v : Nat) : Behind s (s.putBytes pa n v) := by
  rw [putBytes_eq]
  exact behind_of_eq rfl rfl

theorem behind_cureMem (pa n : Nat) : Behind s (s.cureMem pa n) := by
  unfold State.cureMem
  split <;> exact behind_of_eq rfl rfl

theorem behind_cureLoc (core a n : Nat) : Behind s (s.cureLoc core a n) := by
  unfold State.cureLoc
  split <;> exact behind_of_eq rfl rfl

theorem behind_markPoison (p : PoisonAt) : Behind s (s.markPoison p) := by
  unfold State.markPoison
  split <;> exact behind_of_eq rfl rfl

theorem behind_clearPoison (p : PoisonAt) : Behind s (s.clearPoison p) := by
  unfold State.clearPoison
  split <;> exact behind_of_eq rfl rfl

theorem behind_carryPoison (p q : PoisonAt) : Behind s (s.carryPoison p q) := by
  unfold State.carryPoison
  split
  · exact behind_markPoison s q
  · exact behind_clearPoison s q

theorem behind_backPoison (m : Nat) (p q : PoisonAt) : Behind s (s.backPoison m p q) := by
  unfold State.backPoison
  split
  · exact behind_carryPoison s p q
  · exact .refl s

theorem behind_keepLine (pa : Nat) (b : Bool) : Behind s (s.keepLine pa b) := by
  unfold State.keepLine
  split <;> exact behind_of_eq rfl rfl

theorem behind_dramTake (pa n : Nat) : Behind s (s.dramTake pa n) := by
  refine behind_foldl s _ _ fun t y => ?_
  dsimp only
  split
  · exact .refl t
  · split <;> exact behind_of_eq rfl rfl

theorem behind_dramLeave (w : DramParty) : Behind s (s.dramLeave w) := by
  unfold State.dramLeave
  split <;> exact behind_of_eq rfl rfl

/-- A reply to a held bundle is a wait that has ended: only the flow of its context changes. -/
theorem behind_reply (x slot id v : Nat) : Behind s (s.reply x slot id v) := by
  refine ⟨rfl, fun y => ?_⟩
  rw [State.reply, State.ctxAt_modCore, State.ctxAt_modCtxAt]
  split
  · next e =>
    subst e
    split <;> exact ⟨_, rfl⟩
  · exact ⟨_, rfl⟩

theorem behind_watchMet (w : Watch) : Behind s (s.watchMet w) := by
  unfold State.watchMet
  split
  · exact behind_reply ..
  · exact behind_of_eq rfl rfl

theorem behind_testWatches (d lo hi : Nat) : Behind s (s.testWatches d lo hi) := by
  refine behind_foldl s _ _ fun t w => ?_
  split
  · exact .refl t
  · split
    · exact (behind_watchMet t w).trans (behind_of_eq rfl rfl)
    · exact .refl t

theorem behind_memWrite (pa n v : Nat) : Behind s (s.memWrite pa n v) := by
  have hp := (behind_putBytes s pa n v).trans (behind_cureMem _ pa n)
  unfold State.memWrite
  split
  iterate 3 exact behind_of_eq rfl rfl
  iterate 2
    dsimp only
    split
    · exact hp
    · exact hp.trans (behind_testWatches ..)
  · exact hp

theorem behind_memWriteMasked (pa n v m : Nat) : Behind s (s.memWriteMasked pa n v m) := by
  unfold State.memWriteMasked
  split
  · exact behind_memWrite ..
  · refine behind_foldl s _ _ fun t j => ?_
    split
    · exact behind_memWrite ..
    · exact .refl t

theorem behind_memLand (pa n v m : Nat) (bad : Bool) : Behind s (s.memLand pa n v m bad) := by
  have hw := (behind_dramTake s pa n).trans (behind_memWriteMasked _ pa n v m)
  unfold State.memLand
  dsimp only
  split
  · exact hw.trans (behind_markPoison ..)
  · exact hw

theorem behind_memPost (pa n v m : Nat) (core : Option Nat) (bad : Bool) : Behind s (s.memPost pa n v m core bad) := by
  unfold State.memPost State.dramJoin
  dsimp only
  split
  · split <;> exact behind_of_eq rfl rfl
  · exact behind_memLand ..

theorem behind_recordMem (pa : Nat) (g : Sig) : Behind s (s.recordMem pa g) := by
  unfold State.recordMem
  split <;> exact behind_of_eq rfl rfl

theorem behind_recordBytes (pa n : Nat) (g : Sig) : Behind s (s.recordBytes pa n g) :=
  behind_foldl _ _ _ fun t _ => behind_recordMem t ..

/-! ### What engines write (R279, R362) -/

theorem behind_syncWrite (pa n v : Nat) : Behind s (s.syncWrite pa n v) := by
  unfold State.syncWrite
  dsimp only
  split
  · exact behind_memWrite ..
  · refine behind_foldl s _ _ fun t i => ?_
    split
    · exact .refl t
    · exact behind_memWrite ..

theorem behind_partyPut (pa n v : Nat) : Behind s (s.partyPut pa n v) := by
  unfold State.partyPut
  split
  · split
    · exact behind_memWrite ..
    · exact .refl s
  · split
    · exact behind_syncWrite ..
    · exact behind_memWrite ..

theorem behind_partyWrite (pa n v : Nat) : Behind s (s.partyWrite pa n v) := by
  unfold State.partyWrite
  split
  · exact behind_memPost ..
  · exact (behind_dramTake s pa n).trans (behind_partyPut ..)

theorem behind_releasePut (pa n v : Nat) (g : Sig) : Behind s (s.releasePut pa n v g) :=
  (behind_partyPut s pa n v).trans (behind_recordBytes ..)

theorem behind_releaseMem (pa n v : Nat) (g : Sig) : Behind s (s.releaseMem pa n v g) :=
  (behind_partyWrite s pa n v).trans (behind_recordBytes ..)

theorem behind_errorLog (y kind gen detail : Nat) : Behind s (s.errorLog y kind gen detail) :=
  ((behind_partyWrite s ..).trans (behind_partyWrite ..)).trans (behind_releaseMem ..)

/-! ### Other packages (R353) -/

theorem behind_sendFlit (k data : Nat) (r : Option Request) : Behind s (s.sendFlit k data r) := by
  unfold State.sendFlit
  dsimp only
  split <;> exact behind_of_eq rfl rfl

theorem behind_sendReply (p number pa x : Nat) : Behind s (s.sendReply p number pa x) := by
  unfold State.sendReply
  split
  · exact behind_sendFlit ..
  · exact .refl s

theorem behind_putRequest (r : Request) : Behind s (s.putRequest r) := by
  unfold State.putRequest
  split
  · exact behind_sendFlit ..
  · unfold State.failRequest
    dsimp only
    split <;> exact behind_of_eq rfl rfl

theorem behind_sendRequest (p op pa n : Nat) (v : Word) (x : Nat) (o : Requester) (g : Sig) :
    Behind s (s.sendRequest p op pa n v x o g) := by
  unfold State.sendRequest
  refine Behind.trans ?_ (behind_putRequest _ _)
  exact behind_of_eq rfl rfl

/-! ### The L2 (R197) -/

theorem behind_memWriteBack (core pa v m : Nat) (bad : Bool) : Behind s (s.memWriteBack core pa v m bad) := by
  unfold State.memWriteBack
  split
  · refine Behind.trans (t := if s.reachable _ then s.memLand pa 32 v m bad else s) ?_
      ((behind_sendRequest ..).trans (behind_of_eq rfl rfl))
    split
    · exact behind_memLand ..
    · exact .refl s
  · exact behind_memPost ..

theorem behind_setL2Line (d line : Nat) (l : L2Line) : Behind s (s.setL2Line d line l) := behind_of_eq rfl rfl

theorem behind_l2Clean (d line : Nat) (b : BitVec 4) : Behind s (s.l2Clean d line b) := by
  unfold State.l2Clean
  dsimp only
  split
  · exact behind_foldl s _ _ fun t k => behind_memWriteBack t ..
  · exact ((behind_keepLine s ..).trans (behind_foldl _ _ _ fun t k => behind_memWriteBack t ..)).trans (behind_setL2Line ..)

theorem behind_l2Drop (d line : Nat) : Behind s (s.l2Drop d line) :=
  ((behind_l2Clean s d line _).trans (behind_setL2Line ..)).trans (behind_foldl _ _ _ fun t _ => behind_clearPoison t ..)

theorem behind_l2Room (d line : Nat) : Behind s (s.l2Room d line) := by
  unfold State.l2Room
  dsimp only
  split
  · split
    · exact behind_l2Drop ..
    · exact .refl s
  · exact .refl s

theorem behind_l2FillPoison (d line : Nat) (ks : List Nat) : Behind s (s.l2FillPoison d line ks) := by
  unfold State.l2FillPoison
  split
  · exact .refl s
  · exact behind_foldl s _ _ fun t k => behind_carryPoison t ..

theorem behind_l2Fill (d line : Nat) (b : BitVec 4) : Behind s (s.l2Fill d line b) := by
  unfold State.l2Fill
  dsimp only
  split
  · exact .refl s
  · exact (((behind_l2Room s d line).trans (behind_keepLine ..)).trans (behind_setL2Line ..)).trans (behind_l2FillPoison ..)

theorem behind_l2Write (d core line off n x : Nat) : Behind s (s.l2Write d core line off n x) :=
  (((behind_l2Room s d line).trans (behind_l2Fill ..)).trans (behind_foldl _ _ _ fun t _ => behind_clearPoison t ..)).trans
    (behind_setL2Line ..)

theorem behind_l2WriteBack (d core line k v m : Nat) : Behind s (s.l2WriteBack d core line k v m) := by
  unfold State.l2WriteBack
  split
  · exact behind_l2Write ..
  · exact (behind_l2Fill s ..).trans (behind_setL2Line ..)

/-! ### The cache banks (R169, R172) -/

theorem behind_cleanLine (core bank set : Nat) (carry : Bool) : Behind s (s.cleanLine core bank set carry) := by
  unfold State.cleanLine
  dsimp only
  split
  · exact .refl s
  · split
    · exact .refl s
    · exact (behind_foldl s _ _ fun t k => (behind_l2WriteBack t ..).trans (behind_backPoison ..)).trans (behind_modCore ..)

theorem behind_dropLine (core bank set : Nat) : Behind s (s.dropLine core bank set) := by
  have h := (behind_cleanLine s core bank set true).trans (behind_modCore _ core fun c => c.setLine bank set {})
  unfold State.dropLine
  dsimp only
  split
  · exact h.trans (behind_foldl _ _ _ fun t _ => behind_clearPoison t ..)
  · exact h

theorem behind_leaveBank (core j : Nat) : Behind s (s.leaveBank core j).2 := by
  unfold State.leaveBank
  dsimp only
  split
  · dsimp only
    exact Behind.trans (behind_foldl s _ _ fun t k => behind_cleanLine t core j k true) (behind_modCore _ core _)
  · exact .refl s

theorem behind_changeBank (core n j : Nat) : Behind s (s.changeBank core n j) :=
  ((behind_leaveBank s core j).trans (behind_modCore ..)).trans (behind_cureLoc ..)

theorem behind_changeRoles (core : Nat) (new : Word) : Behind s (s.changeRoles core new) := by
  unfold State.changeRoles
  extract_lets old js n t
  have ht : Behind s t := Behind.trans (behind_foldl s _ js fun u j => behind_changeBank u core n j) (behind_modCore _ core _)
  exact ht.trans (behind_of_eq rfl rfl)

/-! ### Releases and acquires (R204 to R211) -/

theorem behind_cleanCore (core : Nat) : Behind s (s.cleanCore core) :=
  behind_foldl s _ _ fun t _ => behind_cleanLine t ..

theorem behind_flushL2 (core : Nat) : Behind s (s.flushL2 core) := by
  refine behind_foldl s _ _ fun t e => ?_
  dsimp only
  split
  · exact .refl t
  · exact (behind_l2Clean t ..).trans (behind_modCore ..)

theorem behind_release (core scope : Nat) : Behind s (s.release core scope) := by
  unfold State.release
  dsimp only
  split
  · exact .refl s
  · split
    · exact behind_cleanCore ..
    · exact (behind_cleanCore s core).trans (behind_flushL2 ..)

theorem behind_acquire (core scope : Nat) (g : Sig) : Behind s (s.acquire core scope g) := by
  unfold State.acquire
  split
  · exact .refl s
  · extract_lets t u
    have hu : Behind s u := Behind.trans (behind_modCore s core _) (behind_foldl t _ _ fun v e => by
      split
      · split
        · exact behind_dropLine ..
        · exact .refl v
      · exact .refl v)
    split
    · exact hu
    · refine hu.trans (behind_foldl u _ _ fun v e => ?_)
      split
      · exact behind_l2Drop ..
      · exact .refl v

/-! ### The directory and the version sets (R223, R344) -/

theorem behind_dirCreate (x : Nat) : Behind s (s.dirCreate x) := (behind_memWrite s ..).trans (behind_memWrite ..)

theorem behind_dirFree (x : Nat) : Behind s (s.dirFree x) := by
  unfold State.dirFree
  dsimp only
  split
  · exact (behind_memWrite s ..).trans (behind_memWrite ..)
  · exact behind_memWrite s ..

theorem behind_grantPin (i r : Nat) : Behind s (s.grantPin i r) := behind_memWrite ..

end

end Sys2Proof.Machine

/-!
PROOFS. `trap`, `brk`, `halt`, `eret`, `ctx.quiesce`, and what a precise trap does to its context (O16).
-/
namespace Sys2Proof.Machine

/-! ### A bundle that will not issue (R284, R360) -/

/-- Room granted may have been given back: contexts, memory and the clock are as they were. -/
def GrantsGone (s t : State) : Prop := t.ctxs = s.ctxs ∧ t.mem = s.mem ∧ t.now = s.now

theorem releaseGrant_keeps (s : State) (x : Nat) : GrantsGone s (s.releaseGrant x) := by
  unfold State.releaseGrant
  refine foldl_keeps (GrantsGone s) _ _ (fun t i ht => ?_) s ⟨rfl, rfl, rfl⟩
  split
  · split <;> exact ht
  · exact ht

theorem releaseGrants_keeps (s : State) (x : Nat) : GrantsGone s (s.releaseGrants x) := by
  unfold State.releaseGrants
  refine foldl_keeps (GrantsGone s) _ _ (fun t e ht => ?_) s ⟨rfl, rfl, rfl⟩
  split
  · split
    · obtain ⟨hc, hm, hn⟩ := releaseGrant_keeps t ‹_›
      exact ⟨hc.trans ht.1, hm.trans ht.2.1, hn.trans ht.2.2⟩
    · exact ht
  · exact ht

/-- A context whose bundle at the PC will not issue: nothing answers it any more. -/
def Ctx.abandoned (c : Ctx) : Ctx := { c with flow := { c.flow with
  waits := [], waitOps := [], walked := [], fetching := none, bankWaits := [], quiet := false, poisoned := none } }

theorem ctxAt_abandon (s : State) (x y : Nat) : (s.abandon x).ctxAt y = if y = x then (s.ctxAt x).abandoned else s.ctxAt y := by
  have hc (z : Nat) : (s.releaseGrants x).ctxAt z = s.ctxAt z := by
    rw [State.ctxAt, (releaseGrants_keeps s x).1, State.ctxAt]
  unfold State.abandon State.dropWaits
  rw [State.ctxAt_modCtxAt, ctxAt_dramLeave, ctxAt_dramLeave]
  exact (congrArg₂ (fun a b => if y = x then Ctx.abandoned a else b) (hc x) (hc y) :)

theorem abandon_mem (s : State) (x : Nat) : (s.abandon x).mem = s.mem := by
  unfold State.abandon State.dropWaits
  rw [State.modCtxAt_mem, dramLeave_mem]
  exact (releaseGrants_keeps s x).2.1

theorem abandon_now (s : State) (x : Nat) : (s.abandon x).now = s.now := by
  have hd (t : State) (w : DramParty) : (t.dramLeave w).now = t.now := (behind_dramLeave t w).now
  unfold State.abandon State.dropWaits
  rw [State.modCtxAt_now, hd]
  exact (releaseGrants_keeps s x).2.2

/-! ### Precise traps (R52, R358, R359) -/

/-- A report of a machine check concerns the parity list alone. -/
theorem reported_eq (c : Ctx) (t : TrapRec) : ∃ p, c.reported t = { c with flow := { c.flow with parity := p } } := by
  unfold Ctx.reported
  split <;> exact ⟨_, rfl⟩

section
variable {s : State} {x : Nat}

theorem ctxAt_trapBundle (hp : (s.ctxAt x).priv = false) (t : TrapRec) (y : Nat) : (s.trapBundle x t).ctxAt y =
    if y = x then ((s.ctxAt x).abandoned.reported t).trapped s.now (s.ctxAt x).pc t.slot t.cause t.info else s.ctxAt y := by
  unfold State.trapBundle
  simp only [hp, Bool.false_eq_true, if_false, State.ctxAt_modCore, State.ctxAt_modCtxAt, ctxAt_abandon, abandon_now, if_true]
  by_cases h : y = x
  · rw [if_pos h, if_pos h]; rfl
  · rw [if_neg h, if_neg h, if_neg h]

theorem trapBundle_mem (hp : (s.ctxAt x).priv = false) (t : TrapRec) : (s.trapBundle x t).mem = s.mem := by
  unfold State.trapBundle
  simp only [hp, Bool.false_eq_true, if_false, State.modCore_mem, State.modCtxAt_mem, abandon_mem]

/-- A double fault retires the context, with an entry of the error log (R359, R362). -/
theorem trapBundle_priv (hp : (s.ctxAt x).priv = true) (t : TrapRec) :
    ∃ f : Flow, (s.trapBundle x t).ctxAt x = { s.ctxAt x with phase := .retiring, failCause := some 0x05, flow := f } := by
  unfold State.trapBundle
  dsimp only
  rw [if_pos hp]
  obtain ⟨f, hf⟩ := (behind_errorLog ((s.abandon x).modCtxAt x fun c => { c with phase := .retiring, failCause := some 0x05 }) x 8
    (s.ctxAt x).csr.gen.toNat (doubleFaultDetail t.cause (s.ctxAt x).pc)).flows x
  refine ⟨f, hf.trans ?_⟩
  rw [State.ctxAt_modCtxAt, if_pos rfl, ctxAt_abandon, if_pos rfl]
  rfl

end

/-! ### The end of `eret` (R369) -/

theorem leaveResume_ctxs (s : State) (x : Nat) : (s.leaveResume x).ctxs = s.ctxs := by
  unfold State.leaveResume
  split
  · rfl
  · split
    · rfl
    · split <;> rfl

theorem applyWrite_leave (s : State) (x due stamp : Nat) (r : Regs) (k : BitVec 4) :
    (s.applyWrite x r ⟨due, stamp, .leave k⟩).ctxAt x =
      { s.ctxAt x with priv := false, flow := { (s.ctxAt x).flow with skip := k } } := by
  unfold State.applyWrite
  dsimp only
  rw [State.ctxAt, leaveResume_ctxs]
  exact (State.ctxAt_modCtxAt ..).trans (if_pos rfl)

end Sys2Proof.Machine

namespace Sys2Proof.Claims

open Sys2Proof.Machine

/-! ### The operations -/

section
variable {s : State} (hl : s.lent = 0)
include hl

theorem exec_trap_user (hp : s.ctx.priv = false) (c : BitVec 6) :
    exec (.trap c) s = .next { s with cur := { s.cur with after := some (c.toNat, s.cur.slot) } } := by
  rw [show exec (.trap c) s = _ from noLent_go s _ hl, hp]
  rfl

theorem exec_trap_priv (hp : s.ctx.priv = true) (c : BitVec 6) : Traps (exec (.trap c) s) 0x09 (c.setWidth 64) s.cur.slot := by
  rw [show exec (.trap c) s = _ from noLent_go s _ hl, hp]
  exact ⟨_, rfl, rfl⟩

/-- What `halt` makes of its context, by the mode and the routine's cause (R92, R363). -/
def halted (c : Ctx) : Ctx :=
  if c.priv then
    if c.trap.cause = 0x20 ∧ c.trap.info.getLsbD 8 then { c with phase := .parking }
    else { c with phase := .retiring, failCause := some (haltCause c.trap.cause.toNat) }
  else { c with phase := .retiring }

theorem exec_halt : exec .halt s = .next (s.setCtxAt s.cur.ctx (halted s.ctx)) := noLent_go s _ hl

theorem exec_eret_priv (hp : s.ctx.priv = true) : exec .eret s = .next (goes
    ((s.queue 1 (.leave (if 0x20 ≤ s.ctx.trap.cause.toNat then s.ctx.trap.info.setWidth 4 else 0))).modCur
      fun k => { k with flagSet := k.flagSet ||| s.ctx.trap.status }) (s.ctx.trap.pc &&& ~~~0xF#64) 2) := by
  rw [show exec .eret s = _ from noLent_go s _ hl, hp]
  rfl

theorem exec_eret_user (hp : s.ctx.priv = false) : Traps (exec .eret s) 0x01 (BitVec.ofNat 64 s.cur.word) s.cur.slot := by
  rw [show exec .eret s = _ from noLent_go s _ hl, hp]
  exact ⟨_, rfl, rfl⟩

theorem exec_ctxQuiesce_priv (hp : s.ctx.priv = true) : exec .ctxQuiesce s = if s.cur.drained then .next s else .next s.hold := by
  rw [show exec .ctxQuiesce s = _ from noLent_go s _ hl, hp]
  rfl

theorem exec_ctxQuiesce_user (hp : s.ctx.priv = false) :
    Traps (exec .ctxQuiesce s) 0x01 (BitVec.ofNat 64 s.cur.word) s.cur.slot := by
  rw [show exec .ctxQuiesce s = _ from noLent_go s _ hl, hp]
  exact ⟨_, rfl, rfl⟩

end

section
variable {c : Ctx}

theorem halted_user (hp : c.priv = false) : halted c = { c with phase := .retiring } := by rw [halted, hp]; rfl

theorem halted_park (hp : c.priv = true) (hc : c.trap.cause = 0x20) (hi : c.trap.info.getLsbD 8 = true) :
    halted c = { c with phase := .parking } := by rw [halted, hp, if_pos rfl, if_pos ⟨hc, hi⟩]

theorem haltCause_eq (x : BitVec 8) : haltCause x.toNat = if x = 0x21 then 0x06 else if x = 0x22 then 0x0B else 0x05 := by
  revert x; decide

theorem halted_fail (hp : c.priv = true) (h : c.trap.cause = 0x20 → c.trap.info.getLsbD 8 = false) :
    halted c = { c with
      phase := .retiring
      failCause := some (if c.trap.cause = 0x21 then 0x06 else if c.trap.cause = 0x22 then 0x0B else 0x05) } := by
  rw [halted, hp, if_pos rfl, if_neg fun hc => Bool.noConfusion ((h hc.1).symm.trans hc.2), haltCause_eq]

end

/-- Settles O16: each operation by its mode, and a precise trap as the entry of `Ctx.trapped` on a context whose bundle is abandoned. -/
theorem trapsAndReturns : Obligations.TrapsAndReturns := by
  unfold Obligations.TrapsAndReturns
  refine ⟨fun s hl => ⟨fun c hp => exec_trap_user hl hp c, fun c hp => exec_trap_priv hl hp c, fun c => ?_, fun hp => ?_,
      fun hp hc hi => ?_, fun hp h => ?_, fun hp => ⟨_, rfl, exec_eret_priv hl hp⟩, fun hp hd => ?_, fun hp hd => ?_, fun x => rfl⟩,
    ⟨fun s x t hp => ?_, fun s x t hp => ?_, fun s x due stamp r k => ?_⟩,
    fun s hp hl => ⟨exec_eret_user hl hp, exec_ctxQuiesce_user hl hp⟩⟩
  · rw [show exec (.brk c) s = _ from noLent_go s _ hl]
    exact ⟨_, rfl, rfl⟩
  · rw [exec_halt hl, halted_user hp]
  · rw [exec_halt hl, halted_park hp hc hi]
  · rw [exec_halt hl, halted_fail hp h]
  · rw [exec_ctxQuiesce_priv hl hp, if_pos hd]
  · rw [exec_ctxQuiesce_priv hl hp, hd]
    exact holds_hold s
  · obtain ⟨p, hr⟩ := reported_eq (s.ctxAt x).abandoned t
    refine ⟨_, rfl, ?_⟩
    rw [ctxAt_trapBundle hp, if_pos rfl, hr]
    exact ⟨rfl, rfl, rfl, rfl, rfl, rfl, rfl, rfl, rfl, rfl, fun y hy => (ctxAt_trapBundle hp t y).trans (if_neg hy),
      trapBundle_mem hp t⟩
  · obtain ⟨f, hf⟩ := trapBundle_priv hp t
    rw [hf]
    exact ⟨rfl, rfl, rfl⟩
  · rw [applyWrite_leave]
    exact ⟨rfl, rfl⟩

end Sys2Proof.Claims

/-!
PROOFS. Ring-relative accesses: the stage, the core's own bank, another core's (O36).
-/
namespace Sys2Proof.Claims

open Sys2Proof.Machine

/-! ### Addresses in a stage -/

theorem sizeBytes_dvd (z : BitVec 3) : sizeBytes z ∣ 128 := Nat.pow_dvd_pow 2 (m := z.toNat % 4) (n := 7) (by omega)

/-- A stage begins with a line, so an element of it is aligned. -/
theorem dvd_stageElem {n base log2 : Nat} (hn : n ∣ 128) (hb : base % 128 = 0) (hs : 7 ≤ log2) (i off : Nat) :
    n ∣ base + i * 2 ^ log2 + off * n := by
  have hstage : n ∣ 2 ^ log2 := hn.trans (Nat.pow_dvd_pow 2 hs)
  exact ((hn.trans (Nat.dvd_of_mod_eq_zero hb)).add (hstage.mul_left i)).add (Nat.dvd_mul_left ..)

/-- An aligned access of at most a line lies in one bank. -/
theorem bankParts_aligned {a n : Nat} (hn : n ∣ 128) (ha : n ∣ a) : bankParts a n = [(a, n, 0)] := by
  have hroom : n ≤ 2 ^ 14 - a % 2 ^ 14 :=
    have hd : n ∣ 2 ^ 14 := hn.trans (by decide)
    Nat.le_of_dvd (Nat.sub_pos_of_lt (Nat.mod_lt _ (by decide))) (Nat.dvd_sub hd ((Nat.dvd_mod_iff hd).mpr ha))
  exact if_pos hroom

/-! ### Holds and traps at a stage (R240, R244) -/

theorem holdsOrTraps_holdUnlessTrapped {o : Out} (h : GoesOn o) : HoldsOrTraps (holdUnlessTrapped o) := by
  obtain ⟨t, rfl⟩ := h
  rw [holdUnlessTrapped_next]
  split
  · next ht => exact ⟨t, rfl, .inr fun e => by rw [e] at ht; cases ht⟩
  · exact ⟨_, rfl, .inl rfl⟩

theorem goesOn_localAccess {s : State} {k : Nat → State → Out} (ea n : Nat) (write : Bool) (hk : ∀ a t, GoesOn (k a t)) :
    GoesOn (localAccess s ea n write k) := by
  unfold localAccess
  dsimp only
  split
  · exact ⟨_, rfl⟩
  · iterate 5
      split
      · exact ⟨_, rfl⟩
    exact hk _ _

theorem goesOn_remoteAccess {s : State} {k : State → Out} (core a : Nat) (write : Bool) (hk : ∀ t, GoesOn (k t)) :
    GoesOn (remoteAccess s core a write k) := by
  unfold remoteAccess
  dsimp only
  split
  · exact ⟨_, rfl⟩
  · exact hk s

section
variable {s : State} {h : BitVec 3} {k : BitVec 4} {idx side off n ea : Nat} {r : Ring} {write : Bool}
  {here : Nat → State → Out} {there : Nat → Nat → State → Out}

theorem withStage_forbidden {last : Nat} (hb : Bound s h idx r side) (hside : side = 1 ∨ side = 2) (hk : k.toNat < r.stages)
    (hf : r.forbids side (useOf s r side k.toNat) = true) (hlast : last ≤ 2 ^ r.stageLog2) (go : Ring → Nat → Out)
    (hgo : ∀ a, GoesOn (go r a)) : HoldsOrTraps (withStage s h k last go) := by
  unfold withStage
  rw [withHandle_bound hb, if_neg (by omega), if_neg (Nat.not_le_of_lt hk), if_neg (Nat.not_lt_of_le hlast)]
  rw [useOf] at hf
  simp only [hf, if_true]
  exact holdsOrTraps_holdUnlessTrapped (hgo _)

theorem withStage_past {last : Nat} (hb : Bound s h idx r side) (hside : side = 1 ∨ side = 2) (hk : k.toNat < r.stages)
    (hlast : 2 ^ r.stageLog2 < last) (go : Ring → Nat → Out) :
    Traps (withStage s h k last go) 0x05 (ringFaultInfo 4 idx k.toNat h.toNat) s.cur.slot := by
  unfold withStage
  rw [withHandle_bound hb, if_neg (by omega), if_neg (Nat.not_le_of_lt hk), if_pos hlast]
  exact traps_ringFault ..

theorem ringAccess_forbidden (hb : Bound s h idx r side) (hside : side = 1 ∨ side = 2) (hk : k.toNat < r.stages)
    (hf : r.forbids side (useOf s r side k.toNat) = true) (hlast : off * n + n ≤ 2 ^ r.stageLog2)
    (hhere : ∀ a t, GoesOn (here a t)) (hthere : ∀ c a t, GoesOn (there c a t)) :
    HoldsOrTraps (ringAccess s h k off n write here there) := by
  refine withStage_forbidden hb hside hk hf hlast _ fun a => ?_
  dsimp only
  split
  · exact goesOn_localAccess _ _ _ hhere
  · exact goesOn_remoteAccess _ _ _ (hthere _ _)

/-! ### An open stage (R244) -/

/-- In the core's own bank the access is a local one. -/
theorem ringAccess_here (ho : StageOpen s h idx r side k.toNat (off * n + n)) (hh : s.homeOf r = s.coreId)
    (hea : ea = r.base + useOf s r side k.toNat % r.stages * 2 ^ r.stageLog2 + off * n) (hal : n ∣ ea) (hl : LocalServed s ea n write) :
    ringAccess s h k off n write here there = here ea (granted s (ea / 2 ^ 14)) := by
  unfold ringAccess
  rw [withStage_open ho]
  dsimp only
  rw [if_pos hh, ← hea, localAccess_served here hl, Nat.mod_eq_zero_of_dvd hal, Nat.sub_zero]

/-- In another core's it goes through the cluster window, once the bank and the line are free. -/
theorem ringAccess_there (ho : StageOpen s h idx r side k.toNat (off * n + n)) (hh : s.homeOf r ≠ s.coreId)
    (hea : ea = r.base + useOf s r side k.toNat % r.stages * 2 ^ r.stageLog2 + off * n)
    (hc : (s.core (s.homeOf r)).isChanging s.now (ea / 2 ^ 14) = false)
    (hl : (s.core (s.homeOf r)).lineHeld s.now (ea / 128) write false = false) :
    ringAccess s h k off n write here there = there (s.homeOf r) ea s := by
  unfold ringAccess
  rw [withStage_open ho]
  dsimp only
  rw [if_neg hh, ← hea]
  unfold remoteAccess
  simp only [hc, hl, Bool.or_self, Bool.false_eq_true, if_false]

end

/-! ### The cluster window (R175, R185) -/

section
variable {s : State} {core a n : Nat}

/-- The request that an aligned access presents at its one bank. -/
def windowReq (s : State) (a n : Nat) (x : Option Nat) (sink : WindowSink) : BankReq :=
  { bank := a / 2 ^ 14, from_ := s.now + 1, left := 1, op := some ⟨s.cur.ctx, s.ctx.csr.gen.toNat, false, a, a, n, x, sink⟩ }

theorem askWindow_aligned (hn : n ∣ 128) (ha : n ∣ a) (x : Option Nat) (sink : Nat → WindowSink) :
    s.askWindow core false a a n x sink =
      s.modCore core fun c => { c with bankReqs := c.bankReqs ++ [windowReq s a n x (sink 0)] } := by
  have hx : (x.map fun v => v / 2 ^ (8 * 0)) = x := by cases x <;> simp
  unfold State.askWindow
  rw [bankParts_aligned hn ha, List.foldl_cons, List.foldl_nil, hx]
  rfl

theorem onlyCore_modCore (f : CoreSt → CoreSt) : OnlyCore s (s.modCore core f) core :=
  ⟨rfl, rfl, fun _ hp => hp, fun _ hi => (State.core_modCore ..).trans (if_neg hi)⟩

theorem locByte_askWindow (hn : n ∣ 128) (ha : n ∣ a) (x : Option Nat) (sink : Nat → WindowSink) (b : Nat) :
    locByte (s.askWindow core false a a n x sink) core b = locByte s core b := by
  rw [askWindow_aligned hn ha, locByte, State.core_modCore, if_pos rfl]
  rfl

theorem onlyCore_askWindow (hn : n ∣ 128) (ha : n ∣ a) (x : Option Nat) (sink : Nat → WindowSink) :
    OnlyCore s (s.askWindow core false a a n x sink) core := by
  rw [askWindow_aligned hn ha]
  exact onlyCore_modCore _

theorem asksStore_askWindow (hn : n ∣ 128) (ha : n ∣ a) (x : Nat) :
    AsksStore s (s.askWindow core false a a n (some x) (.landing 0)) core a n x := by
  rw [AsksStore, askWindow_aligned hn ha, State.core_modCore, if_pos rfl]
  rfl

theorem ringLoad_scratchpad (hr : roleOf (s.core core).bankRole (a / 2 ^ 14) = 1) :
    s.ringLoad core a n = (locNumber s core a n, s.askWindow core false a a n none fun _ => .taken) := by
  unfold State.ringLoad State.windowOk
  rw [hr, if_pos (beq_self_eq_true 1), locRead_eq]

theorem storesLocal_locStore (s : State) (core a n x : Nat) : StoresLocal s (s.locStore core a n x) core a n x := by
  intro c b
  by_cases hc : c = core
  · rw [hc, locByte_locStore]
    simp only [true_and]
    rfl
  · rw [if_neg fun h => hc h.1, locByte, State.locStore, core_cureLoc, State.core_modCore, if_neg hc, locByte]

/-- A granted store through the window writes its bytes. -/
theorem performWindow_store {q : WindowOp} {x : Nat} (ho : s.windowOk core q.a = true) (hq : q.store = some x) :
    s.performWindow core q = s.locStore core q.a q.n x := by
  unfold State.performWindow
  simp only [ho, hq, Bool.true_or, if_true]

end

/-! ### What an open stage's accesses do -/

section
variable {s : State} {h : BitVec 3} {k : BitVec 4} {idx side off n ea : Nat} {r : Ring}

theorem ringAccess_loadsHere {there : Nat → Nat → State → Out} (f : State → Nat → State) (hal : n ∣ ea)
    (ho : StageOpen s h idx r side k.toNat (off * n + n)) (hh : s.homeOf r = s.coreId)
    (hea : ea = r.base + useOf s r side k.toNat % r.stages * 2 ^ r.stageLog2 + off * n) (hl : LocalServed s ea n false) :
    ∃ u, OnlyCore s u s.coreId ∧ (∀ b, locByte u s.coreId b = locByte s s.coreId b) ∧
      ringAccess s h k off n false (fun a s => .next (f s ((s.core s.coreId).locRead a n))) there =
        .next (f u (locNumber s s.coreId ea n)) := by
  refine ⟨granted s (ea / 2 ^ 14), onlyCore_granted .., fun _ => rfl, ?_⟩
  rw [ringAccess_here ho hh hea hal hl, locRead_eq]
  rfl

theorem ringAccess_storesHere {there : Nat → Nat → State → Out} {x : State → Nat} (hx : ∀ j, x (granted s j) = x s) (hal : n ∣ ea)
    (ho : StageOpen s h idx r side k.toNat (off * n + n)) (hh : s.homeOf r = s.coreId)
    (hea : ea = r.base + useOf s r side k.toNat % r.stages * 2 ^ r.stageLog2 + off * n) (hl : LocalServed s ea n true) :
    ∃ u, OnlyCore s u s.coreId ∧
      ringAccess s h k off n true (fun a s => .next (s.locStore s.coreId a n (x s))) there = .next u ∧
      StoresLocal s u s.coreId ea n (x s) := by
  refine ⟨(granted s (ea / 2 ^ 14)).locStore s.coreId ea n (x s), onlyCore_locStore .., ?_, storesLocal_locStore (granted s _) _ _ _ _⟩
  rw [ringAccess_here ho hh hea hal hl, hx]
  rfl

theorem ringAccess_loadsThere {here : Nat → State → Out} (f : State → Nat → State) (hn : n ∣ 128) (hal : n ∣ ea)
    (ho : StageOpen s h idx r side k.toNat (off * n + n)) (hh : s.homeOf r ≠ s.coreId)
    (hea : ea = r.base + useOf s r side k.toNat % r.stages * 2 ^ r.stageLog2 + off * n)
    (hrole : roleOf (s.core (s.homeOf r)).bankRole (ea / 2 ^ 14) = 1)
    (hc : (s.core (s.homeOf r)).isChanging s.now (ea / 2 ^ 14) = false)
    (hl : (s.core (s.homeOf r)).lineHeld s.now (ea / 128) false false = false) :
    ∃ u, OnlyCore s u (s.homeOf r) ∧ (∀ b, locByte u (s.homeOf r) b = locByte s (s.homeOf r) b) ∧
      ringAccess s h k off n false here (fun core a s => .next (f (s.ringLoad core a n).2 (s.ringLoad core a n).1)) =
        .next (f u (locNumber s (s.homeOf r) ea n)) := by
  refine ⟨_, onlyCore_askWindow hn hal none fun _ => .taken, locByte_askWindow hn hal none _, ?_⟩
  rw [ringAccess_there ho hh hea hc hl, ringLoad_scratchpad hrole]

theorem ringAccess_storesThere {here : Nat → State → Out} (x : State → Nat) (hn : n ∣ 128) (hal : n ∣ ea)
    (ho : StageOpen s h idx r side k.toNat (off * n + n)) (hh : s.homeOf r ≠ s.coreId)
    (hea : ea = r.base + useOf s r side k.toNat % r.stages * 2 ^ r.stageLog2 + off * n)
    (hc : (s.core (s.homeOf r)).isChanging s.now (ea / 2 ^ 14) = false)
    (hl : (s.core (s.homeOf r)).lineHeld s.now (ea / 128) true false = false) :
    ∃ u, OnlyCore s u (s.homeOf r) ∧ (∀ b, locByte u (s.homeOf r) b = locByte s (s.homeOf r) b) ∧
      ringAccess s h k off n true here (fun core a s => .next (s.ringStore core a n (x s))) = .next u.noteSender ∧
      AsksStore s u (s.homeOf r) ea n (x s) := by
  refine ⟨_, onlyCore_askWindow hn hal (some (x s)) (WindowSink.landing 0), locByte_askWindow hn hal _ _, ?_, asksStore_askWindow hn hal _⟩
  rw [ringAccess_there ho hh hea hc hl]
  rfl

end

/-! ### The four operations -/

section
variable (s : State) (d : BitVec 6) (v : BitVec 5) (h : BitVec 3) (k : BitVec 4) (o : BitVec 9) (z : BitVec 3)

theorem exec_ringLd : exec (.ringLd d h k o z) s = ringAccess s h k (s.unsignedField o) (sizeBytes z) false
    (fun a s => .next (s.wS 3 d (extendLoad z ((s.core s.coreId).locRead a (sizeBytes z)))))
    (fun core a s => .next ((s.ringLoad core a (sizeBytes z)).2.wS 45 d (extendLoad z (s.ringLoad core a (sizeBytes z)).1))) := rfl

theorem exec_ringSt : exec (.ringSt d h k o z) s = ringAccess s h k (s.unsignedField o) (sizeBytes z) true
    (fun a s => .next (s.locStore s.coreId a (sizeBytes z) (s.rS d).toNat))
    (fun core a s => .next (s.ringStore core a (sizeBytes z) (s.rS d).toNat)) := rfl

theorem exec_ringVld : exec (.ringVld v h k o) s = ringAccess s h k (s.unsignedField o) 128 false
    (fun a s => .next (s.wV 4 v (BitVec.ofNat 1024 ((s.core s.coreId).locRead a 128))))
    (fun core a s => .next ((s.ringLoad core a 128).2.wV 46 v (BitVec.ofNat 1024 (s.ringLoad core a 128).1))) := rfl

theorem exec_ringVst : exec (.ringVst v h k o) s = ringAccess s h k (s.unsignedField o) 128 true
    (fun a s => .next (s.locStore s.coreId a 128 (s.rV v).toNat))
    (fun core a s => .next (s.ringStore core a 128 (s.rV v).toNat)) := rfl

end

/-- Settles O36: each of the four operations is one access to the stage, which lies in one bank; own bank, window, closed stage and
overrun are each stated once for that access. -/
theorem ringAccesses : Obligations.RingAccesses := by
  unfold Obligations.RingAccesses
  intro s h k o z d v idx side n off ea va hc r hn hoff hhc hea hva hbase hlog
  obtain rfl : n = sizeBytes z := hn
  obtain rfl : off = s.unsignedField o := hoff
  obtain rfl : hc = s.homeOf r := hhc
  have hn128 := sizeBytes_dvd z
  have hal : sizeBytes z ∣ ea := hea ▸ dvd_stageElem hn128 hbase hlog _ _
  have hvl : 128 ∣ va := hva ▸ dvd_stageElem (dvd_refl 128) hbase hlog _ _
  rw [exec_ringLd, exec_ringSt, exec_ringVld, exec_ringVst]
  refine ⟨fun ho hh => ⟨fun hl => ?_, fun hl => ?_⟩, fun ho hh => ⟨fun hl => ?_, fun hl => ?_⟩,
    fun ho hh hrole hch => ⟨fun hl => ?_, fun hl => ?_⟩, fun ho hh hrole hch => ⟨fun hl => ?_, fun hl => ?_⟩,
    fun hb hside hk hf => ⟨fun hlast => ⟨?_, ?_⟩, fun hlast => ⟨?_, ?_⟩⟩, fun hb hside hk hlast => ⟨?_, ?_⟩,
    fun u core x q ho hq => performWindow_store ho hq ▸ storesLocal_locStore _ _ _ _ _⟩
  · exact ringAccess_loadsHere (fun t y => t.wS 3 d (extendLoad z y)) hal ho hh hea hl
  · exact ringAccess_storesHere (x := fun t => (t.rS d).toNat) (fun _ => rfl) hal ho hh hea hl
  · exact ringAccess_loadsHere (fun t y => t.wV 4 v (BitVec.ofNat 1024 y)) hvl ho hh hva hl
  · exact ringAccess_storesHere (x := fun t => (t.rV v).toNat) (fun _ => rfl) hvl ho hh hva hl
  · exact ringAccess_loadsThere (fun t y => t.wS 45 d (extendLoad z y)) hn128 hal ho hh hea hrole hch hl
  · exact ringAccess_storesThere (fun t => (t.rS d).toNat) hn128 hal ho hh hea hch hl
  · exact ringAccess_loadsThere (fun t y => t.wV 46 v (BitVec.ofNat 1024 y)) (dvd_refl 128) hvl ho hh hva hrole hch hl
  · exact ringAccess_storesThere (fun t => (t.rV v).toNat) (dvd_refl 128) hvl ho hh hva hch hl
  · exact ringAccess_forbidden hb hside hk hf hlast (fun _ _ => ⟨_, rfl⟩) fun _ _ _ => ⟨_, rfl⟩
  · exact ringAccess_forbidden hb hside hk hf hlast (fun _ _ => ⟨_, rfl⟩) fun _ _ _ => ⟨_, rfl⟩
  · exact ringAccess_forbidden hb hside hk hf hlast (fun _ _ => ⟨_, rfl⟩) fun _ _ _ => ⟨_, rfl⟩
  · exact ringAccess_forbidden hb hside hk hf hlast (fun _ _ => ⟨_, rfl⟩) fun _ _ _ => ⟨_, rfl⟩
  · exact withStage_past hb hside hk hlast _
  · exact withStage_past hb hside hk hlast _

end Sys2Proof.Claims

/-!
PROOFS. A context's own steps: asynchronous traps, the switch, freeing, gating, code that arrives (O45).
-/
namespace Sys2Proof.Machine

/-! ### Asynchronous traps (R357, R360) -/

section
variable {c : Ctx}

theorem takeCause_some {cause : Nat} {info : Word} (h : Claims.firstCause c.flow = some (cause, info)) :
    ∃ f : Flow, c.takeCause = some (cause, info, { c with flow := f }) ∧ f.pending = c.flow.pending ∧ f.landings = c.flow.landings := by
  unfold Claims.firstCause at h
  unfold Ctx.takeCause
  dsimp only
  cases hc : c.flow.copyError with
  | some w =>
    simp only [hc, Option.some.injEq, Prod.mk.injEq] at h
    obtain ⟨rfl, rfl⟩ := h
    exact ⟨_, rfl, rfl, rfl⟩
  | none => cases hr : c.flow.remoteError with
    | some w =>
      simp only [hc, hr, Option.some.injEq, Prod.mk.injEq] at h
      obtain ⟨rfl, rfl⟩ := h
      exact ⟨_, rfl, rfl, rfl⟩
    | none => cases hp : c.flow.preempt with
      | some park =>
        simp only [hc, hr, hp, Option.some.injEq, Prod.mk.injEq] at h
        obtain ⟨rfl, rfl⟩ := h
        exact ⟨_, rfl, rfl, rfl⟩
      | none => simp only [hc, hr, hp, reduceCtorEq] at h

theorem takeCause_none (h : Claims.firstCause c.flow = none) : c.takeCause = none := by
  unfold Claims.firstCause at h
  split at h
  case h_4 h1 h2 h3 =>
    unfold Ctx.takeCause
    dsimp only
    rw [h1, h2, h3]
  all_goals cases h

end

theorem ctxAt_emptyCycle (s : State) (x y : Nat) : (s.emptyCycle x).ctxAt y = s.ctxAt y := rfl

theorem asyncTrap_of_takeCause {s : State} {x cause : Nat} {info : Word} {c : Ctx} (hx : s.arg.a = x) (ha : (s.ctxAt x).phase = .active)
    (hp : (s.ctxAt x).priv = false) (hc : (s.ctxAt x).takeCause = some (cause, info, c)) :
    ∃ t, exec .asyncTrap s = .next t ∧ t.ctxAt x = c.abandoned.trapped s.now c.pc 0 cause info ∧
      (∀ y, y ≠ x → t.ctxAt y = s.ctxAt y) ∧ t.mem = s.mem := by
  subst hx
  have hexec : exec .asyncTrap s = .next ((((s.setCtxAt s.arg.a c).abandon s.arg.a).modCtxAt s.arg.a fun c =>
      c.trapped s.now c.pc 0 cause info).emptyCycle s.arg.a) := by
    change execAsyncTrap s = _
    unfold execAsyncTrap
    simp only [ha, hp, hc, ne_eq, not_true_eq_false, Bool.false_eq_true, or_self, if_false]
  refine ⟨_, hexec, ?_, fun y hy => ?_, ?_⟩
  · rw [ctxAt_emptyCycle, State.ctxAt_modCtxAt, if_pos rfl, ctxAt_abandon, if_pos rfl, State.ctxAt_setCtxAt, if_pos rfl]
    rfl
  · rw [ctxAt_emptyCycle, State.ctxAt_modCtxAt, if_neg hy, ctxAt_abandon, if_neg hy, State.ctxAt_setCtxAt, if_neg hy]
  · exact (abandon_mem ..)

theorem asyncTrap_none {s : State} (h : (s.ctxAt s.arg.a).priv = true ∨ Claims.firstCause (s.ctxAt s.arg.a).flow = none) :
    exec .asyncTrap s = .next s := by
  change execAsyncTrap s = _
  unfold execAsyncTrap
  dsimp only
  split
  · rfl
  · next hno =>
    obtain hp | hn := h
    · exact absurd (.inr hp) hno
    · rw [takeCause_none hn]

theorem flowsOnly_modFlow (s : State) (x : Nat) (g : Ctx → Flow) : FlowsOnly s (s.modCtxAt x fun c => { c with flow := g c }) := fun y => by
  rw [State.ctxAt_modCtxAt]
  split
  · next e => subst e; exact ⟨_, rfl⟩
  · exact ⟨_, rfl⟩

/-! ### The switch (R80, R83) -/

theorem withdraw_flows (s : State) (core : Nat) (keep : Option Nat) :
    FlowsOnly s (s.withdraw core keep) ∧ (s.withdraw core keep).cores = s.cores ∧ (s.withdraw core keep).mem = s.mem := by
  unfold State.withdraw
  refine foldl_keeps (fun t : State => FlowsOnly s t ∧ t.cores = s.cores ∧ t.mem = s.mem) _ _ (fun t x ht => ?_) s
    ⟨flowsOnly_of_eq rfl, rfl, rfl⟩
  split
  · exact ht
  · exact ⟨ht.1.trans (flowsOnly_modFlow _ _ _), ht.2⟩

/-- What is found first comes first among what could be found. -/
theorem find?_le_of_pairwise {l : List Nat} {p : Nat → Bool} {f : Nat → Nat} {b n : Nat} (hl : l.Pairwise (f · < f ·))
    (h : l.find? p = some b) (hn : n ∈ l) (hp : p n = true) : f b ≤ f n := by
  obtain ⟨-, as, bs, rfl, has⟩ := List.find?_eq_some_iff_append.mp h
  obtain ha | hb := List.mem_append.mp hn
  · have := has n ha
    rw [hp] at this
    cases this
  · obtain rfl | hb := List.mem_cons.mp hb
    · exact Nat.le_refl _
    · exact Nat.le_of_lt ((List.pairwise_cons.mp (List.pairwise_append.mp hl).2.1).1 n hb)

/-- The slots of a core in the order in which the switch looks at them. -/
def switchOrder (i : Nat) : List Nat := [i + 1, i + 2, i + 3, i].map (· % 4)

theorem mem_switchOrder {i j : Nat} : j ∈ switchOrder i ↔ j < 4 := by
  unfold switchOrder
  simp only [List.map_cons, List.map_nil, List.mem_cons, List.not_mem_nil, or_false]
  omega

theorem switchOrder_pairwise : ∀ i < 4, (switchOrder i).Pairwise fun a b => (a + 3 - i) % 4 < (b + 3 - i) % 4 := by decide

section
variable {s : State} {k m : Nat}

/-- The slots whose contexts are ready, in the switch's order. -/
def State.readySlots (s : State) (k m : Nat) : List Nat := (switchOrder (s.core k).running).filter fun j => bit m j

theorem mem_readySlots {j : Nat} : j ∈ s.readySlots k m ↔ j < 4 ∧ bit m j = true := by
  rw [State.readySlots, List.mem_filter, mem_switchOrder]

theorem nextRunning_eq : s.nextRunning k m = (s.readySlots k m).find? fun j =>
    (s.readySlots k m).all fun n => (s.ctxAt (4 * k + n)).csr.level.toNat ≤ (s.ctxAt (4 * k + j)).csr.level.toNat := rfl

theorem nextRunning_none (h : ∀ j < 4, bit m j = false) : s.nextRunning k m = none := by
  rw [nextRunning_eq, List.find?_eq_none]
  intro j hj
  obtain ⟨hj4, hb⟩ := mem_readySlots.mp hj
  rw [h j hj4] at hb
  cases hb

theorem nextRunning_isSome (h : ∃ j < 4, bit m j = true) : (s.nextRunning k m).isSome = true := by
  obtain ⟨j, hj⟩ := h
  obtain ⟨b, hb, hmax⟩ := Finset.exists_max_image (s.readySlots k m).toFinset (fun n => (s.ctxAt (4 * k + n)).csr.level.toNat)
    ⟨j, List.mem_toFinset.mpr (mem_readySlots.mpr hj)⟩
  rw [nextRunning_eq, List.find?_isSome]
  refine ⟨b, List.mem_toFinset.mp hb, List.all_eq_true.mpr fun n hn => decide_eq_true (hmax n (List.mem_toFinset.mpr hn))⟩

theorem nextRunning_some {j : Nat} (hi : (s.core k).running < 4) (h : s.nextRunning k m = some j) : j < 4 ∧ bit m j = true ∧
    (∀ n < 4, bit m n = true → (s.ctxAt (4 * k + n)).csr.level.toNat ≤ (s.ctxAt (4 * k + j)).csr.level.toNat) ∧
    (∀ n < 4, bit m n = true → (s.ctxAt (4 * k + n)).csr.level = (s.ctxAt (4 * k + j)).csr.level →
      (j + 3 - (s.core k).running) % 4 ≤ (n + 3 - (s.core k).running) % 4) := by
  rw [nextRunning_eq] at h
  obtain ⟨hj, hb⟩ := mem_readySlots.mp (List.mem_of_find?_eq_some h)
  have hmax := List.find?_some h
  refine ⟨hj, hb, fun n hn hbn => ?_, fun n hn hbn hlevel => ?_⟩
  · simpa using List.all_eq_true.mp hmax n (mem_readySlots.mpr ⟨hn, hbn⟩)
  · refine find?_le_of_pairwise ((switchOrder_pairwise _ hi).filter _) h (mem_readySlots.mpr ⟨hn, hbn⟩) ?_
    rw [hlevel]
    exact hmax

theorem withdraw_core (keep : Option Nat) (y : Nat) : (s.withdraw k keep).core y = s.core y := by
  rw [State.core, (withdraw_flows s k keep).2.1, State.core]

/-- The switch changes its core's slot, and requests for banks of the contexts that do not run. -/
theorem switch_frame (f : CoreSt → CoreSt) (keep : Option Nat) : ((s.withdraw k keep).modCore k f).core k = f (s.core k) ∧
    Claims.KeepsContexts s ((s.withdraw k keep).modCore k f) ∧ ((s.withdraw k keep).modCore k f).mem = s.mem ∧
    ∀ y, y ≠ k → ((s.withdraw k keep).modCore k f).core y = s.core y := by
  obtain ⟨hf, -, hm⟩ := withdraw_flows s k keep
  refine ⟨?_, (hf.trans (flowsOnly_of_eq rfl)).keepsContexts, hm, fun y hy => ?_⟩
  · rw [State.core_modCore, if_pos rfl, withdraw_core]
  · rw [State.core_modCore, if_neg hy, withdraw_core]

end

end Sys2Proof.Machine

namespace Sys2Proof.Machine

/-! ### A context becomes FREE (R92, R226, R344) -/

section
variable (s : State)

theorem modLaunch_ctxs (l : Nat) (f : Launch → Launch) : (s.modLaunch l f).ctxs = s.ctxs := by
  unfold State.modLaunch
  split <;> rfl

theorem checkLaunch_ctxs (l : Option Nat) : (s.checkLaunch l).ctxs = s.ctxs := by
  unfold State.checkLaunch
  split <;> rfl

theorem reportRetired_ctxs (l : Option Nat) (x : Nat) (fail : Option Nat) (g : Sig) : (s.reportRetired l x fail g).ctxs = s.ctxs := by
  unfold State.reportRetired
  split
  · rfl
  · rw [checkLaunch_ctxs, modLaunch_ctxs]

/-- What a request of a set asks for selects one of three outcomes. -/
theorem ask_cases {α : Type} {ask : SetAsk} {A B : Event → α} {C : Nat → Option Nat → Event → α} {t : α}
    (h : (match ask with | .wait e => A e | .pin e => B e | .launch l r e => C l r e) = t) :
    (∃ e, A e = t) ∨ (∃ e, B e = t) ∨ ∃ l r e, C l r e = t := by
  cases ask with
  | wait e => exact .inl ⟨e, h⟩
  | pin e => exact .inr (.inl ⟨e, h⟩)
  | launch l r e => exact .inr (.inr ⟨l, r, e, h⟩)

/-- What holds of each outcome holds of the one that a set's answer selects. The proof does not evaluate the answer. -/
theorem of_answer {α : Type} {P : α → Prop} {a : PinAnswer} {x y z : α} (hx : P x) (hy : P y) (hz : P z) :
    P (match a with | .granted => x | .refused => y | .waits => z) := by
  cases a with
  | granted => exact hx
  | refused => exact hy
  | waits => exact hz

/-- A decided wait answers its requester, and a pin granted changes its set. -/
theorem decideWait_flows (w : SetWait) (t : State) (ht : s.decideWait w = some t) : FlowsOnly s t := by
  unfold State.decideWait at ht
  obtain ⟨e, h⟩ | ⟨e, h⟩ | ⟨l, r, e, h⟩ := ask_cases ht
  · exact Option.some_inj.mp (Option.ite_none_right_eq_some.mp h).2 ▸ (behind_reply s ..).flows
  · refine of_answer (P := fun o : Option State => o = some t → FlowsOnly s t) (fun h => ?_) (fun h => ?_) (fun h => ?_) h
    · exact Option.some_inj.mp h ▸ ((behind_grantPin s w.set _).flows.trans (flowsOnly_of_eq rfl)).trans (behind_reply ..).flows
    · exact Option.some_inj.mp h ▸ (behind_reply s ..).flows
    · cases h
  · refine of_answer (P := fun o : Option State => o = some t → FlowsOnly s t) (fun h => ?_) (fun h => ?_) (fun h => ?_) h
    · exact Option.some_inj.mp h ▸
        ((behind_grantPin s w.set _).flows.trans (flowsOnly_of_eq (modLaunch_ctxs ..))).trans (flowsOnly_of_eq rfl)
    · exact Option.some_inj.mp h ▸ flowsOnly_of_eq rfl
    · cases h

theorem retrySet_flows (i : Nat) : FlowsOnly s (s.retrySet i) := by
  unfold State.retrySet
  refine foldl_keeps (FlowsOnly s) _ _ (fun t w ht => ?_) s (flowsOnly_of_eq rfl)
  split
  · exact ht
  · split
    · next u hu => exact (ht.trans (decideWait_flows t w u hu)).trans (flowsOnly_of_eq rfl)
    · exact ht

theorem unpin_flows (i k : Nat) : FlowsOnly s (s.unpin i k) := (behind_memWrite s ..).flows.trans (retrySet_flows _ _)

theorem releaseCtxPin_flows (x : Nat) : FlowsOnly s (s.releaseCtxPin x) := by
  unfold State.releaseCtxPin
  split
  · exact (flowsOnly_of_eq (s := s) rfl).trans (unpin_flows _ _ _)
  · exact flowsOnly_of_eq rfl

/-- What stands in a context's slot when it has become FREE. -/
def Ctx.freed (c : Ctx) : Ctx := { phase := .free, csr := { gen := c.csr.gen }, flow := { nextLanding := c.flow.nextLanding } }

theorem freeCtx_flows (x : Nat) : FlowsOnly (s.modCtxAt x Ctx.freed) (s.freeCtx x) := (behind_dirFree ..).flows

end

section
variable {s : State} {x : Nat} (hx : s.arg.a = x) (hr : (s.ctxAt x).phase = .retiring)
include hx

theorem contextFree_refused (hm : s.mayFree x = false) : exec .contextFree s = .next s := by
  subst hx
  change execContextFree s = _
  unfold execContextFree
  simp only [hm, Bool.not_false, or_true, if_true]

include hr

theorem contextFree_flushes (hm : s.mayFree x = true) (hf : s.flushWaits (coreOf x) true 0 = true) :
    exec .contextFree s = .next (s.flushLate (coreOf x) true 0) := by
  subst hx
  change execContextFree s = _
  unfold execContextFree
  simp only [hr, hm, hf, ne_eq, not_true_eq_false, Bool.not_true, Bool.false_eq_true, or_self, if_false, if_true]

theorem contextFree_frees (hm : s.mayFree x = true) (hf : s.flushWaits (coreOf x) true 0 = false) :
    ∃ t u, exec .contextFree s = .next t ∧ FlowsOnly s u ∧ FlowsOnly (u.modCtxAt x Ctx.freed) t := by
  subst hx
  refine ⟨_, (s.release (coreOf s.arg.a) 4).releaseCtxPin s.arg.a, ?_, (behind_release ..).flows.trans (releaseCtxPin_flows _ _),
    (freeCtx_flows _ _).trans (flowsOnly_of_eq (reportRetired_ctxs _ (s.ctxAt s.arg.a).launch s.arg.a (s.ctxAt s.arg.a).failCause
      ((s.release (coreOf s.arg.a) 4).core (coreOf s.arg.a)).carried))⟩
  change execContextFree s = _
  unfold execContextFree
  simp only [hr, hm, hf, ne_eq, not_true_eq_false, Bool.not_true, Bool.false_eq_true, or_self, if_false]

end

/-- A freed slot keeps its generation, and the other contexts keep everything but what they wait for. -/
theorem freed_frame {s u t : State} {x : Nat} (hu : FlowsOnly s u) (ht : FlowsOnly (u.modCtxAt x Ctx.freed) t) :
    (t.ctxAt x).phase = .free ∧ (t.ctxAt x).r = {} ∧ (t.ctxAt x).csr = { gen := (s.ctxAt x).csr.gen } ∧ (t.ctxAt x).launch = none ∧
      Claims.OthersKeep s t x := by
  obtain ⟨f, hf⟩ := ht x
  obtain ⟨g, hg⟩ := hu x
  rw [State.ctxAt_modCtxAt, if_pos rfl, hg] at hf
  refine ⟨?_, ?_, ?_, ?_, fun y hy => ?_⟩
  iterate 4 rw [hf]; rfl
  obtain ⟨f, hf⟩ := ht y
  obtain ⟨g, hg⟩ := hu y
  rw [State.ctxAt_modCtxAt, if_neg hy, hg] at hf
  rw [hf]
  exact ⟨rfl, rfl, rfl, rfl, rfl, rfl, rfl⟩

/-! ### Gating (R255) -/

section
variable {s : State} {k : Nat} (hk : s.arg.a = k)
include hk

theorem powerGate_gates (hm : s.mayGate k = true) :
    exec .powerGate s = .next (s.modCore k fun c => { c with gated := true, lastActive := none }) := by
  subst hk
  change execPowerGate s = _
  rw [execPowerGate, if_pos hm]

theorem powerGate_waits (hm : s.mayGate k = false) : exec .powerGate s = .next s := by
  subst hk
  change execPowerGate s = _
  rw [execPowerGate, if_neg (by rw [hm]; decide)]

end

theorem mayGate_of_idle {s : State} {k : Nat}
    (hc : ∀ i < 4, ((s.ctxAt (4 * k + i)).phase = .free ∨ ((s.ctxAt (4 * k + i)).phase = .active ∧ (s.ctxAt (4 * k + i)).flow.quiet = true)) ∧
      (s.ctxAt (4 * k + i)).flow.landings = []) (hb : ∀ b ∈ (s.core k).busy, b.last < s.now) (ht : (s.core k).transposes = []) :
    s.mayGate k = true := by
  unfold State.mayGate
  dsimp only
  rw [ht, List.isEmpty_nil, Bool.and_true, Bool.and_eq_true, List.all_eq_true, List.all_eq_true]
  refine ⟨fun i hi => ?_, fun b hbm => decide_eq_true (hb b hbm)⟩
  obtain ⟨hp, hl⟩ := hc i (List.mem_range.mp hi)
  rw [hl, List.isEmpty_nil, Bool.and_true, Bool.or_eq_true, Bool.and_eq_true]
  exact hp.imp (fun h => by rw [h]; rfl) fun ⟨h, hq⟩ => ⟨by rw [h]; rfl, hq⟩

theorem mayGate_of_landing {s : State} {k i : Nat} (hi : i < 4) (hl : (s.ctxAt (4 * k + i)).flow.landings ≠ []) : s.mayGate k = false := by
  refine Bool.eq_false_iff.mpr fun h => ?_
  unfold State.mayGate at h
  dsimp only at h
  rw [Bool.and_eq_true, Bool.and_eq_true, List.all_eq_true] at h
  have hempty := (Bool.and_eq_true_iff.mp (h.1.1 i (List.mem_range.mpr hi))).2
  exact hl (List.isEmpty_iff.mp hempty)

end Sys2Proof.Machine

namespace Sys2Proof.Machine

/-! ### A line of code arrives (R92, R226) -/

/-- A byte of a number read at the memory side. -/
theorem memRead_byte (s : State) {pa n i : Nat} (hi : i < n) : s.memRead pa n / 256 ^ i % 256 = (s.memByte (pa + i)).toNat := by
  induction n generalizing pa i with
  | zero => omega
  | succ n ih =>
    have hb := (s.memByte pa).isLt
    cases i with
    | zero => rw [State.memRead, pow_zero, Nat.div_one]; simp only [Nat.add_zero]; omega
    | succ i =>
      rw [State.memRead, Nat.pow_succ', ← Nat.div_div_eq_div_mul, show ((s.memByte pa).toNat + 256 * s.memRead (pa + 1) n) / 256 =
        s.memRead (pa + 1) n by omega, ih (by omega), show pa + 1 + i = pa + (i + 1) by omega]

theorem testBit_memRead (s : State) {pa n i j : Nat} (hi : i < n) (hj : j < 8) :
    (s.memRead pa n).testBit (8 * i + j) = (s.memByte (pa + i)).toNat.testBit j := by
  rw [← memRead_byte s hi, show (256 : Nat) ^ i = 2 ^ (8 * i) by rw [Nat.pow_mul], show (256 : Nat) = 2 ^ 8 by rfl,
    Nat.testBit_mod_two_pow, Nat.testBit_div_two_pow, decide_eq_true hj, Bool.true_and, Nat.add_comm]

/-- A line put together from its sectors. -/
theorem getLsbD_sectors (v : Nat → Nat) {n : Nat} (hn : n ≤ 4) (j : Nat) :
    ((List.range n).foldl (fun d k => setLineBytes d (32 * k) 32 (v k)) (0 : VWord)).getLsbD j =
      (decide (j < 256 * n) && (v (j / 256)).testBit (j % 256)) := by
  induction n with
  | zero => simp
  | succ n ih =>
    rw [List.range_succ, List.foldl_concat, getLsbD_setLineBytes _ _ _ _ _ (by omega), ih (by omega)]
    by_cases h : j < 256 * n
    · rw [if_neg (by omega), decide_eq_true h, decide_eq_true (by omega)]
    · by_cases h' : j < 256 * (n + 1)
      · rw [if_pos (by omega), decide_eq_true h', Bool.true_and, show j / 256 = n by omega, show j - 8 * (32 * n) = j % 256 by omega]
      · rw [if_neg (by omega), decide_eq_false h, decide_eq_false h', Bool.false_and]

/-- The number that a sector of a fetched line is. -/
def State.fetchSector (s : State) (die line k : Nat) : Nat :=
  if (s.l2Line die line).have_.getLsbD k then lineBytes (s.l2Line die line).data (32 * k) 32 else s.memRead (line * 128 + 32 * k) 32

theorem getLsbD_fetchLine (s : State) (die line : Nat) {j : Nat} (hj : j < 1024) :
    (s.fetchLine die line).getLsbD j = (s.fetchSector die line (j / 256)).testBit (j % 256) := by
  have h := getLsbD_sectors (s.fetchSector die line) (le_refl 4) j
  rw [decide_eq_true (by omega), Bool.true_and] at h
  exact h

/-- Each byte of a fetched line comes from the L2's copy of its sector or from the memory side. -/
theorem fetchLine_byte (s : State) (die line : Nat) {b : Nat} (hb : b < 128) :
    (s.fetchLine die line >>> (8 * b)).toNat % 2 ^ 8 = if (s.l2Line die line).have_.getLsbD (b / 32)
      then ((s.l2Line die line).data >>> (8 * b)).toNat % 2 ^ 8 else s.memRead (line * 128 + b) 1 := by
  have hline (i : Nat) (hi : i < 8) : (s.fetchLine die line).getLsbD (8 * b + i) =
      (s.fetchSector die line (b / 32)).testBit (8 * (b % 32) + i) := by
    rw [getLsbD_fetchLine _ _ _ (by omega), show (8 * b + i) / 256 = b / 32 by omega, show (8 * b + i) % 256 = 8 * (b % 32) + i by omega]
  refine Nat.eq_of_testBit_eq fun i => ?_
  by_cases hi : i < 8
  · rw [Nat.testBit_mod_two_pow, decide_eq_true hi, Bool.true_and, BitVec.toNat_ushiftRight, Nat.testBit_shiftRight]
    refine (hline i hi).trans ?_
    unfold State.fetchSector
    split
    · rw [testBit_lineBytes, decide_eq_true (by omega), Bool.true_and, Nat.testBit_mod_two_pow, decide_eq_true hi, Bool.true_and,
        BitVec.toNat_ushiftRight, Nat.testBit_shiftRight, show 8 * (32 * (b / 32)) + (8 * (b % 32) + i) = 8 * b + i by omega]
      rfl
    · rw [testBit_memRead _ (Nat.mod_lt _ (by decide)) hi, State.memRead, State.memRead, Nat.mul_zero, Nat.add_zero,
        show line * 128 + 32 * (b / 32) + b % 32 = line * 128 + b by omega]
  · rw [Nat.testBit_mod_two_pow, decide_eq_false hi, Bool.false_and]
    split
    · rw [Nat.testBit_mod_two_pow, decide_eq_false hi, Bool.false_and]
    · refine (Nat.testBit_lt_two_pow (Nat.lt_of_lt_of_le ?_ (Nat.pow_le_pow_right (by decide) (Nat.le_of_not_lt hi)))).symm
      rw [State.memRead, State.memRead, Nat.mul_zero, Nat.add_zero]
      exact BitVec.isLt _

theorem keepCode_here (c : CoreSt) (now line : Nat) (d : VWord) : Store.get none (c.keepCode now line d).icache line = some d :=
  Store.get_set_same ..

/-- Room for a line of code costs at most one other line. -/
theorem keepCode_there (c : CoreSt) (now : Nat) {line l : Nat} (d : VWord) (h : l ≠ line) :
    Store.get none (c.keepCode now line d).icache l = Store.get none c.icache l ∨
      Store.get none (c.keepCode now line d).icache l = none := by
  unfold CoreSt.keepCode
  dsimp only
  rw [Store.get_set_other _ _ _ h]
  split
  · rw [Store.get_set]
    split
    · exact .inr rfl
    · exact .inl rfl
  · exact .inl rfl

/-! ### Accesses that DRAM has taken (R315) -/

/-- From `s` to `t` only the stacks' clocks and the queue at DRAM have changed. -/
structure DramOnly (s t : State) : Prop where
  rest : { t with hbmStacks := s.hbmStacks, dramQueue := s.dramQueue } = s

section
variable {s t : State}

theorem DramOnly.ctxs (h : DramOnly s t) : t.ctxs = s.ctxs := (congrArg State.ctxs h.rest :)
theorem DramOnly.cores (h : DramOnly s t) : t.cores = s.cores := (congrArg State.cores h.rest :)
theorem DramOnly.dies (h : DramOnly s t) : t.dies = s.dies := (congrArg State.dies h.rest :)
theorem DramOnly.mem (h : DramOnly s t) : t.mem = s.mem := (congrArg State.mem h.rest :)
theorem DramOnly.now (h : DramOnly s t) : t.now = s.now := (congrArg State.now h.rest :)
theorem DramOnly.memByte (h : DramOnly s t) (b : Nat) : t.memByte b = s.memByte b :=
  memByte_congr h.mem (congrArg State.wild h.rest :) (congrArg State.outside h.rest :) b

theorem DramOnly.trans {u : State} (h : DramOnly s t) (h' : DramOnly t u) : DramOnly s u :=
  ⟨(congrArg (fun v : State => { v with hbmStacks := s.hbmStacks, dramQueue := s.dramQueue }) h'.rest :).trans h.rest⟩

end

theorem dramOnly_dramTake (s : State) (pa n : Nat) : DramOnly s (s.dramTake pa n) := by
  unfold State.dramTake
  refine foldl_keeps (DramOnly s) _ _ (fun t x ht => ?_) s ⟨rfl⟩
  dsimp only
  split
  · exact ht
  · split
    · exact ht.trans ⟨rfl⟩
    · exact ht

theorem dramOnly_dramLeave (s : State) (w : DramParty) : DramOnly s (s.dramLeave w) := by
  unfold State.dramLeave
  split <;> exact ⟨rfl⟩

/-- The state in which a step that accessed `l` at DRAM goes on. -/
def State.dramTaken (s : State) (e : Event) (l : List (Nat × Nat)) : State :=
  (l.foldl (fun s x => s.dramTake x.1 x.2) s).dramLeave (.step e)

theorem dramOnly_dramTaken (s : State) (e : Event) (l : List (Nat × Nat)) : DramOnly s (s.dramTaken e l) :=
  (foldl_keeps (DramOnly s) (fun (t : State) (x : Nat × Nat) => t.dramTake x.1 x.2) l
    (fun _ _ ht => ht.trans (dramOnly_dramTake ..)) s ⟨rfl⟩).trans (dramOnly_dramLeave ..)

theorem withDram_goes {s : State} {e : Event} {l : List (Nat × Nat)} (go : State → Out) (h : s.firstWaiting (.step e) [] l = none) :
    withDram s e l go = go (s.dramTaken e l) := by
  unfold withDram
  rw [h]
  rfl

theorem memRead_congr {s t : State} (h : ∀ b, t.memByte b = s.memByte b) (pa n : Nat) : t.memRead pa n = s.memRead pa n := by
  induction n generalizing pa with
  | zero => rfl
  | succ n ih => rw [State.memRead, State.memRead, h, ih]

theorem DramOnly.fetchLine {s t : State} (h : DramOnly s t) (die line : Nat) : t.fetchLine die line = s.fetchLine die line := by
  have hl : t.l2Line die line = s.l2Line die line := by rw [State.l2Line, State.die, h.dies, State.l2Line, State.die]
  unfold State.fetchLine
  rw [hl]
  simp only [memRead_congr h.memByte]

theorem fetchNoted_hbm (s : State) (x : Nat) {pa : Nat} (hr : region pa = .hbm) : s.fetchNoted x pa = s := by
  unfold State.fetchNoted
  rw [hr]

/-- A line of code of HBM, once DRAM has served the access, is what the instruction cache keeps. -/
theorem instructionCacheFill_spec {s : State} {x line core : Nat} (hx : s.arg.a = x) (hline : s.arg.b = line) (hcore : coreOf x = core)
    (hr : region (line * 128) = .hbm)
    (hw : (s.l2Line (dieOf core) line).have_ = 15 ∨ s.firstWaiting (.step s.arg) [] [(line * 128, 128)] = none) :
    ∃ t, exec .instructionCacheFill s = .next t ∧ FlowsOnly s t ∧ t.mem = s.mem ∧
      t.core core = (s.core core).keepCode s.now line (s.fetchLine (dieOf core) line) := by
  subst hx hline hcore
  have hwait : s.firstWaiting (.step s.arg) []
      (if (s.l2Line (dieOf (coreOf s.arg.a)) s.arg.b).have_ == 15 then [] else [(s.arg.b * 128, 128)]) = none := by
    split
    · rfl
    · next h => exact hw.resolve_left fun e => h (by rw [e]; rfl)
  have hd := dramOnly_dramTaken s s.arg
    (if (s.l2Line (dieOf (coreOf s.arg.a)) s.arg.b).have_ == 15 then [] else [(s.arg.b * 128, 128)])
  change ∃ t, execInstructionCacheFill s = .next t ∧ _
  unfold execInstructionCacheFill
  dsimp only
  rw [withDram_goes _ hwait]
  generalize s.dramTaken s.arg _ = u at hd ⊢
  have hrefused : (region (s.arg.b * 128) == Region.side && !u.sideServes (s.arg.b * 128)) = false := by rw [hr]; rfl
  refine ⟨_, rfl, ?_⟩
  simp only [fetchNoted_hbm _ _ hr, ite_self, hrefused, Bool.false_eq_true, if_false, hd.fetchLine, hd.now]
  refine ⟨?_, hd.mem, ?_⟩
  · exact (flowsOnly_of_eq (hd.ctxs :)).trans (flowsOnly_modFlow _ _ _)
  · rw [State.core_modCtxAt, State.core_modCore, if_pos rfl, State.core, hd.cores]
    rfl

end Sys2Proof.Machine

namespace Sys2Proof.Claims

open Sys2Proof.Machine

/-- Settles O45: the trap by the cause taken first, the switch by the order in which it looks at its slots, freeing by what its steps
keep of contexts, and the line of code by its bytes. -/
theorem contextSteps : Obligations.ContextSteps := by
  unfold Obligations.ContextSteps
  intro s
  refine ⟨fun x cause info hx ha hp hc => ?_, asyncTrap_none, fun k m i hk hm hi hi4 => ⟨fun hready => ?_, fun hnone => ?_⟩,
    fun x hx hr => ⟨contextFree_flushes hx.symm hr, fun hm hf => ?_, contextFree_refused hx.symm⟩,
    fun k hk => ⟨fun hc hb ht => powerGate_gates hk.symm (mayGate_of_idle hc hb ht), fun c now h => ?_,
      fun i hi hl => powerGate_waits hk.symm (mayGate_of_landing hi hl)⟩, fun x line core hx hline hcore hr hw => ?_⟩
  · obtain ⟨f, hf, hpending, hlandings⟩ := takeCause_some hc
    obtain ⟨t, ht, hctx, hothers, hmem⟩ := asyncTrap_of_takeCause hx.symm ha hp hf
    exact ⟨t, _, ht, hctx, rfl, rfl, rfl, rfl, rfl, rfl, hpending, hlandings, rfl, hothers, hmem⟩
  · subst hk hm hi
    obtain ⟨j, hj⟩ := Option.isSome_iff_exists.mp (nextRunning_isSome hready)
    obtain ⟨hj4, hbit, hlevel, hturn⟩ := nextRunning_some hi4 hj
    refine ⟨_, j, rfl, hj4, hbit, hlevel, hturn, ?_⟩
    rw [hj]
    exact switch_frame (fun c => { c with running := j, granted := true, yielded := false }) (some j)
  · subst hk hm hi
    refine ⟨_, rfl, ?_⟩
    rw [nextRunning_none hnone]
    exact switch_frame (fun c => { c with granted := false, yielded := false }) none
  · obtain ⟨t, u, ht, hu, hfreed⟩ := contextFree_frees hx.symm hr hm hf
    exact ⟨t, ht, freed_frame hu hfreed⟩
  · rw [CoreSt.cold, h]
  · obtain ⟨t, ht, hflows, hmem, hc⟩ := instructionCacheFill_spec hx.symm hline.symm hcore.symm hr hw
    refine ⟨t, _, ht, hc ▸ keepCode_here .., hflows.keepsContexts, hmem, fun b hb => fetchLine_byte s _ _ hb, fun l hl => ?_⟩
    exact hc ▸ keepCode_there _ _ _ hl

end Sys2Proof.Claims

/-!
PROOFS. Requests of peers and of the host: what they read and write, what a lost one reports (O55).
-/
namespace Sys2Proof.Machine

/-! ### What leaves memory, contexts and cores alone -/

/-- From `s` to `t` only dies, stacks, ports, timers and the agenda have changed. -/
structure Aside (s t : State) : Prop where
  rest : { t with
    dies := s.dies, hbmStacks := s.hbmStacks, ports := s.ports, timers := s.timers, agenda := s.agenda, fresh := s.fresh } = s

section
variable {s t u : State}

theorem Aside.ctxs (h : Aside s t) : t.ctxs = s.ctxs := (congrArg State.ctxs h.rest :)
theorem Aside.cores (h : Aside s t) : t.cores = s.cores := (congrArg State.cores h.rest :)
theorem Aside.mem (h : Aside s t) : t.mem = s.mem := (congrArg State.mem h.rest :)
theorem Aside.remoteReplies (h : Aside s t) : t.remoteReplies = s.remoteReplies := (congrArg State.remoteReplies h.rest :)
theorem Aside.hostData (h : Aside s t) : t.hostData = s.hostData := (congrArg State.hostData h.rest :)
theorem Aside.memByte (h : Aside s t) (b : Nat) : t.memByte b = s.memByte b :=
  memByte_congr h.mem (congrArg State.wild h.rest :) (congrArg State.outside h.rest :) b

theorem Aside.trans (h : Aside s t) (h' : Aside t u) : Aside s u :=
  ⟨(congrArg (fun v : State => { v with
    dies := s.dies, hbmStacks := s.hbmStacks, ports := s.ports, timers := s.timers, agenda := s.agenda, fresh := s.fresh }) h'.rest :).trans h.rest⟩

end

section
variable (s : State)

theorem aside_recordMem (pa : Nat) (g : Sig) : Aside s (s.recordMem pa g) := by
  unfold State.recordMem
  split <;> exact ⟨rfl⟩

theorem aside_recordBytes (pa n : Nat) (g : Sig) : Aside s (s.recordBytes pa n g) :=
  foldl_keeps (Aside s) (fun (t : State) i => t.recordMem (128 * (pa / 128 + i)) g) _ (fun _ _ ht => ht.trans (aside_recordMem ..)) s ⟨rfl⟩

theorem aside_sendFlit (k data : Nat) (r : Option Request) : Aside s (s.sendFlit k data r) := by
  unfold State.sendFlit
  dsimp only
  split <;> exact ⟨rfl⟩

theorem aside_sendReply (p number pa x : Nat) : Aside s (s.sendReply p number pa x) := by
  unfold State.sendReply
  split
  · exact aside_sendFlit ..
  · exact ⟨rfl⟩

end

/-! ### A write of HBM (R177 to R179, R355) -/

/-- The bytes of a 4 KiB block stand side by side at home. -/
theorem home_block_add {pa o : Nat} (h : pa % 4096 + o < 4096) : home (pa + o) = home pa + o := by
  unfold home hbmBase
  by_cases hb : pa < 0x010000000000
  · have hb' : pa + o < 0x010000000000 := by omega
    have e1 : bits (pa + o) 15 12 = bits pa 15 12 := by unfold bits; omega
    have e2 : bits (pa + o) 19 16 = bits pa 19 16 := by unfold bits; omega
    have e3 : bits (pa + o) 23 20 = bits pa 23 20 := by unfold bits; omega
    have e4 : bits (pa + o) 39 16 = bits pa 39 16 := by unfold bits; omega
    have e5 : bits (pa + o) 11 0 = bits pa 11 0 + o := by unfold bits; omega
    rw [if_pos hb', if_pos hb, e1, e2, e3, e4, e5]
    exact (Nat.add_assoc _ _ _).symm
  · rw [if_neg (by omega), if_neg hb]

/-- An aligned run of a size that divides 4 KiB stays in its block. -/
theorem aligned_in_block {pa n : Nat} (hn : n ∣ 4096) (ha : pa % n = 0) : pa % 4096 + n ≤ 4096 := by
  have hlt : pa % 4096 < 4096 := Nat.mod_lt _ (by decide)
  have hd : n ∣ 4096 - pa % 4096 := Nat.dvd_sub hn ((Nat.dvd_mod_iff hn).mpr (Nat.dvd_of_mod_eq_zero ha))
  have := Nat.le_of_dvd (Nat.sub_pos_of_lt hlt) hd
  omega

section
variable {s : State} {pa n : Nat} (hr : region pa = .hbm) (hn : n ∣ 4096) (ha : pa % n = 0)
include hr hn ha

theorem heldAt_aligned {i : Nat} (hi : i < n) : heldAt (pa + i) = (false, home pa + i) := by
  have hblock := aligned_in_block hn ha
  have hside := (region_eq_hbm pa).mp hr
  rw [heldAt_of_lt (by unfold sideBase at hside; unfold hostBase; omega)]
  rw [home_block_add (by omega)]

/-- A release write of an aligned run of HBM: the run holds the number, every other byte what it held. -/
theorem releasePut_hbm (x : Nat) (g : Sig) :
    (s.releasePut pa n x g).memRead pa n = x % 2 ^ (8 * n) ∧ (s.releasePut pa n x g).ctxs = s.ctxs ∧
      (s.releasePut pa n x g).cores = s.cores ∧ (s.releasePut pa n x g).remoteReplies = s.remoteReplies ∧
      ∀ a, a < hostBase → (∀ i < n, home a ≠ home (pa + i)) → Claims.sameByte s (s.releasePut pa n x g) a := by
  have hput : s.partyPut pa n x = (s.putBytes pa n x).cureMem pa n := by
    rw [partyPut_plain _ _ _ _ (by rw [hr]; decide) (atSync_eq_false_of_hbm hr), memWrite_of_hbm hr]
  have haside := aside_recordBytes (s.partyPut pa n x) pa n g
  have hbyte (b : Nat) : (s.releasePut pa n x g).memByte b = (s.putBytes pa n x).memByte b := by
    rw [State.releasePut, haside.memByte, hput, memByte_cureMem]
  have hcure (t : State) : (t.cureMem pa n).ctxs = t.ctxs ∧ (t.cureMem pa n).cores = t.cores ∧
      (t.cureMem pa n).remoteReplies = t.remoteReplies := by
    unfold State.cureMem
    split <;> exact ⟨rfl, rfl, rfl⟩
  obtain ⟨hctxs, hcores, hreplies⟩ := hcure (s.putBytes pa n x)
  have hfields := putBytes_eq s pa n x
  have hne (b : Nat) (hb : ∀ i < n, heldAt b ≠ heldAt (pa + i)) := memByte_putBytes_other s pa n x b hb
  have hinj (i : Nat) (hi : i < n) (j : Nat) (hj : j < n) (e : heldAt (pa + i) = heldAt (pa + j)) : i = j := by
    rw [heldAt_aligned hr hn ha hi, heldAt_aligned hr hn ha hj] at e
    simpa using e
  refine ⟨?_, ?_, ?_, ?_, fun a hlt hhome => ?_⟩
  · rw [Nat.pow_mul]
    exact memRead_of_bytes _ _ _ _ fun i hi => (hbyte _).trans (memByte_putBytes_run s pa n x hinj hi rfl)
  · rw [State.releasePut, haside.ctxs, hput, hctxs, hfields]
  · rw [State.releasePut, haside.cores, hput, hcores, hfields]
  · rw [State.releasePut, haside.remoteReplies, hput, hreplies, hfields]
  · refine (hbyte a).trans (hne a fun i hi e => hhome i hi ?_)
    have hside := (region_eq_hbm pa).mp hr
    have hblock := aligned_in_block hn ha
    rw [heldAt_of_lt hlt, heldAt_of_lt (by unfold sideBase at hside; unfold hostBase; omega)] at e
    simpa using e

end

/-! ### Requests of peers (R353) -/

/-- The state after a request was served and answered with `y`. -/
def State.answered (s : State) (a b pa y : Nat) : State :=
  { s with remoteReplies := s.remoteReplies ++ [((a, b), y)] }.sendReply a b pa y

section
variable {s : State}

theorem aside_answered (a b pa y : Nat) :
    Aside { s with remoteReplies := s.remoteReplies ++ [((a, b), y)] } (s.answered a b pa y) := aside_sendReply ..

theorem answered_replies (a b pa y : Nat) : (s.answered a b pa y).remoteReplies = s.remoteReplies ++ [((a, b), y)] :=
  (aside_answered a b pa y).remoteReplies

theorem answered_memByte (a b pa y k : Nat) : (s.answered a b pa y).memByte k = s.memByte k := (aside_answered a b pa y).memByte k

theorem remoteTransaction_again {r : (Nat × Nat) × Nat} (hr : s.remoteReplies.find? (fun r => r.1 == (s.arg.a, s.arg.b)) = some r) :
    exec .remoteTransaction s = .next (s.sendReply s.arg.a s.arg.b (s.arg.c / 16) r.2) := by
  change execRemoteTransaction s = _
  unfold execRemoteTransaction
  dsimp only
  rw [hr]

section
variable (hnew : s.remoteReplies.find? (fun r => r.1 == (s.arg.a, s.arg.b)) = none)
include hnew

theorem remoteTransaction_outside (hm : (requestBytes s.arg).all (fun r => moduleMemory r.1) = false) :
    exec .remoteTransaction s = .next s := by
  change execRemoteTransaction s = _
  unfold execRemoteTransaction
  dsimp only
  rw [hnew]
  dsimp only
  rw [hm, Bool.not_false, if_pos rfl]

theorem remoteTransaction_served {y : Nat} {u : State} (hm : (requestBytes s.arg).all (fun r => moduleMemory r.1) = true)
    (hw : s.firstWaiting (.step s.arg) [] (requestBytes s.arg) = none)
    (hu : (s.dramTaken s.arg (requestBytes s.arg)).serveRemote (s.arg.c % 16) (s.arg.c / 16) s.arg = (some y, u)) :
    exec .remoteTransaction s = .next (u.answered s.arg.a s.arg.b (s.arg.c / 16) y) := by
  change execRemoteTransaction s = _
  unfold execRemoteTransaction
  dsimp only
  rw [hnew]
  dsimp only
  rw [hm, withDram_goes _ hw, hu]
  rfl

end

theorem requestBytes_of {e : Event} (h : e.c % 16 = 0 ∨ e.c % 16 = 1 ∨ e.c % 16 = 13) : requestBytes e = [(e.c / 16, max 1 e.d)] := by
  unfold requestBytes
  rcases h with h | h | h <;> rw [h] <;> rfl

theorem requestBytes_tile {e : Event} (h : e.c % 16 = 15) : requestBytes e = [] := by
  unfold requestBytes
  rw [h]
  rfl

theorem serveRemote_read (pa : Nat) (e : Event) : s.serveRemote 0 pa e = (some (s.peerRead pa e.d), s) := rfl

theorem serveRemote_write (pa : Nat) (e : Event) : s.serveRemote 1 pa e = (some 0, s.releasePut pa e.d (e.l.headD 0) e.sig) := rfl

theorem serveRemote_tile (pa : Nat) (e : Event) : s.serveRemote 15 pa e =
    (some ((s.drawTile pa).getD (2 ^ 64 - 1)), if (s.drawTile pa).isSome then s.advanceTiles pa else s) := by
  unfold State.serveRemote
  simp only [reqRead, reqWrite, reqSignal, reqBarFlag, reqReserve, reqBarWait, reqRoundDone, reqPacket, reqRelease, reqWatch, reqQuery,
    reqTile, Nat.reduceEqDiff, Nat.reduceLeDiff, OfNat.ofNat_ne_zero, OfNat.ofNat_ne_one, if_false, if_true]
  cases s.drawTile pa <;> rfl

theorem peerRead_hbm {pa : Nat} (hr : region pa = .hbm) (n : Nat) : s.peerRead pa n = s.memRead pa n := by
  unfold State.peerRead
  rw [hr]

/-! ### Tiles of a counter (R335) -/

theorem drawTile_congr {t : State} (h : ∀ b, t.memByte b = s.memByte b) (pa : Nat) : t.drawTile pa = s.drawTile pa := by
  unfold State.drawTile
  simp only [memRead_congr h]

theorem memRead_lt (pa n : Nat) : s.memRead pa n < 256 ^ n := by
  induction n generalizing pa with
  | zero => exact Nat.one_pos
  | succ n ih =>
    have hb := (s.memByte pa).isLt
    have := ih (pa + 1)
    rw [State.memRead, Nat.pow_succ']
    omega

/-- A tile drawn is one below the count of 32 bits. -/
theorem drawTile_lt {pa x : Nat} (hx : s.drawTile pa = some x) : s.memRead pa 8 < 2 ^ 32 := by
  unfold State.drawTile at hx
  extract_lets i n w at hx
  split at hx
  · next h => exact Nat.lt_trans h (memRead_lt (pa + 8) 4)
  · cases hx

theorem memByte_testWatches (d lo hi b : Nat) : (s.testWatches d lo hi).memByte b = s.memByte b := by
  unfold State.testWatches
  refine foldl_keeps (fun t : State => t.memByte b = s.memByte b) _ _ (fun t w ht => ?_) s rfl
  split
  · exact ht
  · split
    · refine Eq.trans ?_ ht
      unfold State.watchMet
      split <;> exact memByte_congr rfl rfl rfl b
    · exact ht

/-- Above the HBM views a byte is held at its address. -/
theorem heldAt_above {pa : Nat} (h : sideBase ≤ pa) : heldAt pa = (decide (hostBase ≤ pa), pa) := by
  by_cases hb : hostBase ≤ pa
  · rw [heldAt_of_ge hb, decide_eq_true hb]
  · rw [heldAt_of_lt (Nat.lt_of_not_le hb), decide_eq_false hb, home, if_neg (by unfold sideBase at h; unfold hbmBase; omega)]

theorem advanceTiles_sync {pa d : Nat} (hr : region pa = .sync d) (hlt : s.memRead pa 8 < 2 ^ 32) :
    (s.advanceTiles pa).memRead pa 8 = s.memRead pa 8 + 1 := by
  have hside : sideBase ≤ pa := by
    refine Nat.le_of_not_lt fun h => ?_
    rw [(region_eq_hbm pa).mpr h] at hr
    cases hr
  have hinj (i : Nat) (_ : i < 8) (j : Nat) (_ : j < 8) (e : heldAt (pa + i) = heldAt (pa + j)) : i = j := by
    rw [heldAt_above (by omega), heldAt_above (by omega)] at e
    have := (Prod.mk.inj e).2
    omega
  have hbyte (b : Nat) : (s.advanceTiles pa).memByte b = (s.putBytes pa 8 (s.memRead pa 8 + 1)).memByte b := by
    unfold State.advanceTiles State.memWrite
    rw [hr]
    dsimp only
    split
    · exact memByte_cureMem ..
    · exact (memByte_testWatches ..).trans (memByte_cureMem ..)
  rw [memRead_of_bytes _ pa 8 (s.memRead pa 8 + 1) fun i hi => (hbyte _).trans (memByte_putBytes_run s pa 8 _ hinj hi rfl)]
  exact Nat.mod_eq_of_lt (by omega)

end

/-! ### A request that no port carries (R108, R275, R335, R360, R362) -/

section
variable {s : State} {x gen p pa : Nat}

theorem remoteToken_taken (ha : (s.ctxAt x).phase = .active) (hg : (s.ctxAt x).csr.gen.toNat = gen)
    (hn : (s.ctxAt x).flow.remoteError = none) :
    s.remoteToken x gen p pa = s.modCtxAt x fun c => { c with flow := { c.flow with remoteError := some (remoteErrorInfo p) } } := by
  unfold State.remoteToken
  dsimp only
  rw [if_pos ⟨ha, hg⟩, hn]

theorem remoteToken_more (ha : (s.ctxAt x).phase = .active) (hg : (s.ctxAt x).csr.gen.toNat = gen)
    (hn : (s.ctxAt x).flow.remoteError ≠ none) :
    s.remoteToken x gen p pa =
      (s.errorLog x 9 gen pa).modCtxAt x fun c => { c with flow := { c.flow with remoteMore := true } } := by
  obtain ⟨w, hw⟩ := Option.ne_none_iff_exists'.mp hn
  unfold State.remoteToken
  dsimp only
  rw [if_pos ⟨ha, hg⟩, hw]

theorem remoteToken_logged (h : (s.ctxAt x).phase ≠ .active ∨ (s.ctxAt x).csr.gen.toNat ≠ gen) :
    s.remoteToken x gen p pa = (s.errorLog x 9 gen pa).failLaunch (s.launchOf x gen) 0xB := by
  unfold State.remoteToken
  exact if_neg (not_and_or.mpr h)

/-- Whose context a lost request concerns: a context's own, or the one that a core runs. -/
theorem remoteRequestFail_token (hd : s.arg.d < 2) (hx : x = if s.arg.d = 0 then s.arg.a else 4 * s.arg.a + (s.core s.arg.a).running)
    (hg : gen = if s.arg.d = 0 then s.arg.c else (s.ctxAt x).csr.gen.toNat) :
    exec .remoteRequestFail s = .next (s.remoteToken x gen s.arg.b s.arg.v.toNat) := by
  change execRemoteRequestFail s = _
  unfold execRemoteRequestFail
  dsimp only
  obtain h | h : s.arg.d = 0 ∨ s.arg.d = 1 := by omega
  · rw [h, if_pos rfl] at hx hg
    rw [h, hx, hg]
    rfl
  · rw [h, if_neg Nat.one_ne_zero] at hx hg
    rw [h, hg, hx]
    rfl

theorem remoteRequestFail_copy (hd : s.arg.d = 2) : exec .remoteRequestFail s = .next (s.copyRemoteFail s.arg.a s.arg.c) := by
  change execRemoteRequestFail s = _
  unfold execRemoteRequestFail
  dsimp only
  rw [hd]
  rfl

theorem remoteRequestFail_push (hd : s.arg.d = 3) : exec .remoteRequestFail s = .next (s.pushFails s.arg.a s.arg.c) := by
  change execRemoteRequestFail s = _
  unfold execRemoteRequestFail
  dsimp only
  rw [hd]
  rfl

end

theorem modRun_frame (s : State) (k : Nat) (f : Run → Run) : (s.modRun k f).mem = s.mem ∧ (s.modRun k f).ctxs = s.ctxs := by
  unfold State.modRun
  split <;> exact ⟨rfl, rfl⟩

theorem losePush_frame (s : State) (k i : Nat) : (s.losePush k i).mem = s.mem ∧ (s.losePush k i).ctxs = s.ctxs := by
  obtain ⟨hm, hc⟩ := modRun_frame s k fun r => { r with pushLost := true }
  obtain ⟨hm', hc'⟩ := modRun_frame (s.modRun k fun r => { r with pushLost := true }) k
    fun r => { r with pushes := r.pushes.filter fun p => p.id != i }
  exact ⟨hm'.trans hm, hc'.trans hc⟩

section
variable {s : State} {k : Nat} {r : Run} (hr : s.runOf k = some r)
include hr

theorem runOf_modRun (f : Run → Run) : (s.modRun k f).runOf k = some (f r) := by
  unfold State.modRun
  rw [hr]
  exact congrArg (fun x : Stack => x.delta.run) ((State.stack_modStack ..).trans (if_pos rfl))

theorem losePush_spec (i : Nat) : (s.losePush k i).runOf k =
    some { r with pushLost := true, pushes := r.pushes.filter fun p => p.id != i } :=
  runOf_modRun (runOf_modRun hr _) _

theorem pushFails_known {i : Nat} (hp : ∃ p ∈ r.pushes, p.id = i) : s.pushFails k i = s.losePush k i := by
  obtain ⟨p, hp, hi⟩ := hp
  unfold State.pushFails
  rw [hr]
  exact if_pos (Bool.or_eq_true_iff.mpr (.inl (List.any_eq_true.mpr ⟨p, hp, hi ▸ beq_self_eq_true _⟩)))

end

/-! ### The host (R355, R380) -/

section
variable {s : State}

theorem hostMemAccess_early (h : s.mc.stage ≠ 1 ∧ s.mc.stage ≠ 2) : exec .hostMemAccess s = .next s := by
  change execHostMemAccess s = _
  exact if_pos h

theorem hostMemAccess_goes (h : s.mc.stage = 1 ∨ s.mc.stage = 2) (hb : s.arg.a + s.arg.b ≤ hbmBase)
    (hw : s.firstWaiting (.step s.arg) [] [(s.arg.a, max 1 s.arg.b)] = none) :
    exec .hostMemAccess s = .next { ((s.dramTaken s.arg [(s.arg.a, max 1 s.arg.b)]).hostAccess s.arg).2 with
      hostData := ((s.dramTaken s.arg [(s.arg.a, max 1 s.arg.b)]).hostAccess s.arg).1 } := by
  change execHostMemAccess s = _
  unfold execHostMemAccess
  dsimp only
  rw [if_neg (by omega), if_neg (Nat.not_lt_of_le hb), withDram_goes _ hw]

/-- The state in which the host's release set holds what it has accessed. -/
def State.hostNoted (s : State) (e : Event) : State :=
  { s with hostSig := sigAddBytes s.hostSig (e.a - e.a % 32) (e.b + e.a % 32) }

theorem hostAccess_read {e : Event} (h : e.c = 0) : s.hostAccess e = (s.memRead e.a e.b, s) := if_pos h

theorem hostAccess_write {e : Event} (h : e.c = 1) :
    s.hostAccess e = (0, (s.hostNoted e).releasePut e.a e.b e.d (s.hostNoted e).hostSig) := by
  unfold State.hostAccess
  rw [if_neg (by omega)]
  exact if_pos h

theorem hostAccess_amo {e : Event} {k : Nat} (hk : k < 16) (h : e.c = 16 + k) :
    s.hostAccess e = (s.hostNoted e).homeAmo e.a e.b k e.d e.v.toNat (s.hostNoted e).hostSig := by
  unfold State.hostAccess
  rw [if_neg (by omega)]
  dsimp only
  rw [if_neg (by omega), show e.c % 16 = k by omega]
  rfl

theorem memRead_hostData (y pa n : Nat) : { s with hostData := y }.memRead pa n = s.memRead pa n := by
  apply memRead_congr
  exact fun _ => rfl

/-- An atomic at the home agent returns the old number, and the bytes hold the new one, or the old one where it writes none. -/
theorem homeAmo_hbm {pa n : Nat} (hr : region pa = .hbm) (hn : n ∣ 4096) (ha : pa % n = 0) (k v e : Nat) (g : Sig) :
    (s.homeAmo pa n k v e g).1 = s.memRead pa n ∧
      (s.homeAmo pa n k v e g).2.memRead pa n =
        ((amoFn e k (8 * n) (s.memRead pa n) (v % 2 ^ (8 * n))).1.getD (s.memRead pa n)) % 2 ^ (8 * n) ∧
      (s.homeAmo pa n k v e g).2.ctxs = s.ctxs ∧
      ∀ a, a < hostBase → (∀ i < n, home a ≠ home (pa + i)) → Claims.sameByte s (s.homeAmo pa n k v e g).2 a := by
  unfold State.homeAmo
  dsimp only
  cases (amoFn e k (8 * n) (s.memRead pa n) (v % 2 ^ (8 * n))).1 with
  | none =>
    refine ⟨rfl, ?_, rfl, fun _ _ _ => rfl⟩
    rw [Option.getD_none, Nat.pow_mul]
    exact (Nat.mod_eq_of_lt (memRead_lt pa n)).symm
  | some x =>
    obtain ⟨hread, hctxs, -, -, hother⟩ := releasePut_hbm (s := s) hr hn ha x g
    exact ⟨rfl, hread, hctxs, hother⟩

end

end Sys2Proof.Machine

namespace Sys2Proof.Claims

open Sys2Proof.Machine

/-! ### What a request of a peer does -/

theorem requestBytes_served {s : State} (hr : region (s.arg.c / 16) = .hbm)
    (hw : s.firstWaiting (.step s.arg) [] [(s.arg.c / 16, max 1 s.arg.d)] = none) (hop : s.arg.c % 16 = 0 ∨ s.arg.c % 16 = 1) :
    (requestBytes s.arg).all (fun r => moduleMemory r.1) = true ∧ s.firstWaiting (.step s.arg) [] (requestBytes s.arg) = none := by
  rw [requestBytes_of (by tauto), List.all_cons, List.all_nil, Bool.and_true, moduleMemory, hr]
  exact ⟨rfl, hw⟩

section
variable {s : State} (hnew : s.remoteReplies.find? (fun r => r.1 == (s.arg.a, s.arg.b)) = none)
include hnew

section
variable (hr : region (s.arg.c / 16) = .hbm)
  (hw : s.firstWaiting (.step s.arg) [] [(s.arg.c / 16, max 1 s.arg.d)] = none)
include hr hw

theorem peerReads (hop : s.arg.c % 16 = 0) : ∃ t, exec .remoteTransaction s = .next t ∧ t.mem = s.mem ∧ t.ctxs = s.ctxs ∧
    t.cores = s.cores ∧ t.remoteReplies = s.remoteReplies ++ [((s.arg.a, s.arg.b), s.memRead (s.arg.c / 16) s.arg.d)] := by
  obtain ⟨hm, hwait⟩ := requestBytes_served hr hw (.inl hop)
  have hd := dramOnly_dramTaken s s.arg (requestBytes s.arg)
  have hread := peerRead_hbm (s := s.dramTaken s.arg (requestBytes s.arg)) hr s.arg.d
  rw [memRead_congr hd.memByte] at hread
  have hu := serveRemote_read (s := s.dramTaken s.arg (requestBytes s.arg)) (s.arg.c / 16) s.arg
  rw [hread, ← hop] at hu
  have ha := aside_answered (s := s.dramTaken s.arg (requestBytes s.arg)) s.arg.a s.arg.b (s.arg.c / 16) (s.memRead (s.arg.c / 16) s.arg.d)
  exact ⟨_, remoteTransaction_served hnew hm hwait hu, ha.mem.trans hd.mem, ha.ctxs.trans hd.ctxs, ha.cores.trans hd.cores,
    ha.remoteReplies.trans (congrArg (· ++ _) (congrArg State.remoteReplies hd.rest :))⟩

theorem peerWrites (hop : s.arg.c % 16 = 1) (hn : s.arg.d ∣ 4096) (ha : s.arg.c / 16 % s.arg.d = 0) :
    ∃ t, exec .remoteTransaction s = .next t ∧ t.ctxs = s.ctxs ∧ t.cores = s.cores ∧
      t.memRead (s.arg.c / 16) s.arg.d = s.arg.l.headD 0 % 2 ^ (8 * s.arg.d) ∧
      t.remoteReplies = s.remoteReplies ++ [((s.arg.a, s.arg.b), 0)] ∧
      ∀ a, a < hostBase → (∀ i < s.arg.d, home a ≠ home (s.arg.c / 16 + i)) → sameByte s t a := by
  obtain ⟨hm, hwait⟩ := requestBytes_served hr hw (.inr hop)
  have hd := dramOnly_dramTaken s s.arg (requestBytes s.arg)
  have hu := serveRemote_write (s := s.dramTaken s.arg (requestBytes s.arg)) (s.arg.c / 16) s.arg
  rw [← hop] at hu
  obtain ⟨hread, hctxs, hcores, hreplies, hother⟩ :=
    releasePut_hbm (s := s.dramTaken s.arg (requestBytes s.arg)) hr hn ha (s.arg.l.headD 0) s.arg.sig
  generalize State.releasePut _ (s.arg.c / 16) s.arg.d _ _ = u at hu hread hctxs hcores hreplies hother
  have haside := aside_answered (s := u) s.arg.a s.arg.b (s.arg.c / 16) 0
  refine ⟨_, remoteTransaction_served hnew hm hwait hu, haside.ctxs.trans (hctxs.trans hd.ctxs),
    haside.cores.trans (hcores.trans hd.cores), ?_, ?_, fun a hlt hhome => ?_⟩
  · rw [memRead_congr (answered_memByte _ _ _ _), hread]
  · rw [answered_replies, hreplies, (congrArg State.remoteReplies hd.rest :)]
  · exact (answered_memByte _ _ _ _ a).trans ((hother a hlt hhome).trans (hd.memByte a))

end

/-- A request for a tile draws the next one and counts it, or says that none is left. -/
theorem peerDraws {pa : Nat} (hc : s.arg.c = 15 + 16 * pa) :
    (∀ x, s.drawTile pa = some x → ∃ t, exec .remoteTransaction s = .next t ∧ KeepsContexts s t ∧
      t.remoteReplies = s.remoteReplies ++ [((s.arg.a, s.arg.b), x)] ∧ ∀ d, region pa = .sync d → t.memRead pa 8 = s.memRead pa 8 + 1) ∧
    (s.drawTile pa = none → ∃ t, exec .remoteTransaction s = .next t ∧ KeepsContexts s t ∧ t.mem = s.mem ∧
      t.remoteReplies = s.remoteReplies ++ [((s.arg.a, s.arg.b), 2 ^ 64 - 1)]) := by
  have hop : s.arg.c % 16 = 15 := by omega
  have hpa : s.arg.c / 16 = pa := by omega
  have hbytes := requestBytes_tile hop
  have hd := dramOnly_dramTaken s s.arg (requestBytes s.arg)
  have hreplies : (s.dramTaken s.arg (requestBytes s.arg)).remoteReplies = s.remoteReplies := (congrArg State.remoteReplies hd.rest :)
  have hserved (y : Nat) (u : State) := remoteTransaction_served (s := s) (y := y) (u := u) hnew (by rw [hbytes]; rfl) (by rw [hbytes]; rfl)
  rw [hop, hpa, serveRemote_tile, drawTile_congr hd.memByte] at hserved
  have hctx : FlowsOnly s (s.dramTaken s.arg (requestBytes s.arg)) := flowsOnly_of_eq hd.ctxs
  generalize s.dramTaken s.arg (requestBytes s.arg) = v at hd hreplies hserved hctx
  have hanswered (u : State) (y : Nat) : FlowsOnly u (u.answered s.arg.a s.arg.b pa y) :=
    flowsOnly_of_eq (aside_answered s.arg.a s.arg.b pa y).ctxs
  refine ⟨fun x hx => ?_, fun hx => ?_⟩
  · have hadv : Behind v (v.advanceTiles pa) := behind_memWrite ..
    refine ⟨_, hserved x (v.advanceTiles pa) (by rw [hx]; rfl), ((hctx.trans hadv.flows).trans (hanswered _ _)).keepsContexts, ?_,
      fun d hr => ?_⟩
    · rw [answered_replies, hadv.remoteReplies, hreplies]
    · have hlt := drawTile_lt hx
      rw [← memRead_congr hd.memByte] at hlt
      rw [memRead_congr (answered_memByte _ _ _ _), advanceTiles_sync hr hlt, memRead_congr hd.memByte]
  · refine ⟨_, hserved (2 ^ 64 - 1) v (by rw [hx]; rfl), (hctx.trans (hanswered _ _)).keepsContexts,
      (aside_answered ..).mem.trans hd.mem, ?_⟩
    rw [answered_replies, hreplies]

end

/-! ### What the host's accesses do -/

section
variable {s : State} (hm : s.mc.stage = 1 ∨ s.mc.stage = 2) (hb : s.arg.a + s.arg.b ≤ hbmBase)
  (hw : s.firstWaiting (.step s.arg) [] [(s.arg.a, max 1 s.arg.b)] = none)
include hm hb hw

theorem hostReads (hc : s.arg.c = 0) : ∃ t, exec .hostMemAccess s = .next t ∧ t.hostData = s.memRead s.arg.a s.arg.b ∧
    t.mem = s.mem ∧ t.ctxs = s.ctxs ∧ t.cores = s.cores := by
  have hd := dramOnly_dramTaken s s.arg [(s.arg.a, max 1 s.arg.b)]
  refine ⟨_, hostMemAccess_goes hm hb hw, ?_⟩
  rw [hostAccess_read hc]
  exact ⟨memRead_congr hd.memByte .., hd.mem, hd.ctxs, hd.cores⟩

variable (hn : s.arg.b ∣ 4096) (ha : s.arg.a % s.arg.b = 0)
include hn

omit hm hw in
theorem hostAccess_region : region s.arg.a = .hbm := by
  have hpos := Nat.pos_of_dvd_of_pos hn (by decide)
  unfold hbmBase at hb
  exact (region_eq_hbm _).mpr (by unfold sideBase; omega)

include ha

theorem hostWrites (hc : s.arg.c = 1) : ∃ t, exec .hostMemAccess s = .next t ∧
    t.memRead s.arg.a s.arg.b = s.arg.d % 2 ^ (8 * s.arg.b) ∧ t.ctxs = s.ctxs ∧ t.cores = s.cores ∧
    ∀ a, a < hostBase → (∀ i < s.arg.b, home a ≠ home (s.arg.a + i)) → sameByte s t a := by
  have hd := dramOnly_dramTaken s s.arg [(s.arg.a, max 1 s.arg.b)]
  refine ⟨_, hostMemAccess_goes hm hb hw, ?_⟩
  rw [hostAccess_write hc]
  generalize s.dramTaken s.arg _ = v at hd ⊢
  obtain ⟨hread, hctxs, hcores, -, hother⟩ :=
    releasePut_hbm (s := v.hostNoted s.arg) (hostAccess_region hb hn) hn ha s.arg.d (v.hostNoted s.arg).hostSig
  generalize State.releasePut _ s.arg.a s.arg.b _ _ = u at hread hctxs hcores hother
  exact ⟨(memRead_hostData ..).trans hread, hctxs.trans hd.ctxs, hcores.trans hd.cores,
    fun a hlt hhome => (hother a hlt hhome).trans (hd.memByte a)⟩

theorem hostAtomics {k : Nat} (hk : k < 16) (hc : s.arg.c = 16 + k) :
    ∃ t, exec .hostMemAccess s = .next t ∧ t.hostData = s.memRead s.arg.a s.arg.b ∧
      t.memRead s.arg.a s.arg.b = ((amoFn s.arg.v.toNat k (8 * s.arg.b) (s.memRead s.arg.a s.arg.b)
        (s.arg.d % 2 ^ (8 * s.arg.b))).1.getD (s.memRead s.arg.a s.arg.b)) % 2 ^ (8 * s.arg.b) ∧ t.ctxs = s.ctxs ∧
      ∀ a, a < hostBase → (∀ i < s.arg.b, home a ≠ home (s.arg.a + i)) → sameByte s t a := by
  have hd := dramOnly_dramTaken s s.arg [(s.arg.a, max 1 s.arg.b)]
  refine ⟨_, hostMemAccess_goes hm hb hw, ?_⟩
  rw [hostAccess_amo hk hc]
  generalize s.dramTaken s.arg _ = v at hd ⊢
  have hbytes (b : Nat) : (v.hostNoted s.arg).memByte b = s.memByte b := hd.memByte b
  obtain ⟨hold, hnew, hctxs, hother⟩ :=
    homeAmo_hbm (s := v.hostNoted s.arg) (hostAccess_region hb hn) hn ha k s.arg.d s.arg.v.toNat (v.hostNoted s.arg).hostSig
  rw [memRead_congr hbytes] at hold hnew
  generalize State.homeAmo _ s.arg.a s.arg.b k _ _ _ = u at hold hnew hctxs hother
  exact ⟨hold, (memRead_hostData ..).trans hnew, hctxs.trans hd.ctxs,
    fun a hlt hhome => (hother a hlt hhome).trans (hbytes a)⟩

end

/-- Settles O55: a peer's request by what serves it, a lost one by whose it was, the host's accesses by a release write of HBM. -/
theorem requestsFromOutside : Obligations.RequestsFromOutside := by
  unfold Obligations.RequestsFromOutside
  intro s
  refine ⟨fun r hr => remoteTransaction_again hr, fun pa n hnew hpa hn hr hw => ?_, fun hnew hop hm => ?_,
    fun pa hnew hc => peerDraws hnew hc, fun x gen c hx hc hg hd => ?_, remoteRequestFail_copy, fun r hd hr hp => ?_,
    hostMemAccess_early, fun hm hb hw => ⟨fun hc hn ha => ?_, hostReads hm hb hw, fun k m y hk hc hn ha hmem hy => ?_⟩⟩
  · subst hpa hn
    exact ⟨peerReads hnew hr hw, peerWrites hnew hr hw⟩
  · refine remoteTransaction_outside hnew ?_
    rw [requestBytes_of hop, List.all_cons, hm, Bool.false_and]
  · subst hc
    rw [remoteRequestFail_token hd hx hg]
    refine ⟨fun ha hgen hn => ⟨_, rfl, ?_⟩, fun ha hgen hn => ⟨_, rfl, ?_⟩, fun h => by rw [remoteToken_logged h]⟩
    · rw [remoteToken_taken ha hgen hn, State.ctxAt_modCtxAt, if_pos rfl]
      exact ⟨rfl, fun y hy => (State.ctxAt_modCtxAt ..).trans (if_neg hy), rfl⟩
    · rw [remoteToken_more ha hgen hn, State.ctxAt_modCtxAt, if_pos rfl]
      exact ⟨rfl, ((behind_errorLog s ..).flows.trans (flowsOnly_modFlow _ _ _)).keepsContexts⟩
  · rw [remoteRequestFail_push hd, pushFails_known hr hp]
    obtain ⟨hmem, hctxs⟩ := losePush_frame s s.arg.a s.arg.c
    refine ⟨_, _, rfl, losePush_spec hr _, rfl, fun p => ?_, hmem, hctxs⟩
    rw [List.mem_filter, bne_iff_ne]
  · exact hostWrites hm hb hw hn ha hc
  · subst hmem hy
    have hdvd : s.arg.b ∣ 4096 := by rcases hn with h | h <;> rw [h] <;> decide
    exact hostAtomics hm hb hw hdvd ha hk hc

end Sys2Proof.Claims

/-!
PROOFS. Launches: the contexts they create, their dispatch, their end (O49).
-/
namespace Sys2Proof.Machine

/-! ### The registers of a created context (R107) -/

section
variable {x : Launch} {p o : Nat}

theorem get_launchScalars (n : Nat) : Store.get 0 (launchScalars x p o) n =
    if 16 ≤ n ∧ n < 32 then BitVec.ofNat 64 (fieldAt x.record (128 + 8 * (n - 16)) 8)
    else if n = 15 then BitVec.ofNat 64 o else if n = 14 then BitVec.ofNat 64 p else 0 := by
  have hfold (k : Nat) (m : Store Word) : Store.get 0 ((List.range k).foldl (fun m i =>
      Store.set 0 m (16 + i) (BitVec.ofNat 64 (fieldAt x.record (128 + 8 * i) 8))) m) n =
      if 16 ≤ n ∧ n < 16 + k then BitVec.ofNat 64 (fieldAt x.record (128 + 8 * (n - 16)) 8) else Store.get 0 m n := by
    induction k with
    | zero => rw [if_neg (by omega)]; rfl
    | succ k ih =>
      rw [List.range_succ, List.foldl_concat, Store.get_set, ih]
      by_cases h : n = 16 + k
      · rw [if_pos h, if_pos (by omega), h, Nat.add_sub_cancel_left]
      · rw [if_neg h]
        exact if_congr (by omega) rfl rfl
  refine (hfold 16 _).trans ?_
  rw [Store.get_set, Store.get_set, Store.get_nil]

theorem getS_of_launchScalars {r : Regs} (hr : r.s = launchScalars x p o) (n : BitVec 6) : r.getS n =
    if 16 ≤ n.toNat ∧ n.toNat < 32 then BitVec.ofNat 64 (fieldAt x.record (128 + 8 * (n.toNat - 16)) 8)
    else if n.toNat = 15 then BitVec.ofNat 64 o else if n.toNat = 14 then BitVec.ofNat 64 p else 0 := by
  rw [← get_launchScalars, ← hr, Regs.getS]
  split
  · next h => rw [h, hr]; exact (get_launchScalars 0).symm
  · rfl

end

/-! ### What the walker reads does not depend on its graphs (R95) -/

section
variable (s : State) (w : Walker)

theorem memRead_walker (pa n : Nat) : { s with walker := w }.memRead pa n = s.memRead pa n := by
  apply memRead_congr
  exact fun _ => rfl

theorem readTable_walker (die pa : Nat) : { s with walker := w }.readTable die pa = s.readTable die pa := by
  unfold State.readTable
  rw [memRead_walker]
  rfl

theorem walkFrom_walker (die va n level table : Nat) :
    { s with walker := w }.walkFrom die va n level table = s.walkFrom die va n level table := by
  induction n generalizing level table with
  | zero => rfl
  | succ n ih => simp only [State.walkFrom, readTable_walker, ih]

theorem walkerPa_walker (va : Nat) (write : Bool) : { s with walker := w }.walkerPa va write = s.walkerPa va write := by
  unfold State.walkerPa State.walk
  rw [walkFrom_walker]
  rfl

theorem walkerRead_walker (va n : Nat) : { s with walker := w }.walkerRead va n = s.walkerRead va n := by
  unfold State.walkerRead
  simp only [walkerPa_walker, memRead_walker]
  rfl

end

/-- What a walker acquires joins its graph's signature, which the walker keeps. -/
theorem acquireFor_eq (s : State) (g : Nat) (l : List (Nat × Nat)) : ∃ w, s.acquireFor g l = { s with walker := w } := by
  unfold State.acquireFor
  refine foldl_keeps (fun t : State => ∃ w, t = { s with walker := w }) _ _ (fun t x ht => ?_) s ⟨_, rfl⟩
  split
  · obtain ⟨w, rfl⟩ := ht
    unfold State.joinGraph
    split
    · exact ⟨_, rfl⟩
    · exact ⟨w, rfl⟩
  · exact ht

/-! ### A created context (R79, R107) -/

section
variable (s : State) (l : Nat) (x : Launch) (p place c from_ : Nat)

/-- What stands in a context's slot when its placement has created it. -/
def State.launchedCtx : Ctx :=
  let f := s.freshCtx (4 * placeCore place + c)
  { f with
    pc := BitVec.ofNat 64 (x.codeBase + 16 * placeEntry place c)
    launch := some l
    r := { s := launchScalars x p (4 * p + c), h := s.boundHandles l (4 * placeCore place + c) }
    csr := launchCsrs f.csr x p (4 * p + c) (placePrio place)
    flow := { f.flow with earliest := from_ } }

theorem launchedCtx_scalars : (s.launchedCtx l x p place c from_).r.s = launchScalars x p (4 * p + c) := by
  unfold State.launchedCtx
  dsimp only

theorem createCtx_flows : FlowsOnly (s.setCtxAt (4 * placeCore place + c) (s.launchedCtx l x p place c from_))
    (s.createCtx l x p place c from_) :=
  (behind_dirCreate ..).flows.trans (flowsOnly_of_eq (modLaunch_ctxs ..))

end

/-! ### Recursion over a launch's pin entries

`State.takePins` asks `State.pinAnswer`, which the kernel cannot evaluate on an unknown round (its counts are below 2^32), so its
equations are out of reach. What follows is induction on the recursion itself: no answer is evaluated. -/

/-- What a function over pin entries makes of the tails of a list. -/
abbrev PinsBelow (l : List Nat) : Type := List.below (motive := fun _ => State → PinAnswer × State) l

/-- `P` relates every state to what the tail of `l` makes of it. -/
def TailKeeps (P : State → PinAnswer × State → Prop) (l : List Nat) (f : PinsBelow l) : Prop :=
  ∀ e es (g : PinsBelow (e :: es)), l = e :: es → HEq f g → ∀ t, P t (g.1 t)

theorem brecOn_ind {P : State → PinAnswer × State → Prop} {F : ∀ l : List Nat, PinsBelow l → State → PinAnswer × State}
    (h : ∀ l f, TailKeeps P l f → ∀ s, P s (F l f s)) (l : List Nat) (s : State) :
    P s (List.brecOn (motive := fun _ => State → PinAnswer × State) l F s) := by
  induction l generalizing s with
  | nil => exact h _ _ (by rintro _ _ _ ⟨⟩) s
  | cons e es ih => exact h _ _ (by rintro e' es' g ⟨⟩ ⟨⟩; exact ih) s

theorem of_list {γ : Type} {β : List Nat → Type} {P : γ → Prop} {l : List Nat} {f : β l} {A : β [] → γ} {B : ∀ e es, β (e :: es) → γ}
    (h0 : ∀ g : β [], HEq f g → P (A g)) (h1 : ∀ e es (g : β (e :: es)), l = e :: es → HEq f g → P (B e es g)) :
    P ((match (motive := ∀ x, β x → γ) l with | [] => A | e :: es => B e es) f) := by
  cases l with
  | nil => exact h0 f .rfl
  | cons e es => exact h1 e es f rfl .rfl

/-! ### What dispatch keeps of the walker (R107, R346) -/

/-- The placements and the node of a launch. -/
def Launch.placed (x : Launch) : List Nat × Nat × Nat := (x.places, x.graph, x.node)

/-- Graphs, the launches DISPATCHING, and launch `i`'s placements and node are as they were. -/
structure KeepsLaunch (i : Nat) (s t : State) : Prop where
  graphs : t.walker.graphs = s.walker.graphs
  dispatching : t.walker.dispatching = s.walker.dispatching
  launch : ∀ x, s.launch i = some x → ∃ y, t.launch i = some y ∧ y.placed = x.placed

/-- What taking pins from `s` came to has kept the launch. -/
def TakesPins (i : Nat) (s : State) (o : PinAnswer × State) : Prop := KeepsLaunch i s o.2

section
variable {i : Nat} {s t u : State}

theorem keepsLaunch_of_eq (h : t.walker = s.walker) : KeepsLaunch i s t :=
  ⟨by rw [h], by rw [h], fun x hx => ⟨x, by rw [State.launch, h]; exact hx, rfl⟩⟩

theorem KeepsLaunch.trans (h : KeepsLaunch i s t) (h' : KeepsLaunch i t u) : KeepsLaunch i s u where
  graphs := h'.graphs.trans h.graphs
  dispatching := h'.dispatching.trans h.dispatching
  launch x hx := by
    obtain ⟨y, hy, hxy⟩ := h.launch x hx
    obtain ⟨z, hz, hyz⟩ := h'.launch y hy
    exact ⟨z, hz, hyz.trans hxy⟩

theorem keepsLaunch_foldl {β : Type} (f : State → β → State) (l : List β) (s : State) (hf : ∀ t b, KeepsLaunch i t (f t b)) :
    KeepsLaunch i s (l.foldl f s) :=
  foldl_keeps (KeepsLaunch i s) f l (fun t b ht => ht.trans (hf t b)) s (keepsLaunch_of_eq rfl)

theorem launch_modLaunch (f : Launch → Launch) : (s.modLaunch i f).launch i = (s.launch i).map f := by
  unfold State.modLaunch
  cases h : s.launch i with
  | none => exact h
  | some x => exact Store.get_set_same ..

theorem modLaunch_keepsLaunch {f : Launch → Launch} (hf : ∀ x, (f x).placed = x.placed) : KeepsLaunch i s (s.modLaunch i f) := by
  refine ⟨?_, ?_, fun x hx => ⟨f x, by rw [launch_modLaunch, hx]; rfl, hf x⟩⟩
  all_goals
    unfold State.modLaunch
    split <;> rfl

theorem takePins_keepsLaunch (y : Launch) (es : List Nat) : TakesPins i s (State.takePins s i y es) := by
  delta State.takePins
  refine brecOn_ind (P := TakesPins i) (fun l f hf s => ?_) es s
  refine of_list (P := TakesPins i s) (f := f) ?_ fun e es g hl hg => ?_
  · exact fun _ _ => keepsLaunch_of_eq rfl
  replace hf := hf e es g hl hg
  generalize s.pinEntry e = entry
  obtain ⟨ok, j, round⟩ := entry
  dsimp -zeta only
  extract_lets r
  split
  · exact keepsLaunch_of_eq rfl
  · refine of_answer (P := TakesPins i s) ?_ ?_ ?_
    · refine KeepsLaunch.trans ?_ (hf _)
      exact (keepsLaunch_of_eq (behind_grantPin s j r).walker).trans (modLaunch_keepsLaunch fun _ => rfl)
    · exact keepsLaunch_of_eq rfl
    · exact keepsLaunch_of_eq rfl

theorem createCtx_keepsLaunch (x : Launch) (p place c from_ : Nat) : KeepsLaunch i s (s.createCtx i x p place c from_) :=
  (keepsLaunch_of_eq (s := s) ((behind_dirCreate (s.setCtxAt _ _) _).walker :)).trans (modLaunch_keepsLaunch fun _ => rfl)

theorem applyPlace_keepsLaunch (x : Launch) (place : Nat) : KeepsLaunch i s (s.applyPlace x place) :=
  keepsLaunch_of_eq (behind_changeRoles s ..).walker

theorem defineRings_walker (l base k : Nat) (xs : List Nat) : (s.defineRings l base k xs).walker = s.walker := by
  induction xs generalizing s k with
  | nil => rfl
  | cons x xs ih =>
    rw [State.defineRings]
    refine (ih _).trans ?_
    split <;> rfl

theorem prologue_keepsLaunch (x : Launch) (sig : Sig) (p place : Nat) : KeepsLaunch i s (s.prologue i x sig p place) := by
  unfold State.prologue
  refine ((keepsLaunch_of_eq (behind_acquire s ..).walker).trans (keepsLaunch_foldl _ x.pins _ fun t q => ?_)).trans
    ((keepsLaunch_of_eq (by rfl)).trans (keepsLaunch_foldl _ _ _ fun t c => ?_))
  · exact keepsLaunch_of_eq (behind_acquire t ..).walker
  · split
    · exact createCtx_keepsLaunch ..
    · exact keepsLaunch_of_eq rfl

theorem runPrologues_keepsLaunch (x : Launch) (sig : Sig) : KeepsLaunch i s (s.runPrologues i x sig) :=
  ((keepsLaunch_foldl _ x.places s fun _ _ => applyPlace_keepsLaunch ..).trans (keepsLaunch_of_eq (defineRings_walker ..))).trans
    (keepsLaunch_foldl _ _ _ fun _ _ => prologue_keepsLaunch ..)

theorem leaveDispatch_walker : (s.leaveDispatch i).walker =
    { s.walker with dispatching := s.walker.dispatching.filter fun k => k != i } := by
  unfold State.leaveDispatch
  refine foldl_keeps (fun t : State => t.walker = _) _ _ (fun t k ht => ?_) _ rfl
  split <;> exact ht

/-! ### A node RUNNING (R104) -/

theorem node_modNode {g n : Nat} {gr : Graph} (hg : s.graph g = some gr) (f : GraphNode → GraphNode) :
    (s.modNode g n f).node g n = f (s.node g n) ∧ ∃ gr', (s.modNode g n f).graph g = some gr' := by
  have hset : (s.modNode g n f).graph g = some (gr.setNode n (f (gr.node n))) := by
    unfold State.modNode
    rw [hg]
    exact Store.get_set_same ..
  refine ⟨?_, _, hset⟩
  rw [State.node, hset, State.node, hg]
  exact Store.get_set_same ..

theorem modNode_walker (g n : Nat) (f : GraphNode → GraphNode) : ∃ gs, (s.modNode g n f).walker = { s.walker with graphs := gs } := by
  unfold State.modNode
  split <;> exact ⟨_, rfl⟩

theorem startTimeout_walker (g n : Nat) :
    (s.startTimeout g n).walker = (s.modNode g n fun y => { y with started := true }).walker := by
  unfold State.startTimeout
  dsimp only
  split <;> rfl

theorem runNode_spec {g n : Nat} {gr : Graph} (hg : s.graph g = some gr) : ((s.runNode g n).node g n).phase = .running ∧
    (s.runNode g n).walker.dispatching = s.walker.dispatching ∧ (s.runNode g n).walker.launches = s.walker.launches := by
  obtain ⟨hnode, gr', hg'⟩ := node_modNode hg (n := n) fun y => { y with phase := .running }
  obtain ⟨gs, hw⟩ := modNode_walker (s := s) g n fun y => { y with phase := .running }
  obtain ⟨hnode', -⟩ := node_modNode hg' (n := n) fun y => { y with started := true }
  obtain ⟨gs', hw'⟩ := modNode_walker (s := s.modNode g n fun y => { y with phase := .running }) g n fun y => { y with started := true }
  have hrun := startTimeout_walker (s := s.modNode g n fun y => { y with phase := .running }) g n
  refine ⟨?_, ?_, ?_⟩
  · unfold State.runNode
    rw [State.node, State.graph, hrun]
    exact (congrArg GraphNode.phase hnode').trans (congrArg GraphNode.phase hnode)
  · unfold State.runNode
    rw [hrun, hw', hw]
  · unfold State.runNode
    rw [hrun, hw', hw]

end

end Sys2Proof.Machine

namespace Sys2Proof.Claims

open Sys2Proof.Machine

/-! ### Dispatch (R107) -/

section
variable {s s' : State} {c : List (Nat × Nat)} (hr : Reads s c s')
include hr

/-- A step that reads changes only what its requests take of DRAM. -/
theorem dramOnly_reads : DramOnly s s' := by
  obtain ⟨-, rfl⟩ := hr
  exact dramOnly_dramTaken s s.arg (s.walkerAccesses c)

theorem reads_walker : s'.walker = s.walker := (congrArg State.walker (dramOnly_reads hr).rest :)

theorem reads_arg : s'.arg = s.arg := (congrArg State.arg (dramOnly_reads hr).rest :)

end

section
variable {s : State} {g n i : Nat} {l : Launch} (hg : g = s.arg.a) (hn : n = s.arg.b) (hi : i = (s.node g n).seq)
  (hl : s.launch i = some l) (hp : (s.node g n).phase = .dispatching)
include hg hn hi hl hp

theorem launchDispatch_waits (hf : s.resourcesFree i l = false) : exec .launchDispatch s = .next (s.laterOpen s.arg) := by
  subst hg hn hi
  change execLaunchDispatch s = _
  unfold execLaunchDispatch
  dsimp only
  rw [hp, if_neg (by decide), hl]
  dsimp only
  rw [hf, Bool.not_false, if_pos rfl]

theorem launchDispatch_goes (hf : s.resourcesFree i l = true) {c : List (Nat × Nat)} {s' : State}
    (hc : (if bit l.flags 1 ∧ !l.dispatched then [(fieldAt l.record 104 8, 4)] else []) = c) (hr : Reads s c s') :
    exec .launchDispatch s = .next ((s'.acquireFor g c).dispatch i l) := by
  subst hg hn hi hc
  have harg := reads_arg hr
  obtain ⟨hwait, hs'⟩ := hr
  change execLaunchDispatch s = _
  unfold execLaunchDispatch
  dsimp only
  rw [hp, if_neg (by decide), hl]
  dsimp only
  rw [hf, Bool.not_true, if_neg Bool.false_ne_true]
  unfold withWalker
  rw [withDram_goes _ hwait, show s.dramTaken s.arg (s.walkerAccesses _) = s' from hs'.symm, harg]

end

section
variable {s s' u : State} {i : Nat} {l : Launch}

theorem dispatch_dispatched (hd : l.dispatched = true) : s'.dispatch i l = s'.dispatchPinned i l := by
  unfold State.dispatch
  exact if_pos hd

theorem dispatchPinned_waits (hp : State.takePins s' i l (l.pinTable.drop l.pins.length) = (.waits, u)) : s'.dispatchPinned i l = u := by
  unfold State.dispatchPinned
  rw [hp]

/-- A launch whose pins are granted runs: its node is RUNNING, and it lists the contexts of its placements as live. -/
theorem dispatchPinned_runs {gr : Graph} (hl : s'.launch i = some l) (hg : s'.graph l.graph = some gr)
    (hp : State.takePins s' i l (l.pinTable.drop l.pins.length) = (.granted, u)) :
    ((s'.dispatchPinned i l).node l.graph l.node).phase = .running ∧ i ∉ (s'.dispatchPinned i l).walker.dispatching ∧
      ∃ y, (s'.dispatchPinned i l).launch i = some y ∧ y.live = contextsOf l.places := by
  have hpins : KeepsLaunch i s' u := by
    have h := takePins_keepsLaunch (i := i) (s := s') l (l.pinTable.drop l.pins.length)
    rwa [hp] at h
  obtain ⟨x, hx, hplaced⟩ := hpins.launch l hl
  obtain ⟨hplaces, hgraph, hnode⟩ : x.places = l.places ∧ x.graph = l.graph ∧ x.node = l.node := by
    simpa only [Launch.placed, Prod.mk.injEq] using hplaced
  have hleave := leaveDispatch_walker (i := i) (s := u)
  have hx' : (u.leaveDispatch i).launch i = some x := by rw [State.launch, hleave]; exact hx
  have hdispatch : s'.dispatchPinned i l = (((u.leaveDispatch i).runPrologues i x
      ((u.leaveDispatch i).node x.graph x.node).sig).modLaunch i fun y => { y with live := contextsOf x.places }).runNode x.graph x.node := by
    unfold State.dispatchPinned
    rw [hp]
    dsimp only
    rw [hx', Option.getD_some]
  have hrun := runPrologues_keepsLaunch (i := i) (s := u.leaveDispatch i) x ((u.leaveDispatch i).node x.graph x.node).sig
  generalize State.runPrologues _ i x _ = v at hdispatch hrun
  have hmod := modLaunch_keepsLaunch (i := i) (s := v) (f := fun y => { y with live := contextsOf x.places }) fun _ => rfl
  have hlive := launch_modLaunch (i := i) (s := v) fun y => { y with live := contextsOf x.places }
  obtain ⟨y, hy, -⟩ := hrun.launch x hx'
  have hgr : (v.modLaunch i fun y => { y with live := contextsOf x.places }).graph x.graph = some gr := by
    rw [State.graph, hmod.graphs, hrun.graphs, hleave, hgraph]
    exact (congrArg (fun gs => Store.get none gs l.graph) hpins.graphs).trans hg
  obtain ⟨hphase, hdisp, hlaunches⟩ := runNode_spec (n := x.node) hgr
  rw [hdispatch, ← hgraph, ← hnode]
  refine ⟨hphase, ?_, { y with live := contextsOf x.places }, ?_, congrArg contextsOf hplaces⟩
  · rw [hdisp, hmod.dispatching, hrun.dispatching, hleave, List.mem_filter]
    simp
  · rw [State.launch, hlaunches]
    exact hlive.trans (by rw [hy]; rfl)

/-- A launch that polls a count of zero is done at once (R107). -/
theorem dispatch_countZero (hd : l.dispatched = false) (hb : bit l.flags 1 = true)
    (hr : s'.walkerRead (fieldAt l.record 104 8) 4 = some 0) : s'.dispatch i l = (s'.dropLaunch i).nodeDone l.graph l.node 0 := by
  unfold State.dispatch
  simp only [hd, hb, hr, Bool.false_eq_true, if_false, if_true, and_self]

end

/-! ### Completion (R108) -/

section
variable {s : State} {i : Nat} {l : Launch}
  (hfind : s.walker.launches.find? (fun e => match e.2 with
    | some x => x.graph == s.arg.a && x.node == s.arg.b && !s.walker.dispatching.contains e.1
    | none => false) = some (i, some l))
include hfind

theorem launchComplete_eq : exec .launchComplete s = .next
    (if !l.live.isEmpty ∨ !l.parked.isEmpty ∨ !l.resuming.isEmpty ∨ s.launchCopies i then s
    else if ((s.dropLaunch i).node l.graph l.node).phase ≠ .running then s.dropLaunch i
    else match l.failCause with
      | none => (s.dropLaunch i).nodeDone l.graph l.node l.sig
      | some c => (s.dropLaunch i).nodeFailedWith l.graph l.node c l.sig) := by
  change execLaunchComplete s = _
  unfold execLaunchComplete
  split
  · next h => cases h.symm.trans hfind
  · next h =>
    cases h.symm.trans hfind
    dsimp only
    split
    · rfl
    · split <;> rfl

theorem launchComplete_busy (hb : l.live ≠ [] ∨ l.parked ≠ [] ∨ l.resuming ≠ [] ∨ s.launchCopies i = true) :
    exec .launchComplete s = .next s := by
  rw [launchComplete_eq hfind, if_pos]
  simpa only [Bool.not_eq_true', List.isEmpty_eq_false_iff] using hb

theorem launchComplete_ends (hlive : l.live = []) (hparked : l.parked = []) (hresuming : l.resuming = [])
    (hcopies : s.launchCopies i = false) (hp : ((s.dropLaunch i).node l.graph l.node).phase = .running) :
    (l.failCause = none → exec .launchComplete s = .next ((s.dropLaunch i).nodeDone l.graph l.node l.sig)) ∧
      ∀ c, l.failCause = some c → exec .launchComplete s = .next ((s.dropLaunch i).nodeFailedWith l.graph l.node c l.sig) := by
  have h := launchComplete_eq hfind
  rw [hlive, hparked, hresuming, hcopies, hp, if_neg (by decide), if_neg (by decide)] at h
  refine ⟨fun hc => ?_, fun c hc => ?_⟩
  all_goals
    rw [hc] at h
    exact h

end

/-- Settles O49: a created context by what stands in its slot, a dispatch by what its pins and prologues keep of the walker, an end by
the launch that is found. -/
theorem launches : Obligations.Launches := by
  unfold Obligations.Launches
  refine ⟨fun s l p place c from_ id o x hc hid ho => ?_, fun s g n i l hg hn hi hl => ⟨fun hp hf => launchDispatch_waits hg hn hi hl hp hf,
    fun u gr hp hf hd hgr hgraph hnode hpins => ?_, fun u hp hf hd hpins => ?_, fun s' hp hf hd hb hr hread => ?_,
    fun hfind => by subst hg hn; exact ⟨launchComplete_busy hfind, launchComplete_ends hfind⟩⟩⟩
  · subst hid ho
    have hflows := createCtx_flows s l x p place c from_
    obtain ⟨f, hf⟩ := hflows (4 * placeCore place + c)
    rw [State.ctxAt_setCtxAt, if_pos rfl] at hf
    have hscalars := launchedCtx_scalars s l x p place c from_
    refine ⟨_, rfl, ?_⟩
    rw [hf]
    refine ⟨rfl, rfl, rfl, rfl, rfl, rfl, rfl, rfl, rfl, rfl, rfl, fun k hk => ?_, ?_, ?_, fun k hk => ?_, fun k => rfl, rfl, rfl, rfl,
      fun y hy => ?_⟩
    · have hn : (BitVec.ofNat 6 (16 + k)).toNat = 16 + k := Nat.mod_eq_of_lt (by omega)
      rw [getS_of_launchScalars hscalars, hn, if_pos (by omega), Nat.add_sub_cancel_left]
    · exact getS_of_launchScalars hscalars 14
    · exact getS_of_launchScalars hscalars 15
    · rw [getS_of_launchScalars hscalars, if_neg (by omega), if_neg (by omega), if_neg (by omega)]
    · obtain ⟨f, hf⟩ := hflows y
      rw [State.ctxAt_setCtxAt, if_neg hy] at hf
      rw [hf]
      exact ⟨rfl, rfl, rfl, rfl, rfl, rfl, rfl⟩
  · obtain ⟨s', hr, hpins⟩ := hpins
    subst hgraph hnode
    have hexec := launchDispatch_goes hg hn hi hl hp hf (by simp [hd]) hr
    rw [show s'.acquireFor l.graph [] = s' from rfl, dispatch_dispatched hd] at hexec
    have hw := reads_walker hr
    obtain ⟨hrun, hdisp, y, hy, hlive⟩ := dispatchPinned_runs (by rw [State.launch, hw]; exact hl) (by rw [State.graph, hw]; exact hgr) hpins
    exact ⟨_, y, hexec, hrun, hdisp, hy, hlive⟩
  · obtain ⟨s', hr, hpins⟩ := hpins
    have hexec := launchDispatch_goes hg hn hi hl hp hf (by simp [hd]) hr
    rwa [show s'.acquireFor g [] = s' from rfl, dispatch_dispatched hd, dispatchPinned_waits hpins] at hexec
  · have hexec := launchDispatch_goes hg hn hi hl hp hf (by simp [hd, hb]) hr
    obtain ⟨w, hw⟩ := acquireFor_eq s' g [(fieldAt l.record 104 8, 4)]
    rwa [dispatch_countZero hd hb (by rw [hw, walkerRead_walker, hread])] at hexec

end Sys2Proof.Claims

/-!
PROOFS. The command graph: what the walker writes to memory, the rules of its graphs and nodes (O47, O48).
-/
namespace Sys2Proof.Machine

/-! ### Words of eight bytes at home (R177 to R179) -/

theorem home_mod_eight {pa : Nat} (ha : pa % 8 = 0) : home pa % 8 = 0 := by
  unfold home hbmBase bits
  dsimp only
  split <;> omega

theorem heldAt_word {pa i : Nat} (ha : pa % 8 = 0) (hi : i < 8) : heldAt (pa + i) = (decide (hostBase ≤ pa), home pa + i) := by
  by_cases hr : pa < sideBase
  · rw [heldAt_aligned ((region_eq_hbm pa).mpr hr) (by decide) ha hi,
      decide_eq_false (by unfold sideBase at hr; unfold hostBase; omega)]
  · have hside : sideBase ≤ pa := Nat.le_of_not_lt hr
    have hhost : hostBase ≤ pa + i ↔ hostBase ≤ pa := by unfold hostBase; omega
    rw [heldAt_above (by omega), home, if_neg (by unfold sideBase at hside; unfold hbmBase; omega), decide_eq_decide.mpr hhost]

theorem heldAt_word_inj {pa i j : Nat} (ha : pa % 8 = 0) (hi : i < 8) (hj : j < 8) (h : heldAt (pa + i) = heldAt (pa + j)) : i = j := by
  rw [heldAt_word ha hi, heldAt_word ha hj, Prod.mk.injEq] at h
  exact Nat.add_left_cancel h.2

/-- Two words of different homes share no byte. -/
theorem heldAt_word_apart {pa pb i j : Nat} (ha : pa % 8 = 0) (hb : pb % 8 = 0) (h : home pa ≠ home pb) (hi : i < 8) (hj : j < 8) :
    heldAt (pa + i) ≠ heldAt (pb + j) := by
  have hpa := home_mod_eight ha
  have hpb := home_mod_eight hb
  rw [heldAt_word ha hi, heldAt_word hb hj, Ne, Prod.mk.injEq]
  omega

/-! ### What a write of the walker leaves unchanged (R197, R208) -/

section
variable (s : State) (pa n x b : Nat)

theorem memByte_memWrite_other (h : ∀ i < n, heldAt b ≠ heldAt (pa + i)) : (s.memWrite pa n x).memByte b = s.memByte b := by
  have hput : ((s.putBytes pa n x).cureMem pa n).memByte b = s.memByte b :=
    (memByte_cureMem ..).trans (memByte_putBytes_other _ _ _ _ _ h)
  have hsync : (if (((s.putBytes pa n x).cureMem pa n).die (syncDie pa)).watches.isEmpty then (s.putBytes pa n x).cureMem pa n
      else ((s.putBytes pa n x).cureMem pa n).testWatches (syncDie pa) pa (pa + n)).memByte b = s.memByte b := by
    split
    · exact hput
    · exact (memByte_testWatches ..).trans hput
  unfold State.memWrite
  split
  · rfl
  · rfl
  · rfl
  · exact hsync
  · exact hsync
  · exact hput

theorem memByte_syncWrite_other (h : ∀ i < n, heldAt b ≠ heldAt (pa + i)) : (s.syncWrite pa n x).memByte b = s.memByte b := by
  unfold State.syncWrite
  dsimp only
  split
  · exact memByte_memWrite_other s pa n x b h
  · refine List.foldlRecOn (motive := fun t : State => t.memByte b = s.memByte b) _ _ rfl fun t ht i hi => ?_
    split
    · exact ht
    · refine (memByte_memWrite_other t _ _ _ b fun j hj => ?_).trans ht
      rw [Nat.lt_one_iff.mp hj]
      exact h i (List.mem_range.mp hi)

theorem memByte_partyPut_other (h : ∀ i < n, heldAt b ≠ heldAt (pa + i)) : (s.partyPut pa n x).memByte b = s.memByte b := by
  have hw := memByte_memWrite_other s pa n x b h
  have hy := memByte_syncWrite_other s pa n x b h
  unfold State.partyPut
  split
  · split
    · exact hw
    · rfl
  · split
    · exact hy
    · exact hw

/-- A write that queues at DRAM has written nothing yet (R315). -/
theorem memByte_partyWrite_other (h : ∀ i < n, heldAt b ≠ heldAt (pa + i)) : (s.partyWrite pa n x).memByte b = s.memByte b := by
  unfold State.partyWrite
  split
  · next hq =>
    unfold State.memPost State.dramJoin
    rw [if_pos hq]
    dsimp only
    split <;> rfl
  · exact (memByte_partyPut_other _ pa n x b h).trans (memByte_dramTake ..)

theorem memByte_releaseMem_other (g : Sig) (h : ∀ i < n, heldAt b ≠ heldAt (pa + i)) :
    (s.releaseMem pa n x g).memByte b = s.memByte b :=
  ((aside_recordBytes _ pa n g).memByte b).trans (memByte_partyWrite_other s pa n x b h)

theorem sideServes_dramTake (c : Nat) : (s.dramTake pa n).sideServes c = s.sideServes c := by
  unfold State.dramTake
  refine foldl_keeps (fun t : State => t.sideServes c = s.sideServes c) _ _ (fun t y ht => ?_) s rfl
  dsimp only
  split
  · exact ht
  · split
    · refine Eq.trans ?_ ht
      unfold State.sideServes
      rw [State.stack_modStack]
      split
      · next e => rw [e]
      · rfl
    · exact ht

end

/-- What a word reads does not change by a release write of another word. -/
theorem memRead_releaseMem_other (s : State) {pa pb : Nat} (x : Nat) (g : Sig) (ha : pa % 8 = 0) (hb : pb % 8 = 0)
    (h : home pa ≠ home pb) : (s.releaseMem pa 8 x g).memRead pb 8 = s.memRead pb 8 := by
  refine (memRead_of_bytes _ pb 8 (s.memRead pb 8) fun i hi => ?_).trans (Nat.mod_eq_of_lt (memRead_lt pb 8))
  rw [memByte_releaseMem_other _ _ _ _ _ _ fun j hj => heldAt_word_apart hb ha (Ne.symm h) hi hj]
  refine BitVec.eq_of_toNat_eq ?_
  rw [BitVec.toNat_ofNat]
  exact (memRead_byte s hi).symm

/-! ### What a write of the walker that nothing delays writes (R97, R279, R315) -/

theorem dramWaits_of_writesNow {s : State} {pa : Nat} (h : Claims.WritesNow s pa) (who : DramParty) : s.dramWaits who pa 8 = false := by
  obtain ⟨hb, hq, -⟩ := h
  unfold State.dramWaits State.outrun
  rw [hb, hq]
  rfl

theorem partyPut_status {s : State} {pa : Nat} (x : Nat) (hok : statusOk pa = true) (hs : region pa = .side → s.sideServes pa = true) :
    s.partyPut pa 8 x = (s.putBytes pa 8 x).cureMem pa 8 := by
  have hr : region pa = .hbm ∨ region pa = .side ∨ region pa = .host := by
    unfold statusOk at hok
    cases h : region pa <;> simp_all
  unfold State.partyPut State.memWrite atSync
  rcases hr with hr | hr | hr
  · rw [hr]; rfl
  · rw [hr]; exact if_pos (hs hr)
  · rw [hr]; rfl

theorem aligned_of_statusOk {pa : Nat} (hok : statusOk pa = true) : pa % 8 = 0 := by
  unfold statusOk at hok
  exact beq_iff_eq.mp (Bool.and_eq_true_iff.mp hok).1

/-- A status word reads what is written to it. -/
theorem memRead_releaseMem_same {s : State} {pa : Nat} (x : Nat) (g : Sig) (hok : statusOk pa = true) (hw : Claims.WritesNow s pa) :
    (s.releaseMem pa 8 x g).memRead pa 8 = x % 2 ^ 64 := by
  have ha := aligned_of_statusOk hok
  have hput : s.partyWrite pa 8 x = ((s.dramTake pa 8).putBytes pa 8 x).cureMem pa 8 := by
    unfold State.partyWrite
    rw [dramWaits_of_writesNow hw, if_neg Bool.false_ne_true]
    exact partyPut_status x hok fun hr => (sideServes_dramTake ..).trans (hw.2.2 hr)
  refine memRead_of_bytes _ pa 8 x fun i hi => ?_
  unfold State.releaseMem
  rw [(aside_recordBytes ..).memByte, hput, memByte_cureMem]
  exact memByte_putBytes_run _ pa 8 x (fun i hi j hj => heldAt_word_inj ha hi hj) hi rfl

/-! ### What only the walker has changed (R95) -/

theorem segsBlocked_congr {s t : State} (hs : t.hbmStacks = s.hbmStacks) (hn : t.now = s.now) (used : Store Nat) (l : List (Nat × Nat)) :
    t.segsBlocked used l = s.segsBlocked used l := by
  induction l generalizing used with
  | nil => rfl
  | cons x l ih =>
    unfold State.segsBlocked
    simp only [ih, State.stack, hs, hn]

section
variable {s t u : State}

theorem onlyWalker_trans (h : Claims.OnlyWalker s t) (h' : Claims.OnlyWalker t u) : Claims.OnlyWalker s u :=
  (congrArg (fun v : State => { v with walker := s.walker, timers := s.timers, fresh := s.fresh, agenda := s.agenda }) h' :).trans h

theorem onlyWalker_modWalker (s : State) (f : Walker → Walker) : Claims.OnlyWalker s (s.modWalker f) := rfl
theorem onlyWalker_laterOpen (s : State) (e : Event) : Claims.OnlyWalker s (s.laterOpen e) := rfl
theorem onlyWalker_soon (s : State) (e : Event) : Claims.OnlyWalker s (s.soon e) := rfl

theorem memRead_of_onlyWalker (h : Claims.OnlyWalker s t) (pa n : Nat) : t.memRead pa n = s.memRead pa n :=
  memRead_congr (s := s) (t := t) (memByte_congr (congrArg State.mem h :) (congrArg State.wild h :) (congrArg State.outside h :)) pa n

theorem writesNow_of_onlyWalker (h : Claims.OnlyWalker s t) {pa : Nat} (hw : Claims.WritesNow s pa) : Claims.WritesNow t pa := by
  have hs : t.hbmStacks = s.hbmStacks := (congrArg State.hbmStacks h :)
  obtain ⟨hb, hq, hside⟩ := hw
  refine ⟨(segsBlocked_congr hs (congrArg State.now h :) _ _).trans hb, (congrArg State.dramQueue h :).trans hq, fun hr => ?_⟩
  rw [State.sideServes, State.stack, hs]
  exact hside hr

end

/-! ### The graphs of the walker (R95, R98) -/

theorem get_indexed {α : Type} (d : α) (l : List α) (n : Nat) : Store.get d (indexed l) n = l.getD n d := by
  have hfrom (k : Nat) : Store.get d ((List.range' k l.length).zip l) (k + n) = l.getD n d := by
    induction l generalizing k n with
    | nil => rfl
    | cons x l ih =>
      rw [List.length_cons, List.range'_succ, List.zip_cons_cons, Store.get]
      cases n with
      | zero => exact if_pos rfl
      | succ n =>
        rw [if_neg (by omega), List.getD_cons_succ, ← ih n (k + 1), Nat.add_assoc, Nat.add_comm n]
  rw [indexed, upTo, List.range_eq_range', ← hfrom 0, Nat.zero_add]

theorem node_setNode (x : Graph) (n k : Nat) (y : GraphNode) : (x.setNode n y).node k = if k = n then y else x.node k :=
  Store.get_set ..

/-- From `s` to `t` only graphs of the walker have changed. -/
structure GraphsOnly (s t : State) : Prop where
  rest : { t with walker := { t.walker with graphs := s.walker.graphs } } = s

section
variable {s t u : State}

theorem GraphsOnly.sent (h : GraphsOnly s t) : t.walker.sent = s.walker.sent := (congrArg (fun v => v.walker.sent) h.rest :)
theorem GraphsOnly.credits (h : GraphsOnly s t) : t.walker.credits = s.walker.credits := (congrArg (fun v => v.walker.credits) h.rest :)
theorem GraphsOnly.readyCount (h : GraphsOnly s t) : t.walker.readyCount = s.walker.readyCount :=
  (congrArg (fun v => v.walker.readyCount) h.rest :)
theorem GraphsOnly.dispatching (h : GraphsOnly s t) : t.walker.dispatching = s.walker.dispatching :=
  (congrArg (fun v => v.walker.dispatching) h.rest :)
theorem GraphsOnly.agenda (h : GraphsOnly s t) : t.agenda = s.agenda := (congrArg State.agenda h.rest :)
theorem GraphsOnly.onlyWalker (h : GraphsOnly s t) : Claims.OnlyWalker s t :=
  (congrArg (fun v : State => { v with walker := s.walker, timers := s.timers, fresh := s.fresh, agenda := s.agenda }) h.rest :)

theorem GraphsOnly.refl (s : State) : GraphsOnly s s := ⟨rfl⟩

theorem GraphsOnly.trans (h : GraphsOnly s t) (h' : GraphsOnly t u) : GraphsOnly s u :=
  ⟨(congrArg (fun v : State => { v with walker := { v.walker with graphs := s.walker.graphs } }) h'.rest :).trans h.rest⟩

theorem graphsOnly_setGraph (s : State) (g : Nat) (x : Option Graph) : GraphsOnly s (s.setGraph g x) := ⟨rfl⟩

theorem graph_setGraph (s : State) (g : Nat) (x : Option Graph) : (s.setGraph g x).graph g = x := Store.get_set_same ..

theorem onlyWalker_dropGraph (s : State) (g : Nat) : Claims.OnlyWalker s (s.dropGraph g) :=
  onlyWalker_trans (graphsOnly_setGraph s g none).onlyWalker (onlyWalker_modWalker ..)

theorem graph_dropGraph (s : State) (g : Nat) : (s.dropGraph g).graph g = none := graph_setGraph s g none

theorem returning_dropGraph (s : State) (g : Nat) : (s.dropGraph g).walker.returning = s.walker.returning + 1 := rfl

theorem graphsOnly_modNode (s : State) (g n : Nat) (f : GraphNode → GraphNode) : GraphsOnly s (s.modNode g n f) := by
  unfold State.modNode
  split <;> exact ⟨rfl⟩

theorem graphsOnly_joinGraph (s : State) (g : Nat) (sig : Sig) : GraphsOnly s (s.joinGraph g sig) := by
  unfold State.joinGraph
  split <;> exact ⟨rfl⟩

/-- What an acquire joins to a graph is its signature alone (log entry 100). -/
theorem joinGraph_graph (s : State) (g : Nat) (sig : Sig) :
    ∃ sig', (s.joinGraph g sig).graph g = (s.graph g).map fun x => { x with sig := sig' } := by
  cases h : s.graph g with
  | none => exact ⟨0, by rw [State.joinGraph, h]; exact h⟩
  | some x => exact ⟨x.sig ||| sig, by rw [State.joinGraph, h]; exact graph_setGraph ..⟩

theorem node_of_graph {g : Nat} {gr : Graph} (hg : s.graph g = some gr) (n : Nat) : s.node g n = gr.node n := by rw [State.node, hg]; rfl

theorem graph_modNode {g : Nat} {gr : Graph} (hg : s.graph g = some gr) (n : Nat) (f : GraphNode → GraphNode) :
    (s.modNode g n f).graph g = some (gr.setNode n (f (s.node g n))) := by
  rw [State.modNode, hg, node_of_graph hg]
  exact graph_setGraph ..

theorem node_modNode_eq {g : Nat} {gr : Graph} (hg : s.graph g = some gr) (n k : Nat) (f : GraphNode → GraphNode) :
    (s.modNode g n f).node g k = if k = n then f (s.node g n) else s.node g k := by
  rw [node_of_graph (graph_modNode hg n f), node_setNode, node_of_graph hg k]

end

/-- Graph `g` is there, with the count and the status word of `gr`; only its nodes and its signature have moved on. -/
def State.SameGraph (s : State) (g : Nat) (gr : Graph) : Prop :=
  ∃ x, s.graph g = some x ∧ x.accepted = gr.accepted ∧ x.count = gr.count ∧ x.status = gr.status

section
variable {s : State} {g : Nat} {gr : Graph}

theorem sameGraph_of_some (hg : s.graph g = some gr) : s.SameGraph g gr := ⟨gr, hg, rfl, rfl, rfl⟩

theorem sameGraph_modNode (h : s.SameGraph g gr) (n : Nat) (f : GraphNode → GraphNode) : (s.modNode g n f).SameGraph g gr := by
  obtain ⟨x, hx, hsame⟩ := h
  exact ⟨_, graph_modNode hx n f, hsame⟩

theorem sameGraph_joinGraph (h : s.SameGraph g gr) (sig : Sig) : (s.joinGraph g sig).SameGraph g gr := by
  obtain ⟨x, hx, hsame⟩ := h
  obtain ⟨sig', hj⟩ := joinGraph_graph s g sig
  exact ⟨{ x with sig := sig' }, by rw [hj, hx]; rfl, hsame⟩

end

theorem node_joinGraph (s : State) (g n : Nat) (sig : Sig) : (s.joinGraph g sig).node g n = s.node g n := by
  obtain ⟨sig', hj⟩ := joinGraph_graph s g sig
  rw [State.node, hj, State.node]
  cases s.graph g <;> rfl

/-- An acquire of the walker changes no node, and of graphs none but its own (log entry 100). -/
theorem acquireFor_spec (s : State) (g : Nat) (l : List (Nat × Nat)) : GraphsOnly s (s.acquireFor g l) ∧
    (∀ k, (s.acquireFor g l).node g k = s.node g k) ∧ ∀ gr, s.SameGraph g gr → (s.acquireFor g l).SameGraph g gr := by
  unfold State.acquireFor
  refine foldl_keeps (fun t : State => GraphsOnly s t ∧ (∀ k, t.node g k = s.node g k) ∧ ∀ gr, s.SameGraph g gr → t.SameGraph g gr)
    _ _ (fun t p ht => ?_) s ⟨.refl s, fun _ => rfl, fun _ h => h⟩
  obtain ⟨honly, hnode, hgraph⟩ := ht
  split
  · exact ⟨honly.trans (graphsOnly_joinGraph ..), fun k => (node_joinGraph ..).trans (hnode k),
      fun gr h => sameGraph_joinGraph (hgraph gr h) _⟩
  · exact ⟨honly, hnode, hgraph⟩

/-! ### A node becomes READY (R100) -/

theorem laterOpen_due (s : State) (e : Event) : Claims.Due s (s.laterOpen e) e :=
  ⟨s.now + 1 + Config.engineDelay s.fresh, by omega, List.mem_append_right _ (List.mem_singleton.mpr rfl)⟩

/-- A node that is READY, the `k`th of all. -/
def GraphNode.readied (x : GraphNode) (k : Nat) : GraphNode := { x with phase := .ready, seq := k }

section
variable {s : State} {g : Nat} {gr : Graph}

theorem makeReady_onlyWalker (s : State) (g n : Nat) : Claims.OnlyWalker s (s.makeReady g n) :=
  onlyWalker_trans (onlyWalker_trans (graphsOnly_modNode s g n fun x => x.readied s.walker.readyCount).onlyWalker
    (onlyWalker_modWalker ..)) (onlyWalker_laterOpen ..)

theorem makeReady_sent (s : State) (g n : Nat) : (s.makeReady g n).walker.sent = s.walker.sent :=
  (graphsOnly_modNode s g n fun x => x.readied s.walker.readyCount).sent

theorem makeReady_credits (s : State) (g n : Nat) : (s.makeReady g n).walker.credits = s.walker.credits :=
  (graphsOnly_modNode s g n fun x => x.readied s.walker.readyCount).credits

theorem node_makeReady (hg : s.graph g = some gr) (n k : Nat) : (s.makeReady g n).node g k =
    if k = n then (s.node g n).readied s.walker.readyCount else s.node g k :=
  node_modNode_eq hg n k fun x => x.readied s.walker.readyCount

theorem sameGraph_makeReady (h : s.SameGraph g gr) (n : Nat) : (s.makeReady g n).SameGraph g gr :=
  sameGraph_modNode h n fun x => x.readied s.walker.readyCount

end

end Sys2Proof.Machine

/-!
PROOFS. Submission and validation of graphs (O47).
-/
namespace Sys2Proof.Machine

/-! ### What the walker reads does not depend on the queue at DRAM (R315) -/

section
variable (s : State) (x : Store Stack) (q : List DramWait)

theorem readTable_dram (die pa : Nat) : { s with hbmStacks := x, dramQueue := q }.readTable die pa = s.readTable die pa := by
  have hm := memRead_congr (s := s) (t := { s with hbmStacks := x, dramQueue := q }) (fun _ => rfl) pa 8
  unfold State.readTable
  rw [hm]
  rfl

theorem walkFrom_dram (die va n level table : Nat) :
    { s with hbmStacks := x, dramQueue := q }.walkFrom die va n level table = s.walkFrom die va n level table := by
  induction n generalizing level table with
  | zero => rfl
  | succ n ih => simp only [State.walkFrom, readTable_dram, ih]

theorem walkerRead_dram (va n : Nat) : { s with hbmStacks := x, dramQueue := q }.walkerRead va n = s.walkerRead va n := by
  have hpa (va : Nat) (write : Bool) : { s with hbmStacks := x, dramQueue := q }.walkerPa va write = s.walkerPa va write := by
    unfold State.walkerPa State.walk
    rw [walkFrom_dram]
    rfl
  have hm (pa n : Nat) := memRead_congr (s := s) (t := { s with hbmStacks := x, dramQueue := q }) (fun _ => rfl) pa n
  unfold State.walkerRead
  simp only [hpa, hm]
  rfl

end

theorem DramOnly.walkerRead {s t : State} (h : DramOnly s t) (va n : Nat) : t.walkerRead va n = s.walkerRead va n := by
  exact (walkerRead_dram t s.hbmStacks s.dramQueue va n).symm.trans (by rw [h.rest])

/-! ### Submission (R95, R380) -/

section
variable {s : State}

theorem submit_refused (h : s.walker.credits = 0 ∨ s.walker.frozen = true ∨ s.arg.v.toNat % 64 ≠ 0 ∨ s.mc.stage ≠ 2) :
    exec .submit s = .next s.countRejected := by
  change execSubmit s = _
  unfold execSubmit
  dsimp only
  rw [if_pos h]

theorem submit_taken (h : ¬ (s.walker.credits = 0 ∨ s.walker.frozen = true ∨ s.arg.v.toNat % 64 ≠ 0 ∨ s.mc.stage ≠ 2)) :
    exec .submit s = .next (((s.setGraph s.walker.nextId (some { addr := s.arg.v.toNat })).modWalker fun w =>
      { w with credits := w.credits - 1, nextId := s.walker.nextId + 1 }).laterOpen { i := .graphValidation, a := s.walker.nextId }) := by
  change execSubmit s = _
  unfold execSubmit
  dsimp only
  rw [if_neg h]

theorem errAck_eq : exec .errAck s = .next (if s.arg.v.getLsbD 0 ∧ s.mc.stage = 2 then
    s.modWalker fun w => { w with frozen := false, rejected := 0 } else s) := rfl

end

/-- The end of a cycle in which no mark was sent only returns queue entries (R96). -/
theorem settleWalker_idle {s : State} (h : s.walker.sent = []) : s.settleWalker =
    { s with walker := { s.walker with credits := s.walker.credits + s.walker.returning, returning := 0 } } := by
  unfold State.settleWalker State.modWalker
  simp only [h, List.foldl_nil, List.map_nil, List.eraseDups_nil]

/-! ### The records of a graph (R98) -/

/-- Every record of a table that can be read makes one node. -/
theorem readNodes_spec {s : State} {table n : Nat} {ns : List GraphNode} (h : s.readNodes table n = some ns) :
    ns.length = n ∧ ∀ y ∈ ns, ∃ r, y = nodeOf r := by
  induction n generalizing ns with
  | zero =>
    cases h
    exact ⟨rfl, fun y hy => absurd hy List.not_mem_nil⟩
  | succ n ih =>
    unfold State.readNodes at h
    split at h
    · next l r hl hr =>
      obtain ⟨hlen, hnodes⟩ := ih hl
      split at h
      · cases h
        refine ⟨by rw [List.length_append, hlen]; rfl, fun y hy => ?_⟩
        rcases List.mem_append.mp hy with hy | hy
        · exact hnodes y hy
        · exact ⟨r, List.mem_singleton.mp hy⟩
      · cases h
    · cases h

/-! ### Acceptance and rejection (R96, R97, R99) -/

/-- The first `k` nodes of the accepted graph `x` without dependences have become READY in `t`. -/
structure Opened (g : Nat) (x : Graph) (k : Nat) (s t : State) : Prop where
  only : Claims.OnlyWalker s t
  credits : t.walker.credits = s.walker.credits
  graph : t.SameGraph g x
  node : ∀ n, (t.node g n).kind = (x.node n).kind ∧ (t.node g n).left = (x.node n).left ∧
    (t.node g n).phase = if n < k ∧ (x.node n).deps = 0 then .ready else (x.node n).phase

section
variable {s : State} {g : Nat} {x : Graph}

theorem opened_zero (hg : s.graph g = some x) : Opened g x 0 s s where
  only := rfl
  credits := rfl
  graph := sameGraph_of_some hg
  node n := by
    rw [node_of_graph hg, if_neg (by omega)]
    exact ⟨rfl, rfl, rfl⟩

theorem Opened.succ {t : State} {k : Nat} (h : Opened g x k s t) :
    Opened g x (k + 1) s (if (x.node k).deps = 0 then t.makeReady g k else t) := by
  obtain ⟨hw, hc, hgr, hn⟩ := h
  split
  · next hd =>
    obtain ⟨gr, ht, -⟩ := id hgr
    refine ⟨onlyWalker_trans hw (makeReady_onlyWalker ..), (makeReady_credits ..).trans hc, sameGraph_makeReady hgr k, fun n => ?_⟩
    obtain ⟨hkind, hleft, hphase⟩ := hn n
    rw [node_makeReady ht]
    by_cases hnk : n = k
    · subst hnk
      rw [if_pos rfl, if_pos ⟨Nat.lt_succ_self n, hd⟩]
      exact ⟨hkind, hleft, rfl⟩
    · rw [if_neg hnk]
      exact ⟨hkind, hleft, hphase.trans (if_congr (by omega) rfl rfl)⟩
  · next hd =>
    refine ⟨hw, hc, hgr, fun n => ?_⟩
    obtain ⟨hkind, hleft, hphase⟩ := hn n
    refine ⟨hkind, hleft, hphase.trans (if_congr ⟨fun h => ⟨by omega, h.2⟩, fun h => ⟨?_, h.2⟩⟩ rfl rfl)⟩
    obtain ⟨hlt, hdn⟩ := h
    have hne : n ≠ k := fun e => hd (e ▸ hdn)
    omega

theorem opened_acceptGraph {t : State} (ht : (s.setGraph g (some x)).writeGraphStatus x 1 = t) (hg : t.graph g = some x) :
    Opened g x x.count t (s.acceptGraph g x) := by
  have hfold (k : Nat) : Opened g x k t ((upTo k).foldl (fun t n => if (x.node n).deps = 0 then t.makeReady g n else t) t) := by
    induction k with
    | zero => exact opened_zero hg
    | succ k ih =>
      rw [upTo, List.range_succ, List.foldl_concat]
      exact ih.succ
  rw [State.acceptGraph, ht]
  exact hfold x.count

theorem behind_writeGraphStatus (s : State) (x : Graph) (c : Nat) : Behind s (s.writeGraphStatus x c) := behind_releaseMem ..

/-- A graph's status word reads the state that is written, where no node has failed. -/
theorem memRead_writeGraphStatus {x : Graph} (c : Nat) (hc : c < 2 ^ 16) (hok : statusOk x.status = true) (hw : Claims.WritesNow s x.status)
    (hf : x.firstFailed = none) :
    (s.writeGraphStatus x c).memRead x.status 8 = c + if c = 1 ∨ c = 2 then 0 else 2 ^ 63 := by
  unfold State.writeGraphStatus
  rw [memRead_releaseMem_same _ _ hok hw, hf, Nat.mod_eq_of_lt]
  · rfl
  · rw [Option.getD_none]
    split <;> omega

/-- An accepted graph (R96, R99): what its status word and its nodes read. -/
theorem acceptGraph_spec (hok : statusOk x.status = true) (hw : Claims.WritesNow s x.status) (hf : x.firstFailed = none) :
    (s.acceptGraph g x).SameGraph g x ∧ (s.acceptGraph g x).memRead x.status 8 = 1 ∧
      (s.acceptGraph g x).walker.credits = s.walker.credits ∧
      ∀ n, ((s.acceptGraph g x).node g n).kind = (x.node n).kind ∧ ((s.acceptGraph g x).node g n).left = (x.node n).left ∧
        ((s.acceptGraph g x).node g n).phase = if n < x.count ∧ (x.node n).deps = 0 then .ready else (x.node n).phase := by
  have hset := graphsOnly_setGraph s g (some x)
  have hwalker := (behind_writeGraphStatus (s.setGraph g (some x)) x 1).walker
  have hread := memRead_writeGraphStatus 1 (by decide) hok (writesNow_of_onlyWalker hset.onlyWalker hw) hf
  obtain ⟨honly, hcredits, hgraph, hnode⟩ := opened_acceptGraph (s := s) (g := g) rfl
    (by rw [State.graph, hwalker]; exact graph_setGraph s g (some x))
  refine ⟨hgraph, ?_, ?_, hnode⟩
  · exact (memRead_of_onlyWalker honly _ _).trans hread
  · rw [hcredits, hwalker, hset.credits]

/-- A rejected graph (R99) is forgotten, its status word says so, and its queue entry is on its way back (R96). -/
theorem rejectGraph_spec (hok : statusOk x.status = true) (hw : Claims.WritesNow s x.status) (hf : x.firstFailed = none) :
    (s.rejectGraph g x).graph g = none ∧ (s.rejectGraph g x).walker.returning = s.walker.returning + 1 ∧
      (s.rejectGraph g x).memRead x.status 8 = 4 + 2 ^ 63 := by
  have hwalker := (behind_writeGraphStatus s x 4).walker
  unfold State.rejectGraph
  refine ⟨graph_dropGraph .., ?_, ?_⟩
  · rw [returning_dropGraph, hwalker]
  · rw [memRead_of_onlyWalker (onlyWalker_dropGraph ..), memRead_writeGraphStatus 4 (by decide) hok hw hf]
    rfl

end

end Sys2Proof.Machine

namespace Sys2Proof.Claims

open Sys2Proof.Machine

/-- A step whose reads are served at once goes on. -/
theorem withWalker_goes {s s' : State} {l : List (Nat × Nat)} (go : State → Out) (hr : Reads s l s') : withWalker s l go = go s' := by
  obtain ⟨hwait, hs'⟩ := hr
  unfold withWalker
  rw [withDram_goes go hwait]
  exact congrArg go hs'.symm

/-! ### Validation (R97 to R99) -/

/-- The graph that a descriptor describes. -/
def described (x : Machine.Graph) (d : Nat) : Machine.Graph := { x with count := bits d 95 64, status := bits d 191 128 }

/-- A descriptor whose fields break R97. -/
abbrev Illegal (d : Nat) : Prop :=
  bits d 63 0 % 64 ≠ 0 ∨ bits d 95 64 = 0 ∨ 65535 < bits d 95 64 ∨ bits d 127 96 ≠ 0 ∨ bits d 255 192 ≠ 0

/-- What validation makes of a descriptor that reads `d`. -/
def validated (s : State) (g : Nat) (x : Machine.Graph) (d : Nat) : State :=
  if !statusOk (bits d 191 128) then (s.dropGraph g).countRejected
  else if Illegal d then s.rejectGraph g (described x d)
  else match s.readNodes (bits d 63 0) (bits d 95 64) with
    | none => s.rejectGraph g (described x d)
    | some ns =>
      if nodesOk ns then s.acceptGraph g { described x d with accepted := true, nodes := indexed ns }
      else s.rejectGraph g (described x d)

section
variable {s : State} {g d : Nat} {x : Machine.Graph}

theorem validated_drops (hok : statusOk (bits d 191 128) = false) : validated s g x d = (s.dropGraph g).countRejected := by
  rw [validated, hok]
  rfl

theorem validated_accepts (hok : statusOk (bits d 191 128) = true) (hlegal : ¬ Illegal d) {ns : List GraphNode}
    (hread : s.readNodes (bits d 63 0) (bits d 95 64) = some ns) (hns : nodesOk ns = true) :
    validated s g x d = s.acceptGraph g { described x d with accepted := true, nodes := indexed ns } := by
  rw [validated, hok, Bool.not_true, if_neg Bool.false_ne_true, if_neg hlegal, hread]
  exact if_pos hns

theorem validated_rejects (hok : statusOk (bits d 191 128) = true)
    (h : Illegal d ∨ ∀ ns, s.readNodes (bits d 63 0) (bits d 95 64) = some ns → nodesOk ns = false) :
    validated s g x d = s.rejectGraph g (described x d) := by
  rw [validated, hok, Bool.not_true, if_neg Bool.false_ne_true]
  by_cases hill : Illegal d
  · exact if_pos hill
  · rw [if_neg hill]
    cases hread : s.readNodes (bits d 63 0) (bits d 95 64) with
    | none => rfl
    | some ns => exact if_neg (by rw [h.resolve_left hill ns hread]; exact Bool.false_ne_true)

end

section
variable {s s' : State} {g : Nat} {x : Machine.Graph} (hga : g = s.arg.a) (hg : s.graph g = some x)
  (hr : Reads s ((x.addr, 32) :: ((s.walkerRead x.addr 32).map fun d => (bits d 63 0, 64 * min (bits d 95 64) 65535)).toList) s')
include hga hg hr

/-- A descriptor that cannot be read counts as a rejected submission (log entry 40). -/
theorem graphValidation_unreadable (hd : s.walkerRead x.addr 32 = none) :
    exec .graphValidation s = .next ((s'.dropGraph g).countRejected) := by
  subst hga
  have hread := ((dramOnly_reads hr).walkerRead x.addr 32).trans hd
  have hgraph : s'.graph s.arg.a = some x := by rw [State.graph, reads_walker hr]; exact hg
  have hr' : Reads s [(x.addr, 32)] s' := by rw [hd] at hr; exact hr
  change execGraphValidation s = _
  unfold execGraphValidation
  simp only [hg, hd, Option.bind_some, Option.map_none, Option.map_some, Option.toList_some]
  rw [withWalker_goes _ hr', hgraph]
  dsimp only
  rw [hread]

theorem graphValidation_readable {d : Nat} (hd : s.walkerRead x.addr 32 = some d) :
    exec .graphValidation s = .next (validated s' g x d) := by
  subst hga
  have hread := ((dramOnly_reads hr).walkerRead x.addr 32).trans hd
  have hgraph : s'.graph s.arg.a = some x := by rw [State.graph, reads_walker hr]; exact hg
  have hr' : Reads s [(x.addr, 32), (bits d 63 0, 64 * min (bits d 95 64) 65535)] s' := by rw [hd] at hr; exact hr
  change execGraphValidation s = _
  unfold execGraphValidation validated
  simp only [hg, hd, Option.bind_some, Option.map_some]
  rw [withWalker_goes _ hr', hgraph]
  dsimp only
  rw [hread]
  dsimp only [described]
  split
  · rfl
  · split
    · rfl
    · cases s'.readNodes (bits d 63 0) (bits d 95 64) with
      | none => rfl
      | some ns => dsimp only; split <;> rfl

theorem graphValidation_drops (h : ∀ d, s.walkerRead x.addr 32 = some d → statusOk (bits d 191 128) = false) :
    exec .graphValidation s = .next ((s'.dropGraph g).countRejected) := by
  cases hd : s.walkerRead x.addr 32 with
  | none => exact graphValidation_unreadable hga hg hr hd
  | some d => exact (graphValidation_readable hga hg hr hd).trans (congrArg _ (validated_drops (h d hd)))

variable {d : Nat} (hd : s.walkerRead x.addr 32 = some d) (hok : statusOk (bits d 191 128) = true)
  (hw : WritesNow s' (bits d 191 128)) (hf : x.firstFailed = none)
include hd hok hw hf

theorem graphValidation_rejects
    (h : Illegal d ∨ ∀ ns, s'.readNodes (bits d 63 0) (bits d 95 64) = some ns → nodesOk ns = false) :
    ∃ t, exec .graphValidation s = .next t ∧
      t.graph g = none ∧ t.walker.returning = s.walker.returning + 1 ∧ t.memRead (bits d 191 128) 8 = 4 + 2 ^ 63 := by
  obtain ⟨hgone, hret, hstat⟩ := rejectGraph_spec (s := s') (g := g) (x := described x d) hok hw hf
  refine ⟨s'.rejectGraph g (described x d), ?_, hgone, ?_, hstat⟩
  · rw [graphValidation_readable hga hg hr hd, validated_rejects hok h]
  · rw [hret, reads_walker hr]

theorem graphValidation_accepts (hlegal : ¬ Illegal d) {ns : List GraphNode}
    (hread : s'.readNodes (bits d 63 0) (bits d 95 64) = some ns) (hns : nodesOk ns = true) : ∃ t, exec .graphValidation s = .next t ∧
      ((t.graph g).map fun y => (y.accepted, y.count, y.status)) = some (true, bits d 95 64, bits d 191 128) ∧
      (∀ n y, ns[n]? = some y → (t.node g n).phase = (if y.deps = 0 then .ready else .waiting) ∧ (t.node g n).kind = y.kind ∧
        (t.node g n).left = y.deps) ∧
      t.memRead (bits d 191 128) 8 = 1 ∧ t.walker.credits = s.walker.credits := by
  obtain ⟨hlen, hrec⟩ := readNodes_spec hread
  obtain ⟨⟨y, hy, hya, hyc, hys⟩, hstat, hcred, hnodes⟩ :=
    acceptGraph_spec (s := s') (g := g) (x := { described x d with accepted := true, nodes := indexed ns }) hok hw hf
  refine ⟨s'.acceptGraph g { described x d with accepted := true, nodes := indexed ns }, ?_, ?_, fun n y hny => ?_, hstat, ?_⟩
  · rw [graphValidation_readable hga hg hr hd, validated_accepts hok hlegal hread hns]
  · rw [hy, Option.map_some, hya, hyc, hys]
    rfl
  · obtain ⟨hkind, hleft, hphase⟩ := hnodes n
    have hnode : Machine.Graph.node { described x d with accepted := true, nodes := indexed ns } n = y := by
      rw [Graph.node, get_indexed, List.getD_eq_getElem?_getD, hny]
      rfl
    obtain ⟨hn, -⟩ := List.getElem?_eq_some_iff.mp hny
    obtain ⟨r, rfl⟩ := hrec y (List.mem_of_getElem? hny)
    rw [hnode] at hkind hleft hphase
    rw [hlen] at hn
    exact ⟨hphase.trans (if_congr (and_iff_right hn) rfl rfl), hkind, hleft⟩
  · rw [hcred, reads_walker hr]

end

/-- Settles O47: a submission by its guards, a descriptor by what it reads and where its status word lies, a graph that is accepted by
the nodes that its fold makes READY. -/
theorem graphSubmission : Obligations.GraphSubmission := by
  unfold Obligations.GraphSubmission
  refine fun s => ⟨fun hc hf hv hm => ?_, submit_refused, fun hv hm => ?_, fun h => ?_,
    fun g x hga hg s' hr => ⟨fun d hd hw hok hf => ?_, fun h => ?_⟩, settleWalker_idle⟩
  · refine ⟨_, submit_taken (by simp [hc, hf, hv, hm]), graph_setGraph .., rfl, rfl, rfl, ?_, ?_⟩
    · exact laterOpen_due ..
    · exact onlyWalker_trans (onlyWalker_trans (graphsOnly_setGraph ..).onlyWalker (onlyWalker_modWalker ..)) (onlyWalker_laterOpen ..)
  · rw [errAck_eq, if_pos ⟨hv, hm⟩]
    rfl
  · rw [errAck_eq, if_neg (by rintro ⟨hv, hm⟩; rcases h with h | h; exacts [absurd (hv.symm.trans h) (by decide), h hm])]
  · refine ⟨fun ns hmod hpos hle hz hz' hread hns => ?_, fun h => ?_⟩
    · exact graphValidation_accepts hga hg hr hd hok hw hf (by unfold Illegal; omega) hread hns
    · refine graphValidation_rejects hga hg hr hd hok hw hf ?_
      unfold Illegal
      simpa only [or_assoc] using h
  · refine ⟨_, graphValidation_drops hga hg hr h, graph_dropGraph .., ?_, ?_, (dramOnly_reads hr).mem⟩
    · exact congrArg (fun w => w.returning + 1) (reads_walker hr)
    · exact congrArg (fun w => min 255 (w.rejected + 1)) (reads_walker hr)

end Sys2Proof.Claims

/-!
PROOFS. Marks and nodes of graphs (O48).
-/
namespace Sys2Proof.Machine

/-! ### Marks (R100) -/

/-- A node that a mark has reached. -/
def GraphNode.marked (x : GraphNode) (m : Mark) (origin : Nat) (sig : Sig) : GraphNode :=
  { x with left := x.left - 1, marks := x.marks ++ [(m, origin)], sig := x.sig ||| sig }

section
variable {s : State} {g sender n origin : Nat} {m : Mark} {sig : Sig}

theorem applyMark_eq (h : (s.node g n).kind ≠ 7 ∨ sender ≠ (s.node g n).bodyLast) : s.applyMark g sender n m origin sig =
    if (s.node g n).left = 1 then (s.modNode g n fun x => x.marked m origin sig).makeReady g n
    else s.modNode g n fun x => x.marked m origin sig := by
  unfold State.applyMark
  dsimp only
  rw [if_neg fun hb => h.elim (absurd hb.1) (absurd hb.2)]
  rfl

variable {gr : Graph}

theorem node_applyMark (hg : s.graph g = some gr) (h : (s.node g n).kind ≠ 7 ∨ sender ≠ (s.node g n).bodyLast) (k : Nat) :
    (s.applyMark g sender n m origin sig).node g k =
      if k = n then
        if (s.node g n).left = 1 then ((s.node g n).marked m origin sig).readied s.walker.readyCount
        else (s.node g n).marked m origin sig
      else s.node g k := by
  have hnode (k : Nat) := node_modNode_eq hg n k fun x => x.marked m origin sig
  rw [applyMark_eq h]
  split
  · rw [node_makeReady (graph_modNode hg n _), hnode, hnode, if_pos rfl, (graphsOnly_modNode ..).readyCount]
    split <;> rfl
  · exact hnode k

theorem applyMark_sent (h : (s.node g n).kind ≠ 7 ∨ sender ≠ (s.node g n).bodyLast) :
    (s.applyMark g sender n m origin sig).walker.sent = s.walker.sent := by
  have hmod := graphsOnly_modNode s g n fun x => x.marked m origin sig
  rw [applyMark_eq h]
  split
  · exact (makeReady_sent ..).trans hmod.sent
  · exact hmod.sent

theorem sameGraph_applyMark (hs : s.SameGraph g gr) (h : (s.node g n).kind ≠ 7 ∨ sender ≠ (s.node g n).bodyLast) :
    (s.applyMark g sender n m origin sig).SameGraph g gr := by
  have hmod := sameGraph_modNode hs n fun x => x.marked m origin sig
  rw [applyMark_eq h]
  split
  · exact sameGraph_makeReady hmod n
  · exact hmod

end

/-! ### The end of a cycle (R100) -/

theorem checkLoops_agenda (s : State) (g : Nat) : ∃ l, s.checkLoops g = { s with agenda := l } := by
  unfold State.checkLoops
  split
  · exact ⟨s.agenda, rfl⟩
  · refine foldl_keeps (fun t : State => ∃ l, t = { s with agenda := l }) _ _ (fun t e ht => ?_) s ⟨s.agenda, rfl⟩
    obtain ⟨l, rfl⟩ := ht
    split
    · split
      · split
        · exact ⟨_, rfl⟩
        · exact ⟨l, rfl⟩
      · exact ⟨l, rfl⟩
    · exact ⟨l, rfl⟩

/-- A graph that has a READY node goes on. -/
theorem checkGraph_of_ready {s : State} {g n : Nat} {x : Graph} (hg : s.graph g = some x) (hn : n < x.count)
    (hp : (x.node n).phase = .ready) : s.checkGraph g = s := by
  have hended : x.ended = false := by
    unfold Graph.ended
    rw [List.all_eq_false]
    refine ⟨n, List.mem_range.mpr hn, ?_⟩
    dsimp only
    rw [hp]
    exact Bool.false_ne_true
  unfold State.checkGraph
  rw [hg]
  exact if_neg fun h => absurd h.2.2 (by rw [hended]; exact Bool.false_ne_true)

/-- The walker at the end of a cycle, the marks sent in it taken up and the queue entries of ended graphs returned (R96). -/
def State.cycleEnded (s : State) : State :=
  s.modWalker fun w => { w with sent := [], credits := w.credits + w.returning, returning := 0 }

section
variable {s : State} {g n : Nat} {a b : SentMark} (hsent : s.walker.sent = [a, b]) (hag : a.graph = g) (hbg : b.graph = g)
  (han : a.node = n) (hbn : b.node = n) (hlt : b.sender < a.sender)
include hsent hag hbg han hbn hlt

/-- Two marks of one cycle are applied by ascending sender. -/
theorem settleWalker_two : s.settleWalker =
    (((s.cycleEnded.applyMark g b.sender n b.mark b.origin b.sig).applyMark g a.sender n a.mark a.origin a.sig).checkLoops g).checkGraph g := by
  subst hag han
  have hins : insertMark b (insertMark a []) = [b, a] := by
    rw [insertMark, insertMark, if_pos (.inr ⟨hbg, .inr ⟨hbn, hlt⟩⟩)]
  have hdups : [a.graph, a.graph].eraseDups = [a.graph] := by simp [List.eraseDups_cons]
  unfold State.settleWalker
  simp only [hsent, List.foldl_cons, List.foldl_nil, hins, List.map_cons, List.map_nil, hdups, hbg, hbn]
  rfl

/-- The last two marks of a node, sent in one cycle: it is READY, with both recorded by ascending sender. -/
theorem settleWalker_readies {gr : Graph} (hg : s.graph g = some gr) (hn : n < gr.count) (hk : (s.node g n).kind ≠ 7)
    (hl : (s.node g n).left = 2) : (s.settleWalker.node g n).marks = (s.node g n).marks ++ [(b.mark, b.origin), (a.mark, a.origin)] ∧
      (s.settleWalker.node g n).phase = .ready ∧ s.settleWalker.walker.sent = [] := by
  rw [settleWalker_two hsent hag hbg han hbn hlt]
  have hg' : s.cycleEnded.graph g = some gr := hg
  have hk' : (s.cycleEnded.node g n).kind ≠ 7 := hk
  generalize hv : s.cycleEnded.applyMark g b.sender n b.mark b.origin b.sig = v
  have hvnode : v.node g n = (s.node g n).marked b.mark b.origin b.sig := by
    rw [← hv, node_applyMark hg' (.inl hk'), if_pos rfl, if_neg (by rw [show s.cycleEnded.node g n = s.node g n from rfl, hl]; decide)]
    rfl
  have hvgraph : v.SameGraph g gr := hv ▸ sameGraph_applyMark (sameGraph_of_some hg') (.inl hk')
  have hvsent : v.walker.sent = [] := hv ▸ applyMark_sent (.inl hk')
  have hvk : (v.node g n).kind ≠ 7 := by rw [hvnode]; exact hk
  generalize ht : v.applyMark g a.sender n a.mark a.origin a.sig = t
  obtain ⟨x, hx, -⟩ := id hvgraph
  have htnode : t.node g n = ((v.node g n).marked a.mark a.origin a.sig).readied v.walker.readyCount := by
    rw [← ht, node_applyMark hx (.inl hvk), if_pos rfl, if_pos (by rw [hvnode, GraphNode.marked, hl])]
  have htsent : t.walker.sent = [] := ht ▸ (applyMark_sent (.inl hvk)).trans hvsent
  obtain ⟨y, hy, -, hcount, -⟩ : t.SameGraph g gr := ht ▸ sameGraph_applyMark hvgraph (.inl hvk)
  obtain ⟨l, hl⟩ := checkLoops_agenda t g
  rw [checkGraph_of_ready (s := t.checkLoops g) (n := n) (x := y) (by rw [hl]; exact hy) (by rw [hcount]; exact hn)
    (by rw [← node_of_graph hy, htnode]; rfl), hl]
  have hnode : ({ t with agenda := l } : State).node g n =
      (((s.node g n).marked b.mark b.origin b.sig).marked a.mark a.origin a.sig).readied v.walker.readyCount := by
    rw [← hvnode]
    exact htnode
  rw [hnode]
  exact ⟨List.append_assoc .., rfl, htsent⟩

end

/-! ### The status word of a node that ends (R101, R104) -/

/-- A node has failed: its graph records the first that did, and submission freezes (R95, R97). -/
def State.noteFailure (s : State) (g n : Nat) : State :=
  (match s.graph g with
    | some y => s.setGraph g (some { y with firstFailed := some (y.firstFailed.getD n) })
    | none => s).modWalker fun w => { w with frozen := true }

/-- The status word of a node in its final state. -/
def nodeWord (p : NodePhase) (cause origin : Nat) : Nat :=
  p.code + cause * 2 ^ 8 + if p = .failed ∨ p = .cancelled then origin % 2 ^ 16 * 2 ^ 16 + 2 ^ 63 else 0

theorem nodeWord_lt {p : NodePhase} {cause origin : Nat} (hc : cause < 256) : nodeWord p cause origin < 2 ^ 64 := by
  have hp : p.code ≤ 5 := by cases p <;> decide
  unfold nodeWord
  split <;> omega

/-- Only the walker has changed, and of graph `gr` its nodes, its signature and its failure. -/
structure WalkerStep (g : Nat) (gr : Graph) (s t : State) : Prop where
  only : Claims.OnlyWalker s t
  graph : s.SameGraph g gr → t.SameGraph g gr

section
variable {s t u : State} {g : Nat} {gr : Graph}

theorem WalkerStep.trans (h : WalkerStep g gr s t) (h' : WalkerStep g gr t u) : WalkerStep g gr s u :=
  ⟨onlyWalker_trans h.only h'.only, h'.graph ∘ h.graph⟩

theorem walkerStep_modNode (s : State) (n : Nat) (f : GraphNode → GraphNode) : WalkerStep g gr s (s.modNode g n f) :=
  ⟨(graphsOnly_modNode ..).onlyWalker, fun h => sameGraph_modNode h n f⟩

theorem walkerStep_joinGraph (s : State) (sig : Sig) : WalkerStep g gr s (s.joinGraph g sig) :=
  ⟨(graphsOnly_joinGraph ..).onlyWalker, fun h => sameGraph_joinGraph h sig⟩

theorem walkerStep_noteFailure (s : State) (n : Nat) : WalkerStep g gr s (s.noteFailure g n) := by
  unfold State.noteFailure
  cases hg : s.graph g with
  | none => exact ⟨onlyWalker_modWalker .., fun h => h⟩
  | some y =>
    refine ⟨onlyWalker_trans (graphsOnly_setGraph ..).onlyWalker (onlyWalker_modWalker ..), fun ⟨x, hx, hsame⟩ => ?_⟩
    cases hg.symm.trans hx
    exact ⟨_, graph_setGraph .., hsame⟩

theorem walkerStep_sendMarks (s : State) (n : Nat) (marks : List (Nat × Mark)) (origin : Nat) (sig : Sig) :
    WalkerStep g gr s (s.sendMarks g n marks origin sig) := ⟨onlyWalker_modWalker .., fun h => h⟩

theorem walkerStep_checkLoops (s : State) : WalkerStep g gr s (s.checkLoops g) := by
  obtain ⟨l, hl⟩ := checkLoops_agenda s g
  rw [hl]
  exact ⟨rfl, fun h => h⟩

/-- What else the end of a graph writes is the graph's own status word. -/
theorem memRead_checkGraph_other {pa : Nat} (hs : s.SameGraph g gr) (hga : gr.status % 8 = 0) (ha : pa % 8 = 0)
    (h : home gr.status ≠ home pa) : (s.checkGraph g).memRead pa 8 = s.memRead pa 8 := by
  obtain ⟨x, hx, -, -, hstatus⟩ := hs
  unfold State.checkGraph
  rw [hx]
  dsimp only
  split
  · rw [memRead_of_onlyWalker (onlyWalker_dropGraph ..)]
    rw [← hstatus] at hga h
    exact memRead_releaseMem_other _ _ _ hga ha h
  · rfl

/-- What follows once a node's status word is written leaves it as it is. -/
theorem memRead_endNode_rest {pa : Nat} (n origin : Nat) (p : NodePhase) (marks : List (Nat × Mark)) (sig : Sig) (hs : s.SameGraph g gr)
    (hga : gr.status % 8 = 0) (ha : pa % 8 = 0) (h : home gr.status ≠ home pa) :
    ((((if p = .failed then s.noteFailure g n else s).sendMarks g n marks origin sig).checkLoops g).checkGraph g).memRead pa 8 =
      s.memRead pa 8 := by
  have hnote : WalkerStep g gr s (if p = .failed then s.noteFailure g n else s) := by
    split
    · exact walkerStep_noteFailure s n
    · exact ⟨rfl, fun h => h⟩
  have hstep := hnote.trans ((walkerStep_sendMarks _ n marks origin sig).trans (walkerStep_checkLoops _))
  rw [memRead_checkGraph_other (hstep.graph hs) hga ha h, memRead_of_onlyWalker hstep.only]

/-- A node's status word gives its final state, and the cause and origin of its failure. -/
theorem memRead_endNode {n cause origin : Nat} {p : NodePhase} (sig : Sig) (marks : List (Nat × Mark)) (hg : s.graph g = some gr)
    (hns : (s.node g n).nstatus ≠ 0) (hok : statusOk (s.node g n).nstatus = true) (hw : Claims.WritesNow s (s.node g n).nstatus)
    (h : home gr.status ≠ home (s.node g n).nstatus) (hga : gr.status % 8 = 0) (hc : cause < 256) :
    (s.endNode g n p cause origin sig marks).memRead (s.node g n).nstatus 8 = nodeWord p cause origin := by
  have ha := aligned_of_statusOk hok
  have hstep : WalkerStep g gr s ((s.modNode g n fun y => { y with phase := p, cause := cause, origin := origin }).joinGraph g sig) :=
    (walkerStep_modNode s n _).trans (walkerStep_joinGraph ..)
  unfold State.endNode
  dsimp only
  rw [if_neg hns]
  generalize (s.modNode g n fun y => { y with phase := p, cause := cause, origin := origin }).joinGraph g sig = u at hstep ⊢
  have hwritten := memRead_releaseMem_same (nodeWord p cause origin) (u.graphSig g) hok (writesNow_of_onlyWalker hstep.only hw)
  have hbehind := behind_releaseMem u (s.node g n).nstatus 8 (nodeWord p cause origin) (u.graphSig g)
  have hsame : (u.releaseMem (s.node g n).nstatus 8 (nodeWord p cause origin) (u.graphSig g)).SameGraph g gr := by
    rw [State.SameGraph, State.graph, hbehind.walker]
    exact hstep.graph (sameGraph_of_some hg)
  have hjoin := walkerStep_joinGraph (g := g) (gr := gr) (u.releaseMem (s.node g n).nstatus 8 (nodeWord p cause origin) (u.graphSig g))
    (sigAdd 0 (s.node g n).nstatus)
  refine (memRead_endNode_rest n origin p marks sig (hjoin.graph hsame) hga ha h).trans ?_
  rw [memRead_of_onlyWalker hjoin.only, hwritten, Nat.mod_eq_of_lt (nodeWord_lt hc)]

end

end Sys2Proof.Machine

namespace Sys2Proof.Claims

open Sys2Proof.Machine

/-! ### A READY node (R100) -/

theorem reads_graph {s s' : State} {l : List (Nat × Nat)} (hr : Reads s l s') (g : Nat) : s'.graph g = s.graph g := by
  rw [State.graph, reads_walker hr, State.graph]

theorem reads_node {s s' : State} {l : List (Nat × Nat)} (hr : Reads s l s') (g n : Nat) : s'.node g n = s.node g n := by
  rw [State.node, reads_graph hr, State.node]

section
variable {s s' : State} {g n : Nat} {x : GraphNode} (hg : g = s.arg.a) (hn : n = s.arg.b) (hx : x = s.node g n) (hp : x.phase = .ready)
include hg hn hx hp

/-- A READY node by its marks: cancelled by the first ERROR, skipped when all are SKIP, and else run by its kind. -/
theorem nodeResolve_spec :
    (∀ m, x.marks.find? (fun m => m.1 == .error) = some m →
      exec .nodeResolve s = .next (s.endNode g n .cancelled 0xC m.2 0 (x.succ.map fun k => (k, .error)))) ∧
    ((∀ m ∈ x.marks, m.1 = .skip) → x.marks ≠ [] →
      exec .nodeResolve s = .next (s.endNode g n .skipped 0 n 0 (x.succ.map fun k => (k, .skip)))) ∧
    ((∀ m ∈ x.marks, m.1 ≠ .error) → (x.marks = [] ∨ ∃ m ∈ x.marks, m.1 = .run) → ∀ s', Reads s (s.nodeRanges x) s' →
      exec .nodeResolve s = .next (s'.startNode g n)) := by
  subst hg hn hx
  rw [show exec .nodeResolve s = execNodeResolve s from rfl]
  unfold execNodeResolve
  dsimp only
  rw [hp, if_neg (by simp), if_neg (by simp)]
  refine ⟨fun m hm => ?_, fun hall hne => ?_, fun herr hrun s' hr => ?_⟩
  · rw [hm]
    rfl
  · rw [List.find?_eq_none.mpr fun m hm => by rw [hall m hm]; decide]
    exact if_pos ⟨hne, List.all_eq_true.mpr fun m hm => by rw [hall m hm]; rfl⟩
  · rw [List.find?_eq_none.mpr fun m hm => by simpa using herr m hm]
    dsimp only
    rw [if_neg, withWalker_goes _ hr]
    rintro ⟨hne, hall⟩
    obtain ⟨m, hm, hmrun⟩ := hrun.resolve_left hne
    have hskip := List.all_eq_true.mp hall m hm
    rw [hmrun] at hskip
    exact absurd hskip (by decide)

end

section
variable {s : State} {g n : Nat} {gr : Machine.Graph} {l : Launch}

theorem startLaunch_error {c : Nat} (hc : s.checkLaunchRecord g n (s.node g n).body = .error c) :
    s.startLaunch g n = s.nodeFailed g n c := by
  unfold State.startLaunch
  dsimp only
  rw [hc]

theorem startLaunch_ok (hl : s.checkLaunchRecord g n (s.node g n).body = .ok l) : s.startLaunch g n =
    (((((s.acquireFor g (s.nodeRanges (s.node g n))).modNode g n fun y => { y with phase := .dispatching, launch := some y.seq }).setLaunch
      (s.node g n).seq (some l)).modWalker fun w => { w with dispatching := w.dispatching ++ [(s.node g n).seq] }).soon
        { i := .launchDispatch, a := g, b := n }) := by
  unfold State.startLaunch
  dsimp only
  rw [hl]

/-- A launch whose record passes is DISPATCHING before it runs (log entry 43). -/
theorem startLaunch_dispatches (hg : s.graph g = some gr) (hl : s.checkLaunchRecord g n (s.node g n).body = .ok l) :
    ((s.startLaunch g n).node g n).phase = .dispatching ∧ (s.startLaunch g n).launch (s.node g n).seq = some l ∧
      (s.startLaunch g n).walker.dispatching = s.walker.dispatching ++ [(s.node g n).seq] ∧
      (s.startLaunch g n).agenda = s.agenda ++ [{ i := .launchDispatch, a := g, b := n }] ∧ OnlyWalker s (s.startLaunch g n) := by
  obtain ⟨hacq, -, hsame⟩ := acquireFor_spec s g (s.nodeRanges (s.node g n))
  obtain ⟨x, hx, -⟩ := hsame gr (sameGraph_of_some hg)
  rw [startLaunch_ok hl]
  generalize s.acquireFor g _ = u at hacq hx
  have hmod := graphsOnly_modNode u g n fun y => { y with phase := .dispatching, launch := some y.seq }
  have hnode := node_modNode_eq hx n n fun y => { y with phase := .dispatching, launch := some y.seq }
  generalize u.modNode g n (fun y => { y with phase := .dispatching, launch := some y.seq }) = v at hmod hnode ⊢
  have hv := hacq.trans hmod
  refine ⟨?_, Store.get_set_same .., ?_, ?_, ?_⟩
  · rw [if_pos rfl] at hnode
    exact congrArg GraphNode.phase hnode
  · exact congrArg (· ++ [(s.node g n).seq]) hv.dispatching
  · exact congrArg (· ++ [_]) hv.agenda
  · exact onlyWalker_trans (onlyWalker_trans hv.onlyWalker (onlyWalker_modWalker ..))
      (onlyWalker_trans (onlyWalker_modWalker ..) (onlyWalker_soon ..))

end

/-- A node runs by its kind (R98, R101). -/
theorem startNode_spec (s : State) (g n : Nat) :
    ((s.node g n).kind = 1 → s.startNode g n = s.startLaunch g n) ∧
    ((s.node g n).kind = 2 → s.startNode g n = (s.runNode g n).runCopyNode g n) ∧
    ((s.node g n).kind = 3 → s.startNode g n = (s.runNode g n).soon { i := .basinDeclare, a := g, b := n }) ∧
    ((s.node g n).kind = 4 → s.startNode g n = (s.runNode g n).startDelta g n) ∧
    ((s.node g n).kind = 5 → s.startNode g n = (s.runNode g n).startRound g n) ∧
    ((s.node g n).kind = 6 → s.startNode g n = (s.runNode g n).laterOpen { i := .condNode, a := g, b := n }) ∧
    ((s.node g n).kind = 7 → s.startNode g n = (s.runNode g n).laterOpen { i := .whileNode, a := g, b := n }) ∧
    ((s.node g n).kind = 8 → s.startNode g n = s.nodeDone g n 0) := by
  unfold State.startNode
  refine ⟨fun h => ?_, fun h => ?_, fun h => ?_, fun h => ?_, fun h => ?_, fun h => ?_, fun h => ?_, fun h => ?_⟩
  all_goals
    rw [h]
    rfl

/-! ### COND and WHILE (R102, R103) -/

/-- A WHILE node begins an iteration. -/
def iterated (u : State) (g n : Nat) (x : GraphNode) : State :=
  ((x.bodyNodes.foldl (fun s b => s.modNode g b GraphNode.rearm) u).modNode g n fun y =>
    { y with phase := .looping, iter := y.iter + 1, back := none }).sendMarks g n ((x.succ.take 4).map fun k => (k, Mark.run)) n 0

section
variable {s s' : State} {g n : Nat} {x : GraphNode} (hg : g = s.arg.a) (hn : n = s.arg.b) (hx : x = s.node g n) (hp : x.phase = .running)
  (hr : Reads s [(x.cond, 4)] s')
include hg hn hx hp hr

theorem condNode_spec :
    (s'.walkerRead x.cond 4 = none → exec .condNode s = .next (s'.nodeFailed g n 4)) ∧
    ∀ v, s'.walkerRead x.cond 4 = some v → exec .condNode s = .next ((s'.acquireFor g [(x.cond, 4)]).endNode g n .done 0 n 0
      ((indexed x.succ).map fun e => (e.2, if e.1 = min v 7 then .run else .skip))) := by
  subst hg hn hx
  rw [show exec .condNode s = execCondNode s from rfl]
  unfold execCondNode State.condWord
  dsimp only
  rw [hp, if_neg (by simp), withWalker_goes _ hr]
  refine ⟨fun hv => ?_, fun v hv => ?_⟩
  · rw [hv]
    rfl
  · rw [hv]

theorem whileNode_spec :
    (s'.walkerRead x.cond 4 = none → exec .whileNode s = .next (s'.nodeFailed g n 4)) ∧
    (s'.walkerRead x.cond 4 = some 0 → exec .whileNode s = .next ((s'.acquireFor g [(x.cond, 4)]).nodeDone g n 0)) ∧
    ∀ v, s'.walkerRead x.cond 4 = some v → v ≠ 0 → exec .whileNode s =
      .next (if x.maxIter ≤ x.iter then (s'.acquireFor g [(x.cond, 4)]).nodeFailed g n 8
        else iterated (s'.acquireFor g [(x.cond, 4)]) g n x) := by
  subst hg hn hx
  rw [show exec .whileNode s = execWhileNode s from rfl]
  unfold execWhileNode State.condWord
  dsimp only
  rw [hp, if_neg (by simp), withWalker_goes _ hr]
  refine ⟨fun hv => ?_, fun hv => ?_, fun v hv h0 => ?_⟩
  · rw [hv]
    rfl
  · rw [hv]
    rfl
  · obtain ⟨v, rfl⟩ := Nat.exists_eq_succ_of_ne_zero h0
    rw [hv]
    exact (apply_ite Host.Outcome.next _ _ _).symm

end

/-- The nodes of a WHILE node's body are rearmed (R103); the graph stays. -/
theorem rearm_spec {g : Nat} {gr : Machine.Graph} (l : List Nat) {u : State} (hu : u.SameGraph g gr) :
    GraphsOnly u (l.foldl (fun s b => s.modNode g b GraphNode.rearm) u) ∧
      (l.foldl (fun s b => s.modNode g b GraphNode.rearm) u).SameGraph g gr ∧
      ∀ k, (l.foldl (fun s b => s.modNode g b GraphNode.rearm) u).node g k = if k ∈ l then (u.node g k).rearm else u.node g k := by
  induction l generalizing u with
  | nil => exact ⟨.refl u, hu, fun k => (if_neg List.not_mem_nil).symm⟩
  | cons b l ih =>
    obtain ⟨honly, hsame, hnode⟩ := ih (sameGraph_modNode hu b GraphNode.rearm)
    obtain ⟨x, hx, -⟩ := hu
    refine ⟨(graphsOnly_modNode ..).trans honly, hsame, fun k => ?_⟩
    rw [List.foldl_cons, hnode, node_modNode_eq hx]
    by_cases hkb : k = b
    · subst hkb
      rw [if_pos rfl, if_pos List.mem_cons_self]
      exact ite_self _
    · rw [if_neg hkb]
      exact if_congr (by rw [List.mem_cons, or_iff_right hkb]) rfl rfl

theorem mem_bodyNodes (x : GraphNode) (b : Nat) : b ∈ x.bodyNodes ↔ x.bodyFirst ≤ b ∧ b ≤ x.bodyLast := by
  unfold GraphNode.bodyNodes
  rw [List.mem_map]
  refine ⟨fun ⟨i, hi, hb⟩ => ?_, fun ⟨h1, h2⟩ => ⟨b - x.bodyFirst, List.mem_range.mpr (by omega), by omega⟩⟩
  have := List.mem_range.mp hi
  omega

/-- An iteration: the node is LOOPING, its body is rearmed and receives RUN through SUCC[0..3]. -/
theorem iterated_spec {u : State} {g n : Nat} {gr : Machine.Graph} (hu : u.SameGraph g gr) (x : GraphNode)
    (hout : n < x.bodyFirst ∨ x.bodyLast < n) :
    ((iterated u g n x).node g n).phase = .looping ∧ ((iterated u g n x).node g n).iter = (u.node g n).iter + 1 ∧
      ((iterated u g n x).node g n).back = none ∧
      (∀ b, x.bodyFirst ≤ b → b ≤ x.bodyLast → (iterated u g n x).node g b = (u.node g b).rearm) ∧
      (iterated u g n x).walker.sent =
        u.walker.sent ++ ((x.succ.take 4).filter (· != 0xFFFF)).map fun k => ⟨g, n, k, .run, n, 0⟩ := by
  obtain ⟨honly, ⟨y, hy, -⟩, hnode⟩ := rearm_spec x.bodyNodes hu
  unfold iterated
  generalize x.bodyNodes.foldl (fun s b => s.modNode g b GraphNode.rearm) u = v at honly hy hnode ⊢
  have hself : v.node g n = u.node g n := (hnode n).trans (if_neg (by rw [mem_bodyNodes]; omega))
  have hmod := graphsOnly_modNode v g n fun y => { y with phase := .looping, iter := y.iter + 1, back := none }
  have hloop (k : Nat) := node_modNode_eq hy n k fun y => { y with phase := .looping, iter := y.iter + 1, back := none }
  generalize v.modNode g n (fun y => { y with phase := .looping, iter := y.iter + 1, back := none }) = w at hmod hloop ⊢
  have hn := (hloop n).trans (if_pos rfl)
  rw [hself] at hn
  refine ⟨congrArg GraphNode.phase hn, congrArg GraphNode.iter hn, congrArg GraphNode.back hn, fun b h1 h2 => ?_, ?_⟩
  · exact (hloop b).trans ((if_neg (by omega)).trans ((hnode b).trans (if_pos ((mem_bodyNodes x b).mpr ⟨h1, h2⟩))))
  · unfold State.sendMarks
    rw [List.filter_map, List.map_map]
    exact congrArg (· ++ _) (honly.trans hmod).sent

section
variable {s : State} {g n : Nat} {gr : Machine.Graph} (hga : g = s.arg.a) (hn : n = s.arg.b) (hg : s.graph g = some gr)
  (hp : (s.node g n).phase = .looping)
include hga hn hg hp

/-- An ERROR on the back edge cancels the WHILE node (R103). -/
theorem whileBackEdge_cancels {o : Nat} (hb : (s.node g n).back = some (.error, o)) : exec .whileBackEdge s =
    .next (s.endNode g n .cancelled 0xC o 0 ((s.node g n).outs.map fun k => (k, .error))) := by
  subst hga hn
  rw [node_of_graph hg] at hp hb ⊢
  change execWhileBackEdge s = _
  unfold execWhileBackEdge
  dsimp only
  rw [hg]
  dsimp only
  rw [hp, hb]
  rfl

/-- Another mark of the back edge brings the WHILE node back to its word, once its body is final. -/
theorem whileBackEdge_returns {m : Mark} {o : Nat} (hb : (s.node g n).back = some (m, o)) (hm : m ≠ .error)
    (hfinal : gr.bodyFinal (s.node g n) = true) : exec .whileBackEdge s =
      .next ((s.modNode g n fun y => { y with phase := .running, back := none }).laterOpen { i := .whileNode, a := g, b := n }) := by
  subst hga hn
  rw [node_of_graph hg] at hp hb hfinal
  change execWhileBackEdge s = _
  unfold execWhileBackEdge
  dsimp only
  rw [hg]
  dsimp only
  rw [hp, hb]
  cases m with
  | error => exact absurd rfl hm
  | run => exact if_pos hfinal
  | skip => exact if_pos hfinal

end

/-! ### TIMEOUT (R104) -/

section
variable {s : State} {g n : Nat} {x : GraphNode} (hg : g = s.arg.a) (hn : n = s.arg.b) (hx : x = s.node g n)
include hg hn hx

theorem nodeTimeout_stale (hseq : x.seq ≠ s.arg.c) : exec .nodeTimeout s = .next s := by
  subst hg hn hx
  change execNodeTimeout s = _
  unfold execNodeTimeout
  exact if_pos (.inl hseq)

variable (hp : x.phase = .running) (hseq : x.seq = s.arg.c)
include hp hseq

theorem nodeTimeout_fails (hk : x.kind = 3 ∨ 5 ≤ x.kind) : exec .nodeTimeout s = .next (s.nodeFailed g n 7) := by
  subst hg hn hx
  change execNodeTimeout s = _
  unfold execNodeTimeout
  dsimp only
  rw [hp, hseq, if_neg (by simp), if_neg (by unfold kindLaunch; omega), if_neg (by unfold kindCopy; omega), if_neg (by unfold kindDelta; omega)]
  rfl

theorem nodeTimeout_launch {l : Launch} (hk : x.kind = 1) (hl : s.launch x.seq = some l) :
    exec .nodeTimeout s = .next ((s.resetLaunch x.seq l).nodeFailed g n 7) := by
  subst hg hn hx
  change execNodeTimeout s = _
  unfold execNodeTimeout
  dsimp only
  rw [if_neg (by rw [hp]; simp [hseq]), if_pos (show _ = kindLaunch from hk), hl]
  rfl

end

/-- Settles O48: marks by what they add to a node, status words by what the end of a node writes, READY nodes by their marks and kinds, COND
and WHILE by their words, an iteration by the nodes that it rearms. -/
theorem graphNodes : Obligations.GraphNodes := by
  unfold Obligations.GraphNodes
  refine ⟨fun s g sender n origin m sig gr hg hb => ?_, fun s g n cause origin p sig gr hg hns hok hw hh hga hc => ?_,
    fun s g n gr a b hg hn hk hl hsent ha hb han hbn hlt => settleWalker_readies hsent ha hb han hbn hlt hg hn hk hl,
    fun s g n x hga hn hx => ⟨fun hp => ?_, fun hp => ⟨fun s' u hr hu => ?_, fun hk hseq => nodeTimeout_fails hga hn hx hp hseq hk,
      fun l hk hseq hl => nodeTimeout_launch hga hn hx hp hseq hk hl, nodeTimeout_stale hga hn hx⟩, fun l => ?_,
      fun gr o hg hp hb => ?_, fun gr m o hg hp hb hm hfinal => ?_⟩⟩
  · have hnode := node_applyMark (m := m) (origin := origin) (sig := sig) hg hb
    have hself := (hnode n).trans (if_pos rfl)
    refine ⟨?_, ?_, ?_, ?_, fun k hk => (hnode k).trans (if_neg hk)⟩
    all_goals
      rw [hself]
      split <;> rfl
  · exact memRead_endNode sig [] hg hns hok hw hh hga hc
  · obtain ⟨hcancels, hskips, hstarts⟩ := nodeResolve_spec hga hn hx hp
    refine ⟨hcancels, hskips, fun herr hrun s' hr => ?_⟩
    have hnode : s'.node g n = x := (reads_node hr g n).trans hx.symm
    obtain ⟨h1, h2, h3, h4, h5, h6, h7, h8⟩ := startNode_spec s' g n
    rw [hnode] at h1 h2 h3 h4 h5 h6 h7 h8
    rw [hstarts herr hrun s' hr]
    refine ⟨fun hk => by rw [h6 hk], fun hk => by rw [h7 hk], fun hk => by rw [h3 hk], fun hk => by rw [h8 hk],
      fun hk => ⟨fun c hc => ?_, fun l gr hl hg => ?_⟩, fun hk => by rw [h2 hk], fun hk => by rw [h4 hk], fun hk => by rw [h5 hk]⟩
    · rw [h1 hk, startLaunch_error (by rw [hnode]; exact hc)]
    · obtain ⟨hphase, hlaunch, hdisp, hagenda, honly⟩ :=
        startLaunch_dispatches (s := s') (n := n) ((reads_graph hr g).trans hg) (by rw [hnode]; exact hl)
      rw [hnode] at hlaunch hdisp
      rw [reads_walker hr] at hdisp
      rw [congrArg State.agenda (dramOnly_reads hr).rest] at hagenda
      exact ⟨_, congrArg _ (h1 hk), hphase, hlaunch, hdisp, hagenda, honly⟩
  · subst hu
    obtain ⟨hcondNone, hcond⟩ := condNode_spec hga hn hx hp hr
    obtain ⟨hwhileNone, hends, hgoes⟩ := whileNode_spec hga hn hx hp hr
    refine ⟨hcond, fun hv => ⟨hcondNone hv, hwhileNone hv⟩, hends, fun v hv h0 hle => ?_, fun v gr hv h0 hlt hg hout => ?_⟩
    · rw [hgoes v hv h0, if_pos hle]
    · rw [hgoes v hv h0, if_neg (Nat.not_le.mpr hlt)]
      obtain ⟨hacq, hnodes, hsame⟩ := acquireFor_spec s' g [(x.cond, 4)]
      obtain ⟨hphase, hiter, hback, hbody, hsent⟩ := iterated_spec (n := n) (hsame gr (sameGraph_of_some ((reads_graph hr g).trans hg))) x hout
      refine ⟨_, rfl, hphase, ?_, hback, fun b hb1 hb2 => ?_, ?_⟩
      · rw [hiter, hnodes, reads_node hr, ← hx]
      · rw [hbody b hb1 hb2, hnodes, reads_node hr]
        exact ⟨rfl, rfl, rfl⟩
      · rw [hsent, hacq.sent, reads_walker hr]
  · obtain ⟨honly, hnode, -⟩ := acquireFor_spec s g l
    exact ⟨honly.onlyWalker, hnode⟩
  · subst hx
    exact whileBackEdge_cancels hga hn hg hp hb
  · subst hx
    have hmod := graphsOnly_modNode s g n fun y => { y with phase := .running, back := none }
    have hnode := (node_modNode_eq hg n n fun y => { y with phase := .running, back := none }).trans (if_pos rfl)
    refine ⟨_, whileBackEdge_returns hga hn hg hp hb hm hfinal, ?_⟩
    generalize s.modNode g n (fun y => { y with phase := .running, back := none }) = u at hmod hnode ⊢
    refine ⟨congrArg GraphNode.phase hnode, congrArg GraphNode.back hnode, ?_, onlyWalker_trans hmod.onlyWalker (onlyWalker_laterOpen ..)⟩
    obtain ⟨k, hk, hmem⟩ := laterOpen_due u { i := .whileNode, a := g, b := n }
    exact ⟨k, (congrArg State.now hmod.rest).symm.trans_lt hk, hmem⟩

end Sys2Proof.Claims

/-!
PROOFS. Scalar sums, products and divisions (O6).
-/
namespace Sys2Proof.Claims

open Sys2Proof.Machine

/-- An operation of a form that takes no lent bits, under none: its result is queued and nothing else changes (R58, R113). -/
theorem scalar_go {s : State} (h : s.lent = 0) (lat : Nat) (d : BitVec 6) (x : Word) : scalar s lat d x = .next (s.wS lat d x) :=
  noLent_go s _ h

/-! ### Halves of products (R115) -/

/-- The part of a signed product above its low word is itself a signed word. -/
theorem mulHigh_range (a b : Word) : -2 ^ 63 ≤ a.toInt * b.toInt / 2 ^ 64 ∧ a.toInt * b.toInt / 2 ^ 64 < 2 ^ 63 := by
  have hle := BitVec.toInt_mul_toInt_le (x := a) (y := b)
  have hge := BitVec.le_toInt_mul_toInt (x := a) (y := b)
  omega

theorem mulHigh_spec (a b : Word) :
    a.toInt * b.toInt = (BitVec.ofInt 64 (a.toInt * b.toInt / 2 ^ 64)).toInt * 2 ^ 64 + (a * b).toNat := by
  have hlow : ((a * b).toNat : Int) = a.toInt * b.toInt % 2 ^ 64 := by
    have hmul : a * b = BitVec.ofInt 64 (a.toInt * b.toInt) := by
      rw [BitVec.ofInt_mul, BitVec.ofInt_toInt, BitVec.ofInt_toInt]
    rw [hmul, BitVec.toNat_ofInt]
    exact Int.toNat_of_nonneg (Int.emod_nonneg _ (by decide))
  obtain ⟨hge, hlt⟩ := mulHigh_range a b
  rw [BitVec.toInt_ofInt_eq_self (by decide) hge hlt, hlow, Int.ediv_mul_add_emod]

theorem mulHighUnsigned_spec (a b : Word) :
    a.toNat * b.toNat = (BitVec.ofNat 64 (a.toNat * b.toNat / 2 ^ 64)).toNat * 2 ^ 64 + (a * b).toNat := by
  have hlt : a.toNat * b.toNat < 2 ^ 64 * 2 ^ 64 := Nat.mul_lt_mul'' a.isLt b.isLt
  rw [BitVec.toNat_ofNat, Nat.mod_eq_of_lt (Nat.div_lt_of_lt_mul hlt), BitVec.toNat_mul, Nat.div_add_mod']

/-! ### Division (R117) -/

theorem divide_zero (signed : Bool) (a : Word) :
    word (divide signed a 0).1 = BitVec.allOnes 64 ∧ word (divide signed a 0).2 = a := by
  cases signed
  · exact ⟨rfl, (BitVec.ofInt_natCast ..).trans (BitVec.ofNat_toNat ..)⟩
  · exact ⟨rfl, BitVec.ofInt_toInt⟩

theorem divide_signed {a b : Word} (h : b ≠ 0) :
    word (divide true a b).1 = a.sdiv b ∧ word (divide true a b).2 = a.srem b := by
  have hb : b.toInt ≠ 0 := by simpa [← BitVec.toInt_inj] using h
  have he : divide true a b = (a.toInt.tdiv b.toInt, a.toInt.tmod b.toInt) := by
    simp [divide, hb, Int.tmod_def, Int.mul_comm]
  rw [he, ← BitVec.toInt_inj, ← BitVec.toInt_inj, BitVec.toInt_sdiv, BitVec.toInt_srem, word, word, BitVec.toInt_ofInt,
    BitVec.toInt_ofInt, ← BitVec.toInt_srem, BitVec.toInt_bmod_cancel]
  exact ⟨rfl, rfl⟩

theorem divide_unsigned {a b : Word} (h : b ≠ 0) :
    word (divide false a b).1 = a / b ∧ word (divide false a b).2 = a % b := by
  have hb : b.toNat ≠ 0 := by simpa [← BitVec.toNat_inj] using h
  have he : divide false a b = (((a.toNat / b.toNat : Nat) : Int), ((a.toNat % b.toNat : Nat) : Int)) := by
    have hq : (a.toNat : Int).tdiv b.toNat = (a.toNat / b.toNat : Nat) := (Int.ofNat_tdiv ..).symm
    have hr : (a.toNat : Int).tmod b.toNat = (a.toNat % b.toNat : Nat) := (Int.ofNat_tmod ..).symm
    rw [← hq, ← hr, Int.tmod_def, Int.mul_comm]
    exact if_neg (Int.ofNat_ne_zero.mpr hb)
  rw [he, word, word, BitVec.ofInt_natCast, BitVec.ofInt_natCast]
  exact ⟨(BitVec.udiv_def).symm, (BitVec.umod_def).symm⟩

/-- The state in which a zero divisor has been recorded (R39, R359). -/
theorem logScalar_divzero (s : State) : s.logScalar [.divzero] =
    if s.ctx.priv then s else { s with cur := { s.cur with evs := s.cur.evs ++ [⟨s.cur.slot, 2, 0⟩] } } := by
  by_cases hp : s.ctx.priv = true
  · exact (if_pos (.inr hp)).trans (if_pos hp).symm
  · exact (if_neg (not_or.mpr ⟨Bool.false_ne_true, hp⟩)).trans (if_neg hp).symm

section
variable {s : State} {b : BitVec 6} {r : Int} {x : Word} (h : s.lent = 0) (hr : word r = x) (d : BitVec 6)
include h hr

theorem divideOp_go (hb : s.rS b ≠ 0) : divideOp s d b r = .next (s.wS 18 d x) := by
  rw [divideOp, noLent_go s _ h, if_neg hb, hr]

theorem divideOp_zero (hb : s.rS b = 0) : divideOp s d b r = .next ((s.logScalar [.divzero]).wS 18 d x) := by
  rw [divideOp, noLent_go s _ h, if_pos hb, hr]

end

/-- Settles O6: sums and products are the words' own, the upper halves by what they and the low word make up, and the divisions by the
words' quotients and remainders, with the zero divisor apart. -/
theorem scalarArithmetic : Obligations.ScalarArithmetic := by
  refine ⟨fun s d a b h => ⟨scalar_go h _ _ _, scalar_go h _ _ _, scalar_go h _ _ _, ⟨_, scalar_go h _ _ _, mulHigh_spec _ _⟩,
    ⟨_, scalar_go h _ _ _, mulHighUnsigned_spec _ _⟩⟩, fun s d a b h => ⟨fun hb => ?_, fun hb => ?_⟩⟩
  · obtain ⟨hq, hr⟩ := divide_signed (a := s.rS a) hb
    obtain ⟨hqu, hru⟩ := divide_unsigned (a := s.rS a) hb
    exact ⟨divideOp_go h hq d hb, divideOp_go h hqu d hb, divideOp_go h hr d hb, divideOp_go h hru d hb⟩
  · have hz (signed : Bool) : word (divide signed (s.rS a) (s.rS b)).1 = BitVec.allOnes 64 ∧
        word (divide signed (s.rS a) (s.rS b)).2 = s.rS a := by
      rw [hb]; exact divide_zero signed _
    exact ⟨_, logScalar_divzero s, divideOp_zero h (hz true).1 d hb, divideOp_zero h (hz false).1 d hb,
      divideOp_zero h (hz true).2 d hb, divideOp_zero h (hz false).2 d hb⟩

end Sys2Proof.Claims

/-!
PROOFS. Scalar logic, minima and maxima, shifts, and counts of bits (O7).
-/
namespace Sys2Proof.Claims

open Sys2Proof.Machine

/-! ### Minima and maxima (R115) -/

/-- Whether equal operands count as less does not matter to which of them is chosen. -/
theorem ite_le_eq_ite_lt {α β : Type} [LinearOrder β] (f : α → β) (hf : Function.Injective f) (a b x y : α) (h : a = b → x = y) :
    (if f a ≤ f b then x else y) = if f a < f b then x else y := by
  obtain hlt | he | hgt := lt_trichotomy (f a) (f b)
  · rw [if_pos hlt.le, if_pos hlt]
  · rw [h (hf he), ite_self, ite_self]
  · rw [if_neg hgt.not_ge, if_neg hgt.not_gt]

section
variable (a b x y : Word) (h : a = b → x = y)
include h

theorem ite_toInt_le : (if a.toInt ≤ b.toInt then x else y) = if a.slt b then x else y := by
  simp only [ite_le_eq_ite_lt BitVec.toInt (fun _ _ => BitVec.eq_of_toInt_eq) a b x y h, BitVec.slt_iff_toInt_lt]

theorem ite_toNat_le : (if a.toNat ≤ b.toNat then x else y) = if a < b then x else y := by
  simp only [ite_le_eq_ite_lt BitVec.toNat (fun _ _ => BitVec.eq_of_toNat_eq) a b x y h, BitVec.lt_def]

end

/-! ### Shifts and rotation (R116) -/

section
variable (a b : Word) {i : Nat} (hi : i < 64)
include hi

theorem getLsbD_shl : (a <<< shiftAmount b).getLsbD i = (decide (b.toNat ≤ i) && a.getLsbD (i - b.toNat)) := by
  have hge : min b.toNat 64 ≤ i ↔ b.toNat ≤ i := by omega
  rw [BitVec.getLsbD_shiftLeft, shiftAmount, decide_eq_true hi, Bool.true_and, ← decide_not]
  simp only [Nat.not_lt, hge]
  by_cases h : b.toNat ≤ i
  · rw [Nat.min_eq_left (by omega)]
  · simp [h]

theorem getLsbD_shr : (a >>> shiftAmount b).getLsbD i = a.getLsbD (i + b.toNat) := by
  rw [BitVec.getLsbD_ushiftRight, shiftAmount, Nat.add_comm]
  obtain h | h := Nat.le_total b.toNat 64
  · rw [Nat.min_eq_left h]
  · rw [Nat.min_eq_right h, BitVec.getLsbD_of_ge _ _ (by omega), BitVec.getLsbD_of_ge _ _ (by omega)]

theorem getLsbD_sra : (a.sshiftRight (shiftAmount b)).getLsbD i = a.getLsbD (min (i + b.toNat) 63) := by
  rw [BitVec.getLsbD_sshiftRight, shiftAmount, decide_eq_false hi.not_ge, Bool.not_false, Bool.true_and,
    BitVec.msb_eq_getLsbD_last]
  split
  · congr 1; omega
  · congr 1; omega

theorem getLsbD_rotl : (a.rotateLeft (b.toNat % 64)).getLsbD ((i + b.toNat) % 64) = a.getLsbD i := by
  rw [BitVec.getLsbD_rotateLeft_of_le (Nat.mod_lt _ (by decide)), decide_eq_true (Nat.mod_lt _ (by decide)), Bool.true_and,
    Bool.cond_decide]
  split
  · congr 1; omega
  · congr 1; omega

end

/-! ### Counts of zeros and ones (R115) -/

theorem leadingZeros_spec {w x : Nat} (hx : x < 2 ^ w) :
    leadingZeros w x ≤ w ∧ (∀ i < leadingZeros w x, x.testBit (w - 1 - i) = false) ∧
      (leadingZeros w x < w → x.testBit (w - 1 - leadingZeros w x) = true) := by
  unfold leadingZeros
  split
  · next h0 => exact ⟨le_rfl, fun i _ => by rw [h0, Nat.zero_testBit], fun h => absurd h (lt_irrefl _)⟩
  · next h0 =>
    have hw : x.log2 < w := (Nat.log2_lt h0).mpr hx
    refine ⟨by omega, fun i hi => Nat.testBit_lt_two_pow ((Nat.log2_lt h0).mp (by omega)), fun _ => ?_⟩
    rw [Nat.sub_sub_self (by omega)]
    exact Nat.testBit_log2 h0

theorem trailingZeros_spec (w x : Nat) :
    trailingZeros w x ≤ w ∧ (∀ i < trailingZeros w x, x.testBit i = false) ∧
      (trailingZeros w x < w → x.testBit (trailingZeros w x) = true) := by
  induction w generalizing x with
  | zero => exact ⟨le_rfl, fun i hi => absurd hi (Nat.not_lt_zero i), fun h => absurd h (lt_irrefl _)⟩
  | succ w ih =>
    unfold trailingZeros
    split
    · next h1 => exact ⟨Nat.zero_le _, fun i hi => absurd hi (Nat.not_lt_zero i), fun _ => by rw [Nat.testBit_zero, decide_eq_true h1]⟩
    · next h1 =>
      obtain ⟨hle, hzero, hone⟩ := ih (x / 2)
      refine ⟨Nat.succ_le_succ hle, fun i hi => ?_, fun h => ?_⟩
      · cases i with
        | zero => rw [Nat.testBit_zero, decide_eq_false h1]
        | succ i => rw [Nat.testBit_add_one]; exact hzero i (Nat.lt_of_succ_lt_succ hi)
      · rw [Nat.testBit_add_one]; exact hone (Nat.lt_of_succ_lt_succ h)

theorem onesBelow_eq_countP (w x : Nat) : onesBelow w x = (List.range w).countP x.testBit := by
  induction w generalizing x with
  | zero => rfl
  | succ w ih =>
    have hshift : x.testBit ∘ Nat.succ = (x / 2).testBit := funext fun i => Nat.testBit_add_one x i
    rw [onesBelow, ih, List.range_succ_eq_map, List.countP_cons, List.countP_map, hshift, Nat.testBit_zero]
    obtain h | h := Nat.mod_two_eq_zero_or_one x <;> simp [h, Nat.add_comm]

/-! ### Selections (R113) -/

theorem ite_one_zero_eq_ofBool (t : Bool) : (if t then 1 else 0 : Word) = (BitVec.ofBool t).setWidth 64 := by
  cases t <;> rfl

/-- Settles O7: minima and maxima do not depend on how equal operands count, the shifts and the rotation are said by their bits, and the
counts by the position of the outermost one bit or by the number of one bits. -/
theorem scalarLogicAndShifts : Obligations.ScalarLogicAndShifts := by
  refine ⟨fun s d a b n h => ?_, fun s d a b h => ?_⟩
  · rw [← ite_toInt_le _ _ _ _ id, ← ite_toInt_le _ _ _ _ Eq.symm, ← ite_toNat_le _ _ _ _ id, ← ite_toNat_le _ _ _ _ Eq.symm,
      ← ite_one_zero_eq_ofBool]
    exact ⟨scalar_go h _ _ _, scalar_go h _ _ _, scalar_go h _ _ _, scalar_go h _ _ _, scalar_go h _ _ _, scalar_go h _ _ _,
      scalar_go h _ _ _, scalar_go h _ _ _, scalar_go h _ _ _, scalar_go h _ _ _, scalar_go h _ _ _⟩
  · obtain ⟨hclz, hclz0, hclz1⟩ := leadingZeros_spec (s.rS a).isLt
    obtain ⟨hctz, hctz0, hctz1⟩ := trailingZeros_spec 64 (s.rS a).toNat
    refine ⟨⟨_, scalar_go h _ _ _, fun i => getLsbD_shl _ _⟩, ⟨_, scalar_go h _ _ _, fun i => getLsbD_shr _ _⟩,
      ⟨_, scalar_go h _ _ _, fun i => getLsbD_sra _ _⟩, ⟨_, scalar_go h _ _ _, fun i => getLsbD_rotl _ _⟩,
      ⟨_, scalar_go h _ _ _, hclz, hclz0, hclz1⟩, ⟨_, scalar_go h _ _ _, hctz, hctz0, hctz1⟩, ?_⟩
    have hpopc := onesBelow_eq_countP 64 (s.rS a).toNat
    exact hpopc ▸ scalar_go h _ _ _

end Sys2Proof.Claims

/-!
PROOFS. Immediates under lent bits, bit fields and the funnel shift (O8).
-/
namespace Sys2Proof.Claims

open Sys2Proof.Machine

/-! ### Fields of a word (R119 to R121) -/

theorem getLsbD_fieldMask (pos len : Nat) {i : Nat} (hi : i < 64) :
    (fieldMask pos len).getLsbD i = decide (pos ≤ i ∧ i < pos + len) := by
  rw [fieldMask, BitVec.getLsbD_ofNat, decide_eq_true hi, Bool.true_and, Nat.testBit_mul_two_pow, Nat.testBit_two_pow_sub_one,
    ← Bool.decide_and]
  exact decide_eq_decide.mpr (by omega)

/-- A word whose bits under a mask are those of another. -/
theorem getLsbD_merge (old new m : Word) {i : Nat} (hi : i < 64) :
    ((old &&& ~~~m) ||| (new &&& m)).getLsbD i = if m.getLsbD i then new.getLsbD i else old.getLsbD i := by
  rw [BitVec.getLsbD_or, BitVec.getLsbD_and, BitVec.getLsbD_and, BitVec.getLsbD_not, decide_eq_true hi]
  cases m.getLsbD i <;> simp

theorem testBit_bits (x hi lo i : Nat) : (bits x hi lo).testBit i = (decide (i < hi + 1 - lo) && x.testBit (lo + i)) := by
  rw [bits, Nat.testBit_mod_two_pow, Nat.testBit_div_two_pow, Nat.add_comm i]

/-- A word with one of its quarters replaced (R119). -/
theorem getLsbD_quarter (old : Word) (q : BitVec 2) (x : BitVec 16) {i : Nat} (hi : i < 64) :
    ((old &&& ~~~fieldMask (16 * q.toNat) 16) ||| (x.setWidth 64 <<< (16 * q.toNat))).getLsbD i =
      if i / 16 = q.toNat then x.getLsbD (i % 16) else old.getLsbD i := by
  rw [BitVec.getLsbD_or, BitVec.getLsbD_and, BitVec.getLsbD_not, getLsbD_fieldMask _ _ hi, BitVec.getLsbD_shiftLeft,
    BitVec.getLsbD_setWidth, decide_eq_true hi]
  obtain hlow | hin | hhigh : i < 16 * q.toNat ∨ i / 16 = q.toNat ∨ 16 * q.toNat + 16 ≤ i := by omega
  · have hq : i / 16 ≠ q.toNat := by omega
    simp [hlow, hq]
  · have hat : i - 16 * q.toNat = i % 16 := by omega
    have hm : 16 * q.toNat ≤ i ∧ i < 16 * q.toNat + 16 := by omega
    have hlt : i % 16 < 64 := by omega
    simp [hin, hat, hm, hlt]
  · have hq : i / 16 ≠ q.toNat := by omega
    have hge : 16 ≤ i - 16 * q.toNat := by omega
    simp [hq, hhigh.not_gt, BitVec.getLsbD_of_ge x _ hge]

section
variable (a d : Word) (p l : BitVec 6) {i : Nat} (hi : i < 64)
include hi

theorem getLsbD_extr : (BitVec.ofNat 64 (bits a.toNat (p.toNat + l.toNat) p.toNat)).getLsbD i =
    (decide (i ≤ l.toNat) && a.getLsbD (p.toNat + i)) := by
  have hlen : i < p.toNat + l.toNat + 1 - p.toNat ↔ i ≤ l.toNat := by omega
  rw [BitVec.getLsbD_ofNat, decide_eq_true hi, Bool.true_and, testBit_bits]
  simp only [hlen]
  rfl

theorem getLsbD_extrs : (word (toInt (l.toNat + 1) true (bits a.toNat (p.toNat + l.toNat) p.toNat))).getLsbD i =
    a.getLsbD (p.toNat + min i l.toNat) := by
  have hw : p.toNat + l.toNat + 1 - p.toNat = l.toNat + 1 := by omega
  have hlt : bits a.toNat (p.toNat + l.toNat) p.toNat < 2 ^ (l.toNat + 1) := by
    rw [bits, hw]; exact Nat.mod_lt _ (Nat.two_pow_pos _)
  have hsign : word (toInt (l.toNat + 1) true (bits a.toNat (p.toNat + l.toNat) p.toNat)) =
      (BitVec.ofNat (l.toNat + 1) (bits a.toNat (p.toNat + l.toNat) p.toNat)).signExtend 64 := by
    rw [toInt_signed _ _ hlt]; rfl
  have hbit (k : Nat) (hk : k ≤ l.toNat) : (BitVec.ofNat (l.toNat + 1) (bits a.toNat (p.toNat + l.toNat) p.toNat)).getLsbD k =
      a.getLsbD (p.toNat + k) := by
    rw [BitVec.getLsbD_ofNat, testBit_bits, hw, decide_eq_true (Nat.lt_succ_of_le hk)]
    rfl
  rw [hsign, BitVec.getLsbD_signExtend, decide_eq_true hi, Bool.true_and, BitVec.msb_eq_getLsbD_last, Nat.add_sub_cancel]
  split
  · next h => rw [Nat.min_eq_left (by omega), hbit i (by omega)]
  · next h => rw [Nat.min_eq_right (by omega), hbit _ le_rfl]

theorem getLsbD_ins :
    ((d &&& ~~~fieldMask p.toNat (l.toNat + 1)) ||| ((a <<< p.toNat) &&& fieldMask p.toNat (l.toNat + 1))).getLsbD i =
    if p.toNat ≤ i ∧ i ≤ p.toNat + l.toNat then a.getLsbD (i - p.toNat) else d.getLsbD i := by
  have hin : i < p.toNat + (l.toNat + 1) ↔ i ≤ p.toNat + l.toNat := by omega
  rw [getLsbD_merge _ _ _ hi, getLsbD_fieldMask _ _ hi, BitVec.getLsbD_shiftLeft, decide_eq_true hi]
  simp only [hin, decide_eq_true_eq]
  split
  · next h => simp [h.1]
  · rfl

end

/-- The window of 64 bits from bit `k` up of a pair of words (R121). -/
theorem getLsbD_window (a b : Word) {k i : Nat} (hi : i < 64) :
    (BitVec.ofNat 64 ((a.toNat * 2 ^ 64 + b.toNat) / 2 ^ k)).getLsbD i =
      if i + k < 64 then b.getLsbD (i + k) else a.getLsbD (i + k - 64) := by
  rw [BitVec.getLsbD_ofNat, decide_eq_true hi, Bool.true_and, Nat.testBit_div_two_pow, Nat.mul_comm,
    Nat.testBit_two_pow_mul_add _ b.isLt]
  rfl

/-- Settles O8: signed immediates are the sign-extended field under the lent bits, and a field or window of a register is said by its
bits, wherever it lies. -/
theorem immediatesAndBitFields : Obligations.ImmediatesAndBitFields := by
  refine ⟨?_, fun s d a b c p l h _ => ?_⟩
  · rintro s d a i14 i12 i20 q i16 w rfl hw
    rw [← word_signedField s i14 hw, ← word_signedField s i20 hw]
    exact ⟨rfl, rfl, rfl, rfl, rfl, fun h => ⟨_, scalar_go h _ _ _, fun i => getLsbD_quarter _ _ _⟩⟩
  · exact ⟨⟨_, scalar_go h _ _ _, fun i => getLsbD_extr _ _ _⟩, ⟨_, scalar_go h _ _ _, fun i => getLsbD_extrs _ _ _⟩,
      ⟨_, scalar_go h _ _ _, fun i => getLsbD_ins _ _ _ _⟩,
      ⟨_, scalar_go h _ _ _, fun i => getLsbD_window _ _⟩⟩

end Sys2Proof.Claims

/-!
PROOFS. Control registers: access, writes, and what a written register reads as (O15).
-/
namespace Sys2Proof.Claims

open Sys2Proof.Machine

/-! ### Access (R124, R125) -/

/-- The four kinds of a number: writable in user mode, readable there, privileged, unassigned. -/
theorem csrUser_cases (n : Nat) :
    (userReads n ∧ userWrites n ∧ csrUser n = some (true, true)) ∨
    (userReads n ∧ ¬ userWrites n ∧ csrUser n = some (true, false)) ∨
    (privReads n ∧ ¬ userReads n ∧ ¬ userWrites n ∧ csrUser n = some (false, false)) ∨
    (¬ privReads n ∧ ¬ userReads n ∧ ¬ userWrites n ∧ csrUser n = none) := by
  unfold csrUser privReads userReads userWrites
  split_ifs <;> simp <;> omega

theorem csrReadable_iff (priv : Bool) (n : Nat) : csrReadable priv n = true ↔ if priv then privReads n else userReads n := by
  obtain ⟨hr, -, he⟩ | ⟨hr, -, he⟩ | ⟨hp, hr, -, he⟩ | ⟨hp, hr, -, he⟩ := csrUser_cases n
  · cases priv <;> simp [csrReadable, he, hr, privReads]
  · cases priv <;> simp [csrReadable, he, hr, privReads]
  · cases priv <;> simp [csrReadable, he, hr, hp]
  · cases priv <;> simp [csrReadable, he, hr, hp]

theorem csrWritable_iff (priv : Bool) (n : Nat) : csrWritable priv n = true ↔ if priv then privWrites n else userWrites n := by
  have huser (hw : userWrites n) : n ≠ 0 ∧ n ≠ 1 ∧ n ≠ 2 ∧ n ≠ 4 := by unfold userWrites at hw; omega
  obtain ⟨hr, hw, he⟩ | ⟨hr, hw, he⟩ | ⟨hp, -, hw, he⟩ | ⟨hp, -, hw, he⟩ := csrUser_cases n
  · cases priv <;> simp [csrWritable, he, hr, hw, huser hw, privWrites, privReads]
  · cases priv <;> simp [csrWritable, he, hr, hw, privWrites, privReads, and_assoc]
  · cases priv <;> simp [csrWritable, he, hw, hp, privWrites, and_assoc]
  · cases priv <;> simp [csrWritable, he, hw, hp, privWrites]

section
variable {s : State} (h : s.lent = 0)
include h

theorem exec_csrRd (d : BitVec 6) (n : BitVec 12) : exec (.csrRd d n) s =
    if csrReadable s.ctx.priv n.toNat then .next (s.wS 2 d (s.readCsr s.cur.ctx n.toNat)) else .next s.illegal :=
  noLent_go s _ h

theorem csrWrite_eq (r : BitVec 6) (n : BitVec 12) : csrWrite s r n =
    if csrWritable s.ctx.priv n.toNat then .next (s.queue 1 (.csr n (s.rS r))) else .next s.illegal := noLent_go s _ h

/-- ACC_OWN is written once no tile that changes owner is busy (R126). -/
theorem execCsrWrAccOwn_go (r : BitVec 6) (hp : s.ctx.priv = true)
    (hbusy : ∀ t < 4, ∀ c < 4, (s.core s.coreId).accOwn.getLsbD (4 * c + t) ≠ (s.rS r).getLsbD (4 * c + t) →
      (s.core s.coreId).isBusy s.now (.tile t) = false) :
    exec (.csrWrAccOwn r) s = .next (s.queue 1 (.csr 0x015 (s.rS r))) := by
  have hw : csrWritable s.ctx.priv 0x015 = true := by rw [hp]; rfl
  have hfree : ((ownerChanges (s.core s.coreId).accOwn ((s.rS r).setWidth 16)).any fun t =>
      (s.core s.coreId).isBusy s.now (.tile t)) = false := by
    refine List.any_eq_false.mpr fun t ht => ?_
    obtain ⟨htile, hany⟩ := List.mem_filter.mp ht
    obtain ⟨c, hctx, hne⟩ := List.any_eq_true.mp hany
    have ht4 : t < 4 := List.mem_range.mp htile
    have hc4 : c < 4 := List.mem_range.mp hctx
    rw [BitVec.getLsbD_setWidth, decide_eq_true (by omega), Bool.true_and, bne_iff_ne] at hne
    rw [hbusy t ht4 c hc4 hne]
    exact Bool.false_ne_true
  refine (noLent_go s _ h).trans ?_
  simp only [hw, hfree, Bool.not_true, Bool.false_eq_true, if_false]
  exact (csrWrite_eq h r 0x015).trans (if_pos hw)

/-- BANK_ROLE is written once no bank that changes role is CHANGING (R126, R173). -/
theorem execCsrWrBankRole_go (r : BitVec 6) (hp : s.ctx.priv = true) (hwf : wellFormedRoles (s.rS r) = true)
    (hstable : ∀ j < 32, roleOf (s.core s.coreId).bankRole j ≠ roleOf (s.rS r) j → (s.core s.coreId).isChanging s.now j = false) :
    exec (.csrWrBankRole r) s = .next (s.queue 1 (.csr 0x016 (s.rS r))) := by
  have hw : csrWritable s.ctx.priv 0x016 = true := by rw [hp]; rfl
  have hfree : ((upTo 32).any fun j => roleOf (s.core s.coreId).bankRole j != roleOf (s.rS r) j &&
      (s.core s.coreId).isChanging s.now j) = false := by
    refine List.any_eq_false.mpr fun j hj => ?_
    rw [Bool.and_eq_true, bne_iff_ne]
    rintro ⟨hne, hc⟩
    rw [hstable j (List.mem_range.mp hj) hne] at hc
    cases hc
  refine (noLent_go s _ h).trans ?_
  simp only [hw, hwf, hfree, Bool.not_true, Bool.false_eq_true, if_false]
  exact (csrWrite_eq h r 0x016).trans (if_pos hw)

theorem execCsrWrBankRole_rejected (r : BitVec 6) (hp : s.ctx.priv = true) (hwf : wellFormedRoles (s.rS r) = false) :
    exec (.csrWrBankRole r) s = .next s := by
  have hw : csrWritable s.ctx.priv 0x016 = true := by rw [hp]; rfl
  refine (noLent_go s _ h).trans ?_
  simp only [hw, hwf, Bool.not_true, Bool.not_false, Bool.false_eq_true, if_false, if_true]

end

theorem traps_of_illegal {s : State} {o : Out} (h : o = .next s.illegal) : Traps o 0x01 (BitVec.ofNat 64 s.cur.word) s.cur.slot :=
  ⟨_, h, rfl⟩

/-! ### What a written register reads as (R5, R126) -/

/-- A register that keeps the low `k` bits of a word reads as these. -/
theorem setWidth_setWidth_eq_and (v : Word) (k : Nat) : (v.setWidth k).setWidth 64 = v &&& BitVec.ofNat 64 (2 ^ k - 1) := by
  refine BitVec.eq_of_getLsbD_eq fun i hi => ?_
  rw [BitVec.getLsbD_setWidth, BitVec.getLsbD_setWidth, BitVec.getLsbD_and, BitVec.getLsbD_ofNat, Nat.testBit_two_pow_sub_one,
    decide_eq_true hi, Bool.true_and, Bool.true_and, Bool.and_comm]

/-- EVLOG_KIND keeps the lane and the code of an event (R124). -/
theorem setWidth_kind (v : Word) : (v.setWidth 13 &&& 0x1F07#13).setWidth 64 = v &&& 0x1F07#64 := by
  rw [BitVec.setWidth_and, setWidth_setWidth_eq_and, BitVec.and_assoc]
  rfl

theorem ctxAt_writeCsr (s : State) (x stamp n : Nat) (v : Word) (h15 : n ≠ 0x015) (h16 : n ≠ 0x016) (y : Nat) :
    (s.writeCsr x stamp n v).ctxAt y = if y = x then (s.ctxAt x).writeCsr stamp n v else s.ctxAt y := by
  have hw : s.writeCsr x stamp n v = s.modCtxAt x fun c => c.writeCsr stamp n v := by
    unfold State.writeCsr
    split
    · exact absurd rfl h15
    · exact absurd rfl h16
    · rfl
  rw [hw, State.ctxAt_modCtxAt]

theorem ctxAt_writeCsr_same (s : State) (x stamp n : Nat) (v : Word) (h15 : n ≠ 0x015) (h16 : n ≠ 0x016) :
    (s.writeCsr x stamp n v).ctxAt x = (s.ctxAt x).writeCsr stamp n v :=
  (ctxAt_writeCsr s x stamp n v h15 h16 x).trans (if_pos rfl)

theorem accOwn_writeCsr (s : State) (x stamp : Nat) (v : Word) :
    ((s.writeCsr x stamp 0x015 v).core (coreOf x)).accOwn = v.setWidth 16 :=
  congrArg CoreSt.accOwn (core_modCore_same s (coreOf x) fun c => { c with accOwn := v.setWidth 16 })

/-- A register that stores its bits reads as these, reserved bits zero. -/
theorem readCsr_writeCsr_stored (s : State) (x stamp n : Nat) (v m : Word) (h : storedBits n = some m) :
    (s.writeCsr x stamp n v).readCsr x n = v &&& m := by
  unfold storedBits at h
  split at h <;> cases h
  all_goals simp [State.readCsr, ctxAt_writeCsr_same, accOwn_writeCsr, Ctx.writeCsr, EvLog.write, setWidth_setWidth_eq_and,
    setWidth_kind, -BitVec.setWidth_and, -BitVec.reduceAllOnes]

/-- FPCTL keeps its field under codes 6 and 7 (R27). -/
theorem readCsr_writeCsr_fpctl (s : State) (x stamp : Nat) (v : Word) :
    (s.writeCsr x stamp 0x010 v).readCsr x 0x010 = if v.toNat % 8 ≤ 5 then v &&& 7 else s.readCsr x 0x010 := by
  have hc := ctxAt_writeCsr_same s x stamp 0x010 v (by decide) (by decide)
  have hv : (v.setWidth 3).setWidth 64 = v &&& 7 := setWidth_setWidth_eq_and v 3
  simp only [State.readCsr, hc, Ctx.writeCsr, Csrs.writeFpctl, ← hv]
  split <;> rfl

/-- The fields of CTX_PRIO as the register shows them. -/
theorem prio_fields (l t : BitVec 2) : BitVec.ofNat 64 ((if t.toNat < l.toNat then t else l).toNat + 16 * t.toNat) =
    (t.setWidth 64 <<< 4) ||| (if t.setWidth 64 < l.setWidth 64 then t.setWidth 64 else l.setWidth 64) := by
  revert l t; decide

/-- CEIL as a field of two bits, in its place. -/
theorem and_ceil_eq (v : Word) : v &&& (0x30 : Word) = ((v >>> 4) &&& (3 : Word)) <<< 4 := by
  have hmask : ∀ i < 64, (0x30 : Word).getLsbD i = (!decide (i < 4) && (3 : Word).getLsbD (i - 4)) := by decide
  refine BitVec.eq_of_getLsbD_eq fun i hi => ?_
  rw [BitVec.getLsbD_and, BitVec.getLsbD_shiftLeft, BitVec.getLsbD_and, BitVec.getLsbD_ushiftRight, hmask i hi, decide_eq_true hi]
  by_cases h : i < 4
  · simp [h]
  · rw [Nat.add_sub_cancel' (Nat.le_of_not_lt h)]
    simp [h]

theorem readCsr_writeCsr_prio (s : State) (x stamp : Nat) (v : Word) : (s.writeCsr x stamp 0x003 v).readCsr x 0x003 =
    (v &&& (0x30 : Word)) ||| (if (v >>> 4) &&& 3 < v &&& 3 then (v >>> 4) &&& 3 else v &&& 3) := by
  have hc := ctxAt_writeCsr_same s x stamp 0x003 v (by decide) (by decide)
  have hl : v &&& (3 : Word) = (v.setWidth 2).setWidth 64 := (setWidth_setWidth_eq_and v 2).symm
  have ht : (v >>> 4) &&& (3 : Word) = ((v >>> 4).setWidth 2).setWidth 64 := (setWidth_setWidth_eq_and (v >>> 4) 2).symm
  rw [and_ceil_eq, hl, ht, ← prio_fields]
  simp only [State.readCsr, hc]
  rfl

/-- Settles O15: access is by the four kinds of numbers, the two writes that may hold go on when nothing that changes is busy, and a
written register reads as the bits it has. -/
theorem controlRegisters : Obligations.ControlRegisters := by
  refine ⟨fun s h => ⟨fun d n hr => ?_, fun d n hr => ?_, fun r n hw => ?_, fun r n hw => ?_, fun r => ?_, fun r hp => ?_,
      fun r hp => execCsrWrAccOwn_go h r hp, fun r hp => execCsrWrBankRole_go h r hp, fun r hp => execCsrWrBankRole_rejected h r hp,
      fun r hp => ?_⟩,
    readCsr_writeCsr_stored, readCsr_writeCsr_fpctl, readCsr_writeCsr_prio,
    fun s x y stamp n v h15 h16 hy => (ctxAt_writeCsr s x stamp n v h15 h16 y).trans (if_neg hy)⟩
  · exact (exec_csrRd h d n).trans (if_pos ((csrReadable_iff ..).mpr hr))
  · exact traps_of_illegal ((exec_csrRd h d n).trans (if_neg (mt (csrReadable_iff ..).mp hr)))
  · exact (csrWrite_eq h r n).trans (if_pos ((csrWritable_iff ..).mpr hw))
  · exact traps_of_illegal ((csrWrite_eq h r n).trans (if_neg (mt (csrWritable_iff ..).mp hw)))
  · exact (csrWrite_eq h r 0x010).trans (if_pos (by cases s.ctx.priv <;> rfl))
  · exact (csrWrite_eq h r 0x003).trans (if_pos (by rw [hp]; rfl))
  · have hno (n : Nat) (hn : n = 0x003 ∨ n = 0x015 ∨ n = 0x016) : csrWritable s.ctx.priv n = false := by
      obtain rfl | rfl | rfl := hn <;> rw [hp] <;> rfl
    exact ⟨traps_of_illegal ((csrWrite_eq h r 0x003).trans (if_neg (by simp [hno]))),
      traps_of_illegal ((noLent_go s _ h).trans (if_pos (by simp [hno]))),
      traps_of_illegal ((noLent_go s _ h).trans (if_pos (by simp [hno])))⟩

end Sys2Proof.Claims

/-!
PROOFS. Vector instructions that act element by element (R127 to R131), and vector copies and logic (O17).
-/
namespace Sys2Proof.Claims

open Sys2Proof.Machine

/-! ### Elements under a mask (R129, R130) -/

/-- The elements of a scalar type fill a register. -/
theorem typeWidth_mul_count {t : Nat} (h : t ≤ 13) : typeWidth t * (1024 / typeWidth t) = 1024 := by revert t; decide

theorem eight_le_typeWidth {t : Nat} (h : t ≤ 13) : 8 ≤ typeWidth t := by revert t; decide

/-- Element `n` under a mask: that of `f` where it is enabled, else the old one, silently. -/
def masked (m : Mask) (w : Nat) (old : Nat → Nat) (f : Nat → Elem) (n : Nat) : Elem := if on m w n then f n else (old n, [])

theorem fst_masked (m : Mask) (w : Nat) (old : Nat → Nat) (f : Nat → Elem) (n : Nat) :
    (masked m w old f n).1 = if on m w n then (f n).1 else old n := apply_ite Prod.fst ..

theorem perElement_map_range (m : Mask) (w : Nat) (old : Nat → Nat) (f : Nat → Elem) (c : Nat) :
    perElement w m ((List.range c).map old) f = (List.range c).map (masked m w old f) := by
  rw [perElement, indexed_map_range, List.map_map]
  refine List.map_congr_left fun n _ => ?_
  dsimp only [Function.comp]
  rw [enabled_eq_on, masked]

/-- Only enabled elements raise events, each at its position. -/
theorem laneEvents_masked (m : Mask) (w : Nat) (old : Nat → Nat) (f : Nat → Elem) :
    laneEvents w ((List.range (1024 / w)).map (masked m w old f)) = elemEvents m w f := by
  unfold laneEvents elemEvents
  rw [indexed_map_range, List.flatMap_map]
  refine List.flatMap_congr fun n _ => ?_
  dsimp only [Function.comp]
  rw [position_eq, masked]
  split <;> rfl

theorem elemEvents_congr {m : Mask} {w : Nat} {f g : Nat → Elem} (h : ∀ n < 1024 / w, f n = g n) :
    elemEvents m w f = elemEvents m w g := by
  unfold elemEvents
  exact List.flatMap_congr fun n hn => by rw [h n (List.mem_range.mp hn)]

theorem elemEvents_silent (m : Mask) (w : Nat) (f : Nat → Nat) : elemEvents m w (fun n => (f n, [])) = [] := by
  simp [elemEvents]

theorem statePerElement_eq (s : State) (w lat : Nat) (d : BitVec 5) (k : BitVec 3) (f : Nat → Elem) :
    s.perElement w lat d k f = (s.logEvs (elemEvents (s.rK k) w f)).wV lat d
      (joinV w ((List.range (1024 / w)).map fun n => (masked (s.rK k) w (lane w (s.rV d)) f n).1)) := by
  rw [State.perElement, elems_eq_map_lane, perElement_map_range, laneEvents_masked, List.map_map]
  rfl

section
variable {i : Instr} {s : State} {w lat : Nat} {d : BitVec 5} {k : BitVec 3} (hw : w * (1024 / w) = 1024)
include hw

/-- What an element-by-element instruction computes needs to be known of the register's own elements only. -/
theorem writesElems_of_perElement {draws : Bool} {f g : Nat → Elem} (he : exec i s = .next ((s.perElement w lat d k f).drew draws))
    (hfg : ∀ n < 1024 / w, f n = g n) : WritesElems i s lat w d k draws g := by
  rw [statePerElement_eq, elemEvents_congr hfg] at he
  refine ⟨_, he, fun n hn => ?_⟩
  rw [lane_joinV_map hw _ hn, fst_masked, hfg n hn]
  split
  · rfl
  · exact Nat.mod_eq_of_lt (lane_lt w _ n)

theorem copiesElems_of_copyElements (hr : RoundingLegal s) {f g : Nat → Nat} (he : exec i s = copyElements s w lat d k f)
    (hfg : ∀ n < 1024 / w, f n = g n) (hlt : ∀ n, g n < 2 ^ w) : CopiesElems i s lat w d k g := by
  rw [copyElements, withRoundingIgnored_go hr] at he
  obtain ⟨x, hx, hl⟩ := writesElems_of_perElement (draws := false) (g := fun n => (g n, [])) hw he fun n hn => by rw [hfg n hn]
  rw [elemEvents_silent, State.logEvs_nil] at hx
  refine ⟨x, hx, fun n hn => ?_⟩
  rw [hl n hn, Nat.mod_eq_of_lt (hlt n)]

end

/-! ### Classes (R151) -/

theorem classOf_le (f : Fmt) (x : Nat) : classOf f x ≤ 9 := by
  unfold classOf
  cases f.decode x with
  | nan b => cases b <;> simp
  | inf neg => cases neg <;> simp
  | zero neg => cases neg <;> simp
  | num v =>
    dsimp only
    split <;> split <;> simp

/-! ### Bitwise operations and shifts by the whole amount (R139) -/

section
variable {w x y : Nat} (hx : x < 2 ^ w)
include hx

theorem toNat_ofNat_of_lt : (BitVec.ofNat w x).toNat = x := by rw [BitVec.toNat_ofNat, Nat.mod_eq_of_lt hx]

theorem andNot_eq (hy : y < 2 ^ w) : x &&& (2 ^ w - 1 - y) = (BitVec.ofNat w x &&& ~~~BitVec.ofNat w y).toNat := by
  rw [BitVec.toNat_and, BitVec.toNat_not, toNat_ofNat_of_lt hx, toNat_ofNat_of_lt hy]

theorem shl_eq : (if w ≤ y then 0 else x * 2 ^ y % 2 ^ w) = (BitVec.ofNat w x <<< y).toNat := by
  rw [BitVec.toNat_shiftLeft, toNat_ofNat_of_lt hx, Nat.shiftLeft_eq]
  split
  · next h => exact (Nat.mod_eq_zero_of_dvd ((Nat.pow_dvd_pow 2 h).mul_left x)).symm
  · rfl

theorem shr_eq : (if w ≤ y then 0 else x / 2 ^ y) = (BitVec.ofNat w x >>> y).toNat := by
  rw [BitVec.toNat_ushiftRight, toNat_ofNat_of_lt hx, Nat.shiftRight_eq_div_pow]
  split
  · next h => exact (Nat.div_eq_of_lt (Nat.lt_of_lt_of_le hx (Nat.pow_le_pow_right (by decide) h))).symm
  · rfl

/-- A shift by the width or more leaves the sign alone. -/
theorem sra_eq : wrap w (toInt w true x / (2 ^ min y w : Nat)) = ((BitVec.ofNat w x).sshiftRight y).toNat := by
  have hsign : (BitVec.ofNat w x).toInt / (2 ^ min y w : Nat) = (BitVec.ofNat w x).toInt / (2 ^ y : Nat) := by
    obtain h | h := Nat.le_total y w
    · rw [Nat.min_eq_left h]
    · have hpow : 2 ^ w ≤ 2 ^ y := Nat.pow_le_pow_right (by decide) h
      have hlt := BitVec.toInt_lt (x := BitVec.ofNat w x)
      have hge := BitVec.le_toInt (BitVec.ofNat w x)
      have hhalf : (2 : Int) ^ (w - 1) ≤ (2 ^ w : Nat) := by
        exact_mod_cast Nat.pow_le_pow_right (by decide : 0 < 2) (Nat.sub_le w 1)
      rw [Nat.min_eq_right h]
      obtain hn | hn := Int.lt_or_le (BitVec.ofNat w x).toInt 0
      · rw [Int.ediv_eq_neg_one_of_neg_of_le hn (by omega), Int.ediv_eq_neg_one_of_neg_of_le hn (by omega)]
      · rw [Int.ediv_eq_zero_of_lt hn (by omega), Int.ediv_eq_zero_of_lt hn (by omega)]
  rw [toInt_signed w x hx, hsign, BitVec.sshiftRight, BitVec.toNat_ofInt, Int.shiftRight_eq_div_pow]
  rfl

end

theorem countP_range_lt (w : Nat) (p : Nat → Bool) : (List.range w).countP p < 2 ^ w :=
  Nat.lt_of_le_of_lt (List.countP_le_length.trans_eq List.length_range) Nat.lt_two_pow_self

/-- An operation of R139 acts on each element's own word. -/
theorem copiesElems_of_logicOp {i : Instr} {s : State} {d a b : BitVec 5} {k : BitVec 3} {t : BitVec 5} {lat : Nat}
    (f : Nat → Nat → Nat → Nat) (hr : RoundingLegal s) (ht : t.toNat ≤ 7) {g : Nat → Nat → Nat}
    (he : exec i s = logicOp f lat s d a b k t)
    (hfg : ∀ x y, x < 2 ^ typeWidth t.toNat → y < 2 ^ typeWidth t.toNat → f (typeWidth t.toNat) x y = g x y)
    (hlt : ∀ x y, x < 2 ^ typeWidth t.toNat → y < 2 ^ typeWidth t.toNat → g x y < 2 ^ typeWidth t.toNat) :
    CopiesElems i s lat (typeWidth t.toNat) d k fun n =>
      g (lane (typeWidth t.toNat) (s.rV a) n) (lane (typeWidth t.toNat) (s.rV b) n) := by
  have hw := typeWidth_mul_count (by omega : t.toNat ≤ 13)
  refine copiesElems_of_copyElements hw hr he (fun n _ => ?_) fun n => hlt _ _ (lane_lt ..) (lane_lt ..)
  rw [at'_elems hw, at'_elems hw, hfg _ _ (lane_lt ..) (lane_lt ..)]

/-! ### The instructions -/

theorem on_allOnes {w n : Nat} (hw : w * (1024 / w) = 1024) (hn : n < 1024 / w) : on (BitVec.allOnes 32) w n = true := by
  have h0 : 0 < w := Nat.pos_of_ne_zero (by rintro rfl; omega)
  have hlt : w * n < 1024 := hw ▸ Nat.mul_lt_mul_of_pos_left hn h0
  rw [on, BitVec.getLsbD_allOnes]
  exact decide_eq_true (by omega)

/-- The moves, permutations, fields and classes of O17, each element from the lanes of its sources. -/
theorem vectorCopies (s : State) (d a b : BitVec 5) (k : BitVec 3) (t : BitVec 5) (w : Nat) (hr : RoundingLegal s) (ht : t.toNat ≤ 13)
    (hwt : w = typeWidth t.toNat) :
    CopiesElems (.vmov d a k t) s 1 w d k (fun n => lane w (s.rV a) n) ∧
    (∀ r : BitVec 6, CopiesElems (.vbcast d r k t) s 1 w d k fun _ => (s.rS r).toNat % 2 ^ w) ∧
    CopiesElems (.vperm d a b k t) s 3 w d k (fun n => lane w (s.rV a) (lane w (s.rV b) n % (1024 / w))) ∧
    CopiesElems (.vpack d a b k t) s 1 w d k
      (fun n => if n < 512 / w then lane w (s.rV a) n else lane w (s.rV b) (n - 512 / w)) ∧
    CopiesElems (.vunpack d a k t) s 1 w d k (fun n => lane w (s.rV a) ((n + 512 / w) % (1024 / w))) := by
  subst hwt
  have hw := typeWidth_mul_count ht
  have hhalf : 1024 / typeWidth t.toNat / 2 = 512 / typeWidth t.toNat := by
    rw [Nat.div_div_eq_div_mul, Nat.mul_comm, ← Nat.div_div_eq_div_mul]
  refine ⟨copiesElems_of_copyElements hw hr rfl (fun n _ => at'_elems hw _ n) fun n => lane_lt ..,
    fun r => copiesElems_of_copyElements hw hr rfl (fun n _ => rfl) fun n => Nat.mod_lt _ (Nat.two_pow_pos _),
    copiesElems_of_copyElements hw hr rfl (fun n _ => ?_) fun n => lane_lt ..,
    copiesElems_of_copyElements hw hr rfl (fun n _ => ?_) fun n => ?_,
    copiesElems_of_copyElements hw hr rfl (fun n _ => ?_) fun n => lane_lt ..⟩
  · rw [at'_elems hw, at'_elems hw]
  · rw [at'_elems hw, at'_elems hw, hhalf]
  · split <;> exact lane_lt ..
  · rw [at'_elems hw, hhalf]

theorem copiesElems_vextr (s : State) (d a : BitVec 5) (k : BitVec 3) (hr : RoundingLegal s) (p l : BitVec 5) :
    CopiesElems (.vextr d a p k l) s 1 32 d k fun n => lane 32 (s.rV a) n / 2 ^ p.toNat % 2 ^ (l.toNat + 1) := by
  have hlen : p.toNat + l.toNat + 1 - p.toNat = l.toNat + 1 := by omega
  refine copiesElems_of_copyElements (by decide) hr rfl (fun n _ => ?_) fun n =>
    Nat.lt_of_lt_of_le (Nat.mod_lt _ (Nat.two_pow_pos _)) (Nat.pow_le_pow_right (by decide) (by omega))
  rw [at'_elems (by decide), bits, hlen]

theorem copiesElems_vclass (s : State) (d a : BitVec 5) (k : BitVec 3) (t : BitVec 5) (hr : RoundingLegal s) (ht : t.toNat ≤ 13) :
    CopiesElems (.vclass d a k t) s 2 (typeWidth t.toNat) d k
      fun n => classOf (fmtOf t.toNat) (lane (typeWidth t.toNat) (s.rV a) n) := by
  have hw := typeWidth_mul_count ht
  refine copiesElems_of_copyElements hw hr rfl (fun n _ => by rw [at'_elems hw]) fun n => ?_
  calc classOf _ _ < 2 ^ 8 := Nat.lt_of_le_of_lt (classOf_le ..) (by decide)
    _ ≤ 2 ^ typeWidth t.toNat := Nat.pow_le_pow_right (by decide) (eight_le_typeWidth ht)

/-- The class codes as R151 tabulates them. -/
theorem classOf_eq (f : Fmt) (x : Nat) : classOf f x = match f.decode x with
    | .nan signalling => if signalling then 0 else 1
    | .inf neg => if neg then 2 else 9
    | .zero neg => if neg then 5 else 6
    | .num v => if x / 2 ^ f.fbits % 2 ^ f.ebits = 0 then (if v.neg then 4 else 7) else (if v.neg then 3 else 8) := by
  unfold classOf
  cases f.decode x with
  | num v => dsimp only; cases v.neg <;> rfl
  | _ => rfl

theorem exec_vsel {s : State} (d a b : BitVec 5) (k : BitVec 3) {t : BitVec 5} (hr : RoundingLegal s) (ht : t.toNat ≤ 13) :
    ∃ x : VWord, exec (.vsel d a b k t) s = .next (s.wV 1 d x) ∧ ∀ n < 1024 / typeWidth t.toNat,
      lane (typeWidth t.toNat) x n = if on (s.rK k) (typeWidth t.toNat) n then lane (typeWidth t.toNat) (s.rV a) n
        else lane (typeWidth t.toNat) (s.rV b) n := by
  have hw := typeWidth_mul_count ht
  have hall : s.rK 0 = BitVec.allOnes 32 := Regs.getK_zero _
  obtain ⟨x, he, hx⟩ := copiesElems_of_copyElements (i := .vsel d a b k t) (d := d) (k := 0) (lat := 1)
    (g := fun n => if on (s.rK k) (typeWidth t.toNat) n then lane (typeWidth t.toNat) (s.rV a) n else lane (typeWidth t.toNat) (s.rV b) n)
    hw hr rfl (fun n _ => by rw [at'_elems hw, at'_elems hw, enabled_eq_on]) fun n => by split <;> exact lane_lt ..
  exact ⟨x, he, fun n hn => by rw [hx n hn, hall, if_pos (on_allOnes hw hn)]⟩

/-- Settles O17: every one is a copy of elements under the mask, whose elements are read off the lanes of its sources. -/
theorem vectorCopiesAndLogic : Obligations.VectorCopiesAndLogic := by
  constructor
  · rintro s d a b k t w hr ht rfl
    obtain ⟨hmov, hbcast, hperm, hpack, hunpack⟩ := vectorCopies s d a b k t _ hr ht rfl
    refine ⟨hmov, hbcast, hperm, hpack, hunpack, fun p l _ => copiesElems_vextr s d a k hr p l, fun _ => ?_, exec_vsel d a b k hr ht⟩
    have h := copiesElems_vclass s d a k t hr ht
    simp only [classOf_eq] at h
    exact h
  · rintro s d a b k t w hr ht rfl
    exact ⟨copiesElems_of_logicOp (fun _ x y => x &&& y) hr ht rfl (fun x y _ _ => rfl) fun x y _ hy => Nat.and_lt_two_pow x hy,
      copiesElems_of_logicOp (fun _ x y => x ||| y) hr ht rfl (fun x y _ _ => rfl) fun x y hx hy => Nat.or_lt_two_pow hx hy,
      copiesElems_of_logicOp (fun _ x y => x ^^^ y) hr ht rfl (fun x y _ _ => rfl) fun x y hx hy => Nat.xor_lt_two_pow hx hy,
      copiesElems_of_logicOp (fun w x y => x &&& (2 ^ w - 1 - y)) hr ht rfl (fun x y hx hy => andNot_eq hx hy) fun x y _ _ => BitVec.isLt _,
      copiesElems_of_logicOp (fun w x y => if w ≤ y then 0 else x * 2 ^ y % 2 ^ w) hr ht rfl (fun x y hx _ => shl_eq hx)
        fun x y _ _ => BitVec.isLt _,
      copiesElems_of_logicOp (fun w x y => if w ≤ y then 0 else x / 2 ^ y) hr ht rfl (fun x y hx _ => shr_eq hx)
        fun x y _ _ => BitVec.isLt _,
      copiesElems_of_logicOp (fun w x y => wrap w (toInt w true x / (2 ^ min y w : Nat))) hr ht rfl (fun x y hx _ => sra_eq hx)
        fun x y _ _ => BitVec.isLt _,
      copiesElems_of_logicOp (b := a) (fun w x _ => onesBelow w x) hr ht rfl (fun x y _ _ => onesBelow_eq_countP _ x)
        fun x y _ _ => countP_range_lt _ _⟩

end Sys2Proof.Claims

/-!
PROOFS. Vector arithmetic (O18).
-/
namespace Sys2Proof.Claims

open Sys2Proof.Machine

/-! ### The rounding mode (R27, R133) -/

theorem withRounding_go {s : State} {code : Nat} {sat : Bool} (h : s.rounding = some (code, sat)) (k : Rnd → Bool → Out) :
    withRounding s k = k (s.modeOf code) sat := by rw [withRounding, h]

/-- Without lent bits, the mode of FPCTL and no saturation. -/
theorem rounding_of_none {s : State} (h : s.lentOpt = none) : s.rounding = some (7, false) := by rw [State.rounding, h]

/-- A lent selection is a mode in its low bits and the saturation in bit 3. -/
theorem rounding_of_some {s : State} {l : Nat} (h : s.lentOpt = some l) (hl : l < 16) (h6 : l % 8 ≠ 6) :
    s.rounding = some (l % 8, decide (8 ≤ l)) := by
  have hbit : bit l 3 = decide (8 ≤ l) := by rw [bit, Bool.eq_iff_iff, beq_iff_eq, decide_eq_true_iff]; omega
  rw [State.rounding, h]
  exact (if_neg (by omega)).trans (by rw [hbit])

theorem modeOf_eq (s : State) (code : Nat) : s.modeOf code = Rnd.ofCode (if code = 7 then s.ctx.csr.fpctl.toNat else code) :=
  (apply_ite Rnd.ofCode ..).symm

/-! ### Integer results (R135) -/

theorem intMin_le_intMax (w : Nat) (signed : Bool) : intMin w signed ≤ intMax w signed := by
  have h1 := Nat.two_pow_pos (w - 1)
  have h2 := Nat.two_pow_pos w
  cases signed <;> simp only [intMin, intMax, if_true, if_false, Bool.false_eq_true] <;> omega

/-- Clamping moves an integer exactly where it is outside the range. -/
theorem clampInt_eq (w : Nat) (signed : Bool) (z : Int) :
    clampInt w signed z = (max (intMin w signed) (min (intMax w signed) z),
      decide (max (intMin w signed) (min (intMax w signed) z) ≠ z)) := by
  have hle := intMin_le_intMax w signed
  unfold clampInt
  split
  · next h => rw [min_eq_left h.le, max_eq_right hle, decide_eq_true h.ne]
  · next h =>
    rw [min_eq_right (Int.not_lt.mp h)]
    split
    · next h' => rw [max_eq_left h'.le, decide_eq_true h'.ne']
    · next h' => rw [max_eq_right (Int.not_lt.mp h'), decide_eq_false (not_not.mpr rfl)]

theorem finishInt_eq_finished (t : Nat) (sat : Bool) (z : Int) : finishInt t sat z = finished t sat z := by
  have hmin : intMin (typeWidth t) (typeSigned t) = if t ≤ 3 then -2 ^ (typeWidth t - 1) else 0 := by
    simp [intMin, typeSigned]
  have hmax : intMax (typeWidth t) (typeSigned t) = if t ≤ 3 then 2 ^ (typeWidth t - 1) - 1 else 2 ^ typeWidth t - 1 := by
    simp [intMax, typeSigned]
  unfold finishInt finished
  cases sat with
  | false => simp [wrap]
  | true => simp only [clampInt_eq, hmin, hmax, wrap, if_true, decide_eq_true_eq, ne_eq, ite_not, Nat.cast_pow, Nat.cast_ofNat]

/-! ### Elements of the arithmetic instructions (R134 to R136) -/

theorem arithElem_eq_arith (f : Arith) (t : Nat) (mode : Rnd) (sat : Bool) (rnd : Nat) {a b d : Nat} (ha : a < 2 ^ typeWidth t)
    (hb : b < 2 ^ typeWidth t) (hd : d < 2 ^ typeWidth t) :
    arithElem f t mode sat rnd a b d = arith f.onInt (f.onVal mode) t mode sat rnd a b d := by
  rw [arithElem, arith, finishInt_eq_finished, readInt_eq_intOf ha, readInt_eq_intOf hb, readInt_eq_intOf hd]

/-- The sign bit is the highest bit of the element. -/
theorem signBit_fmtOf {t : Nat} (h8 : 8 ≤ t) (h11 : t ≤ 11) : (fmtOf t).signBit = typeWidth t - 1 := by revert t; decide

theorem signElem_eq {t : Nat} (h8 : 8 ≤ t) (h11 : t ≤ 11) (neg : Bool) (x : Nat) : signElem (fmtOf t) neg x =
    if ((fmtOf t).decode x).isNan then
      ((fmtOf t).nan, if ((fmtOf t).decode x).isSnan then [.invalid, .nangen] else [.nangen])
    else (x % 2 ^ (typeWidth t - 1) +
      (if neg && !x.testBit (typeWidth t - 1) then 2 ^ (typeWidth t - 1) else 0), []) := by
  simp only [signElem, Fmt.signOf, signBit_fmtOf h8 h11, bit_eq_testBit]
  rfl

/-- An element of `vneg` or `vabs` (R135, R136): an integer is finished, of a value only the sign bit changes, and a NaN becomes canonical. -/
def signResult (t : Nat) (sat neg : Bool) (x : Nat) : Elem :=
  if t ≤ 7 then finished t sat (if neg then -intOf t x else (intOf t x).natAbs)
  else if ((fmtOf t).decode x).isNan then
    ((fmtOf t).nan, if ((fmtOf t).decode x).isSnan then [.invalid, .nangen] else [.nangen])
  else (x % 2 ^ (typeWidth t - 1) + (if neg && !x.testBit (typeWidth t - 1) then 2 ^ (typeWidth t - 1) else 0), [])

section
variable {i : Instr} {s : State} {d a b : BitVec 5} {k : BitVec 3} {ty : BitVec 5} {code : Nat} {sat : Bool}
  (hr : s.rounding = some (code, sat)) (ht : ty.toNat ≤ 11)
include hr ht

theorem writesElems_of_arithOp (f : Arith) {li lf lw : Nat} (he : exec i s = arithOp f li lf lw s d a b k ty) :
    WritesElems i s (latOf ty.toNat li lf lw) (typeWidth ty.toNat) d k (drawsFor ty.toNat (s.modeOf code)) fun n =>
      arith f.onInt (f.onVal (s.modeOf code)) ty.toNat (s.modeOf code) sat (s.rnd (s.modeOf code) (typeWidth ty.toNat) n)
        (lane (typeWidth ty.toNat) (s.rV a) n) (lane (typeWidth ty.toNat) (s.rV b) n) (lane (typeWidth ty.toNat) (s.rV d) n) := by
  have hw := typeWidth_mul_count (by omega : ty.toNat ≤ 13)
  rw [arithOp, withRounding_go hr] at he
  refine writesElems_of_perElement hw he fun n _ => ?_
  rw [at'_elems hw, at'_elems hw, at'_elems hw]
  exact arithElem_eq_arith f _ _ _ _ (lane_lt ..) (lane_lt ..) (lane_lt ..)

theorem writesElems_of_signOp (neg : Bool) (he : exec i s = signOp neg s d a k ty) :
    WritesElems i s (latOf ty.toNat 2 4 6) (typeWidth ty.toNat) d k false fun n =>
      signResult ty.toNat sat neg (lane (typeWidth ty.toNat) (s.rV a) n) := by
  have hw := typeWidth_mul_count (by omega : ty.toNat ≤ 13)
  rw [signOp, withRounding_go hr] at he
  refine writesElems_of_perElement (draws := false) hw he fun n _ => ?_
  dsimp only
  rw [at'_elems hw, readInt_eq_intOf (lane_lt ..), finishInt_eq_finished, signResult]
  split
  · rfl
  · exact signElem_eq (by omega) ht neg _

end

/-- Settles O18: the selection is the model's own; integers finish by the wrap or the clamp, values by their one rounding, and the sign
operations by the sign bit. -/
theorem vectorArithmetic : Obligations.VectorArithmetic := by
  rintro s d a b k ty t w code mode sat rfl ht rfl hlent hmode el rfl
  have hr : s.rounding = some (code, sat) := by
    obtain ⟨hl, rfl, rfl⟩ | ⟨l, hl, hlt, h6, rfl, rfl⟩ := hlent
    · exact rounding_of_none hl
    · exact rounding_of_some hl hlt h6
  obtain rfl : mode = s.modeOf code := hmode.trans (modeOf_eq s code).symm
  refine ⟨writesElems_of_arithOp hr ht arithAdd rfl, writesElems_of_arithOp hr ht arithSub rfl, writesElems_of_arithOp hr ht arithMul rfl,
    writesElems_of_arithOp hr ht arithFma rfl, writesElems_of_arithOp hr ht arithFms rfl, writesElems_of_arithOp hr ht arithFnma rfl,
    fun neg i hi => ?_⟩
  have he : exec i s = signOp neg s d a k ty := by obtain ⟨rfl, rfl⟩ | ⟨rfl, rfl⟩ := hi <;> rfl
  exact writesElems_of_signOp hr ht neg he

end Sys2Proof.Claims

/-!
PROOFS. Minima and maxima, and the functions of one operand (O19).
-/
namespace Sys2Proof.Claims

open Sys2Proof.Machine

/-! ### Minima and maxima (R137) -/

theorem ite_beq_eq {α : Type} (p q : Bool) (x y : α) :
    (if p == q then x else y) = if p then (if q then x else y) else (if q then y else x) := by
  cases p <;> cases q <;> rfl

/-- An element of `vmin` or `vmax` (R137). -/
theorem minMaxElem_eq (t : Nat) (isMin : Bool) {x y : Nat} (hx : x < 2 ^ typeWidth t) (hy : y < 2 ^ typeWidth t) :
    minMaxElem t isMin x y =
      let u := (fmtOf t).decode x
      let v := (fmtOf t).decode y
      let inv := if u.isSnan || v.isSnan then [EvKind.invalid] else []
      if t ≤ 7 then (if intOf t y < intOf t x then (if isMin then y else x) else (if isMin then x else y), [])
      else if u.isNan && v.isNan then ((fmtOf t).nan, inv ++ [.nangen])
      else if u.isNan then (y, inv) else if v.isNan then (x, inv)
      else (if belowVal v u then (if isMin then y else x) else (if isMin then x else y), inv) := by
  unfold minMaxElem minMaxFloat
  simp only [readInt_eq_intOf hx, readInt_eq_intOf hy, ite_beq_eq, decide_eq_true_eq]

section
variable {i : Instr} {s : State} {d a b : BitVec 5} {k : BitVec 3} {ty : BitVec 5}

theorem writesElems_of_minMaxOp (hr : RoundingLegal s) (ht : ty.toNat ≤ 11) (isMin : Bool) (he : exec i s = minMaxOp isMin s d a b k ty) :
    WritesElems i s (latOf ty.toNat 2 4 6) (typeWidth ty.toNat) d k false fun n =>
      minMaxElem ty.toNat isMin (lane (typeWidth ty.toNat) (s.rV a) n) (lane (typeWidth ty.toNat) (s.rV b) n) := by
  have hw := typeWidth_mul_count (by omega : ty.toNat ≤ 13)
  rw [minMaxOp, withRoundingIgnored_go hr] at he
  refine writesElems_of_perElement (draws := false) hw he fun n _ => ?_
  rw [at'_elems hw, at'_elems hw]

/-! ### Functions of one operand (R138) -/

theorem writesElems_of_unaryOp {code fn : Nat} {sat : Bool} (hr : s.rounding = some (code, sat)) (ht : ty.toNat ≤ 11)
    (he : exec i s = unaryOp fn s d a k ty) :
    WritesElems i s (if ty.toNat = 8 then 24 else 12) (typeWidth ty.toNat) d k (s.modeOf code == .sr) fun n =>
      let u := unaryVal fn ((fmtOf ty.toNat).decode (lane (typeWidth ty.toNat) (s.rV a) n))
      let r := (fmtOf ty.toNat).round u.1 (s.modeOf code) sat (s.rnd (s.modeOf code) (typeWidth ty.toNat) n)
      (r.1, u.2 ++ r.2) := by
  have hw := typeWidth_mul_count (by omega : ty.toNat ≤ 13)
  rw [unaryOp, withRounding_go hr] at he
  refine writesElems_of_perElement hw he fun n _ => ?_
  rw [at'_elems hw]

end

/-! ### Exact results of `vexp2` and `vlog2` -/

theorem unaryVal_log2_two_pow (e : Int) : unaryVal 4 (.num ⟨false, 1, e, false⟩) = (Val.ofInt e, []) := by
  have h : unaryVal 4 (.num ⟨false, 1, e, false⟩) = (Val.ofInt (0 + e), []) := rfl
  rw [h, zero_add]

theorem unaryVal_exp2_int {i : Int} (h0 : i ≠ 0) (hge : -20000 < i) (hlt : i < 20000) :
    unaryVal 3 (Val.ofInt i) = (.num ⟨false, 1, i, false⟩, []) := by
  have hat : Dy.at ⟨decide (i < 0), i.natAbs, 0, false⟩ 0 = i := by
    simp only [Dy.at, sub_self, Int.toNat_zero, pow_zero, mul_one, decide_eq_true_eq]
    split <;> omega
  have hexp : exp2Val ⟨decide (i < 0), i.natAbs, 0, false⟩ = .num ⟨false, 1, i, false⟩ := by
    unfold exp2Val
    simp only [le_refl, if_true, hat]
    rw [if_neg (by omega), if_neg (by omega)]
  rw [Val.ofInt, if_neg h0]
  exact congrArg (·, []) hexp

/-! ### Quotients and roots (R138) -/

/-- A quotient by a number below a power of two is not small. -/
theorem two_pow_le_div {m j : Nat} (hm : 0 < m) : 2 ^ j ≤ 2 ^ (j + 1 + m.log2) / m := by
  rw [Nat.le_div_iff_mul_le hm, Nat.add_assoc, Nat.pow_add]
  exact Nat.mul_le_mul_left _ (Nat.add_comm 1 _ ▸ Nat.lt_log2_self.le)

/-- The root of a number that is at least a square is at least its root. -/
theorem le_isqrt {n r : Nat} (h : r * r ≤ n) : r ≤ isqrt n := by
  by_contra hlt
  have hle : isqrt n + 1 ≤ r := Nat.lt_of_not_le hlt
  exact absurd (isqrt_spec n).2 (Nat.not_lt.mpr ((Nat.mul_le_mul hle hle).trans h))

/-- `vrcp`: the quotient is cut below its last place, and the sticky bit says that a rest was cut. -/
theorem unaryVal_rcp (d : Dy) (hd : 0 < d.mant) :
    ∃ k m : Nat, unaryVal 0 (.num d) = (.num ⟨d.neg, m, -d.exp - k, m * d.mant != 2 ^ k⟩, []) ∧ 2 ^ 126 ≤ m ∧
      m * d.mant ≤ 2 ^ k ∧ 2 ^ k < (m + 1) * d.mant := by
  refine ⟨128 + d.mant.log2, 2 ^ (128 + d.mant.log2) / d.mant, ?_, ?_, Nat.div_mul_le_self .., ?_⟩
  · have hrest : (2 ^ (128 + d.mant.log2) % d.mant != 0) =
        (2 ^ (128 + d.mant.log2) / d.mant * d.mant != 2 ^ (128 + d.mant.log2)) := by
      have := Nat.div_add_mod' (2 ^ (128 + d.mant.log2)) d.mant
      rw [Bool.eq_iff_iff, bne_iff_ne, bne_iff_ne]
      omega
    simp only [unaryVal, Dy.div, if_true, Nat.one_mul, Int.zero_sub, Bool.false_bne, hrest]
  · exact (Nat.pow_le_pow_right (by decide) (by decide)).trans (two_pow_le_div (j := 127) hd)
  · exact (Nat.div_lt_iff_lt_mul hd).mp (Nat.lt_succ_self _)

/-- The root of the quotient of an even power of two, cut below its last place. -/
theorem isqrt_quotient {m : Nat} (hm : 0 < m) (k r : Nat) (hk : k = 128 + m.log2) (hr : r = isqrt (2 ^ (2 * k) / m)) :
    2 ^ 126 ≤ r ∧ r * r * m ≤ 2 ^ (2 * k) ∧ 2 ^ (2 * k) < (r + 1) * (r + 1) * m := by
  obtain ⟨hle, hlt⟩ := isqrt_spec (2 ^ (2 * k) / m)
  rw [← hr] at hle hlt
  refine ⟨hr ▸ le_isqrt ?_, (Nat.mul_le_mul_right m hle).trans (Nat.div_mul_le_self ..), (Nat.div_lt_iff_lt_mul hm).mp hlt⟩
  have hexp : 2 * k = 255 + m.log2 + 1 + m.log2 := by omega
  rw [hexp, ← Nat.pow_add]
  exact (Nat.pow_le_pow_right (by decide) (by omega)).trans (two_pow_le_div hm)

/-- `vrsqrt`: the root of the quotient, over an even exponent. -/
theorem unaryVal_rsqrt (d : Dy) (hd : 0 < d.mant) (hn : d.neg = false) :
    ∃ (k m r : Nat) (e : Int), ((m = d.mant ∧ e = d.exp) ∨ (m = 2 * d.mant ∧ e = d.exp - 1)) ∧ e % 2 = 0 ∧
      unaryVal 1 (.num d) = (.num ⟨false, r, -(k : Int) - e / 2, r * r * m != 2 ^ (2 * k)⟩, []) ∧ 2 ^ 126 ≤ r ∧
      r * r * m ≤ 2 ^ (2 * k) ∧ 2 ^ (2 * k) < (r + 1) * (r + 1) * m := by
  by_cases he : d.exp % 2 = 0
  · exact ⟨_, d.mant, _, d.exp, .inl ⟨rfl, rfl⟩, he, by simp [unaryVal, hn, he], isqrt_quotient hd _ _ rfl rfl⟩
  · exact ⟨_, 2 * d.mant, _, d.exp - 1, .inr ⟨rfl, rfl⟩, by omega, by simp [unaryVal, hn, he],
      isqrt_quotient (Nat.mul_pos (by decide) hd) _ _ rfl rfl⟩

/-- `vsqrt`: the root of a number of even exponent and at least 256 places. -/
theorem unaryVal_sqrt (d : Dy) (hd : 0 < d.mant) (hn : d.neg = false) :
    ∃ k r : Nat, (d.exp - k) % 2 = 0 ∧
      unaryVal 2 (.num d) = (.num ⟨false, r, (d.exp - k) / 2, r * r != d.mant * 2 ^ k⟩, []) ∧ 2 ^ 126 ≤ r ∧
      r * r ≤ d.mant * 2 ^ k ∧ d.mant * 2 ^ k < (r + 1) * (r + 1) := by
  have hlarge : 2 ^ 126 * 2 ^ 126 ≤ d.mant * 2 ^ (256 + if d.exp % 2 = 0 then 0 else 1) := by
    rw [← Nat.pow_add]
    exact (Nat.pow_le_pow_right (by decide) (by omega)).trans (Nat.le_mul_of_pos_left _ hd)
  refine ⟨256 + if d.exp % 2 = 0 then 0 else 1, isqrt (d.mant * 2 ^ (256 + if d.exp % 2 = 0 then 0 else 1)), ?_, ?_, le_isqrt hlarge,
    isqrt_spec _⟩
  · split <;> omega
  · simp [unaryVal, hn, Dy.sqrt]

/-- The square root and the logarithms have no value below zero (R138). -/
theorem unaryVal_negative (fn : Nat) (h : fn = 1 ∨ fn = 2 ∨ fn = 4) : unaryVal fn (.inf true) = (.nan true, []) ∧
    ∀ (m : Nat) (e : Int), unaryVal fn (.num ⟨true, m, e, false⟩) = (.nan true, []) := by
  obtain rfl | rfl | rfl := h <;> exact ⟨rfl, fun _ _ => rfl⟩

/-- Settles O19: minima and maxima choose by the type's order; the functions round the one value that `unaryVal` gives, which is exact but
for the cut below 126 places. -/
theorem vectorMinMaxAndFunctions : Obligations.VectorMinMaxAndFunctions := by
  refine ⟨?_, ?_, ?_, ⟨rfl, rfl, rfl⟩, unaryVal_negative, unaryVal_log2_two_pow,
    fun i h0 hge hlt => unaryVal_exp2_int h0 hge hlt, fun d hd => ⟨unaryVal_rcp d hd, unaryVal_rsqrt d hd, unaryVal_sqrt d hd⟩⟩
  · rintro s d a b k ty t w hr rfl ht rfl isMin i hi
    have he : exec i s = minMaxOp isMin s d a b k ty := by obtain ⟨rfl, rfl⟩ | ⟨rfl, rfl⟩ := hi <;> rfl
    have h := writesElems_of_minMaxOp hr ht isMin he
    simp only [minMaxElem_eq _ _ (lane_lt ..) (lane_lt ..)] at h
    exact h
  · rintro s d a k ty t w code mode sat rfl - ht rfl hr rfl el rfl
    exact ⟨writesElems_of_unaryOp hr ht rfl, writesElems_of_unaryOp hr ht rfl, writesElems_of_unaryOp hr ht rfl,
      writesElems_of_unaryOp hr ht rfl, writesElems_of_unaryOp hr ht rfl⟩
  · intro neg
    cases neg <;> exact ⟨rfl, rfl, rfl, rfl, rfl, rfl, rfl⟩

end Sys2Proof.Claims

/-!
PROOFS. Conversions, random elements, block scales and block conversion (O22).
-/
namespace Sys2Proof.Claims

open Sys2Proof.Machine

/-! ### Conversions (R148, R149) -/

/-- A list whose first elements have been replaced. -/
theorem map_range_append_drop {α : Type} (f g : Nat → α) {c n : Nat} (h : c ≤ n) :
    (List.range c).map f ++ ((List.range n).map g).drop c = (List.range n).map fun i => if i < c then f i else g i := by
  refine List.ext_getElem (by simp; omega) fun i hi _ => ?_
  rw [List.getElem_append]
  simp only [List.length_map, List.length_range, List.getElem_map, List.getElem_range, List.getElem_drop]
  split
  · rfl
  · next hc => rw [Nat.add_sub_cancel' (Nat.le_of_not_lt hc)]

/-- The wider view governs; the elements of a narrower destination above it stay (log entry 81). -/
theorem convertOp_spec (s : State) {dt st : Nat} (hdt : dt ≤ 13) (hst : st ≤ 13) (d a : BitVec 5) (k : BitVec 3) (mode : Rnd) (sat : Bool)
    {w : Nat} (hw : w = max (typeWidth dt) (typeWidth st)) {el : Nat → Elem}
    (hel : el = fun n => convertElem dt st mode sat (s.rnd mode w n) (lane (typeWidth st) (s.rV a) n)) :
    ∃ v : VWord, convertOp s dt st d a k mode sat =
        ((s.logEvs (elemEvents (s.rK k) w el)).wV (if dt = 8 ∨ st = 8 then 6 else 4) d v).drew
          (mode == .sr && (decide (8 ≤ dt) || decide (8 ≤ st))) ∧
      ∀ n < 1024 / typeWidth dt, lane (typeWidth dt) v n =
        if n < 1024 / w ∧ on (s.rK k) w n = true then (el n).1 % 2 ^ typeWidth dt else lane (typeWidth dt) (s.rV d) n := by
  have hfew : 1024 / w ≤ 1024 / typeWidth dt :=
    Nat.div_le_div_left (hw ▸ le_max_left ..) (Nat.lt_of_lt_of_le (by decide) (eight_le_typeWidth hdt))
  have hold : (elems (typeWidth dt) (s.rV d)).take (1024 / w) = (List.range (1024 / w)).map (lane (typeWidth dt) (s.rV d)) := by
    rw [elems_eq_map_lane, ← List.map_take, List.take_range, Nat.min_eq_left hfew]
  have hsrc : (fun n => convertElem dt st mode sat (s.rnd mode w n) (at' (elems (typeWidth st) (s.rV a)) n)) = el := by
    rw [hel]
    exact funext fun n => by rw [at'_elems (typeWidth_mul_count hst)]
  rw [convertOp, ← hw, hold, hsrc, perElement_map_range, laneEvents_masked, List.map_map, elems_eq_map_lane, map_range_append_drop _ _ hfew]
  refine ⟨_, rfl, fun n hn => ?_⟩
  rw [lane_joinV_map (typeWidth_mul_count hdt) _ hn]
  by_cases hc : n < 1024 / w
  · rw [if_pos hc, Function.comp, fst_masked]
    simp only [hc, true_and]
    split
    · rfl
    · exact Nat.mod_eq_of_lt (lane_lt ..)
  · rw [if_neg hc, if_neg fun h => hc h.1, Nat.mod_eq_of_lt (lane_lt ..)]

/-- `vcvt` converts in the selected mode, `vcvt.sr` in SR, each under a selection that it takes (R150). -/
theorem exec_conversion {s : State} {d a x y : BitVec 5} {k : BitVec 3} {i : Instr} {mode : Rnd} {sat : Bool}
    (h : (i = .vcvt d a x k y ∧ ∃ code, s.rounding = some (code, sat) ∧ mode = s.modeOf code) ∨
      (i = .vcvtSr d a x k y ∧ mode = .sr ∧ ((s.lentOpt = none ∧ sat = false) ∨ s.lentOpt = some (if sat then 8 else 0)))) :
    exec i s = .next (convertOp s x.toNat y.toNat d a k mode sat) := by
  obtain ⟨rfl, code, hr, rfl⟩ | ⟨rfl, rfl, hl⟩ := h
  · have he : exec (.vcvt d a x k y) s = withRounding s fun mode sat => .next (convertOp s x.toNat y.toNat d a k mode sat) := rfl
    rw [he, withRounding_go hr]
  · have he : exec (.vcvtSr d a x k y) s = execVcvtSr d a x k y s := rfl
    rw [he, execVcvtSr]
    obtain ⟨hl, rfl⟩ | hl := hl
    · rw [hl]
    · rw [hl]
      cases sat <;> rfl

/-! ### Random elements and block decoding (R156, R160) -/

theorem writesElems_vrng {s : State} (d : BitVec 5) (k : BitVec 3) {t : BitVec 5} (hr : RoundingLegal s) (ht : t.toNat ≤ 11) :
    WritesElems (.vrng d k t) s 8 (typeWidth t.toNat) d k true fun n =>
      (randomElem t.toNat s.ctx.csr.seed.toNat (s.ctx.csr.streamBase.toNat + s.cur.draws) n, []) :=
  writesElems_of_perElement (typeWidth_mul_count (by omega)) (withRoundingIgnored_go hr _) fun n _ => rfl

theorem writesElems_vdeq {s : State} (d a b : BitVec 5) (k : BitVec 3) (t : BitVec 5) {code : Nat} {sat : Bool}
    (hr : s.rounding = some (code, sat)) :
    WritesElems (.vdeq d a b k t) s 4 32 d k (s.modeOf code == .sr) fun n =>
      let x := (s.rV a).toNat / 2 ^ (blockElemWidth t.toNat * n) % 2 ^ blockElemWidth t.toNat
      fp32.round (if t.toNat ≤ 15 then mxDecode t.toNat ((s.rV b).toNat % 256) x
        else dbDecode (dbWidth t.toNat) ((s.rV b).toNat % 256) ((s.rV b).toNat / 256 % 256) x)
        (s.modeOf code) sat (s.rnd (s.modeOf code) 32 n) := by
  have he : exec (.vdeq d a b k t) s = execVdeq d a b k t s := rfl
  rw [execVdeq, withRounding_go hr] at he
  refine writesElems_of_perElement (by decide) he fun n hn => ?_
  rw [at', getD_elemsOf _ _ _ _ hn]

/-! ### Block scales (R157, R158) -/

/-- The values of a block: the enabled elements of `va`, and +0 for the others. -/
theorem blockValues_eq (x : VWord) (m : Mask) :
    blockValues x m = (List.range 32).map fun n => if m.getLsbD n then fp32.decode (lane 32 x n) else .zero false := by
  rw [blockValues, elems_eq_map_lane, indexed_map_range, List.map_map]
  refine List.map_congr_left fun n _ => ?_
  dsimp only [Function.comp]
  rw [enabled_eq_on, on, Nat.mul_div_cancel_left n (by decide)]

/-! ### The duplex rounding (R35) -/

/-- The multiple of `step` nearest to `y`, in steps; ties to even. -/
def nearestEven (y step : Nat) : Nat :=
  let h := (2 * y + step) / (2 * step)
  if (2 * y + step) % (2 * step) = 0 ∧ h % 2 = 1 then h - 1 else h

theorem nearestEven_eq (y : Nat) {step : Nat} (hs : 0 < step) : nearestEven y step =
    if decide (2 * (y % step) > step) || (2 * (y % step) == step && y / step % 2 == 1) then y / step + 1 else y / step := by
  have hr := Nat.mod_lt y hs
  have hy : 2 * y + step = 2 * step * (y / step) + (2 * (y % step) + step) := by
    conv_lhs => rw [← Nat.div_add_mod y step]
    ring
  unfold nearestEven
  dsimp only
  obtain hlt | hge := Nat.lt_or_ge (2 * (y % step)) step
  · have hsmall : 2 * (y % step) + step < 2 * step := by omega
    rw [hy, Nat.mul_add_div (by omega), Nat.mul_add_mod, Nat.div_eq_of_lt hsmall, Nat.mod_eq_of_lt hsmall, Nat.add_zero, if_neg (by omega)]
    simp [hlt.ne, hlt.le.not_gt]
  · have hy' : 2 * y + step = 2 * step * (y / step + 1) + (2 * (y % step) - step) := by rw [hy, Nat.mul_succ]; omega
    have hsmall : 2 * (y % step) - step < 2 * step := by omega
    rw [hy', Nat.mul_add_div (by omega), Nat.mul_add_mod, Nat.div_eq_of_lt hsmall, Nat.mod_eq_of_lt hsmall, Nat.add_zero]
    obtain he | hgt := hge.eq_or_lt
    · simp only [← he, Nat.sub_self, gt_iff_lt, lt_self_iff_false, decide_false, beq_self_eq_true, Bool.false_or, Bool.true_and, beq_iff_eq,
        true_and]
      generalize y / step = n
      split <;> split <;> omega
    · simp [hgt]
      omega

theorem nearestEven_mul_self (n : Nat) {step : Nat} (hs : 0 < step) : nearestEven (n * step) step = n := by
  rw [nearestEven_eq _ hs, Nat.mul_mod_left, Nat.mul_div_cancel _ hs]
  simp [hs.ne]

theorem nearestEven_scale (y step : Nat) {u : Nat} (hu : 0 < u) : nearestEven (y * u) (step * u) = nearestEven y step := by
  have hl : 2 * (y * u) + step * u = (2 * y + step) * u := by ring
  have hr : 2 * (step * u) = 2 * step * u := by ring
  unfold nearestEven
  rw [hl, hr, Nat.mul_div_mul_right _ _ hu, Nat.mul_mod_mul_right]
  simp [hu.ne']

/-- `2 ^ n` in units of 2^-1400. -/
def scaled (n : Int) : Nat := 2 ^ (n + 1400).toNat

theorem scaled_pos (n : Int) : 0 < scaled n := Nat.two_pow_pos _

theorem scaled_eq {m n : Int} (h : m ≤ n) (hm : -1400 ≤ m) : scaled n = 2 ^ (n - m).toNat * scaled m := by
  rw [scaled, scaled, ← Nat.pow_add]
  congr 1
  omega

/-- Rounding to nearest, ties to even, counted in small units (R28). -/
theorem roundAt_rne (d : Dy) (hs : d.sticky = false) (hd : -1400 ≤ d.exp) {q : Int} (hq : -1400 ≤ q) :
    (d.roundAt q .rne 0).1 = nearestEven (d.mant * scaled d.exp) (scaled q) := by
  unfold Dy.roundAt
  obtain hle | hlt := le_or_gt q d.exp
  · rw [if_pos hle, scaled_eq hle hq, ← Nat.mul_assoc, nearestEven_mul_self _ (scaled_pos q)]
    simp [hs]
  · rw [if_neg hlt.not_ge, scaled_eq hlt.le hd, nearestEven_scale _ _ (scaled_pos _), nearestEven_eq _ (Nat.two_pow_pos _)]
    simp [hs, roundUp]

theorem natAbs_sub_mul (a b u : Nat) : ((a : Int) - b).natAbs * u = (a * u - b * u) + (b * u - a * u) := by
  have h : ((a : Int) - b).natAbs = (a - b) + (b - a) := by omega
  rw [h, Nat.add_mul, Nat.sub_mul, Nat.sub_mul]

/-- The magnitude and the error under one exponent of a duplex block. -/
theorem dbTry_eq_duplexTry {w : Nat} (hw : w ≤ 6) (e : Nat) {d : Dy} (hs : d.sticky = false) (hd : -1400 ≤ d.exp) :
    ((dbTry w e d).1, (dbTry w e d).2.2) = duplexTry w e d := by
  have hq : (e : Int) - 127 - ((w : Int) - 1) = (e : Int) - 126 - w := by omega
  have hge : -1400 ≤ (e : Int) - 126 - w := by omega
  unfold dbTry
  dsimp only
  rw [hq, roundAt_rne d hs hd hge, natAbs_sub_mul, Nat.mul_assoc, Nat.mul_assoc, ← scaled, ← scaled_eq (min_le_left ..) (by omega),
    ← scaled_eq (min_le_right ..) (by omega)]
  rfl

/-! ### Elements of a quantised block (R33, R35, R159) -/

/-- Exact and not below 2^-1400, as the values of fp32 words are. -/
def Fine (v : Val) : Prop := ∀ d, v = .num d → d.sticky = false ∧ -1400 ≤ d.exp

theorem Fine.ite {p : Prop} [Decidable p] {u v : Val} (hu : Fine u) (hv : Fine v) : Fine (if p then u else v) := by
  split
  · exact hu
  · exact hv

theorem fine_num {neg : Bool} {m : Nat} {e : Int} (he : -1400 ≤ e) : Fine (.num ⟨neg, m, e, false⟩) := by
  rintro d ⟨⟩
  exact ⟨rfl, he⟩

theorem fine_decode_fp32 (x : Nat) : Fine (fp32.decode x) := by
  unfold Fmt.decode
  simp only [fp32, Bool.false_eq_true, if_false, false_and, and_false, and_true]
  exact .ite (.ite nofun (fine_num (by omega))) (.ite (.ite nofun nofun) (.ite nofun (fine_num (by omega))))

theorem dbElement_eq {w : Nat} (hw : w ≤ 6) (e0 e1 : Nat) {d : Dy} (hd : Fine (.num d)) :
    (dbElement w e0 e1 (.num d)).1 = duplexElement w e0 e1 (.num d) := by
  obtain ⟨hs, hexp⟩ := hd d rfl
  unfold dbElement duplexElement
  dsimp only
  rw [← dbTry_eq_duplexTry hw e0 hs hexp, ← dbTry_eq_duplexTry hw e1 hs hexp]
  by_cases h : (dbTry w e0 d).2.2 < (dbTry w e1 d).2.2
  · simp [h]
  · simp [h, Nat.add_assoc]

theorem quantElem_eq (t : Nat) {sb : Nat} (hsb : sb < 2 ^ 16) (mode : Rnd) (sat : Bool) (rnd : Nat) {v : Val} (hv : Fine v) :
    (quantElem t sb v mode sat rnd).1 = quantised t sb mode sat rnd v := by
  have hhigh : sb / 256 % 256 = sb / 256 := Nat.mod_eq_of_lt (by omega)
  have hwidth : dbWidth t ≤ 6 := by unfold dbWidth; split <;> decide
  unfold quantElem quantised
  rw [hhigh]
  by_cases h15 : t ≤ 15
  · simp only [if_pos h15]
    split <;> rfl
  · simp only [if_neg h15]
    split
    · rfl
    · cases v with
      | num d => exact dbElement_eq hwidth _ _ hv
      | nan b => rfl
      | inf neg => exact Nat.add_sub_assoc (Nat.two_pow_pos _) _
      | zero neg => rfl

/-! ### The registers that `vquant` writes (R159) -/

theorem getLsbD_shiftIn (old : VWord) {n x i : Nat} (hn : n ≤ 1024) (hi : i < 1024) :
    (shiftIn old n x).getLsbD i = if i < 1024 - n then old.getLsbD (i + n) else x.testBit (i - (1024 - n)) := by
  rw [shiftIn, BitVec.getLsbD_or, BitVec.getLsbD_ushiftRight, BitVec.getLsbD_shiftLeft, BitVec.getLsbD_ofNat, decide_eq_true hi,
    decide_eq_true (by omega : i - (1024 - n) < 1024), Nat.add_comm n]
  split
  · next h => simp [h]
  · next h => simp [h, BitVec.getLsbD_of_ge old (i + n) (by omega)]

/-- A field of what was shifted in. -/
theorem shiftIn_field (old : VWord) {n x p w : Nat} (hn : n ≤ 1024) (hp : p + w ≤ n) :
    (shiftIn old n x).toNat / 2 ^ (1024 - n + p) % 2 ^ w = x / 2 ^ p % 2 ^ w := by
  refine Nat.eq_of_testBit_eq fun j => ?_
  rw [Nat.testBit_mod_two_pow, Nat.testBit_mod_two_pow, Nat.testBit_div_two_pow, Nat.testBit_div_two_pow]
  by_cases hj : j < w
  · rw [BitVec.testBit_toNat, getLsbD_shiftIn old hn (by omega), if_neg (by omega)]
    congr 2
    omega
  · simp [hj]

theorem blockElemWidth_le (t : Nat) : blockElemWidth t ≤ 8 := by unfold blockElemWidth; split <;> decide

theorem granuleBytes_le (t : Nat) : granuleBytes t ≤ 2 := by unfold granuleBytes; split <;> decide

section
variable {t : Nat} {v : VWord} {m : Mask} {mode : Rnd} {sat : Bool} {key ctr : Nat} {sb : BitVec 16} {d b : VWord} {n : Nat}

/-- Below the block stands what `vd` held above it. -/
theorem quantBlock_data_low (hn : n < 1024 - 32 * blockElemWidth t) :
    (quantBlock t v m mode sat key ctr sb d b).1.getLsbD n = d.getLsbD (n + 32 * blockElemWidth t) := by
  have hw := blockElemWidth_le t
  exact (getLsbD_shiftIn _ (by omega) (by omega)).trans (if_pos hn)

/-- Element `n` of the block on top of `vd`. -/
theorem quantBlock_data_elem (hn : n < 32) :
    (quantBlock t v m mode sat key ctr sb d b).1.toNat / 2 ^ (1024 - 32 * blockElemWidth t + blockElemWidth t * n) % 2 ^ blockElemWidth t =
      quantised t sb.toNat mode sat (if mode = .sr then drawWord key ctr 32 n else 0)
        (if m.getLsbD n then fp32.decode (lane 32 v n) else .zero false) % 2 ^ blockElemWidth t := by
  have hw := blockElemWidth_le t
  have hin : blockElemWidth t * n + blockElemWidth t ≤ 32 * blockElemWidth t := by
    rw [← Nat.mul_succ, Nat.mul_comm 32]
    exact Nat.mul_le_mul_left _ hn
  rw [quantBlock]
  dsimp only
  rw [shiftIn_field d (by omega) hin, joinNat_div_mod, blockValues_eq, indexed_map_range, List.map_map, List.map_map, getD_map_range _ _ hn]
  exact congrArg (· % _) (quantElem_eq t sb.isLt mode sat _ (.ite (fine_decode_fp32 _) nofun))

/-- Below the scale stands what `vb` held above it. -/
theorem quantBlock_scale_low (hn : n < 1024 - 8 * granuleBytes t) :
    (quantBlock t v m mode sat key ctr sb d b).2.1.getLsbD n = b.getLsbD (n + 8 * granuleBytes t) := by
  have hg := granuleBytes_le t
  exact (getLsbD_shiftIn _ (by omega) (by omega)).trans (if_pos hn)

/-- The scale's bytes on top of `vb`. -/
theorem quantBlock_scale_top (hn : n < 8 * granuleBytes t) :
    (quantBlock t v m mode sat key ctr sb d b).2.1.getLsbD (1024 - 8 * granuleBytes t + n) = sb.getLsbD n := by
  have hg := granuleBytes_le t
  refine (getLsbD_shiftIn _ (by omega) (by omega)).trans ((if_neg (by omega)).trans ?_)
  rw [Nat.add_sub_cancel_left, Nat.testBit_mod_two_pow, decide_eq_true hn, Bool.true_and, BitVec.testBit_toNat]

end

/-- A `vquant` that falls due writes two registers, the scale's after the data's. -/
theorem getV_applyWrite_quant (s : State) (x due stamp t : Nat) (r : Regs) (d b e : BitVec 5) (v : VWord) (m : Mask) (mode : Rnd)
    (sat logs : Bool) (key ctr slot : Nat) (pc : Word) :
    ((s.applyWrite x r ⟨due, stamp, .quant t d b v m mode sat key ctr slot pc logs⟩).ctxAt x).r.getV e =
      if e = b then (quantBlock t v m mode sat key ctr r.sb (r.getV d) (r.getV b)).2.1
      else if e = d then (quantBlock t v m mode sat key ctr r.sb (r.getV d) (r.getV b)).1 else (s.ctxAt x).r.getV e := by
  unfold State.applyWrite
  dsimp only
  rw [State.ctxAt_modCtxAt, if_pos rfl, Regs.getV_setV, Regs.getV_setV]

/-- Settles O22: the views of a conversion are lists of lanes, the duplex rounding is counted in units of 2^-1400, and `vquant` puts its
block and its scale on top of what it shifts down. -/
theorem vectorConversionsAndScales : Obligations.VectorConversionsAndScales := by
  refine ⟨⟨?_, fun s d k t hr _ ht => writesElems_vrng d k hr ht, ?_⟩, ?_, ?_, ?_⟩
  · rintro s d a x y k dt st w rfl rfl hdt hst hw i mode sat hi el hel
    obtain ⟨v, hv, hl⟩ := convertOp_spec s hdt hst d a k mode sat hw hel
    exact ⟨v, (exec_conversion hi).trans (congrArg _ hv), hl⟩
  · rintro s d a b t k code sat mode - - hr rfl
    exact writesElems_vdeq d a b k t hr
  · intro s a t k hr
    rw [← blockValues_eq]
    exact withRoundingIgnored_go hr _
  · intro s d a b t k code sat hr
    have he : exec (.vquant d a b k t) s = execVquant d a b k t s := rfl
    rw [he, execVquant, withRounding_go hr]
    rfl
  · rintro s x due stamp t r d b v m mode sat logs key ctr slot pc w g - - hw hg
    obtain rfl : w = blockElemWidth t := hw
    obtain rfl : g = granuleBytes t := hg
    refine ⟨_, rfl, ?_⟩
    simp only [getV_applyWrite_quant, if_true]
    refine ⟨fun hdb => ?_, fun n hn => quantBlock_scale_low hn, fun n hn => quantBlock_scale_top hn,
      fun e hed heb => by rw [if_neg heb, if_neg hed]⟩
    rw [if_neg hdb]
    exact ⟨fun n hn => quantBlock_data_low hn, fun n hn => quantBlock_data_elem hn⟩

end Sys2Proof.Claims
